-- ==== Sys2Proof/Word.lean ====
section
/-!
DEFINITION. The word types of the Elauvo Lengon and their plainest arithmetic.
-/
namespace Sys2Proof

/-- A 32-bit register value (R2, R10). -/
abbrev Word := BitVec 32

/-- A byte of memory. -/
abbrev Byte := BitVec 8

/-- A 64-bit value: addresses, device registers, counters. -/
abbrev DWord := BitVec 64

/-- One bit per lane of a chorus (R15). -/
abbrev Mask := BitVec 32

/-- One 32-bit column per lane, lane 0 first: a register row or a latch (R11, R21). -/
abbrev Lanes := List Word

/-- The lane numbers of a chorus (R4). -/
def laneIds : List Nat :=
  [0, 1, 2, 3, 4, 5, 6, 7, 8, 9, 10, 11, 12, 13, 14, 15,
   16, 17, 18, 19, 20, 21, 22, 23, 24, 25, 26, 27, 28, 29, 30, 31]

/-- A row whose lane `l` holds `f l`. -/
def Lanes.ofFn (f : Nat → Word) : Lanes := laneIds.map f

/-- Lane `l` of a row. -/
def Lanes.at (r : Lanes) (l : Nat) : Word := r.getD l 0

/-- A row of zeros. -/
def Lanes.zero : Lanes := Lanes.ofFn (fun _ => 0)

/-- Whether lane `l` is in the mask. -/
def Mask.has (m : Mask) (l : Nat) : Bool := m.getLsbD l

/-- The lanes of a mask, lowest first. -/
def Mask.lanes (m : Mask) : List Nat := laneIds.filter (Mask.has m)

end Sys2Proof
end

