-- ==== Sys2Proof/Config.lean ====
section
/-!
DEFINITION. What an implementation fixes and the spec leaves open: constants without a body, so that nothing
about their values can be proved. Each is named in a row of notes/assumptions.
-/
namespace Sys2Proof

/-- A value the spec leaves open. The step applies it to the counter `State.free` and advances the counter, so
that each use is a fresh unconstrained value (log 5). -/
opaque Config.freeWord : Nat → BitVec 64

/-- Which of the values that a word of the code image has had since the launch a read returns (R84, log 9), by the counter
`State.free` and the word. -/
opaque Config.freeCode : Nat → Nat → Nat

/-- What an implementation returns for a transcendental function when its search for the correctly rounded result does
not settle (R102, log 20). -/
opaque Config.roundingTie : Nat → BitVec 32

/-- The sealing key of a context, which the security root derives from the device root key and the context id and no register
returns (R343, R369). Its length, 16, 24 or 32 bytes, is open too (log 12). -/
opaque Config.sealingKey : Nat → List Byte

/-- The members of a multicast group as the fabric switches hold them (R381), by the counter `State.free` and the group (log 91). -/
opaque Config.members : Nat → BitVec 16 → List (BitVec 12)

/-- What the route table window of a link port reads as (R378): the spec gives it no layout (log 92). -/
opaque Config.routeWindow : List (Nat × List Nat) → Nat → BitVec 64

/-- What the recovery page of the physical function shows at an offset after a failed step of an image (R367, log 94). -/
opaque Config.recoveryPage : Nat → Nat → Nat → BitVec 64

/-- The tenant to which a context belongs (R366, log 95). -/
opaque Config.tenantOf : Nat → Nat

/-- The device identity certificate, and the ECDSA and the LMS signature that it carries (R367). -/
opaque Config.certificate : List Byte
opaque Config.certificateEcdsa : BitVec 768
opaque Config.certificateLms : List Byte

/-- The digest of what an SPDM measurement measures (R368), and the signature over it under the device's identity key. -/
opaque Config.measurement : Nat → BitVec 384
opaque Config.signature : Nat → BitVec 768

end Sys2Proof
end

