-- ==== Sys2Proof/Machine/Bits.lean ====
section
/-!
DEFINITION. Bit fields, sign extension and byte order, in one place (R5, R161).
-/
namespace Sys2Proof.Machine

/-- Bits `hi` to `lo` of a number. -/
def bits (v hi lo : Nat) : Nat := v / 2 ^ lo % 2 ^ (hi + 1 - lo)

/-- Sign extension of an `n`-bit field to 32 bits. -/
def sext {n : Nat} (b : BitVec n) : Word := b.signExtend 32

/-- Zero extension to 32 bits. -/
def zext {n : Nat} (b : BitVec n) : Word := b.setWidth 32

/-- A truth value as a compare writes it (R74). -/
def truth (b : Bool) : Word := if b then 0xFFFFFFFF else 0

/-- Two words as a 64-bit value, low word first. -/
def dword (lo hi : Word) : BitVec 64 := hi ++ lo

/-- The low and the high word of a 64-bit value. -/
def lo32 (v : BitVec 64) : Word := v.extractLsb' 0 32
def hi32 (v : BitVec 64) : Word := v.extractLsb' 32 32

/-- `n` bytes of a number, the lowest first (R161). -/
def bytesLE (n v : Nat) : List Byte :=
  match n with
  | 0 => []
  | n + 1 => BitVec.ofNat 8 v :: bytesLE n (v / 256)

/-- The number that little-endian bytes stand for. -/
def ofBytesLE : List Byte → Nat
  | [] => 0
  | b :: r => b.toNat + 256 * ofBytesLE r

/-- The lowest lane of a mask. -/
def lowest (m : Mask) : Option Nat := laneIds.find? (Mask.has m)

/-- The highest lane of a mask. -/
def highest (m : Mask) : Option Nat := laneIds.reverse.find? (Mask.has m)

/-- Number of lanes in a mask. -/
def popcount (m : Mask) : Nat := (laneIds.filter (Mask.has m)).length

/-- The mask of the lanes that satisfy `p`. -/
def maskOf (p : Nat → Bool) : Mask := laneIds.foldl (fun m l => if p l then m ||| (1#32 <<< l) else m) 0

/-- The mask of the low `n` lanes (R13). -/
def lowLanes (n : Nat) : Mask := maskOf (fun l => decide (l < n))

/-- Replaces every element that satisfies `p`. -/
def updWhere {α : Type} (p : α → Bool) (f : α → α) (l : List α) : List α := l.map (fun x => if p x then f x else x)

/-- Applies `f` to element `n`. -/
def updAt {α : Type} (l : List α) (n : Nat) (f : α → α) : List α :=
  match l, n with
  | [], _ => []
  | a :: r, 0 => f a :: r
  | a :: r, n + 1 => a :: updAt r n f

/-- The sum of a list of numbers. -/
def total (l : List Nat) : Nat := l.foldl (· + ·) 0

/-- `⌈a ÷ b⌉`. -/
def ceilDiv (a b : Nat) : Nat := (a + b - 1) / b

end Sys2Proof.Machine
end

