-- ==== Sys2Proof/Machine/Float.lean ====
section
/-!
DEFINITION. Number formats, exact values and rounding (R52 to R66), and the functions of one FP32 operand (R102).
-/
namespace Sys2Proof.Machine

/-! ## Exact values -/

/-- The exact value of a number: NaN, an infinity, or `(-1)^neg * n * 2^e`; `n = 0` is a zero with its sign (R60). -/
inductive Val where
  | nan
  | inf (neg : Bool)
  | fin (neg : Bool) (n : Nat) (e : Int)
  deriving DecidableEq, Repr

/-- Rounding modes, codes 0 to 3 (R59). -/
inductive Mode where
  | rne | rz | rdn | rup
  deriving DecidableEq, Repr

/-- The mode of a 2-bit code. -/
def Mode.ofCode (m : BitVec 2) : Mode :=
  match m.toNat with
  | 0 => .rne
  | 1 => .rz
  | 2 => .rdn
  | _ => .rup

/-- What a floating-point format does with its top codes (R53). -/
inductive Top where
  /-- Exponent all ones: infinity and NaN. -/
  | ieee
  /-- E4M3: one NaN code, no infinity. -/
  | nanOnly
  /-- Every code is a number. -/
  | none
  deriving DecidableEq, Repr

/-- A floating-point format (R53): widths, bias and top codes. -/
structure Fmt where
  width : Nat
  mant : Nat
  bias : Nat
  top : Top
  deriving DecidableEq, Repr

def fp32 : Fmt := { width := 32, mant := 23, bias := 127, top := .ieee }
def fp16 : Fmt := { width := 16, mant := 10, bias := 15, top := .ieee }
def bf16 : Fmt := { width := 16, mant := 7, bias := 127, top := .ieee }
def e5m2 : Fmt := { width := 8, mant := 2, bias := 15, top := .ieee }
def e4m3 : Fmt := { width := 8, mant := 3, bias := 7, top := .nanOnly }
def e3m2 : Fmt := { width := 6, mant := 2, bias := 3, top := .none }
def e2m3 : Fmt := { width := 6, mant := 3, bias := 1, top := .none }
def e2m1 : Fmt := { width := 4, mant := 1, bias := 1, top := .none }

/-- The bits of a sign. -/
def Fmt.sign (f : Fmt) (neg : Bool) : Nat := if neg then 2 ^ (f.width - 1) else 0

/-- The code of plus infinity, where the format has one. -/
def Fmt.infCode (f : Fmt) : Nat := 2 ^ (f.width - 1) - 2 ^ f.mant

/-- The code of the largest finite value (R53). -/
def Fmt.maxCode (f : Fmt) : Nat :=
  match f.top with
  | .ieee => f.infCode - 1
  | .nanOnly => 2 ^ (f.width - 1) - 2
  | .none => 2 ^ (f.width - 1) - 1

/-- The canonical NaN (R56); +0 where the format has none. -/
def Fmt.nanCode (f : Fmt) : Nat :=
  match f.top with
  | .ieee => f.infCode + 2 ^ (f.mant - 1)
  | .nanOnly => 2 ^ (f.width - 1) - 1
  | .none => 0

/-- The exact value of a code (R53, R55). -/
def Fmt.value (f : Fmt) (c : Nat) : Val :=
  let neg := decide (c / 2 ^ (f.width - 1) % 2 = 1)
  let mag := c % 2 ^ (f.width - 1)
  let ex := mag / 2 ^ f.mant
  let ma := mag % 2 ^ f.mant
  let unit : Int := 1 - (f.bias : Int) - (f.mant : Int)
  match f.top with
  | .ieee =>
    if mag = f.infCode then .inf neg
    else if f.infCode < mag then .nan
    else if ex = 0 then .fin neg ma unit else .fin neg (2 ^ f.mant + ma) (unit + ex - 1)
  | .nanOnly =>
    if mag = 2 ^ (f.width - 1) - 1 then .nan
    else if ex = 0 then .fin neg ma unit else .fin neg (2 ^ f.mant + ma) (unit + ex - 1)
  | .none => if ex = 0 then .fin neg ma unit else .fin neg (2 ^ f.mant + ma) (unit + ex - 1)

/-! ## Rounding -/

/-- `n * 2^e` in units of `2^q`, rounded to an integer by the mode and the sign (R59, R60). -/
def roundUnits (m : Mode) (neg : Bool) (n : Nat) (e q : Int) : Nat :=
  if q ≤ e then n * 2 ^ (e - q).toNat
  else
    let sh := (q - e).toNat
    let k := n / 2 ^ sh
    let r := n % 2 ^ sh
    let up : Bool :=
      match m with
      | .rne => decide (2 ^ sh < 2 * r) || (decide (2 * r = 2 ^ sh) && decide (k % 2 = 1))
      | .rz => false
      | .rdn => neg && decide (r ≠ 0)
      | .rup => !neg && decide (r ≠ 0)
    if up then k + 1 else k

/-- Whether a finite value beyond the largest goes to infinity's side rather than to the largest (R60). -/
def overflowsBig (m : Mode) (neg : Bool) : Bool :=
  match m with
  | .rne => true
  | .rz => false
  | .rup => !neg
  | .rdn => neg

/-- The code of an overflow or of an infinite input (R60). -/
def Fmt.overflow (f : Fmt) (big sat neg : Bool) : Nat :=
  if !big || sat then f.sign neg + f.maxCode
  else
    match f.top with
    | .ieee => f.sign neg + f.infCode
    | .nanOnly => f.nanCode
    | .none => f.sign neg + f.maxCode

/-- RND (R60): the code of an exact value in a format. -/
def Fmt.rnd (f : Fmt) (m : Mode) (sat : Bool) (v : Val) : Nat :=
  match v with
  | .nan => f.nanCode
  | .inf neg => f.overflow true sat neg
  | .fin neg n e =>
    if n = 0 then f.sign neg
    else
      let emin : Int := 1 - (f.bias : Int)
      let ex : Int := max ((n.log2 : Int) + e) emin
      let k := roundUnits m neg n e (ex - f.mant)
      let c := (ex - emin).toNat * 2 ^ f.mant + k
      if f.maxCode < c then f.overflow (overflowsBig m neg) sat neg else f.sign neg + c

/-- RNE to FP32 with sat 0 (R60). -/
def rneFp32 (v : Val) : Word := BitVec.ofNat 32 (fp32.rnd .rne false v)

/-- The exponent field of a code. -/
def Fmt.exponent (f : Fmt) (c : Nat) : Nat := c % 2 ^ (f.width - 1) / 2 ^ f.mant

/-- The class of a code (R347): zero, subnormal, normal, infinity, NaN. -/
def Fmt.class (f : Fmt) (c : Nat) : Nat :=
  match f.value c with
  | .nan => 4
  | .inf _ => 3
  | .fin _ n _ => if n = 0 then 0 else if f.exponent c = 0 then 1 else 2

/-- The top 5 mantissa bits of a code, or all of a format that has fewer. -/
def Fmt.top5 (f : Fmt) (c : Nat) : Nat := c % 2 ^ f.mant / 2 ^ (f.mant - 5)

/-- Whether an understudy that computes `a` finds a mismatch in the code `b` (R205, R347): another sign, class or exponent, or
5-bit fields that differ by more than 1. -/
def Fmt.differs (f : Fmt) (a b : Nat) : Bool :=
  a / 2 ^ (f.width - 1) != b / 2 ^ (f.width - 1) || f.class a != f.class b || f.exponent a != f.exponent b ||
    decide (f.top5 a + 1 < f.top5 b) || decide (f.top5 b + 1 < f.top5 a)

/-- An integer format as its range (R57). -/
structure IntFmt where
  width : Nat
  lo : Int
  hi : Int
  deriving DecidableEq, Repr

def int32 : IntFmt := { width := 32, lo := -2147483648, hi := 2147483647 }
def uint32 : IntFmt := { width := 32, lo := 0, hi := 4294967295 }
def int8 : IntFmt := { width := 8, lo := -128, hi := 127 }
def uint8 : IntFmt := { width := 8, lo := 0, hi := 255 }
def int4 : IntFmt := { width := 4, lo := -8, hi := 7 }
def uint4 : IntFmt := { width := 4, lo := 0, hi := 15 }

/-- A value clamped to a range. -/
def IntFmt.clamp (i : IntFmt) (v : Int) : Int := if v < i.lo then i.lo else if i.hi < v then i.hi else v

/-- The code of an integer in the format. -/
def IntFmt.code (i : IntFmt) (v : Int) : Nat := (v % (2 ^ i.width : Int)).toNat

/-- The integer a code stands for. -/
def IntFmt.value (i : IntFmt) (c : Nat) : Int :=
  let v : Nat := c % 2 ^ i.width
  if i.lo < 0 && decide (2 ^ (i.width - 1) ≤ v) then (v : Int) - (2 ^ i.width : Int) else (v : Int)

/-- RNDI (R62). -/
def IntFmt.rnd (i : IntFmt) (m : Mode) (v : Val) : Int :=
  match v with
  | .nan => 0
  | .inf neg => if neg then i.lo else i.hi
  | .fin neg n e =>
    let k : Int := roundUnits m neg n e 0
    i.clamp (if neg then -k else k)

/-- An integer as an exact value; zero is +0. -/
def Val.ofInt (v : Int) : Val := .fin (decide (v < 0)) v.natAbs 0

/-! ## Exact arithmetic -/

def Val.isNan : Val → Bool
  | .nan => true
  | _ => false

def Val.isInf : Val → Bool
  | .inf _ => true
  | _ => false

def Val.isZero : Val → Bool
  | .fin _ n _ => n == 0
  | _ => false

def Val.isNeg : Val → Bool
  | .nan => false
  | .inf b => b
  | .fin b _ _ => b

/-- The value with the other sign. -/
def Val.neg : Val → Val
  | .nan => .nan
  | .inf b => .inf (!b)
  | .fin b n e => .fin (!b) n e

/-- The exact product (R61, R98). -/
def Val.mul : Val → Val → Val
  | .nan, _ => .nan
  | _, .nan => .nan
  | .inf a, .inf b => .inf (a != b)
  | .inf a, .fin b n _ => if n = 0 then .nan else .inf (a != b)
  | .fin a n _, .inf b => if n = 0 then .nan else .inf (a != b)
  | .fin a n e, .fin b k f => .fin (a != b) (n * k) (e + f)

/-- The value times a power of two. -/
def Val.scale (v : Val) (k : Int) : Val :=
  match v with
  | .fin b n e => .fin b n (e + k)
  | w => w

/-- The lowest exponent among the terms that are not zero. -/
def minExp : List Val → Option Int
  | [] => none
  | .fin _ n e :: r =>
    if n = 0 then minExp r
    else some (match minExp r with | none => e | some f => min e f)
  | _ :: r => minExp r

/-- The sum of the finite terms in units of `2^q`. -/
def sumUnits (q : Int) : List Val → Int
  | [] => 0
  | .fin b n e :: r =>
    let k : Int := (n * 2 ^ (e - q).toNat : Nat)
    (if n = 0 then 0 else if b then -k else k) + sumUnits q r
  | _ :: r => sumUnits q r

/-- The exact sum of terms (R61, R65): NaN with a NaN or with both infinities, an infinity with one, and the sign of
a zero sum by its terms and the rounding mode. -/
def exactSum (m : Mode) (t : List Val) : Val :=
  if t.any Val.isNan then .nan
  else if t.any (fun v => v.isInf && v.isNeg) && t.any (fun v => v.isInf && !v.isNeg) then .nan
  else if t.any Val.isInf then .inf (t.any (fun v => v.isInf && v.isNeg))
  else
    match minExp t with
    | none =>
      if t.all Val.isNeg then .fin true 0 0
      else if t.any Val.isNeg then .fin (m == .rdn) 0 0 else .fin false 0 0
    | some q =>
      let k := sumUnits q t
      if k = 0 then .fin (m == .rdn) 0 0 else .fin (decide (k < 0)) k.natAbs q

/-- A value known to lie strictly above `n * 2^e` and below the next unit when `more` holds: one more bit, set. -/
def sticky (neg : Bool) (n : Nat) (e : Int) (more : Bool) : Val := .fin neg (2 * n + (if more then 1 else 0)) (e - 1)

/-- The quotient, exact or with a sticky bit far below every rounding unit (R98). -/
def Val.div : Val → Val → Val
  | .nan, _ => .nan
  | _, .nan => .nan
  | .inf _, .inf _ => .nan
  | .inf a, .fin b _ _ => .inf (a != b)
  | .fin a _ _, .inf b => .fin (a != b) 0 0
  | .fin a n e, .fin b k f =>
    if k = 0 then (if n = 0 then .nan else .inf (a != b))
    else if n = 0 then .fin (a != b) 0 0
    else
      let sh := 64 + k.log2
      let q := n * 2 ^ sh / k
      sticky (a != b) q (e - f - sh) (decide (n * 2 ^ sh % k ≠ 0))

/-- The integer square root, from bit `b` down. -/
def isqrt (b : Nat) (r n : Nat) : Nat :=
  match b with
  | 0 => if (r + 1) * (r + 1) ≤ n then r + 1 else r
  | c + 1 =>
    let t := r + 2 ^ (c + 1)
    isqrt c (if t * t ≤ n then t else r) n

/-- A finite value with an even exponent and 64 or more bits below its own: mantissa and half the exponent. -/
def evenForm (n : Nat) (e : Int) : Nat × Int :=
  if e % 2 = 0 then (n * 2 ^ 128, (e - 128) / 2) else (n * 2 ^ 129, (e - 129) / 2)

/-- The square root (R102). -/
def Val.sqrt : Val → Val
  | .nan => .nan
  | .inf neg => if neg then .nan else .inf false
  | .fin neg n e =>
    if n = 0 then .fin neg 0 0
    else if neg then .nan
    else
      let (k, h) := evenForm n e
      let q := isqrt 80 0 k
      sticky false q h (decide (q * q ≠ k))

/-- The reciprocal square root (R102). -/
def Val.rsqrt : Val → Val
  | .nan => .nan
  | .inf neg => if neg then .nan else .fin false 0 0
  | .fin neg n e =>
    if n = 0 then .inf neg
    else if neg then .nan
    else
      let (k, h) : Nat × Int := if e % 2 = 0 then (n, e / 2) else (2 * n, (e - 1) / 2)
      let q := isqrt 100 0 (2 ^ 200 / k)
      sticky false q (-h - 100) (decide (q * q * k ≠ 2 ^ 200))

/-! ## Functions of one FP32 operand (R102)

Each is bounded by fixed-point arithmetic of 320 fraction bits whose error stays below `2^-290`; the result is the
code to which both bounds round, which is the correctly rounded one. -/

/-- Fraction bits of the fixed-point arithmetic. -/
def fixBits : Nat := 320

/-- π and ln 2 in units of `2^-320`, rounded down. -/
def fixPi : Nat := 0x3243f6a8885a308d313198a2e03707344a4093822299f31d0082efa98ec4e6c89452821e638d01377
def fixLn2 : Nat := 0xb17217f7d1cf79abc9e3b39803f2f6af40f343267298b62d8a0d175b8baafa2be7b876206debac98

/-- The product of two fixed-point numbers. -/
def fixMul (a b : Nat) : Nat := a * b / 2 ^ fixBits

/-- The sum of `t^j / j!` from term `k` on, with `fuel` terms; `term` is term `k`. -/
def expSeries (fuel k term t : Nat) : Nat :=
  match fuel with
  | 0 => 0
  | f + 1 => term + expSeries f (k + 1) (fixMul term t / (k + 1)) t

/-- The sum of `z^(2j+1) / (2j+1)`; `pow` is the current power. -/
def atanhSeries (fuel k pow z2 : Nat) : Nat :=
  match fuel with
  | 0 => 0
  | f + 1 => pow / k + atanhSeries f (k + 2) (fixMul pow z2) z2

/-- The alternating sum of `t^(2j+1) / (2j+1)!`; `term` is the current term. -/
def sinSeries (fuel k term t2 : Nat) (minus : Bool) : Int :=
  match fuel with
  | 0 => 0
  | f + 1 => (if minus then -(term : Int) else term) + sinSeries f (k + 2) (fixMul term t2 / ((k + 1) * (k + 2))) t2 (!minus)

/-- The FP32 code of a number known to within `2^-290`: both bounds round alike, or the constant of log 20. -/
def bounded (neg : Bool) (v : Nat) (shift : Int) (x : Word) : Word :=
  let err := 2 ^ 30
  let lo := rneFp32 (.fin neg (v - err) (shift - fixBits))
  let hi := rneFp32 (.fin neg (v + err) (shift - fixBits))
  if lo == hi then lo else Config.roundingTie x.toNat

/-- `2^x` (R102): `i` is the floor of `x`, `f` the fraction in units of `2^-320`. -/
def exp2Code (x : Word) : Word :=
  match fp32.value x.toNat with
  | .nan => rneFp32 .nan
  | .inf neg => if neg then 0 else rneFp32 (.inf false)
  | .fin neg n e =>
    let big : Bool := decide (n ≠ 0) && decide ((n.log2 : Int) + e ≥ 8)
    if big then (if neg then 0 else rneFp32 (.inf false))
    else
      let mag : Nat := n * 2 ^ (e + fixBits).toNat
      let v : Int := if neg then -(mag : Int) else mag
      let i := v / (2 ^ fixBits : Int)
      let f := (v % (2 ^ fixBits : Int)).toNat
      if f = 0 then rneFp32 (.fin false 1 i)
      else bounded false (expSeries 90 0 (2 ^ fixBits) (fixMul f fixLn2)) i x

/-- `log2 x` (R102). -/
def log2Code (x : Word) : Word :=
  match fp32.value x.toNat with
  | .nan => rneFp32 .nan
  | .inf neg => if neg then rneFp32 .nan else rneFp32 (.inf false)
  | .fin neg n e =>
    if n = 0 then rneFp32 (.inf true)
    else if neg then rneFp32 .nan
    else
      let p := n.log2
      let ex : Int := (p : Int) + e
      if n = 2 ^ p then rneFp32 (.fin (decide (ex < 0)) ex.natAbs 0)
      else
        let z := (n - 2 ^ p) * 2 ^ fixBits / (n + 2 ^ p)
        let ln := 2 * atanhSeries 110 1 z (fixMul z z)
        let v : Int := ex * (2 ^ fixBits : Int) + ((ln * 2 ^ fixBits / fixLn2 : Nat) : Int)
        bounded (decide (v < 0)) v.natAbs 0 x

/-- `sin (π y)` for `y = k / 2^320`, with `k` below `2^321`: sign and magnitude, and whether it is exactly 0 or 1. -/
def sinTurn (k : Nat) : Bool × Nat × Bool :=
  let one := 2 ^ fixBits
  let neg := decide (one ≤ k)
  let r := k % one
  let y := if one / 2 < r then one - r else r
  if y = 0 then (neg, 0, true)
  else if y = one / 2 then (neg, one, true)
  else
    let t := fixMul y fixPi
    (neg, (sinSeries 60 1 t (fixMul t t) false).toNat, false)

/-- The argument modulo 2, in units of `2^-320`. -/
def turn (neg : Bool) (n : Nat) (e : Int) (add : Nat) : Nat :=
  let m : Int := (2 ^ (fixBits + 1) : Nat)
  let mag : Int := (n * 2 ^ (e + fixBits).toNat : Nat)
  (((if neg then -mag else mag) + add) % m).toNat

/-- `sin (π x)` (R102). -/
def sinpiCode (x : Word) : Word :=
  match fp32.value x.toNat with
  | .fin neg n e =>
    if n = 0 then x
    else
      match sinTurn (turn neg n e 0) with
      | (s, v, true) => if v = 0 then rneFp32 (.fin neg 0 0) else rneFp32 (.fin s 1 0)
      | (s, v, false) => bounded s v 0 x
  | _ => rneFp32 .nan

/-- `cos (π x)` (R102), as `sin (π (x + ½))`. -/
def cospiCode (x : Word) : Word :=
  match fp32.value x.toNat with
  | .fin neg n e =>
    match sinTurn (turn neg n e (2 ^ (fixBits - 1))) with
    | (s, v, true) => if v = 0 then 0 else rneFp32 (.fin s 1 0)
    | (s, v, false) => bounded s v 0 x
  | _ => rneFp32 .nan

/-! ## Element formats (R52, R57, R58) -/

/-- The number kind of an A or B operand code, 0x0 to 0xA. -/
inductive ElemFmt where
  | flt (f : Fmt)
  | int (i : IntFmt)
  deriving DecidableEq, Repr

/-- The element format of a code: `none` above 0xC. -/
def elemFmt (c : BitVec 4) : Option ElemFmt :=
  match c.toNat with
  | 0 => some (.flt e4m3)
  | 1 => some (.flt e5m2)
  | 2 => some (.flt e3m2)
  | 3 => some (.flt e2m3)
  | 4 => some (.flt e2m1)
  | 5 => some (.int int8)
  | 6 => some (.int uint8)
  | 7 => some (.int int4)
  | 8 => some (.int uint4)
  | 9 => some (.flt fp16)
  | 10 => some (.flt bf16)
  | 11 => some (.flt fp32)
  | 12 => some (.int int32)
  | _ => none

/-- Whether an A or B code is an operand format (R52). -/
def operandCode (c : BitVec 4) : Bool := decide (c.toNat ≤ 10)

/-- The exact value of an element code. -/
def ElemFmt.value (f : ElemFmt) (c : Nat) : Val :=
  match f with
  | .flt g => g.value (c % 2 ^ g.width)
  | .int i => .ofInt (i.value c)

/-- Whether the code names an integer format. -/
def codeIsInt (c : BitVec 4) : Bool := match elemFmt c with | some (.int _) => true | _ => false

/-- The exact value of an element under a format code; a code that names none is no number. -/
def codeValue (c : BitVec 4) (v : Nat) : Val :=
  match elemFmt c with
  | some f => f.value v
  | none => .nan

/-- The integer value of an element under an integer format code. -/
def codeInt (c : BitVec 4) (v : Nat) : Int := match elemFmt c with | some (.int i) => i.value v | _ => 0

/-- The width of a packed element's container in a register (R58, R112). -/
def container (c : BitVec 4) : Nat :=
  match c.toNat with
  | 4 => 4
  | 7 => 4
  | 8 => 4
  | 9 => 16
  | 10 => 16
  | _ => 8

/-- A value converted to a format code: RND for a float format, RNDI for an integer one. -/
def convertTo (c : BitVec 4) (m : Mode) (sat : Bool) (v : Val) : Nat :=
  match elemFmt c with
  | some (.flt f) => f.rnd m sat v
  | some (.int i) => i.code (i.rnd m v)
  | none => 0

/-! ## Stochastic rounding and dot products -/

/-- SR (R63). -/
def Fmt.stochastic (f : Fmt) (sat : Bool) (r : Nat) (v : Val) : Nat :=
  match v with
  | .fin neg n e =>
    if n = 0 then f.rnd .rz sat v
    else
      let ex : Int := max ((n.log2 : Int) + e) (1 - (f.bias : Int))
      let q16 := roundUnits .rz neg n e (ex - f.mant - 16)
      f.rnd .rz sat (.fin neg ((q16 + r) / 65536) (ex - f.mant))
  | w => f.rnd .rz sat w

/-- DOT (R65): the exact sum of an accumulator and products, under two scale codes. -/
def dotSum (m : Mode) (acc : Val) (ps : List (Val × Val)) (sa sb : Nat) : Val :=
  if sa = 255 || sb = 255 then .nan
  else exactSum m (acc :: ps.map (fun p => (p.1.mul p.2).scale ((sa : Int) + (sb : Int) - 254)))

/-- The value of an E8M0 scale (R54). -/
def scaleValue (c : Nat) : Val := if c % 256 = 255 then .nan else .fin false 1 ((c % 256 : Nat) - 127 : Int)

/-- The A and B codes, mode and saturation of `fmt` (R64). -/
def fmtA (f : BitVec 16) : BitVec 4 := f.extractLsb' 0 4
def fmtB (f : BitVec 16) : BitVec 4 := f.extractLsb' 4 4
def fmtMode (f : BitVec 16) : Mode := Mode.ofCode (f.extractLsb' 8 2)
def fmtSat (f : BitVec 16) : Bool := f.getLsbD 10
def fmtScaled (f : BitVec 16) : Bool := f.getLsbD 11

end Sys2Proof.Machine
end

