-- ==== Sys2Proof/Machine/Flags.lean ====
section
/-!
DEFINITION. Truth values and classes. The Lengon has no flags register (R55, R74): a compare writes a mask to its
destination, and these are the conditions it writes.
-/
namespace Sys2Proof.Machine

/-- Signed less-than and less-or-equal (R74). -/
def lts (a b : Word) : Bool := a.slt b
def les (a b : Word) : Bool := a.sle b

/-- The ordering key of an FP32 code that is no NaN: -∞ < … < -0 < +0 < … < +∞ (R100). -/
def orderKey (a : Word) : Int :=
  let mag : Int := (a.toNat % 2 ^ 31 : Nat)
  if a.getLsbD 31 then -mag - 1 else mag

/-- Whether a code is an FP32 NaN (R53). -/
def isNan32 (a : Word) : Bool := decide (0x7F800000 < a.toNat % 2 ^ 31)

/-- FP32 compares (R101): false with a NaN, and -0 equals +0. -/
def feq (a b : Word) : Bool := !isNan32 a && !isNan32 b && (a == b || (a.toNat % 2 ^ 31 == 0 && b.toNat % 2 ^ 31 == 0))
def flt (a b : Word) : Bool := !isNan32 a && !isNan32 b && !feq a b && decide (orderKey a < orderKey b)
def fle (a b : Word) : Bool := flt a b || feq a b
def fun_ (a b : Word) : Bool := isNan32 a || isNan32 b

/-- The canonical FP32 NaN (R56). -/
def nan32 : Word := 0x7FC00000

/-- The lesser and the greater operand under the order of R100. -/
def pickMin (a b : Word) : Word := if orderKey b < orderKey a then b else a
def pickMax (a b : Word) : Word := if orderKey a < orderKey b then b else a

/-- minimum, maximum, minimumNumber and maximumNumber (R100). -/
def fminimum (a b : Word) : Word := if isNan32 a || isNan32 b then nan32 else pickMin a b
def fmaximum (a b : Word) : Word := if isNan32 a || isNan32 b then nan32 else pickMax a b
def fminimumNumber (a b : Word) : Word :=
  if isNan32 a then (if isNan32 b then nan32 else b) else if isNan32 b then a else pickMin a b
def fmaximumNumber (a b : Word) : Word :=
  if isNan32 a then (if isNan32 b then nan32 else b) else if isNan32 b then a else pickMax a b

/-- The one-hot class mask (R103). -/
def classMask (a : Word) : Word :=
  let mag := a.toNat % 2 ^ 31
  let neg := a.getLsbD 31
  if 0x7F800000 < mag then (if a.getLsbD 22 then 0x200 else 0x100)
  else if mag = 0x7F800000 then (if neg then 0x001 else 0x080)
  else if 0x00800000 ≤ mag then (if neg then 0x002 else 0x040)
  else if 0 < mag then (if neg then 0x004 else 0x020)
  else if neg then 0x008 else 0x010

end Sys2Proof.Machine
end

