-- ==== Sys2Proof/Machine/Alu.lean ====
section
/-!
DEFINITION. The functions that the lane instructions compute from operand values, free of state (R70 to R81, R98 to
R114).
-/
namespace Sys2Proof.Machine

/-! ## Integer (R70 to R79) -/

/-- An exact signed result clamped to the INT32 range (R70). -/
def clampS32 (v : Int) : Word := BitVec.ofInt 32 (int32.clamp v)

def addSat (a b : Word) : Word := clampS32 (a.toInt + b.toInt)
def subSat (a b : Word) : Word := clampS32 (a.toInt - b.toInt)

/-- The high halves of the exact 64-bit products (R71). -/
def mulHighS (a b : Word) : Word := BitVec.ofInt 32 (a.toInt * b.toInt / 2 ^ 32)
def mulHighU (a b : Word) : Word := BitVec.ofNat 32 (a.toNat * b.toNat / 2 ^ 32)

def minS (a b : Word) : Word := if lts b a then b else a
def maxS (a b : Word) : Word := if lts a b then b else a
def minU (a b : Word) : Word := if b.toNat < a.toNat then b else a
def maxU (a b : Word) : Word := if a.toNat < b.toNat then b else a

/-- The shift count, bits 4:0 (R73). -/
def count5 (b : Word) : Nat := b.toNat % 32

def shiftL (a b : Word) : Word := a <<< count5 b
def shiftR (a b : Word) : Word := a >>> count5 b
def shiftA (a b : Word) : Word := a.sshiftRight (count5 b)
def rotL (a b : Word) : Word := a.rotateLeft (count5 b)

/-- The exact absolute signed difference (R75). -/
def absDiff (a b : Word) : Word := BitVec.ofNat 32 (a.toInt - b.toInt).natAbs

/-- The low `n` bits set (R76). -/
def lowMask (n : Nat) : Word := BitVec.ofNat 32 (2 ^ n - 1)

/-- Position and effective width of a field control word (R76). -/
def fieldPos (b : Word) : Nat := b.toNat % 32
def fieldWidth (b : Word) : Nat := Nat.min (Nat.min (bits b.toNat 13 8) 32) (32 - fieldPos b)

def bitFieldExtract (a b : Word) : Word :=
  let w := fieldWidth b
  let f := (a >>> fieldPos b) &&& lowMask w
  if b.getLsbD 16 && decide (0 < w) && f.getLsbD (w - 1) then f ||| ~~~lowMask w else f

def bitFieldInsert (a b d : Word) : Word :=
  let w := fieldWidth b
  let p := fieldPos b
  (d &&& ~~~(lowMask w <<< p)) ||| ((a &&& lowMask w) <<< p)

/-- Bit counts and orders (R77). -/
def bitIds : List Nat := laneIds
def popCount (a : Word) : Word := BitVec.ofNat 32 (popcount a)
def leadingZeros (a : Word) : Word := BitVec.ofNat 32 (match highest a with | some k => 31 - k | none => 32)
def trailingZeros (a : Word) : Word := BitVec.ofNat 32 ((lowest a).getD 32)
def bitReverse (a : Word) : Word := maskOf (fun i => a.getLsbD (31 - i))
def byteSwap (a : Word) : Word := BitVec.ofNat 32 (ofBytesLE (bytesLE 4 a.toNat).reverse)

/-- The sign-extended low byte and halfword (R77). -/
def signByte (a : Word) : Word := sext (a.extractLsb' 0 8)
def signHalf (a : Word) : Word := sext (a.extractLsb' 0 16)

/-- Two halves packed (R78). -/
def packHalves (a b : Word) : Word := (a &&& 0xFFFF) ||| (b <<< 16)

/-- Division (R79). -/
def divS (a b : Word) : Word :=
  if b == 0 then 0xFFFFFFFF
  else if a == 0x80000000 && b == 0xFFFFFFFF then 0x80000000
  else BitVec.ofInt 32 (a.toInt.tdiv b.toInt)
def divU (a b : Word) : Word := if b == 0 then 0xFFFFFFFF else BitVec.ofNat 32 (a.toNat / b.toNat)
def remS (a b : Word) : Word :=
  if b == 0 then a
  else if a == 0x80000000 && b == 0xFFFFFFFF then 0
  else BitVec.ofInt 32 (a.toInt - a.toInt.tdiv b.toInt * b.toInt)
def remU (a b : Word) : Word := if b == 0 then a else BitVec.ofNat 32 (a.toNat - a.toNat / b.toNat * b.toNat)

/-! ## FP32 (R98, R99, R104) -/

/-- The exact value of an FP32 register. -/
def fval (a : Word) : Val := fp32.value a.toNat

def fAdd (a b : Word) : Word := rneFp32 (exactSum .rne [fval a, fval b])
def fSub (a b : Word) : Word := rneFp32 (exactSum .rne [fval a, (fval b).neg])
def fMul (a b : Word) : Word := rneFp32 ((fval a).mul (fval b))
def fDiv (a b : Word) : Word := rneFp32 ((fval a).div (fval b))

/-- The fused forms: the product and the addend, each possibly negated, rounded once (R99). -/
def fFused (negP negD : Bool) (a b d : Word) : Word :=
  let p := (fval a).mul (fval b)
  let v := fval d
  rneFp32 (exactSum .rne [if negP then p.neg else p, if negD then v.neg else v])

def fRcp (a : Word) : Word := rneFp32 ((Val.fin false 1 0).div (fval a))
def fRsq (a : Word) : Word := rneFp32 (fval a).rsqrt
def fSqrt (a : Word) : Word := rneFp32 (fval a).sqrt

/-- Rounded to an integral value (R104). -/
def fRound (m : Mode) (a : Word) : Word :=
  match fval a with
  | .nan => nan32
  | .inf _ => a
  | .fin neg n e => rneFp32 (.fin neg (roundUnits m neg n e 0) 0)

/-! ## Packed pairs (R105) -/

/-- Halfword `i` of a register. -/
def half (a : Word) (i : Nat) : Nat := bits a.toNat (16 * i + 15) (16 * i)

/-- A result per halfword. -/
def perHalf (g : Nat → Nat) : Word := BitVec.ofNat 32 (g 0 % 65536 + 65536 * (g 1 % 65536))

def hAdd (a b : Word) : Word := perHalf (fun i => fp16.rnd .rne false (exactSum .rne [fp16.value (half a i), fp16.value (half b i)]))
def hMul (a b : Word) : Word := perHalf (fun i => fp16.rnd .rne false ((fp16.value (half a i)).mul (fp16.value (half b i))))
def hFma (f : Fmt) (a b d : Word) : Word :=
  perHalf (fun i => f.rnd .rne false (exactSum .rne [(f.value (half a i)).mul (f.value (half b i)), f.value (half d i)]))

/-! ## Conversion (R106 to R108) -/

/-- A source or destination of `cvt`. -/
inductive CvtKind where
  | flt (f : Fmt)
  | int (i : IntFmt)
  | scale
  deriving DecidableEq, Repr

/-- The source of a conversion code. -/
def cvtSource (k : BitVec 7) : CvtKind :=
  match (k.extractLsb' 4 3).toNat with
  | 0 => .flt fp32
  | 1 => .int int32
  | 2 => .int uint32
  | 3 => .flt fp16
  | 4 => .flt bf16
  | 5 => .flt e4m3
  | 6 => .flt e5m2
  | _ => .scale

/-- The destination of a conversion code. -/
def cvtDest (k : BitVec 7) : CvtKind :=
  match (k.extractLsb' 0 4).toNat with
  | 0 => .flt fp32
  | 1 => .int int32
  | 2 => .int uint32
  | 3 => .flt fp16
  | 4 => .flt bf16
  | 5 => .flt e4m3
  | 6 => .flt e5m2
  | 7 => .flt e3m2
  | 8 => .flt e2m3
  | 9 => .flt e2m1
  | 10 => .int int8
  | 11 => .int uint8
  | 12 => .int int4
  | _ => .int uint4

/-- Whether the result of a `cvt` is a floating-point value (R97). -/
def cvtToFloat (k : BitVec 7) : Bool := match cvtDest k with | .flt _ => true | _ => false

/-- The exact value of the source. -/
def cvtValue (k : BitVec 7) (a : Word) : Val :=
  match cvtSource k with
  | .flt f => f.value (a.toNat % 2 ^ f.width)
  | .int i => .ofInt (i.value a.toNat)
  | .scale => scaleValue a.toNat

/-- Whether the code converts a floating-point format into itself. -/
def cvtSame (k : BitVec 7) : Bool := cvtSource k == cvtDest k

/-- `cvt` (R107). A format converted into itself returns its operand, a NaN its canonical form. -/
def convert (k : BitVec 7) (m : Mode) (sat : Bool) (a : Word) : Word :=
  match cvtDest k with
  | .flt f =>
    if cvtSame k && !(cvtValue k a).isNan then BitVec.ofNat 32 (a.toNat % 2 ^ f.width)
    else BitVec.ofNat 32 (f.rnd m sat (cvtValue k a))
  | .int i =>
    match cvtSource k with
    | .int j => BitVec.ofNat 32 (i.code (i.clamp (j.value a.toNat)))
    | _ => BitVec.ofNat 32 (i.code (i.rnd m (cvtValue k a)))
  | .scale => 0

/-- The target of `cvtsr` (R108). -/
def srTarget (t : BitVec 2) : Fmt :=
  match t.toNat with
  | 0 => bf16
  | 1 => e4m3
  | 2 => e5m2
  | _ => e2m1

def convertSr (t : BitVec 2) (sat : Bool) (a b : Word) : Word :=
  BitVec.ofNat 32 ((srTarget t).stochastic sat (b.toNat % 65536) (fval a))

/-! ## Dot products (R109, R110) -/

/-- Element `i` of a register in containers of width `w`; 6-bit codes drop the container's top bits. -/
def element (a : Word) (w i : Nat) : Nat := a.toNat / 2 ^ (w * i) % 2 ^ w

/-- Whether a format code is accepted by `dp4`, `dp8` and `dp2` (R109). -/
def dp4Code (c : BitVec 4) : Bool := [0, 1, 2, 3, 5, 6].contains c.toNat
def dp8Code (c : BitVec 4) : Bool := [4, 7, 8].contains c.toNat
def dp2Code (c : BitVec 4) : Bool := [9, 10].contains c.toNat

/-- A dot product of `n` pairs in containers of `w` bits (R110). -/
def dotProduct (n w : Nat) (f : BitVec 16) (a b d : Word) : Word :=
  let ids := List.range n
  if codeIsInt (fmtA f) && codeIsInt (fmtB f) then
    BitVec.ofInt 32 (ids.foldl (fun s i => s + codeInt (fmtA f) (element a w i) * codeInt (fmtB f) (element b w i)) d.toInt)
  else
    let ps := ids.map (fun i => (codeValue (fmtA f) (element a w i), codeValue (fmtB f) (element b w i)))
    BitVec.ofNat 32 (fp32.rnd (fmtMode f) (fmtSat f) (dotSum (fmtMode f) (fval d) ps 127 127))

/-! ## Block scaling (R111 to R114) -/

def scaleBy (a b : Word) : Word := rneFp32 ((fval a).mul (scaleValue b.toNat))

/-- `pk8` (R112). -/
def packTwo (f : BitVec 16) (a b d : Word) : Word :=
  let w := container (fmtA f)
  let conv (x : Word) : Nat := convertTo (fmtA f) (fmtMode f) (fmtSat f) (fval x) % 2 ^ w
  if w = 16 then BitVec.ofNat 32 (conv a + conv b * 65536)
  else BitVec.ofNat 32 (d.toNat / 2 ^ (2 * w) + conv a * 2 ^ (32 - 2 * w) + conv b * 2 ^ (32 - w))

/-- `upk` (R113). -/
def unpackOne (f : BitVec 16) (a b : Word) : Word :=
  let w := container (fmtA f)
  rneFp32 (codeValue (fmtA f) (element a w (b.toNat % (32 / w))))

/-- The largest exponent of a format (R114). -/
def emaxOf (c : BitVec 4) : Int :=
  match c.toNat with
  | 0 => 8
  | 1 => 15
  | 2 => 4
  | 3 => 2
  | 4 => 2
  | 5 => 6
  | 6 => 7
  | 7 => 2
  | 8 => 3
  | 9 => 15
  | _ => 127

/-- `mxs` (R114) over the values of the active lanes. -/
def sharedScale (c : BitVec 4) (vs : List Word) : Word :=
  let bad := vs.any (fun a => decide (0x7F800000 ≤ a.toNat % 2 ^ 31))
  let top := vs.foldl (fun m a => Nat.max m (a.toNat % 2 ^ 31)) 0
  if bad then 0xFF
  else
    match fp32.value top with
    | .fin _ n e =>
      if n = 0 then 0x7F
      else
        let v : Int := (n.log2 : Int) + e - emaxOf c + 127
        BitVec.ofInt 32 (if v < 0 then 0 else if 254 < v then 254 else v)
    | _ => 0xFF

end Sys2Proof.Machine
end

