-- ==== Sys2Proof/Syntax.lean ====
section
/-!
DEFINITION. The instructions of the Lengon and the other steps of the device, one constructor per row of the
table of operations and events. An instruction's arguments are the fields of its encoding, at their widths and
in the table's order. An event has no encoding: which unit it happens to, and what arrives from outside with it, stand in
`EventArg`, the operands of the event that is happening.
-/
namespace Sys2Proof

/-- A message or notice on the fabric (R385), with its destination. -/
structure Message where
  destDev : BitVec 12
  destCtx : BitVec 12
  stamp : BitVec 64
  ident : BitVec 32
  replyTo : BitVec 32
  patience : BitVec 16
  ext : BitVec 16
  srcDev : BitVec 12
  srcCtx : BitVec 12
  channel : BitVec 8
  length : BitVec 8
  kind : BitVec 4
  dilation : Bool
  payload : List Byte
  deriving DecidableEq, Repr

/-- What a link transaction asks of its target (R379). -/
inductive LinkOp where
  | read (bytes : Nat)
  | write (data : List Byte) (poisoned : Bool)
  /-- An element of `width` bits, `shift` bits above the address (R58). -/
  | element (shift width code : Nat) (poisoned : Bool)
  | atomic (aop : BitVec 4) (operand expected : Word)
  deriving DecidableEq, Repr

/-- A read, write or atomic transaction that reaches a device (R376, R379). -/
structure LinkRequest where
  src : BitVec 12
  ident : BitVec 32
  retry : Bool
  ctx : Nat
  addr : BitVec 64
  op : LinkOp
  principal : BitVec 12
  owner : Bool
  tag : BitVec 16
  guarded : Bool
  deriving DecidableEq, Repr

/-- The status of an answer to a link transaction (R376, R379). -/
inductive LinkStatus where
  | ok | denied | negative | indeterminate
  deriving DecidableEq, Repr

/-- The answer to a transaction this device sent to `dest` (R379). -/
structure LinkResponse where
  dest : BitVec 12
  ident : BitVec 32
  /-- It answers a read, which carries no request identifier: `ident` is then the requester's own tag. -/
  read : Bool
  status : LinkStatus
  data : List Byte
  /-- The mark of poison travels with the data (R348), and so do the tag and G of the request (R261). -/
  poisoned : Bool
  tag : BitVec 16
  guarded : Bool
  deriving DecidableEq, Repr

/-- A multicast write as a member receives it (R381): (bit offset in the window, width, code) per element. -/
structure MulticastWrite where
  src : BitVec 12
  ident : BitVec 32
  group : BitVec 16
  principal : BitVec 12
  owner : Bool
  poisoned : Bool
  writes : List (Nat × Nat × Nat)
  deriving DecidableEq, Repr

/-- The aggregate acknowledgement of a `fly.mc` (R383): negatives are (reason, device) pairs. -/
structure AggregateAck where
  co : Nat
  cmd : Nat
  members : Nat
  positive : Nat
  negatives : List (Nat × Nat)
  deriving DecidableEq, Repr

/-- A host read or write of device memory at a physical address (R263): no data is a read of `length` bytes. -/
structure HostAccess where
  pa : Nat
  swizzle : BitVec 4
  write : Bool
  length : Nat
  data : List Byte
  deriving DecidableEq, Repr

/-- Where an uncorrectable error strikes (R348, R220, R352). -/
inductive EccPlace where
  | hbm (loc : Nat)
  | stage (co addr : Nat)
  | score (co addr : Nat)
  | cistern (ctx run die addr : Nat)
  | register (co ch row granule : Nat)
  | pit (co granule : Nat)
  | queue (co ch entry : Nat)
  | clusterFabric (cluster square : Nat)
  | image (ctx loc : Nat)
  /-- In an SRAM of the FOH die, whose data the spec does not name. -/
  | foh
  deriving DecidableEq, Repr

/-- A firmware image (R367): what it is, whether its ECDSA and its LMS signature verify, and its security version. `digest` stands
for its SHA-384 digest, which `Config.measurement` gives. -/
structure FirmwareImage where
  digest : Nat
  ecdsa : Bool
  lms : Bool
  version : Nat
  deriving DecidableEq, Repr

/-- A multicast group entry of a device (R381). -/
structure GroupEntry where
  group : BitVec 16
  ctx : Nat
  base : BitVec 64
  length : Nat
  deriving DecidableEq, Repr

/-- What arrives from outside with an event. -/
inductive Payload where
  | none
  | message (m : Message)
  | request (r : LinkRequest)
  | response (r : LinkResponse)
  | multicast (w : MulticastWrite)
  | ack (a : AggregateAck)
  | place (p : EccPlace)
  | image (i : FirmwareImage)
  | host (h : HostAccess)
  | group (e : GroupEntry) (valid : Bool)
  | ids (l : List Nat)
  | error (e : Int)
  | flag (b : Bool)
  deriving DecidableEq, Repr

/-- The operands of an event: up to four numbers, a register value, and what arrives. The docstring of each event's
constructor says which it uses. -/
structure EventArg where
  a : Nat
  b : Nat
  c : Nat
  d : Nat
  v : BitVec 64
  x : Payload
  deriving DecidableEq, Repr

/-- Every row of the table of operations and events. -/
inductive Instr where
  /-- ADD, R70. Adds two sources modulo 2^32 in each active lane. -/
  | add (c : BitVec 1) (w : BitVec 1) (b : BitVec 7) (a : BitVec 7) (d : BitVec 6)
  /-- SUB, R70. Subtracts the second source from the first modulo 2^32. -/
  | sub (c : BitVec 1) (w : BitVec 1) (b : BitVec 7) (a : BitVec 7) (d : BitVec 6)
  /-- ADDS, R70. Adds two signed values, saturating to the INT32 range. -/
  | adds (c : BitVec 1) (w : BitVec 1) (b : BitVec 7) (a : BitVec 7) (d : BitVec 6)
  /-- SUBS, R70. Subtracts two signed values, saturating to the INT32 range. -/
  | subs (c : BitVec 1) (w : BitVec 1) (b : BitVec 7) (a : BitVec 7) (d : BitVec 6)
  /-- MUL, R71. Gives the low 32 bits of the product. -/
  | mul (c : BitVec 1) (w : BitVec 1) (b : BitVec 7) (a : BitVec 7) (d : BitVec 6)
  /-- MULHS, R71. Gives the high 32 bits of the signed 64-bit product. -/
  | mulhs (c : BitVec 1) (w : BitVec 1) (b : BitVec 7) (a : BitVec 7) (d : BitVec 6)
  /-- MULHU, R71. Gives the high 32 bits of the unsigned 64-bit product. -/
  | mulhu (c : BitVec 1) (w : BitVec 1) (b : BitVec 7) (a : BitVec 7) (d : BitVec 6)
  /-- MAD, R71. Adds the product to vd in place, modulo 2^32. -/
  | mad (c : BitVec 1) (w : BitVec 1) (b : BitVec 7) (a : BitVec 7) (d : BitVec 6)
  /-- MIN, R72. Gives the signed minimum. -/
  | min (c : BitVec 1) (w : BitVec 1) (b : BitVec 7) (a : BitVec 7) (d : BitVec 6)
  /-- MAX, R72. Gives the signed maximum. -/
  | max (c : BitVec 1) (w : BitVec 1) (b : BitVec 7) (a : BitVec 7) (d : BitVec 6)
  /-- MINU, R72. Gives the unsigned minimum. -/
  | minu (c : BitVec 1) (w : BitVec 1) (b : BitVec 7) (a : BitVec 7) (d : BitVec 6)
  /-- MAXU, R72. Gives the unsigned maximum. -/
  | maxu (c : BitVec 1) (w : BitVec 1) (b : BitVec 7) (a : BitVec 7) (d : BitVec 6)
  /-- AND, R72. Gives the bitwise AND. -/
  | and (c : BitVec 1) (w : BitVec 1) (b : BitVec 7) (a : BitVec 7) (d : BitVec 6)
  /-- OR, R72. Gives the bitwise OR. -/
  | or (c : BitVec 1) (w : BitVec 1) (b : BitVec 7) (a : BitVec 7) (d : BitVec 6)
  /-- XOR, R72. Gives the bitwise XOR. -/
  | xor (c : BitVec 1) (w : BitVec 1) (b : BitVec 7) (a : BitVec 7) (d : BitVec 6)
  /-- ANDN, R72. Gives a AND NOT b. -/
  | andn (c : BitVec 1) (w : BitVec 1) (b : BitVec 7) (a : BitVec 7) (d : BitVec 6)
  /-- SHL, R73. Shifts left by b mod 32. -/
  | shl (c : BitVec 1) (w : BitVec 1) (b : BitVec 7) (a : BitVec 7) (d : BitVec 6)
  /-- SHR, R73. Shifts right logically by b mod 32. -/
  | shr (c : BitVec 1) (w : BitVec 1) (b : BitVec 7) (a : BitVec 7) (d : BitVec 6)
  /-- SAR, R73. Shifts right arithmetically by b mod 32. -/
  | sar (c : BitVec 1) (w : BitVec 1) (b : BitVec 7) (a : BitVec 7) (d : BitVec 6)
  /-- ROT, R73. Rotates left by b mod 32. -/
  | rot (c : BitVec 1) (w : BitVec 1) (b : BitVec 7) (a : BitVec 7) (d : BitVec 6)
  /-- CMPEQ, R74. Writes all ones when a equals b, else zero. -/
  | cmpeq (c : BitVec 1) (w : BitVec 1) (b : BitVec 7) (a : BitVec 7) (d : BitVec 6)
  /-- CMPNE, R74. Writes all ones when a differs from b. -/
  | cmpne (c : BitVec 1) (w : BitVec 1) (b : BitVec 7) (a : BitVec 7) (d : BitVec 6)
  /-- CMPLT, R74. Signed less-than compare. -/
  | cmplt (c : BitVec 1) (w : BitVec 1) (b : BitVec 7) (a : BitVec 7) (d : BitVec 6)
  /-- CMPLE, R74. Signed less-or-equal compare. -/
  | cmple (c : BitVec 1) (w : BitVec 1) (b : BitVec 7) (a : BitVec 7) (d : BitVec 6)
  /-- CMPLTU, R74. Unsigned less-than compare. -/
  | cmpltu (c : BitVec 1) (w : BitVec 1) (b : BitVec 7) (a : BitVec 7) (d : BitVec 6)
  /-- CMPLEU, R74. Unsigned less-or-equal compare. -/
  | cmpleu (c : BitVec 1) (w : BitVec 1) (b : BitVec 7) (a : BitVec 7) (d : BitVec 6)
  /-- TST, R74. Writes all ones when a AND b is nonzero. -/
  | tst (c : BitVec 1) (w : BitVec 1) (b : BitVec 7) (a : BitVec 7) (d : BitVec 6)
  /-- ABSD, R75. Gives the exact absolute signed difference as an unsigned value. -/
  | absd (c : BitVec 1) (w : BitVec 1) (b : BitVec 7) (a : BitVec 7) (d : BitVec 6)
  /-- SEL, R76. Selects a when old vd is nonzero, else b. -/
  | sel (c : BitVec 1) (w : BitVec 1) (b : BitVec 7) (a : BitVec 7) (d : BitVec 6)
  /-- BFX, R76. Extracts a bit field under a control word, optionally sign-extended. -/
  | bfx (c : BitVec 1) (w : BitVec 1) (b : BitVec 7) (a : BitVec 7) (d : BitVec 6)
  /-- BFI, R76. Inserts a bit field of a into vd in place. -/
  | bfi (c : BitVec 1) (w : BitVec 1) (b : BitVec 7) (a : BitVec 7) (d : BitVec 6)
  /-- LEA, R76. Gives a plus four times b. -/
  | lea (c : BitVec 1) (w : BitVec 1) (b : BitVec 7) (a : BitVec 7) (d : BitVec 6)
  /-- POPC, R77. Counts set bits. -/
  | popc (c : BitVec 1) (w : BitVec 1) (a : BitVec 7) (d : BitVec 6)
  /-- CLZ, R77. Counts leading zero bits. -/
  | clz (c : BitVec 1) (w : BitVec 1) (a : BitVec 7) (d : BitVec 6)
  /-- CTZ, R77. Counts trailing zero bits. -/
  | ctz (c : BitVec 1) (w : BitVec 1) (a : BitVec 7) (d : BitVec 6)
  /-- BREV, R77. Reverses the bit order. -/
  | brev (c : BitVec 1) (w : BitVec 1) (a : BitVec 7) (d : BitVec 6)
  /-- DIVS, R79. Signed division truncating towards zero with defined special cases. -/
  | divs (c : BitVec 1) (w : BitVec 1) (b : BitVec 7) (a : BitVec 7) (d : BitVec 6)
  /-- DIVU, R79. Unsigned division with a defined result for zero divisor. -/
  | divu (c : BitVec 1) (w : BitVec 1) (b : BitVec 7) (a : BitVec 7) (d : BitVec 6)
  /-- REMS, R79. Signed remainder taking the sign of the dividend. -/
  | rems (c : BitVec 1) (w : BitVec 1) (b : BitVec 7) (a : BitVec 7) (d : BitVec 6)
  /-- REMU, R79. Unsigned remainder. -/
  | remu (c : BitVec 1) (w : BitVec 1) (b : BitVec 7) (a : BitVec 7) (d : BitVec 6)
  /-- MOV, R77. Copies the source. -/
  | mov (c : BitVec 1) (w : BitVec 1) (a : BitVec 7) (d : BitVec 6)
  /-- ZXB, R77. Zero-extends the low byte. -/
  | zxb (c : BitVec 1) (w : BitVec 1) (a : BitVec 7) (d : BitVec 6)
  /-- SXB, R77. Sign-extends the low byte. -/
  | sxb (c : BitVec 1) (w : BitVec 1) (a : BitVec 7) (d : BitVec 6)
  /-- SXH, R77. Sign-extends the low halfword. -/
  | sxh (c : BitVec 1) (w : BitVec 1) (a : BitVec 7) (d : BitVec 6)
  /-- ZXH, R77. Zero-extends the low halfword. -/
  | zxh (c : BitVec 1) (w : BitVec 1) (a : BitVec 7) (d : BitVec 6)
  /-- PACK, R78. Packs the low halves of a and b into one word. -/
  | pack (c : BitVec 1) (w : BitVec 1) (b : BitVec 7) (a : BitVec 7) (d : BitVec 6)
  /-- BSW, R77. Reverses the byte order. -/
  | bsw (c : BitVec 1) (w : BitVec 1) (a : BitVec 7) (d : BitVec 6)
  /-- ADDI, R80. Adds a sign-extended 9-bit immediate. -/
  | addi (c : BitVec 1) (w : BitVec 1) (i : BitVec 9) (a : BitVec 7) (d : BitVec 6)
  /-- ANDI, R80. ANDs with a sign-extended immediate. -/
  | andi (c : BitVec 1) (w : BitVec 1) (i : BitVec 9) (a : BitVec 7) (d : BitVec 6)
  /-- ORI, R80. ORs with a sign-extended immediate. -/
  | ori (c : BitVec 1) (w : BitVec 1) (i : BitVec 9) (a : BitVec 7) (d : BitVec 6)
  /-- XORI, R80. XORs with a sign-extended immediate. -/
  | xori (c : BitVec 1) (w : BitVec 1) (i : BitVec 9) (a : BitVec 7) (d : BitVec 6)
  /-- SHLI, R80. Shifts left by an immediate count. -/
  | shli (c : BitVec 1) (w : BitVec 1) (i : BitVec 5) (a : BitVec 7) (d : BitVec 6)
  /-- SHRI, R80. Shifts right logically by an immediate count. -/
  | shri (c : BitVec 1) (w : BitVec 1) (i : BitVec 5) (a : BitVec 7) (d : BitVec 6)
  /-- SARI, R80. Shifts right arithmetically by an immediate count. -/
  | sari (c : BitVec 1) (w : BitVec 1) (i : BitVec 5) (a : BitVec 7) (d : BitVec 6)
  /-- CMPEQI, R80. Compares for equality with an immediate. -/
  | cmpeqi (c : BitVec 1) (w : BitVec 1) (i : BitVec 9) (a : BitVec 7) (d : BitVec 6)
  /-- CMPLTI, R80. Signed less-than compare with an immediate. -/
  | cmplti (c : BitVec 1) (w : BitVec 1) (i : BitVec 9) (a : BitVec 7) (d : BitVec 6)
  /-- CMPLTUI, R80. Unsigned less-than compare with the sign-extended immediate. -/
  | cmpltui (c : BitVec 1) (w : BitVec 1) (i : BitVec 9) (a : BitVec 7) (d : BitVec 6)
  /-- MULI, R80. Multiplies by an immediate, low 32 bits. -/
  | muli (c : BitVec 1) (w : BitVec 1) (i : BitVec 9) (a : BitVec 7) (d : BitVec 6)
  /-- LDP, R83. Reads a word of parameter pool extent 0 per lane, or 0 out of range. -/
  | ldp (i : BitVec 9) (a : BitVec 6) (d : BitVec 6)
  /-- MOVI, R81. Writes a zero-extended 16-bit immediate. -/
  | movi (c : BitVec 1) (w : BitVec 1) (i : BitVec 16) (d : BitVec 6)
  /-- MOVH, R81. Writes a 16-bit immediate to the upper half of vd, keeping the lower half. -/
  | movh (c : BitVec 1) (w : BitVec 1) (i : BitVec 16) (d : BitVec 6)
  /-- LIT, R82. Reads a code-image word PC-relative into vd. -/
  | lit (i : BitVec 16) (d : BitVec 6)
  /-- SHFL, R86. Reads a from a per-lane source lane. -/
  | shfl (c : BitVec 1) (w : BitVec 1) (b : BitVec 7) (a : BitVec 7) (d : BitVec 6)
  /-- SHUP, R86. Reads a from lane l minus a uniform n. -/
  | shup (c : BitVec 1) (w : BitVec 1) (b : BitVec 7) (a : BitVec 7) (d : BitVec 6)
  /-- SHDN, R86. Reads a from lane l plus a uniform n. -/
  | shdn (c : BitVec 1) (w : BitVec 1) (b : BitVec 7) (a : BitVec 7) (d : BitVec 6)
  /-- SHXOR, R86. Reads a from lane l XOR a uniform n. -/
  | shxor (c : BitVec 1) (w : BitVec 1) (b : BitVec 7) (a : BitVec 7) (d : BitVec 6)
  /-- VANY, R87. Broadcasts whether any active lane has a nonzero value. -/
  | vany (c : BitVec 1) (w : BitVec 1) (a : BitVec 7) (d : BitVec 6)
  /-- VALL, R87. Broadcasts whether every active lane has a nonzero value. -/
  | vall (c : BitVec 1) (w : BitVec 1) (a : BitVec 7) (d : BitVec 6)
  /-- BALLOT, R87. Broadcasts the mask of active lanes with a nonzero value. -/
  | ballot (c : BitVec 1) (w : BitVec 1) (a : BitVec 7) (d : BitVec 6)
  /-- LEADER, R87. Broadcasts the leader lane's value. -/
  | leader (c : BitVec 1) (w : BitVec 1) (a : BitVec 7) (d : BitVec 6)
  /-- REDADD, R88. Broadcasts the sum over active lanes. -/
  | redadd (c : BitVec 1) (w : BitVec 1) (a : BitVec 7) (d : BitVec 6)
  /-- REDMIN, R88. Broadcasts the signed minimum over active lanes. -/
  | redmin (c : BitVec 1) (w : BitVec 1) (a : BitVec 7) (d : BitVec 6)
  /-- REDMAX, R88. Broadcasts the signed maximum over active lanes. -/
  | redmax (c : BitVec 1) (w : BitVec 1) (a : BitVec 7) (d : BitVec 6)
  /-- REDMINU, R88. Broadcasts the unsigned minimum over active lanes. -/
  | redminu (c : BitVec 1) (w : BitVec 1) (a : BitVec 7) (d : BitVec 6)
  /-- SCAN, R89. Gives each lane the inclusive prefix sum over active lanes. -/
  | scan (c : BitVec 1) (w : BitVec 1) (a : BitVec 7) (d : BitVec 6)
  /-- RANK, R89. Counts lower active lanes holding the same value. -/
  | rank (c : BitVec 1) (w : BitVec 1) (a : BitVec 7) (d : BitVec 6)
  /-- MATCH, R89. Gives the mask of active lanes holding the same value. -/
  | matchLanes (c : BitVec 1) (w : BitVec 1) (a : BitVec 7) (d : BitVec 6)
  /-- FADD, R98. FP32 add rounded RNE. -/
  | fadd (c : BitVec 1) (w : BitVec 1) (b : BitVec 7) (a : BitVec 7) (d : BitVec 6)
  /-- FSUB, R98. FP32 subtract rounded RNE. -/
  | fsub (c : BitVec 1) (w : BitVec 1) (b : BitVec 7) (a : BitVec 7) (d : BitVec 6)
  /-- FMUL, R98. FP32 multiply rounded RNE. -/
  | fmul (c : BitVec 1) (w : BitVec 1) (b : BitVec 7) (a : BitVec 7) (d : BitVec 6)
  /-- FDIV, R98. FP32 divide rounded RNE. -/
  | fdiv (c : BitVec 1) (w : BitVec 1) (b : BitVec 7) (a : BitVec 7) (d : BitVec 6)
  /-- FMA, R99. Fused a times b plus vd, one rounding. -/
  | fma (c : BitVec 1) (w : BitVec 1) (b : BitVec 7) (a : BitVec 7) (d : BitVec 6)
  /-- FMS, R99. Fused a times b minus vd, one rounding. -/
  | fms (c : BitVec 1) (w : BitVec 1) (b : BitVec 7) (a : BitVec 7) (d : BitVec 6)
  /-- FNMA, R99. Fused minus a times b plus vd. -/
  | fnma (c : BitVec 1) (w : BitVec 1) (b : BitVec 7) (a : BitVec 7) (d : BitVec 6)
  /-- FNMS, R99. Fused minus a times b minus vd. -/
  | fnms (c : BitVec 1) (w : BitVec 1) (b : BitVec 7) (a : BitVec 7) (d : BitVec 6)
  /-- FMIN, R100. IEEE minimum, NaN if either operand is NaN. -/
  | fmin (c : BitVec 1) (w : BitVec 1) (b : BitVec 7) (a : BitVec 7) (d : BitVec 6)
  /-- FMAX, R100. IEEE maximum, NaN if either operand is NaN. -/
  | fmax (c : BitVec 1) (w : BitVec 1) (b : BitVec 7) (a : BitVec 7) (d : BitVec 6)
  /-- FMINNUM, R100. IEEE minimumNumber, ignoring one NaN. -/
  | fminnum (c : BitVec 1) (w : BitVec 1) (b : BitVec 7) (a : BitVec 7) (d : BitVec 6)
  /-- FMAXNUM, R100. IEEE maximumNumber, ignoring one NaN. -/
  | fmaxnum (c : BitVec 1) (w : BitVec 1) (b : BitVec 7) (a : BitVec 7) (d : BitVec 6)
  /-- FCMPEQ, R101. FP32 equality compare. -/
  | fcmpeq (c : BitVec 1) (w : BitVec 1) (b : BitVec 7) (a : BitVec 7) (d : BitVec 6)
  /-- FCMPLT, R101. FP32 less-than compare. -/
  | fcmplt (c : BitVec 1) (w : BitVec 1) (b : BitVec 7) (a : BitVec 7) (d : BitVec 6)
  /-- FCMPLE, R101. FP32 less-or-equal compare. -/
  | fcmple (c : BitVec 1) (w : BitVec 1) (b : BitVec 7) (a : BitVec 7) (d : BitVec 6)
  /-- FCMPUN, R101. True when either operand is NaN. -/
  | fcmpun (c : BitVec 1) (w : BitVec 1) (b : BitVec 7) (a : BitVec 7) (d : BitVec 6)
  /-- FRCP, R102. Correctly rounded reciprocal. -/
  | frcp (c : BitVec 1) (w : BitVec 1) (a : BitVec 7) (d : BitVec 6)
  /-- FRSQ, R102. Correctly rounded reciprocal square root. -/
  | frsq (c : BitVec 1) (w : BitVec 1) (a : BitVec 7) (d : BitVec 6)
  /-- FSQRT, R102. Correctly rounded square root. -/
  | fsqrt (c : BitVec 1) (w : BitVec 1) (a : BitVec 7) (d : BitVec 6)
  /-- FCLASS, R103. Writes a one-hot class mask of the FP32 operand. -/
  | fclass (c : BitVec 1) (w : BitVec 1) (a : BitVec 7) (d : BitVec 6)
  /-- FEXP2, R102. Correctly rounded 2^x. -/
  | fexp2 (c : BitVec 1) (w : BitVec 1) (a : BitVec 7) (d : BitVec 6)
  /-- FLOG2, R102. Correctly rounded log2 x. -/
  | flog2 (c : BitVec 1) (w : BitVec 1) (a : BitVec 7) (d : BitVec 6)
  /-- FSINPI, R102. Correctly rounded sin(pi x). -/
  | fsinpi (c : BitVec 1) (w : BitVec 1) (a : BitVec 7) (d : BitVec 6)
  /-- FCOSPI, R102. Correctly rounded cos(pi x). -/
  | fcospi (c : BitVec 1) (w : BitVec 1) (a : BitVec 7) (d : BitVec 6)
  /-- FRND, R104. Rounds an FP32 value to an integral value in the mode of fn. -/
  | frnd (c : BitVec 1) (w : BitVec 1) (m : BitVec 2) (a : BitVec 7) (d : BitVec 6)
  /-- HADD2, R105. Adds two packed FP16 pairs. -/
  | hadd2 (c : BitVec 1) (w : BitVec 1) (b : BitVec 7) (a : BitVec 7) (d : BitVec 6)
  /-- HMUL2, R105. Multiplies two packed FP16 pairs. -/
  | hmul2 (c : BitVec 1) (w : BitVec 1) (b : BitVec 7) (a : BitVec 7) (d : BitVec 6)
  /-- HFMA2, R105. Fused multiply-add on packed FP16 pairs. -/
  | hfma2 (c : BitVec 1) (w : BitVec 1) (b : BitVec 7) (a : BitVec 7) (d : BitVec 6)
  /-- BFMA2, R105. Fused multiply-add on packed BF16 pairs. -/
  | bfma2 (c : BitVec 1) (w : BitVec 1) (b : BitVec 7) (a : BitVec 7) (d : BitVec 6)
  /-- CVT, R107. Converts one value between formats under a conversion code and rounding mode. -/
  | cvt (c : BitVec 1) (w : BitVec 1) (m : BitVec 2) (k : BitVec 7) (a : BitVec 7) (d : BitVec 6)
  /-- CVTSR, R108. Converts FP32 to a narrow target with stochastic rounding. -/
  | cvtsr (c : BitVec 1) (w : BitVec 1) (t : BitVec 2) (b : BitVec 7) (a : BitVec 7) (d : BitVec 6)
  /-- DP4, R110. Accumulates a 4-pair packed dot product into vd. -/
  | dp4 (c : BitVec 1) (w : BitVec 1) (b : BitVec 7) (a : BitVec 7) (d : BitVec 6)
  /-- DP8, R110. Accumulates an 8-pair 4-bit packed dot product. -/
  | dp8 (c : BitVec 1) (w : BitVec 1) (b : BitVec 7) (a : BitVec 7) (d : BitVec 6)
  /-- DP2, R110. Accumulates a 2-pair 16-bit packed dot product. -/
  | dp2 (c : BitVec 1) (w : BitVec 1) (b : BitVec 7) (a : BitVec 7) (d : BitVec 6)
  /-- DP4U, R110. Accumulates a 4-pair dot product with b taken from the leader. -/
  | dp4u (c : BitVec 1) (w : BitVec 1) (b : BitVec 7) (a : BitVec 7) (d : BitVec 6)
  /-- SCL, R111. Multiplies an FP32 value by an E8M0 scale. -/
  | scl (c : BitVec 1) (w : BitVec 1) (b : BitVec 7) (a : BitVec 7) (d : BitVec 6)
  /-- PK8, R112. Converts two FP32 values to the A format and shifts them into vd. -/
  | pk8 (c : BitVec 1) (w : BitVec 1) (b : BitVec 7) (a : BitVec 7) (d : BitVec 6)
  /-- UPK, R113. Converts one packed element of the A format to FP32. -/
  | upk (c : BitVec 1) (w : BitVec 1) (b : BitVec 7) (a : BitVec 7) (d : BitVec 6)
  /-- MXS, R114. Derives the shared E8M0 block scale over the active lanes. -/
  | mxs (c : BitVec 1) (w : BitVec 1) (a : BitVec 7) (d : BitVec 6)
  /-- MOV_16, R30. 16-bit form of mov. -/
  | mov16 (s : BitVec 6) (d : BitVec 5)
  /-- ADD_16, R30. 16-bit two-address add. -/
  | add16 (s : BitVec 6) (d : BitVec 5)
  /-- SUB_16, R30. 16-bit two-address sub. -/
  | sub16 (s : BitVec 6) (d : BitVec 5)
  /-- AND_16, R30. 16-bit two-address and. -/
  | and16 (s : BitVec 6) (d : BitVec 5)
  /-- OR_16, R30. 16-bit two-address or. -/
  | or16 (s : BitVec 6) (d : BitVec 5)
  /-- XOR_16, R30. 16-bit two-address xor. -/
  | xor16 (s : BitVec 6) (d : BitVec 5)
  /-- SHL_16, R30. 16-bit two-address shl. -/
  | shl16 (s : BitVec 6) (d : BitVec 5)
  /-- SHR_16, R30. 16-bit two-address shr. -/
  | shr16 (s : BitVec 6) (d : BitVec 5)
  /-- SAR_16, R30. 16-bit two-address sar. -/
  | sar16 (s : BitVec 6) (d : BitVec 5)
  /-- MUL_16, R30. 16-bit two-address mul. -/
  | mul16 (s : BitVec 6) (d : BitVec 5)
  /-- MIN_16, R30. 16-bit two-address min. -/
  | min16 (s : BitVec 6) (d : BitVec 5)
  /-- MAX_16, R30. 16-bit two-address max. -/
  | max16 (s : BitVec 6) (d : BitVec 5)
  /-- FADD_16, R30. 16-bit two-address fadd. -/
  | fadd16 (s : BitVec 6) (d : BitVec 5)
  /-- FSUB_16, R30. 16-bit two-address fsub. -/
  | fsub16 (s : BitVec 6) (d : BitVec 5)
  /-- FMUL_16, R30. 16-bit two-address fmul. -/
  | fmul16 (s : BitVec 6) (d : BitVec 5)
  /-- ADDI_16, R30. 16-bit addi with a signed 6-bit immediate. -/
  | addi16 (i : BitVec 6) (d : BitVec 5)
  /-- LD_WL, R137. Loads a word from the well's local area relative to wellp. -/
  | ldWl (h : BitVec 2) (o : BitVec 10) (b : BitVec 6) (d : BitVec 6)
  /-- ST_WL, R137. Stores a word to the well's local area relative to wellp. -/
  | stWl (h : BitVec 2) (o : BitVec 10) (b : BitVec 6) (s : BitVec 6)
  /-- LD_SB, R163. Loads a zero-extended stage byte. -/
  | ldSb (h : BitVec 2) (o : BitVec 10) (b : BitVec 6) (d : BitVec 6)
  /-- LD_SH, R163. Loads a zero-extended stage halfword. -/
  | ldSh (h : BitVec 2) (o : BitVec 10) (b : BitVec 6) (d : BitVec 6)
  /-- LD_SW, R163. Loads a stage word. -/
  | ldSw (h : BitVec 2) (o : BitVec 10) (b : BitVec 6) (d : BitVec 6)
  /-- LD_SQ, R163. Loads four stage words into four registers. -/
  | ldSq (h : BitVec 2) (o : BitVec 10) (b : BitVec 6) (d : BitVec 4)
  /-- ST_SB, R163. Stores a byte to the stage. -/
  | stSb (h : BitVec 2) (o : BitVec 10) (b : BitVec 6) (s : BitVec 6)
  /-- ST_SH, R163. Stores a halfword to the stage. -/
  | stSh (h : BitVec 2) (o : BitVec 10) (b : BitVec 6) (s : BitVec 6)
  /-- ST_SW, R163. Stores a word to the stage. -/
  | stSw (h : BitVec 2) (o : BitVec 10) (b : BitVec 6) (s : BitVec 6)
  /-- ST_SQ, R163. Stores four registers to the stage. -/
  | stSq (h : BitVec 2) (o : BitVec 10) (b : BitVec 6) (s : BitVec 4)
  /-- LD_SA, R163. Loads a stage word with acquire order at company scope. -/
  | ldSa (h : BitVec 2) (o : BitVec 10) (b : BitVec 6) (d : BitVec 6)
  /-- ST_SR, R163. Stores a stage word with release order at company scope. -/
  | stSr (h : BitVec 2) (o : BitVec 10) (b : BitVec 6) (s : BitVec 6)
  /-- LD_T, R173. Loads a word from a ready tile by element index. -/
  | ldT (k : BitVec 4) (i : BitVec 6) (t : BitVec 8) (d : BitVec 6)
  /-- ST_T, R173. Stores a word into a ready tile by element index. -/
  | stT (k : BitVec 4) (i : BitVec 6) (t : BitVec 8) (s : BitVec 6)
  /-- LD_TQ, R173. Loads a 16-byte unit from a ready tile. -/
  | ldTq (k : BitVec 4) (i : BitVec 6) (t : BitVec 8) (d : BitVec 4)
  /-- ST_TQ, R173. Stores a 16-byte unit into a ready tile. -/
  | stTq (k : BitVec 4) (i : BitVec 6) (t : BitVec 8) (s : BitVec 4)
  /-- ATOM_S, R165. Indivisible read-modify-write on a stage word per lane at company scope. -/
  | atomS (q : BitVec 2) (p : BitVec 4) (r : BitVec 6) (a : BitVec 6) (d : BitVec 6)
  /-- ATOM_C, R226. Indivisible read-modify-write on a cistern word per lane at die scope. -/
  | atomC (q : BitVec 2) (p : BitVec 4) (r : BitVec 6) (a : BitVec 6) (d : BitVec 6)
  /-- LD_CW, R225. Loads a word from the cistern window. -/
  | ldCw (h : BitVec 2) (o : BitVec 10) (b : BitVec 6) (d : BitVec 6)
  /-- ST_CW, R225. Stores a word to the cistern window. -/
  | stCw (h : BitVec 2) (o : BitVec 10) (b : BitVec 6) (s : BitVec 6)
  /-- LD_CQ, R225. Loads four cistern words into four registers. -/
  | ldCq (h : BitVec 2) (o : BitVec 10) (b : BitVec 6) (d : BitVec 4)
  /-- ST_CQ, R225. Stores four registers to the cistern. -/
  | stCq (h : BitVec 2) (o : BitVec 10) (b : BitVec 6) (s : BitVec 4)
  /-- LD_CA, R225. Loads a cistern word with acquire order at die scope. -/
  | ldCa (h : BitVec 2) (o : BitVec 10) (b : BitVec 6) (d : BitVec 6)
  /-- ST_CR, R225. Stores a cistern word with release order at die scope. -/
  | stCr (h : BitVec 2) (o : BitVec 10) (b : BitVec 6) (s : BitVec 6)
  /-- BAR_C, R181. Arrives at a company barrier and waits for the phase to complete or be abandoned. -/
  | barC (i : BitVec 6) (n : BitVec 8) (d : BitVec 6)
  /-- BAR_T, R215. Arrives at a troupe barrier and waits for the phase to complete or be abandoned. -/
  | barT (i : BitVec 6) (n : BitVec 8) (d : BitVec 6)
  /-- ARV_C, R182. Arrives at a company barrier and returns the phase token. -/
  | arvC (b : BitVec 7) (a : BitVec 7) (d : BitVec 6)
  /-- AWT_C, R182. Waits on a company barrier for a token's phase. -/
  | awtC (b : BitVec 7) (a : BitVec 7) (d : BitVec 6)
  /-- ARV_T, R182. Arrives at a troupe barrier and returns the token. -/
  | arvT (b : BitVec 7) (a : BitVec 7) (d : BitVec 6)
  /-- AWT_T, R182. Waits on a troupe barrier for a token's phase. -/
  | awtT (b : BitVec 7) (a : BitVec 7) (d : BitVec 6)
  /-- FENCE_R, R276. Range fence that waits on the tagged counters of the named slots. -/
  | fenceR (s : BitVec 3) (k : BitVec 2) (m : BitVec 8)
  /-- FENCE_X, R277. Cross-path fence that waits for earlier accesses of the from-paths to complete. -/
  | fenceX (s : BitVec 3) (k : BitVec 2) (t : BitVec 4) (f : BitVec 4)
  /-- RNG_SET, R274. Binds a range slot to a byte range from registers. -/
  | rngSet (b : BitVec 7) (a : BitVec 7) (k : BitVec 6)
  /-- RNG_SET_H, R274. Binds a range slot to the footprint of a handle. -/
  | rngSetH (h : BitVec 6) (k : BitVec 6)
  /-- CUE_SET, R177. Resolves a cue true or false from the leader's value. -/
  | cueSet (a : BitVec 7) (k : BitVec 6)
  /-- CUE_CLR, R177. Makes a cue unresolved. -/
  | cueClr (k : BitVec 6)
  /-- CUE_RD, R177. Reads a cue's 2-bit code into vd. -/
  | cueRd (k : BitVec 3) (d : BitVec 6)
  /-- TL_REL, R174. Releases a ready tile, making it draining. -/
  | tlRel (t : BitVec 8)
  /-- TL_WAIT, R174. Waits until a tile is ready. -/
  | tlWait (t : BitVec 8)
  /-- TL_ST, R174. Reads a tile's state code. -/
  | tlSt (t : BitVec 8) (d : BitVec 6)
  /-- REC_BIND, R176. Checks a shape record in the stage and binds it to a handle, returning a result code. -/
  | recBind (h : BitVec 6) (a : BitVec 7) (d : BitVec 6)
  /-- BZ, R116. Branches lanes whose tested value is zero, dividing the split when lanes disagree. -/
  | bz (o : BitVec 18) (c : BitVec 6)
  /-- BNZ, R116. Branches lanes whose tested value is nonzero, dividing the split when lanes disagree. -/
  | bnz (o : BitVec 18) (c : BitVec 6)
  /-- J, R118. Jumps the whole split PC-relative. -/
  | j (o : BitVec 24)
  /-- CALL, R127. Calls a target, writing the link and sliding the window by n. -/
  | call (o : BitVec 18) (n : BitVec 6)
  /-- CALLR, R128. Calls per-lane register targets, dividing on differing targets. -/
  | callr (n : BitVec 7) (a : BitVec 6)
  /-- RET, R130. Returns through each member's link, grouping members by link value. -/
  | ret
  /-- JPT, R119. Sets the join PC of the running split. -/
  | jpt (o : BitVec 18)
  /-- RCV, R122. Arrives at the join point and waits for the merge set. -/
  | rcv
  /-- RCV_T, R123. Arrives at the join point with a virtual-time bound. -/
  | rcvT (a : BitVec 6) (d : BitVec 6)
  /-- EXIT, R124. Marks every active lane exited. -/
  | exit
  /-- ALLOC, R129. Sets the split's frame size and waits for the range to be resident. -/
  | alloc (i : BitVec 14)
  /-- BRT, R120. Jumps through a PC-relative table per lane. -/
  | brt (o : BitVec 18) (c : BitVec 6)
  /-- TRAP, R139. Traps with cause 0x11 and the immediate in tval. -/
  | trap (i : BitVec 14)
  /-- RTT, R141. Clears the handler flag and continues at epc. -/
  | rtt
  /-- BRK, R139. Traps with cause 0x12 and the immediate in tval. -/
  | brk (i : BitVec 14)
  /-- NOP, R139. Has no effect beyond its timing class. -/
  | nop (x : BitVec 20)
  /-- POOL, R47. Pool header; executing it traps with pool entry. -/
  | pool (l : BitVec 14)
  /-- MFS, R91. Reads a special register into vd. -/
  | mfs (r : BitVec 14) (d : BitVec 6)
  /-- MTS, R92. Writes a special register from the leader's value. -/
  | mts (r : BitVec 14) (s : BitVec 6)
  /-- FMT, R93. Writes an immediate to the split's fmt. -/
  | fmt (i : BitVec 12)
  /-- TMR_SET, R333. Arms a timer with a vt deadline and clears its pending bit. -/
  | tmrSet (b : BitVec 6) (a : BitVec 6)
  /-- TMR_CLR, R333. Disarms a timer and clears its pending bit. -/
  | tmrClr (a : BitVec 6)
  /-- WEV, R334. Waits for selected pending events or a deadline. -/
  | wev (b : BitVec 6) (a : BitVec 6) (d : BitVec 6)
  /-- WTM, R335. Waits until a 64-bit vt deadline. -/
  | wtm (a : BitVec 6) (d : BitVec 6)
  /-- QKICK, R321. Kicks a queue of the own context with a proposed write index. -/
  | qkick (b : BitVec 6) (a : BitVec 6)
  /-- EVT, R322. Reads the completion-event counter into vd. -/
  | evt (d : BitVec 6)
  /-- MSG_SEND, R388. Sends a message or reply from a stage payload. -/
  | msgSend (b : BitVec 6) (a : BitVec 6) (d : BitVec 6)
  /-- MSG_RECV, R389. Takes the visible message of lowest stamp into the stage. -/
  | msgRecv (a : BitVec 6) (d : BitVec 6)
  /-- MSG_PEEK, R389. Reports the next visible message without taking it. -/
  | msgPeek (d : BitVec 6)
  /-- MSG_HOLD, R390. Sends HOLD or BUSY for an owed reply. -/
  | msgHold (b : BitVec 6) (a : BitVec 6) (d : BitVec 6)
  /-- PLSET, R323. Firmware sets a cluster's current limit. -/
  | plset (c : BitVec 3) (d : BitVec 6)
  /-- RDSTG, R326. Firmware reads stage time low half or latched high half. -/
  | rdstg (i : BitVec 14) (d : BitVec 6)
  /-- UNDEF, R48. Always traps with illegal encoding. -/
  | undef (x : BitVec 20)
  /-- RESERVED_ENCODING, R48. An instruction word with a reserved major, fn or fn4 value is decoded and traps with illegal encoding. -/
  | reservedEncoding (w : BitVec 32)
  /-- FLY_IN, R231. Queues a fill of a tile from the box of a record. -/
  | flyIn (e : BitVec 1) (b : BitVec 6) (h : BitVec 6) (t : BitVec 8) (k : BitVec 3)
  /-- FLY_OUT, R232. Queues a write of a ready tile to the box of a record. -/
  | flyOut (e : BitVec 1) (b : BitVec 6) (h : BitVec 6) (t : BitVec 8) (k : BitVec 3)
  /-- FLY_GTH, R233. Queues a per-lane gather of runs into a tile. -/
  | flyGth (e : BitVec 1) (b : BitVec 6) (h : BitVec 6) (t : BitVec 8) (k : BitVec 3)
  /-- FLY_SCT, R234. Queues a per-lane scatter of tile rows. -/
  | flySct (e : BitVec 1) (b : BitVec 6) (h : BitVec 6) (t : BitVec 8) (k : BitVec 3)
  /-- FLY_SCL, R235. Queues a write of only block scales into a tile's score slot. -/
  | flyScl (e : BitVec 1) (b : BitVec 6) (h : BitVec 6) (t : BitVec 8) (k : BitVec 3)
  /-- FLY_CP, R236. Queues a byte copy between main memory, cistern and stage. -/
  | flyCp (e : BitVec 1) (b : BitVec 6) (k : BitVec 3)
  /-- FLY_ATM, R237. Queues per-lane atomics on main-memory words. -/
  | flyAtm (e : BitVec 1) (b : BitVec 6) (p : BitVec 4) (q : BitVec 2) (k : BitVec 3)
  /-- FLY_MC, R382. Queues a multicast write of a tile to a group. -/
  | flyMc (e : BitVec 1) (b : BitVec 6) (h : BitVec 6) (t : BitVec 8) (k : BitVec 3)
  /-- FLY_PF, R238. Queues a prefetch of a box into the home reservoirs. -/
  | flyPf (e : BitVec 1) (b : BitVec 6) (h : BitVec 6) (k : BitVec 3)
  /-- MX_MMA, R192. Collective matrix multiply-accumulate into a pit region. -/
  | mxMma (s : BitVec 1) (r : BitVec 4) (b : BitVec 8) (a : BitVec 8) (k : BitVec 3)
  /-- MX_SPR, R202. Collective spread matrix product across a four-core group. -/
  | mxSpr (s : BitVec 1) (r : BitVec 4) (b : BitVec 8) (a : BitVec 8) (k : BitVec 3)
  /-- MX_ZERO, R195. Shapes a region and clears it. -/
  | mxZero (r : BitVec 4) (s : BitVec 6)
  /-- MX_PUT, R196. Loads a region from a tile. -/
  | mxPut (t : BitVec 8) (r : BitVec 4)
  /-- MX_GET, R197. Fills a tile by converting a region. -/
  | mxGet (t : BitVec 8) (r : BitVec 4)
  /-- MX_SPUT, R198. Writes scale bytes into the score. -/
  | mxSput (s : BitVec 6)
  /-- SPLIT_ENTRY_REFILL, R17. The pump refills a spilled split entry before its split runs or merges. Operands: a co, b ch, v members. -/
  | splitEntryRefill
  /-- RCV_T_TIMEOUT, R123. A rcv.t deadline passes and the arrived splits merge among themselves. Operands: a co, b ch, v members. -/
  | rcvTTimeout
  /-- SPLIT_RESCHEDULE, R121. After 256 consecutive issues with another split ready, the scheduler chooses a split afresh. Operands: a co, b ch. -/
  | splitReschedule
  /-- LANE_ACCESS_COMPLETE, R24. The last lane access of a lane-path instruction completes, lowering the in-flight count. Operands: a co, b ch. -/
  | laneAccessComplete
  /-- PUMP_SERVE_REQUEST, R132. The pump serves the oldest window request, moving the ring. Operands: a co, b ch. -/
  | pumpServeRequest
  /-- PUMP_ROW_TRANSFER_DONE, R133. A pump row refill or spill completes and waiting splits may issue. Operands: a co, b ch. -/
  | pumpRowTransferDone
  /-- BAND_WINDOW, R150. At each 8-cycle window boundary the band arbiter sets the band. Operands: a core. -/
  | bandWindow
  /-- BAND_RAISE, R151. A chorus's band wait reaches 32 and the band is raised. Operands: a core. -/
  | bandRaise
  /-- CURRENT_WINDOW_BOUNDARY, R155. A current window ends, fixing the record, limit conditions and stall ratio. Operands: a cluster. -/
  | currentWindowBoundary
  /-- STALL_CYCLE, R156. Stall credit reaches one and a core cycle issues nothing. Operands: a core. -/
  | stallCycle
  /-- BANK_DROWSY, R157. A register bank drops to retention after its choruses wait 200 ns. Operands: a core, b bank. -/
  | bankDrowsy
  /-- BANK_WAKE, R157. A drowsy bank wakes over 2 extra cycles for an access. Operands: a core, b bank. -/
  | bankWake
  /-- TILE_DRAIN_END, R169. A draining tile with readers 0 becomes empty or, if claimed, filling. Operands: a co, b tile. -/
  | tileDrainEnd
  /-- QUEUE_HEAD_DECIDE, R178. The engine-queue head is decided against its cue: waits, discarded or handed over. Operands: a co, b ch. -/
  | queueHeadDecide
  /-- FLY_COMMAND_HANDOVER, R227. A command at a queue head is handed to the fly engine once it has room. Operands: a co, b ch. -/
  | flyCommandHandover
  /-- FLY_LINE_COMPLETE, R239. A line request of a fly command completes and its elements are checked and written. Operands: a co, b cmd, c line. -/
  | flyLineComplete
  /-- FLY_COMMAND_COMPLETE, R242. A fly command completes, making a fill target ready and posting its event. Operands: a co, b cmd. -/
  | flyCommandComplete
  /-- ASYNC_TRAP_TAKEN, R241. A trap raised after issue is taken by the chorus at its next chain boundary. Operands: a co, b ch. -/
  | asyncTrapTaken
  /-- MATRIX_OP_START, R186. A gathered operation at every member's queue head with cues true starts on the array. Operands: a co, b op. -/
  | matrixOpStart
  /-- MATRIX_K_STEP, R193. A K-step completes with one rounding per output at its boundary. Operands: a co, b op. -/
  | matrixKStep
  /-- MATRIX_OP_COMPLETE, R201. A matrix operation's last write is done. Operands: a co, b op. -/
  | matrixOpComplete
  /-- PAGE_WALK_COMPLETE, R251. A page walk ends, filling TLBs or raising a fault. Operands: a walk. -/
  | pageWalkComplete
  /-- PAGE_REQUEST_WRITE, R255. A page request entry is written to a ring, raising its vector. Operands: a fn, b stage. -/
  | pageRequestWrite
  /-- COMPANY_FAULT_RESTORE, R346. A fault-saved company is restored once all its requests are answered. Operands: a co, b core. -/
  | companyFaultRestore
  /-- PRQ_REPLY, R256. A driver reply retries or fails the accesses waiting on a tag. Operands: a fn, b stage, v v. -/
  | prqReply
  /-- PRQ_RD_WRITE, R255. The driver moves a ring's read index, letting waiting requests be written. Operands: a fn, b stage, v v. -/
  | prqRdWrite
  /-- PRQ_BASE_WRITE, R255. Writing a ring base releases a request owing an unwritten entry. Operands: a fn, b stage, v v. -/
  | prqBaseWrite
  /-- XLINV_FUNCTION, R253. Invalidates every translation entry of the function. Operands: a fn, v v. -/
  | xlinvFunction
  /-- XLINV_PAGE, R253. Invalidates entries of one stage-1 page. Operands: a fn, v v. -/
  | xlinvPage
  /-- XLINV_CONTEXT, R253. Invalidates entries of one context. Operands: a fn, v v. -/
  | xlinvContext
  /-- XLINV_STAGE2_PAGE, R253. Invalidates entries of one stage-2 page of a virtual function. Operands: a fn, v v. -/
  | xlinvStage2Page
  /-- XLINV_INVALID_KIND, R253. A disallowed invalidation kind completes at once and sets bit 62. Operands: a fn, v v. -/
  | xlinvInvalidKind
  /-- XLINV_COMPLETE, R253. An invalidation completes once walks and accesses drain, clearing busy. Operands: a fn. -/
  | xlinvComplete
  /-- CTX_CREATE, R305. Creates a context from a free context page. Operands: a fn, b page. -/
  | ctxCreate
  /-- CTX_START, R305. Moves a created context to saved for scheduling. Operands: a fn, b page. -/
  | ctxStart
  /-- CTX_DESTROY, R305. Requests destruction of a context. Operands: a fn, b page. -/
  | ctxDestroy
  /-- CTX_DESTROY_COMPLETE, R305. The context becomes free once runs end and resources are freed. Operands: a ctx. -/
  | ctxDestroyComplete
  /-- CTX_POLICY_WRITE, R305. Changes the policy base and purges grant caches. Operands: a fn, b page, v v. -/
  | ctxPolicyWrite
  /-- CTX_PCOUNT_WRITE, R305. Changes the principal count and purges grant caches. Operands: a fn, b page, v v. -/
  | ctxPcountWrite
  /-- CTX_EVCTL_WRITE, R320. Writes event-ring control; arming notify with records pending raises the vector. Operands: a fn, b page, v v. -/
  | ctxEvctlWrite
  /-- CTX_EVRD_WRITE, R319. Moves the event-ring read index, freeing room for waiting records. Operands: a fn, b page, v v. -/
  | ctxEvrdWrite
  /-- CTX_WDOG_WRITE, R338. Sets the watchdog limit, applied from the next microsecond. Operands: a fn, b page, v v. -/
  | ctxWdogWrite
  /-- QUEUE_ENABLE, R304. Enables a queue, zeroing its indices and mirror. Operands: a fn, b page, c q, v v. -/
  | queueEnable
  /-- QUEUE_DISABLE, R304. Disables a queue; no further packet starts. Operands: a fn, b page, c q, v v. -/
  | queueDisable
  /-- REGISTER_WRITE, R304. Writes a register that has no behaviour of its own. Operands: a fn, b off, v v. -/
  | registerWrite
  /-- KICK, R310. Proposes a write index; W takes the maximum. Operands: a fn, b page, c q, v v. -/
  | kick
  /-- QRESTART_REREAD, R308. Clears stopped and re-reads the stopping slot. Operands: a fn, b page, c q. -/
  | qrestartReread
  /-- QRESTART_SKIP, R308. Clears stopped and skips one slot. Operands: a fn, b page, c q. -/
  | qrestartSkip
  /-- PROMPTER_REREAD, R310. After 1 us the prompter re-reads a slot whose seq mismatched. Operands: a ctx, b q. -/
  | prompterReread
  /-- LAUNCH, R311. Submits a run to the box office. Operands: a ctx, b q. -/
  | launch
  /-- RESUME, R318. Restores a run from a checkpoint image. Operands: a ctx, b q. -/
  | resume
  /-- WRITE, R313. Writes data bytes at a virtual address. Operands: a ctx, b q. -/
  | write
  /-- SIGNAL, R313. Performs one indivisible 64-bit store or add. Operands: a ctx, b q. -/
  | signal
  /-- WRITE_SIGNAL, R313. Writes data then signals. Operands: a ctx, b q. -/
  | writeSignal
  /-- WAIT, R313. Holds the queue until a masked word compares true. Operands: a ctx, b q. -/
  | wait
  /-- WAIT_REEVALUATE, R313. A WAIT re-reads its word after a write or each 1 us. Operands: a ctx, b q. -/
  | waitReevaluate
  /-- FENCE, R313. Completes once every earlier packet of the queue has completed. Operands: a ctx, b q. -/
  | fence
  /-- GRANT, R259. Writes grant bitmap bytes and purges grant caches. Operands: a ctx, b q. -/
  | grant
  /-- CONT, R313. A continuation as first slot stops the queue with error 0x01. Operands: a ctx, b q. -/
  | cont
  /-- TROUPE_PLACE, R317. The box office places a troupe on the partition. Operands: a ctx, b run, c cluster. -/
  | troupePlace
  /-- ADMISSION_ORDER_HOLD, R317. An earlier run waits 1 ms of vt and blocks later runs. Operands: a ctx, b run. -/
  | admissionOrderHold
  /-- COMPANY_COMPLETE, R179. A company completes once its commands complete, freeing its core. Operands: a co. -/
  | companyComplete
  /-- RUN_COMPLETE, R314. A run completes and its LAUNCH or RESUME completes. Operands: a ctx, b run. -/
  | runComplete
  /-- EVENT_RECORD_WRITE, R319. Writes an event record once the ring has room. Operands: a ctx. -/
  | eventRecordWrite
  /-- PREEMPTION_REQUEST, R341. The scheduler pre-empts a whole context, stopping and saving it. Operands: a ctx. -/
  | preemptionRequest
  /-- CONTEXT_RESTORE, R341. A pre-empted context is restored and its slice begins. Operands: a ctx. -/
  | contextRestore
  /-- SLICE_EXPIRY, R315. A context's slice expires. Operands: a ctx. -/
  | sliceExpiry
  /-- WATCHDOG_EXPIRY, R338. A run's watchdog count reaches its limit and the run is ended. Operands: a ctx, b run. -/
  | watchdogExpiry
  /-- TIMER_EXPIRY, R333. A timer deadline passes, setting its pending bit. Operands: a co, b ch, c k. -/
  | timerExpiry
  /-- WEV_DEADLINE, R334. A wev deadline passes with no selected event. Operands: a co, b ch, v members. -/
  | wevDeadline
  /-- WTM_DEADLINE, R335. A wtm deadline passes. Operands: a co, b ch, v members. -/
  | wtmDeadline
  /-- STAGE_TIME_CORRECTION, R325. PTM synchronisation slews stage time. Operands: x error. -/
  | stageTimeCorrection
  /-- MESSAGE_ARRIVAL, R384. A message arrives at a call board and is accepted, refused or busied. Operands: a 1 for a retry, x m. -/
  | messageArrival
  /-- OUTSIDE_EVENT_VISIBLE, R336. vt reaches an outside event's stamp and it becomes visible. Operands: a ctx. -/
  | outsideEventVisible
  /-- CALL_BOARD_ACTION_POINT, R386. At an owed reply's action point the board sends HOLD or BUSY. Operands: a ctx, b device, v id. -/
  | callBoardActionPoint
  /-- LINK_REQUEST_ARRIVAL, R379. A link transaction arrives and is applied or answered from the memo. Operands: x r. -/
  | linkRequestArrival
  /-- LINK_RESPONSE_ARRIVAL, R379. A response to a link transaction arrives at the requester. Operands: x r. -/
  | linkResponseArrival
  /-- LINK_RESPONSE_TIMEOUT, R379. No response after 900 us; the outcome is lost and the chorus halts. Operands: a dest, b 1 for a read, v id. -/
  | linkResponseTimeout
  /-- MEMO_ENTRY_EXPIRY, R379. A memo entry expires after 1 ms. Operands: a src, v id. -/
  | memoEntryExpiry
  /-- LINK_PORT_FAIL, R380. A port fails and unanswered transactions are resent on another port. Operands: a port. -/
  | linkPortFail
  /-- LINK_FLIT_REPLAY, R377. A flit failing CRC is replayed. Operands: a port, b vc, c seq, d beat. -/
  | linkFlitReplay
  /-- LINK_XOFF, R377. A receiver stops a virtual channel. Operands: a port, b vc. -/
  | linkXoff
  /-- LINK_XON, R377. A receiver restarts a virtual channel. Operands: a port, b vc. -/
  | linkXon
  /-- MULTICAST_WRITE_ARRIVAL, R381. A member receives a multicast write and answers. Operands: a 1 for a retry, x w. -/
  | multicastWriteArrival
  /-- AGGREGATE_ACK_ARRIVAL, R382. The aggregate acknowledgement arrives and the record is written. Operands: x a. -/
  | aggregateAckArrival
  /-- VF_POINT_CHANGE, R361. A die's clocks pause for a voltage and frequency change. Operands: a die, b point. -/
  | vfPointChange
  /-- VF_CHANGE_COMPLETE, R361. Clocks restart at the new lengths. Operands: a die. -/
  | vfChangeComplete
  /-- CLUSTER_GATE, R362. A free cluster's hold ends and it is gated. Operands: a cluster. -/
  | clusterGate
  /-- CLUSTER_WAKE_REQUEST, R363. A wake request enters the in-rush arbiter or cancels gating. Operands: a cluster. -/
  | clusterWakeRequest
  /-- WAKE_RAMP_END, R363. A wake ramp ends, admitting the next wake. Operands: a cluster. -/
  | wakeRampEnd
  /-- CLUSTER_WAKE_COMPLETE, R363. A cluster finishes reset and settle and is usable. Operands: a cluster. -/
  | clusterWakeComplete
  /-- THERMAL_STEP, R364. Above 95 C firmware lowers the die one point per millisecond. Operands: a die, b temp. -/
  | thermalStep
  /-- THERMAL_TRIP_105, R364. At 105 C hardware moves the die to VF3. Operands: a die, b temp. -/
  | thermalTrip105
  /-- THERMAL_TRIP_115, R364. At 115 C power is removed and contexts end. Operands: a die, b temp. -/
  | thermalTrip115
  /-- COLD_RESET, R365. Power-on or management reset runs the bring-up steps. -/
  | coldReset
  /-- PCIE_HOT_RESET, R365. A hot or link-down reset repeats PCIe bring-up. -/
  | pcieHotReset
  /-- FUNCTION_LEVEL_RESET, R365. Ends the contexts of a function without saving. Operands: a fn. -/
  | functionLevelReset
  /-- PLUGIN_BUDGET_EXPIRY, R366. A plug-in exceeds its 50 us budget and is stopped. Operands: a tenant. -/
  | pluginBudgetExpiry
  /-- SPDM_REQUEST, R368. The device answers an SPDM request with signed measurements. Operands: a index. -/
  | spdmRequest
  /-- KEY_SLOT_LOAD, R369. The security root loads a context key into a slot, which it generates, or imports where x says whether the key unwraps. Operands: a slot, b ctx, x. -/
  | keySlotLoad
  /-- KEY_SLOT_RETIRE, R262. Firmware retires a key slot after writing back its lines. Operands: a slot. -/
  | keySlotRetire
  /-- PLDM_REQUEST, R370. The management port reports sensors. Operands: a sensor, b unit. -/
  | pldmRequest
  /-- CURTAIN_ASSERT, R371. The freeze input stops all clocks in place. -/
  | curtainAssert
  /-- CURTAIN_RELEASE, R371. Clocks restart from where they stopped. -/
  | curtainRelease
  /-- DEBUG_TOKEN_ACCEPT, R372. Accepting a debug token retires key slots and halts contexts. Operands: x signatureOk. -/
  | debugTokenAccept
  /-- CATWALK_READ, R372. A scan read-out under the curtain. -/
  | catwalkRead
  /-- DEBUG_STEP, R329. Resumes a context for one instruction or chain. Operands: a co, b ch. -/
  | debugStep
  /-- ECC_UNCORRECTABLE, R348. An uncorrectable error poisons a 32-byte granule. Operands: x place. -/
  | eccUncorrectable
  /-- ROUTER_FAIL, R351. A NoC router fails and firmware reroutes. Operands: a die, b col, c row. -/
  | routerFail
  /-- HUB_FAIL, R220. A failed hub takes its cluster out of service. Operands: a cluster. -/
  | hubFail
  /-- CISTERN_SIZE_CHANGE, R221. Firmware changes the cistern size of a die. Operands: a die, b size. -/
  | cisternSizeChange
  /-- PARTITION_ASSIGN, R303. The scheduler gives a context a partition and key slot. Operands: a ctx, b slot, c cistern quota per die in 64 KiB, x clusters. -/
  | partitionAssign
  /-- GRANT_CACHE_EVICTION, R259. A core's grant cache evicts an entry at a time of its own choosing, so later checks read the bitmap byte afresh. Operands: a core, b ctx, c principal, d tag. -/
  | grantCacheEviction
  /-- HOST_MEMORY_ACCESS, R263. The host reads or writes device memory, entering the model at the home reservoir as a system-scope agent. Operands: x a. -/
  | hostMemoryAccess
  /-- LINK_TRAINING_COMPLETE, R380. A link port finishes training and comes up, so held transactions may go out on it. Operands: a port, b lanes, v peer. -/
  | linkTrainingComplete
  /-- LINK_LANE_LOSS, R378. A port loses live lanes and enters the degraded state. Operands: a port, b lanes. -/
  | linkLaneLoss
  /-- LINK_LOCK_LOSS, R377. A port's receiver loses lock, which starts the 1 us count that ends in port failure. Operands: a port. -/
  | linkLockLoss
  /-- DEBUG_HALT, R328. A debugger halts a context, stopping its vt and cyc. Operands: a ctx. -/
  | debugHalt
  /-- DEBUG_RESUME, R329. A debugger releases a halted context, and vt runs on from where it stopped. Operands: a ctx. -/
  | debugResume
  /-- CONTEXT_MIGRATION, R329. A context is moved to another device with its vt, timer deadlines and pending events. Operands: a ctx. -/
  | contextMigration
  /-- CHECKPOINT, R342. A checkpoint image of a run is written to device memory that the context names. Operands: a ctx, b run, v addr. -/
  | checkpoint
  /-- THERMAL_TRIP_CLEAR, R364. Firmware clears a 115 C trip, releasing the stage dies from cold reset. -/
  | thermalTripClear
  /-- VIRTUAL_FUNCTION_ENABLE, R365. The host enables virtual functions, which then appear on PCIe. Operands: a count. -/
  | virtualFunctionEnable
  /-- MULTICAST_GROUP_ENTRY_WRITE, R381. Firmware writes or removes a device's multicast group entry when it maps or revokes a group. Operands: x e, x valid. -/
  | multicastGroupEntryWrite
  /-- PLUGIN_IMAGE_LOAD, R366. A new plug-in image is loaded and verified, ending the default policy for its tenant. Operands: a tenant, x image. -/
  | pluginImageLoad
  deriving DecidableEq, Repr

end Sys2Proof
end

