-- ==== Sys2Proof/Decode.lean ====
section
/-!
DEFINITION. Decoding and encoding (R28 to R48). Every pair of halfwords decodes: a word that matches no row of the
opcode map is a reserved encoding, which traps when it executes (R48).
-/
namespace Sys2Proof

/-- One row of the opcode map: a word `w` with `w &&& mask = pattern` is this instruction. -/
structure Row where
  mask : BitVec 32
  pattern : BitVec 32
  make : BitVec 32 → Instr

/-- The encodings of this family: mask, pattern, and the instruction with its fields (R28 to R46). -/
def rowsInteger : List Row := [
  ⟨0x300000FF, 0x00000001, fun w => .add (w.extractLsb' 31 1) (w.extractLsb' 30 1) (w.extractLsb' 21 7) (w.extractLsb' 14 7) (w.extractLsb' 8 6)⟩,
  ⟨0x300000FF, 0x10000001, fun w => .sub (w.extractLsb' 31 1) (w.extractLsb' 30 1) (w.extractLsb' 21 7) (w.extractLsb' 14 7) (w.extractLsb' 8 6)⟩,
  ⟨0x300000FF, 0x20000001, fun w => .adds (w.extractLsb' 31 1) (w.extractLsb' 30 1) (w.extractLsb' 21 7) (w.extractLsb' 14 7) (w.extractLsb' 8 6)⟩,
  ⟨0x300000FF, 0x30000001, fun w => .subs (w.extractLsb' 31 1) (w.extractLsb' 30 1) (w.extractLsb' 21 7) (w.extractLsb' 14 7) (w.extractLsb' 8 6)⟩,
  ⟨0x300000FF, 0x00000003, fun w => .mul (w.extractLsb' 31 1) (w.extractLsb' 30 1) (w.extractLsb' 21 7) (w.extractLsb' 14 7) (w.extractLsb' 8 6)⟩,
  ⟨0x300000FF, 0x10000003, fun w => .mulhs (w.extractLsb' 31 1) (w.extractLsb' 30 1) (w.extractLsb' 21 7) (w.extractLsb' 14 7) (w.extractLsb' 8 6)⟩,
  ⟨0x300000FF, 0x20000003, fun w => .mulhu (w.extractLsb' 31 1) (w.extractLsb' 30 1) (w.extractLsb' 21 7) (w.extractLsb' 14 7) (w.extractLsb' 8 6)⟩,
  ⟨0x300000FF, 0x30000003, fun w => .mad (w.extractLsb' 31 1) (w.extractLsb' 30 1) (w.extractLsb' 21 7) (w.extractLsb' 14 7) (w.extractLsb' 8 6)⟩,
  ⟨0x300000FF, 0x00000005, fun w => .min (w.extractLsb' 31 1) (w.extractLsb' 30 1) (w.extractLsb' 21 7) (w.extractLsb' 14 7) (w.extractLsb' 8 6)⟩,
  ⟨0x300000FF, 0x10000005, fun w => .max (w.extractLsb' 31 1) (w.extractLsb' 30 1) (w.extractLsb' 21 7) (w.extractLsb' 14 7) (w.extractLsb' 8 6)⟩,
  ⟨0x300000FF, 0x20000005, fun w => .minu (w.extractLsb' 31 1) (w.extractLsb' 30 1) (w.extractLsb' 21 7) (w.extractLsb' 14 7) (w.extractLsb' 8 6)⟩,
  ⟨0x300000FF, 0x30000005, fun w => .maxu (w.extractLsb' 31 1) (w.extractLsb' 30 1) (w.extractLsb' 21 7) (w.extractLsb' 14 7) (w.extractLsb' 8 6)⟩,
  ⟨0x300000FF, 0x00000007, fun w => .and (w.extractLsb' 31 1) (w.extractLsb' 30 1) (w.extractLsb' 21 7) (w.extractLsb' 14 7) (w.extractLsb' 8 6)⟩,
  ⟨0x300000FF, 0x10000007, fun w => .or (w.extractLsb' 31 1) (w.extractLsb' 30 1) (w.extractLsb' 21 7) (w.extractLsb' 14 7) (w.extractLsb' 8 6)⟩,
  ⟨0x300000FF, 0x20000007, fun w => .xor (w.extractLsb' 31 1) (w.extractLsb' 30 1) (w.extractLsb' 21 7) (w.extractLsb' 14 7) (w.extractLsb' 8 6)⟩,
  ⟨0x300000FF, 0x30000007, fun w => .andn (w.extractLsb' 31 1) (w.extractLsb' 30 1) (w.extractLsb' 21 7) (w.extractLsb' 14 7) (w.extractLsb' 8 6)⟩,
  ⟨0x300000FF, 0x00000009, fun w => .shl (w.extractLsb' 31 1) (w.extractLsb' 30 1) (w.extractLsb' 21 7) (w.extractLsb' 14 7) (w.extractLsb' 8 6)⟩,
  ⟨0x300000FF, 0x10000009, fun w => .shr (w.extractLsb' 31 1) (w.extractLsb' 30 1) (w.extractLsb' 21 7) (w.extractLsb' 14 7) (w.extractLsb' 8 6)⟩,
  ⟨0x300000FF, 0x20000009, fun w => .sar (w.extractLsb' 31 1) (w.extractLsb' 30 1) (w.extractLsb' 21 7) (w.extractLsb' 14 7) (w.extractLsb' 8 6)⟩,
  ⟨0x300000FF, 0x30000009, fun w => .rot (w.extractLsb' 31 1) (w.extractLsb' 30 1) (w.extractLsb' 21 7) (w.extractLsb' 14 7) (w.extractLsb' 8 6)⟩,
  ⟨0x300000FF, 0x0000000B, fun w => .cmpeq (w.extractLsb' 31 1) (w.extractLsb' 30 1) (w.extractLsb' 21 7) (w.extractLsb' 14 7) (w.extractLsb' 8 6)⟩,
  ⟨0x300000FF, 0x1000000B, fun w => .cmpne (w.extractLsb' 31 1) (w.extractLsb' 30 1) (w.extractLsb' 21 7) (w.extractLsb' 14 7) (w.extractLsb' 8 6)⟩,
  ⟨0x300000FF, 0x2000000B, fun w => .cmplt (w.extractLsb' 31 1) (w.extractLsb' 30 1) (w.extractLsb' 21 7) (w.extractLsb' 14 7) (w.extractLsb' 8 6)⟩,
  ⟨0x300000FF, 0x3000000B, fun w => .cmple (w.extractLsb' 31 1) (w.extractLsb' 30 1) (w.extractLsb' 21 7) (w.extractLsb' 14 7) (w.extractLsb' 8 6)⟩,
  ⟨0x300000FF, 0x0000000D, fun w => .cmpltu (w.extractLsb' 31 1) (w.extractLsb' 30 1) (w.extractLsb' 21 7) (w.extractLsb' 14 7) (w.extractLsb' 8 6)⟩,
  ⟨0x300000FF, 0x1000000D, fun w => .cmpleu (w.extractLsb' 31 1) (w.extractLsb' 30 1) (w.extractLsb' 21 7) (w.extractLsb' 14 7) (w.extractLsb' 8 6)⟩,
  ⟨0x300000FF, 0x2000000D, fun w => .tst (w.extractLsb' 31 1) (w.extractLsb' 30 1) (w.extractLsb' 21 7) (w.extractLsb' 14 7) (w.extractLsb' 8 6)⟩,
  ⟨0x300000FF, 0x3000000D, fun w => .absd (w.extractLsb' 31 1) (w.extractLsb' 30 1) (w.extractLsb' 21 7) (w.extractLsb' 14 7) (w.extractLsb' 8 6)⟩,
  ⟨0x300000FF, 0x0000000F, fun w => .sel (w.extractLsb' 31 1) (w.extractLsb' 30 1) (w.extractLsb' 21 7) (w.extractLsb' 14 7) (w.extractLsb' 8 6)⟩,
  ⟨0x300000FF, 0x1000000F, fun w => .bfx (w.extractLsb' 31 1) (w.extractLsb' 30 1) (w.extractLsb' 21 7) (w.extractLsb' 14 7) (w.extractLsb' 8 6)⟩,
  ⟨0x300000FF, 0x2000000F, fun w => .bfi (w.extractLsb' 31 1) (w.extractLsb' 30 1) (w.extractLsb' 21 7) (w.extractLsb' 14 7) (w.extractLsb' 8 6)⟩,
  ⟨0x300000FF, 0x3000000F, fun w => .lea (w.extractLsb' 31 1) (w.extractLsb' 30 1) (w.extractLsb' 21 7) (w.extractLsb' 14 7) (w.extractLsb' 8 6)⟩,
  ⟨0x3FE000FF, 0x00000011, fun w => .popc (w.extractLsb' 31 1) (w.extractLsb' 30 1) (w.extractLsb' 14 7) (w.extractLsb' 8 6)⟩,
  ⟨0x3FE000FF, 0x10000011, fun w => .clz (w.extractLsb' 31 1) (w.extractLsb' 30 1) (w.extractLsb' 14 7) (w.extractLsb' 8 6)⟩,
  ⟨0x3FE000FF, 0x20000011, fun w => .ctz (w.extractLsb' 31 1) (w.extractLsb' 30 1) (w.extractLsb' 14 7) (w.extractLsb' 8 6)⟩,
  ⟨0x3FE000FF, 0x30000011, fun w => .brev (w.extractLsb' 31 1) (w.extractLsb' 30 1) (w.extractLsb' 14 7) (w.extractLsb' 8 6)⟩,
  ⟨0x300000FF, 0x00000013, fun w => .divs (w.extractLsb' 31 1) (w.extractLsb' 30 1) (w.extractLsb' 21 7) (w.extractLsb' 14 7) (w.extractLsb' 8 6)⟩,
  ⟨0x300000FF, 0x10000013, fun w => .divu (w.extractLsb' 31 1) (w.extractLsb' 30 1) (w.extractLsb' 21 7) (w.extractLsb' 14 7) (w.extractLsb' 8 6)⟩,
  ⟨0x300000FF, 0x20000013, fun w => .rems (w.extractLsb' 31 1) (w.extractLsb' 30 1) (w.extractLsb' 21 7) (w.extractLsb' 14 7) (w.extractLsb' 8 6)⟩,
  ⟨0x300000FF, 0x30000013, fun w => .remu (w.extractLsb' 31 1) (w.extractLsb' 30 1) (w.extractLsb' 21 7) (w.extractLsb' 14 7) (w.extractLsb' 8 6)⟩,
  ⟨0x3FE000FF, 0x00000015, fun w => .mov (w.extractLsb' 31 1) (w.extractLsb' 30 1) (w.extractLsb' 14 7) (w.extractLsb' 8 6)⟩,
  ⟨0x3FE000FF, 0x10000015, fun w => .zxb (w.extractLsb' 31 1) (w.extractLsb' 30 1) (w.extractLsb' 14 7) (w.extractLsb' 8 6)⟩,
  ⟨0x3FE000FF, 0x20000015, fun w => .sxb (w.extractLsb' 31 1) (w.extractLsb' 30 1) (w.extractLsb' 14 7) (w.extractLsb' 8 6)⟩,
  ⟨0x3FE000FF, 0x30000015, fun w => .sxh (w.extractLsb' 31 1) (w.extractLsb' 30 1) (w.extractLsb' 14 7) (w.extractLsb' 8 6)⟩,
  ⟨0x3FE000FF, 0x00000017, fun w => .zxh (w.extractLsb' 31 1) (w.extractLsb' 30 1) (w.extractLsb' 14 7) (w.extractLsb' 8 6)⟩,
  ⟨0x300000FF, 0x10000017, fun w => .pack (w.extractLsb' 31 1) (w.extractLsb' 30 1) (w.extractLsb' 21 7) (w.extractLsb' 14 7) (w.extractLsb' 8 6)⟩,
  ⟨0x3FE000FF, 0x20000017, fun w => .bsw (w.extractLsb' 31 1) (w.extractLsb' 30 1) (w.extractLsb' 14 7) (w.extractLsb' 8 6)⟩]

/-- The encodings of this family: mask, pattern, and the instruction with its fields (R28 to R46). -/
def rowsImmediate : List Row := [
  ⟨0x000000FF, 0x00000021, fun w => .addi (w.extractLsb' 31 1) (w.extractLsb' 30 1) (w.extractLsb' 21 9) (w.extractLsb' 14 7) (w.extractLsb' 8 6)⟩,
  ⟨0x000000FF, 0x00000023, fun w => .andi (w.extractLsb' 31 1) (w.extractLsb' 30 1) (w.extractLsb' 21 9) (w.extractLsb' 14 7) (w.extractLsb' 8 6)⟩,
  ⟨0x000000FF, 0x00000025, fun w => .ori (w.extractLsb' 31 1) (w.extractLsb' 30 1) (w.extractLsb' 21 9) (w.extractLsb' 14 7) (w.extractLsb' 8 6)⟩,
  ⟨0x000000FF, 0x00000027, fun w => .xori (w.extractLsb' 31 1) (w.extractLsb' 30 1) (w.extractLsb' 21 9) (w.extractLsb' 14 7) (w.extractLsb' 8 6)⟩,
  ⟨0x3C0000FF, 0x00000029, fun w => .shli (w.extractLsb' 31 1) (w.extractLsb' 30 1) (w.extractLsb' 21 5) (w.extractLsb' 14 7) (w.extractLsb' 8 6)⟩,
  ⟨0x3C0000FF, 0x0000002B, fun w => .shri (w.extractLsb' 31 1) (w.extractLsb' 30 1) (w.extractLsb' 21 5) (w.extractLsb' 14 7) (w.extractLsb' 8 6)⟩,
  ⟨0x3C0000FF, 0x0000002D, fun w => .sari (w.extractLsb' 31 1) (w.extractLsb' 30 1) (w.extractLsb' 21 5) (w.extractLsb' 14 7) (w.extractLsb' 8 6)⟩,
  ⟨0x000000FF, 0x0000002F, fun w => .cmpeqi (w.extractLsb' 31 1) (w.extractLsb' 30 1) (w.extractLsb' 21 9) (w.extractLsb' 14 7) (w.extractLsb' 8 6)⟩,
  ⟨0x000000FF, 0x00000031, fun w => .cmplti (w.extractLsb' 31 1) (w.extractLsb' 30 1) (w.extractLsb' 21 9) (w.extractLsb' 14 7) (w.extractLsb' 8 6)⟩,
  ⟨0x000000FF, 0x00000033, fun w => .cmpltui (w.extractLsb' 31 1) (w.extractLsb' 30 1) (w.extractLsb' 21 9) (w.extractLsb' 14 7) (w.extractLsb' 8 6)⟩,
  ⟨0x000000FF, 0x00000035, fun w => .muli (w.extractLsb' 31 1) (w.extractLsb' 30 1) (w.extractLsb' 21 9) (w.extractLsb' 14 7) (w.extractLsb' 8 6)⟩,
  ⟨0xC01000FF, 0x00000037, fun w => .ldp (w.extractLsb' 21 9) (w.extractLsb' 14 6) (w.extractLsb' 8 6)⟩,
  ⟨0x000000FF, 0x00000039, fun w => .movi (w.extractLsb' 31 1) (w.extractLsb' 30 1) (w.extractLsb' 14 16) (w.extractLsb' 8 6)⟩,
  ⟨0x000000FF, 0x0000003B, fun w => .movh (w.extractLsb' 31 1) (w.extractLsb' 30 1) (w.extractLsb' 14 16) (w.extractLsb' 8 6)⟩,
  ⟨0xC00000FF, 0x0000003D, fun w => .lit (w.extractLsb' 14 16) (w.extractLsb' 8 6)⟩]

/-- The encodings of this family: mask, pattern, and the instruction with its fields (R28 to R46). -/
def rowsExchange : List Row := [
  ⟨0x300000FF, 0x00000041, fun w => .shfl (w.extractLsb' 31 1) (w.extractLsb' 30 1) (w.extractLsb' 21 7) (w.extractLsb' 14 7) (w.extractLsb' 8 6)⟩,
  ⟨0x300000FF, 0x10000041, fun w => .shup (w.extractLsb' 31 1) (w.extractLsb' 30 1) (w.extractLsb' 21 7) (w.extractLsb' 14 7) (w.extractLsb' 8 6)⟩,
  ⟨0x300000FF, 0x20000041, fun w => .shdn (w.extractLsb' 31 1) (w.extractLsb' 30 1) (w.extractLsb' 21 7) (w.extractLsb' 14 7) (w.extractLsb' 8 6)⟩,
  ⟨0x300000FF, 0x30000041, fun w => .shxor (w.extractLsb' 31 1) (w.extractLsb' 30 1) (w.extractLsb' 21 7) (w.extractLsb' 14 7) (w.extractLsb' 8 6)⟩,
  ⟨0x3FE000FF, 0x00000043, fun w => .vany (w.extractLsb' 31 1) (w.extractLsb' 30 1) (w.extractLsb' 14 7) (w.extractLsb' 8 6)⟩,
  ⟨0x3FE000FF, 0x10000043, fun w => .vall (w.extractLsb' 31 1) (w.extractLsb' 30 1) (w.extractLsb' 14 7) (w.extractLsb' 8 6)⟩,
  ⟨0x3FE000FF, 0x20000043, fun w => .ballot (w.extractLsb' 31 1) (w.extractLsb' 30 1) (w.extractLsb' 14 7) (w.extractLsb' 8 6)⟩,
  ⟨0x3FE000FF, 0x30000043, fun w => .leader (w.extractLsb' 31 1) (w.extractLsb' 30 1) (w.extractLsb' 14 7) (w.extractLsb' 8 6)⟩,
  ⟨0x3FE000FF, 0x00000045, fun w => .redadd (w.extractLsb' 31 1) (w.extractLsb' 30 1) (w.extractLsb' 14 7) (w.extractLsb' 8 6)⟩,
  ⟨0x3FE000FF, 0x10000045, fun w => .redmin (w.extractLsb' 31 1) (w.extractLsb' 30 1) (w.extractLsb' 14 7) (w.extractLsb' 8 6)⟩,
  ⟨0x3FE000FF, 0x20000045, fun w => .redmax (w.extractLsb' 31 1) (w.extractLsb' 30 1) (w.extractLsb' 14 7) (w.extractLsb' 8 6)⟩,
  ⟨0x3FE000FF, 0x30000045, fun w => .redminu (w.extractLsb' 31 1) (w.extractLsb' 30 1) (w.extractLsb' 14 7) (w.extractLsb' 8 6)⟩,
  ⟨0x3FE000FF, 0x00000047, fun w => .scan (w.extractLsb' 31 1) (w.extractLsb' 30 1) (w.extractLsb' 14 7) (w.extractLsb' 8 6)⟩,
  ⟨0x3FE000FF, 0x10000047, fun w => .rank (w.extractLsb' 31 1) (w.extractLsb' 30 1) (w.extractLsb' 14 7) (w.extractLsb' 8 6)⟩,
  ⟨0x3FE000FF, 0x20000047, fun w => .matchLanes (w.extractLsb' 31 1) (w.extractLsb' 30 1) (w.extractLsb' 14 7) (w.extractLsb' 8 6)⟩]

/-- The encodings of this family: mask, pattern, and the instruction with its fields (R28 to R46). -/
def rowsFloat : List Row := [
  ⟨0x300000FF, 0x00000061, fun w => .fadd (w.extractLsb' 31 1) (w.extractLsb' 30 1) (w.extractLsb' 21 7) (w.extractLsb' 14 7) (w.extractLsb' 8 6)⟩,
  ⟨0x300000FF, 0x10000061, fun w => .fsub (w.extractLsb' 31 1) (w.extractLsb' 30 1) (w.extractLsb' 21 7) (w.extractLsb' 14 7) (w.extractLsb' 8 6)⟩,
  ⟨0x300000FF, 0x20000061, fun w => .fmul (w.extractLsb' 31 1) (w.extractLsb' 30 1) (w.extractLsb' 21 7) (w.extractLsb' 14 7) (w.extractLsb' 8 6)⟩,
  ⟨0x300000FF, 0x30000061, fun w => .fdiv (w.extractLsb' 31 1) (w.extractLsb' 30 1) (w.extractLsb' 21 7) (w.extractLsb' 14 7) (w.extractLsb' 8 6)⟩,
  ⟨0x300000FF, 0x00000063, fun w => .fma (w.extractLsb' 31 1) (w.extractLsb' 30 1) (w.extractLsb' 21 7) (w.extractLsb' 14 7) (w.extractLsb' 8 6)⟩,
  ⟨0x300000FF, 0x10000063, fun w => .fms (w.extractLsb' 31 1) (w.extractLsb' 30 1) (w.extractLsb' 21 7) (w.extractLsb' 14 7) (w.extractLsb' 8 6)⟩,
  ⟨0x300000FF, 0x20000063, fun w => .fnma (w.extractLsb' 31 1) (w.extractLsb' 30 1) (w.extractLsb' 21 7) (w.extractLsb' 14 7) (w.extractLsb' 8 6)⟩,
  ⟨0x300000FF, 0x30000063, fun w => .fnms (w.extractLsb' 31 1) (w.extractLsb' 30 1) (w.extractLsb' 21 7) (w.extractLsb' 14 7) (w.extractLsb' 8 6)⟩,
  ⟨0x300000FF, 0x00000065, fun w => .fmin (w.extractLsb' 31 1) (w.extractLsb' 30 1) (w.extractLsb' 21 7) (w.extractLsb' 14 7) (w.extractLsb' 8 6)⟩,
  ⟨0x300000FF, 0x10000065, fun w => .fmax (w.extractLsb' 31 1) (w.extractLsb' 30 1) (w.extractLsb' 21 7) (w.extractLsb' 14 7) (w.extractLsb' 8 6)⟩,
  ⟨0x300000FF, 0x20000065, fun w => .fminnum (w.extractLsb' 31 1) (w.extractLsb' 30 1) (w.extractLsb' 21 7) (w.extractLsb' 14 7) (w.extractLsb' 8 6)⟩,
  ⟨0x300000FF, 0x30000065, fun w => .fmaxnum (w.extractLsb' 31 1) (w.extractLsb' 30 1) (w.extractLsb' 21 7) (w.extractLsb' 14 7) (w.extractLsb' 8 6)⟩,
  ⟨0x300000FF, 0x00000067, fun w => .fcmpeq (w.extractLsb' 31 1) (w.extractLsb' 30 1) (w.extractLsb' 21 7) (w.extractLsb' 14 7) (w.extractLsb' 8 6)⟩,
  ⟨0x300000FF, 0x10000067, fun w => .fcmplt (w.extractLsb' 31 1) (w.extractLsb' 30 1) (w.extractLsb' 21 7) (w.extractLsb' 14 7) (w.extractLsb' 8 6)⟩,
  ⟨0x300000FF, 0x20000067, fun w => .fcmple (w.extractLsb' 31 1) (w.extractLsb' 30 1) (w.extractLsb' 21 7) (w.extractLsb' 14 7) (w.extractLsb' 8 6)⟩,
  ⟨0x300000FF, 0x30000067, fun w => .fcmpun (w.extractLsb' 31 1) (w.extractLsb' 30 1) (w.extractLsb' 21 7) (w.extractLsb' 14 7) (w.extractLsb' 8 6)⟩,
  ⟨0x3FE000FF, 0x00000069, fun w => .frcp (w.extractLsb' 31 1) (w.extractLsb' 30 1) (w.extractLsb' 14 7) (w.extractLsb' 8 6)⟩,
  ⟨0x3FE000FF, 0x10000069, fun w => .frsq (w.extractLsb' 31 1) (w.extractLsb' 30 1) (w.extractLsb' 14 7) (w.extractLsb' 8 6)⟩,
  ⟨0x3FE000FF, 0x20000069, fun w => .fsqrt (w.extractLsb' 31 1) (w.extractLsb' 30 1) (w.extractLsb' 14 7) (w.extractLsb' 8 6)⟩,
  ⟨0x3FE000FF, 0x30000069, fun w => .fclass (w.extractLsb' 31 1) (w.extractLsb' 30 1) (w.extractLsb' 14 7) (w.extractLsb' 8 6)⟩,
  ⟨0x3FE000FF, 0x0000006B, fun w => .fexp2 (w.extractLsb' 31 1) (w.extractLsb' 30 1) (w.extractLsb' 14 7) (w.extractLsb' 8 6)⟩,
  ⟨0x3FE000FF, 0x1000006B, fun w => .flog2 (w.extractLsb' 31 1) (w.extractLsb' 30 1) (w.extractLsb' 14 7) (w.extractLsb' 8 6)⟩,
  ⟨0x3FE000FF, 0x2000006B, fun w => .fsinpi (w.extractLsb' 31 1) (w.extractLsb' 30 1) (w.extractLsb' 14 7) (w.extractLsb' 8 6)⟩,
  ⟨0x3FE000FF, 0x3000006B, fun w => .fcospi (w.extractLsb' 31 1) (w.extractLsb' 30 1) (w.extractLsb' 14 7) (w.extractLsb' 8 6)⟩,
  ⟨0x0FE000FF, 0x0000006D, fun w => .frnd (w.extractLsb' 31 1) (w.extractLsb' 30 1) (w.extractLsb' 28 2) (w.extractLsb' 14 7) (w.extractLsb' 8 6)⟩,
  ⟨0x300000FF, 0x0000006F, fun w => .hadd2 (w.extractLsb' 31 1) (w.extractLsb' 30 1) (w.extractLsb' 21 7) (w.extractLsb' 14 7) (w.extractLsb' 8 6)⟩,
  ⟨0x300000FF, 0x1000006F, fun w => .hmul2 (w.extractLsb' 31 1) (w.extractLsb' 30 1) (w.extractLsb' 21 7) (w.extractLsb' 14 7) (w.extractLsb' 8 6)⟩,
  ⟨0x300000FF, 0x2000006F, fun w => .hfma2 (w.extractLsb' 31 1) (w.extractLsb' 30 1) (w.extractLsb' 21 7) (w.extractLsb' 14 7) (w.extractLsb' 8 6)⟩,
  ⟨0x300000FF, 0x3000006F, fun w => .bfma2 (w.extractLsb' 31 1) (w.extractLsb' 30 1) (w.extractLsb' 21 7) (w.extractLsb' 14 7) (w.extractLsb' 8 6)⟩,
  ⟨0x000000FF, 0x00000071, fun w => .cvt (w.extractLsb' 31 1) (w.extractLsb' 30 1) (w.extractLsb' 28 2) (w.extractLsb' 21 7) (w.extractLsb' 14 7) (w.extractLsb' 8 6)⟩,
  ⟨0x000000FF, 0x00000073, fun w => .cvtsr (w.extractLsb' 31 1) (w.extractLsb' 30 1) (w.extractLsb' 28 2) (w.extractLsb' 21 7) (w.extractLsb' 14 7) (w.extractLsb' 8 6)⟩,
  ⟨0x300000FF, 0x00000075, fun w => .dp4 (w.extractLsb' 31 1) (w.extractLsb' 30 1) (w.extractLsb' 21 7) (w.extractLsb' 14 7) (w.extractLsb' 8 6)⟩,
  ⟨0x300000FF, 0x10000075, fun w => .dp8 (w.extractLsb' 31 1) (w.extractLsb' 30 1) (w.extractLsb' 21 7) (w.extractLsb' 14 7) (w.extractLsb' 8 6)⟩,
  ⟨0x300000FF, 0x20000075, fun w => .dp2 (w.extractLsb' 31 1) (w.extractLsb' 30 1) (w.extractLsb' 21 7) (w.extractLsb' 14 7) (w.extractLsb' 8 6)⟩,
  ⟨0x300000FF, 0x30000075, fun w => .dp4u (w.extractLsb' 31 1) (w.extractLsb' 30 1) (w.extractLsb' 21 7) (w.extractLsb' 14 7) (w.extractLsb' 8 6)⟩,
  ⟨0x300000FF, 0x00000077, fun w => .scl (w.extractLsb' 31 1) (w.extractLsb' 30 1) (w.extractLsb' 21 7) (w.extractLsb' 14 7) (w.extractLsb' 8 6)⟩,
  ⟨0x300000FF, 0x10000077, fun w => .pk8 (w.extractLsb' 31 1) (w.extractLsb' 30 1) (w.extractLsb' 21 7) (w.extractLsb' 14 7) (w.extractLsb' 8 6)⟩,
  ⟨0x300000FF, 0x20000077, fun w => .upk (w.extractLsb' 31 1) (w.extractLsb' 30 1) (w.extractLsb' 21 7) (w.extractLsb' 14 7) (w.extractLsb' 8 6)⟩,
  ⟨0x3FE000FF, 0x30000077, fun w => .mxs (w.extractLsb' 31 1) (w.extractLsb' 30 1) (w.extractLsb' 14 7) (w.extractLsb' 8 6)⟩]

/-- The encodings of this family: mask, pattern, and the instruction with its fields (R28 to R46). -/
def rowsMemory : List Row := [
  ⟨0x000000FF, 0x00000081, fun w => .ldWl (w.extractLsb' 30 2) (w.extractLsb' 20 10) (w.extractLsb' 14 6) (w.extractLsb' 8 6)⟩,
  ⟨0x000000FF, 0x00000083, fun w => .stWl (w.extractLsb' 30 2) (w.extractLsb' 20 10) (w.extractLsb' 14 6) (w.extractLsb' 8 6)⟩,
  ⟨0x000000FF, 0x00000085, fun w => .ldSb (w.extractLsb' 30 2) (w.extractLsb' 20 10) (w.extractLsb' 14 6) (w.extractLsb' 8 6)⟩,
  ⟨0x000000FF, 0x00000087, fun w => .ldSh (w.extractLsb' 30 2) (w.extractLsb' 20 10) (w.extractLsb' 14 6) (w.extractLsb' 8 6)⟩,
  ⟨0x000000FF, 0x00000089, fun w => .ldSw (w.extractLsb' 30 2) (w.extractLsb' 20 10) (w.extractLsb' 14 6) (w.extractLsb' 8 6)⟩,
  ⟨0x000003FF, 0x0000008B, fun w => .ldSq (w.extractLsb' 30 2) (w.extractLsb' 20 10) (w.extractLsb' 14 6) (w.extractLsb' 10 4)⟩,
  ⟨0x000000FF, 0x0000008D, fun w => .stSb (w.extractLsb' 30 2) (w.extractLsb' 20 10) (w.extractLsb' 14 6) (w.extractLsb' 8 6)⟩,
  ⟨0x000000FF, 0x0000008F, fun w => .stSh (w.extractLsb' 30 2) (w.extractLsb' 20 10) (w.extractLsb' 14 6) (w.extractLsb' 8 6)⟩,
  ⟨0x000000FF, 0x00000091, fun w => .stSw (w.extractLsb' 30 2) (w.extractLsb' 20 10) (w.extractLsb' 14 6) (w.extractLsb' 8 6)⟩,
  ⟨0x000003FF, 0x00000093, fun w => .stSq (w.extractLsb' 30 2) (w.extractLsb' 20 10) (w.extractLsb' 14 6) (w.extractLsb' 10 4)⟩,
  ⟨0x000000FF, 0x00000095, fun w => .ldSa (w.extractLsb' 30 2) (w.extractLsb' 20 10) (w.extractLsb' 14 6) (w.extractLsb' 8 6)⟩,
  ⟨0x000000FF, 0x00000097, fun w => .stSr (w.extractLsb' 30 2) (w.extractLsb' 20 10) (w.extractLsb' 14 6) (w.extractLsb' 8 6)⟩,
  ⟨0x000000FF, 0x00000099, fun w => .ldT (w.extractLsb' 28 4) (w.extractLsb' 22 6) (w.extractLsb' 14 8) (w.extractLsb' 8 6)⟩,
  ⟨0x000000FF, 0x0000009B, fun w => .stT (w.extractLsb' 28 4) (w.extractLsb' 22 6) (w.extractLsb' 14 8) (w.extractLsb' 8 6)⟩,
  ⟨0x000003FF, 0x0000009D, fun w => .ldTq (w.extractLsb' 28 4) (w.extractLsb' 22 6) (w.extractLsb' 14 8) (w.extractLsb' 10 4)⟩,
  ⟨0x000003FF, 0x0000009F, fun w => .stTq (w.extractLsb' 28 4) (w.extractLsb' 22 6) (w.extractLsb' 14 8) (w.extractLsb' 10 4)⟩,
  ⟨0x000000FF, 0x000000A1, fun w => .atomS (w.extractLsb' 30 2) (w.extractLsb' 26 4) (w.extractLsb' 20 6) (w.extractLsb' 14 6) (w.extractLsb' 8 6)⟩,
  ⟨0x000000FF, 0x000000A3, fun w => .atomC (w.extractLsb' 30 2) (w.extractLsb' 26 4) (w.extractLsb' 20 6) (w.extractLsb' 14 6) (w.extractLsb' 8 6)⟩,
  ⟨0x000000FF, 0x000000A5, fun w => .ldCw (w.extractLsb' 30 2) (w.extractLsb' 20 10) (w.extractLsb' 14 6) (w.extractLsb' 8 6)⟩,
  ⟨0x000000FF, 0x000000A7, fun w => .stCw (w.extractLsb' 30 2) (w.extractLsb' 20 10) (w.extractLsb' 14 6) (w.extractLsb' 8 6)⟩,
  ⟨0x000003FF, 0x000000A9, fun w => .ldCq (w.extractLsb' 30 2) (w.extractLsb' 20 10) (w.extractLsb' 14 6) (w.extractLsb' 10 4)⟩,
  ⟨0x000003FF, 0x000000AB, fun w => .stCq (w.extractLsb' 30 2) (w.extractLsb' 20 10) (w.extractLsb' 14 6) (w.extractLsb' 10 4)⟩,
  ⟨0x000000FF, 0x000000AD, fun w => .ldCa (w.extractLsb' 30 2) (w.extractLsb' 20 10) (w.extractLsb' 14 6) (w.extractLsb' 8 6)⟩,
  ⟨0x000000FF, 0x000000AF, fun w => .stCr (w.extractLsb' 30 2) (w.extractLsb' 20 10) (w.extractLsb' 14 6) (w.extractLsb' 8 6)⟩]

/-- The encodings of this family: mask, pattern, and the instruction with its fields (R28 to R46). -/
def rowsSync : List Row := [
  ⟨0xF00000FF, 0x000000B1, fun w => .barC (w.extractLsb' 22 6) (w.extractLsb' 14 8) (w.extractLsb' 8 6)⟩,
  ⟨0xF00000FF, 0x000000B3, fun w => .barT (w.extractLsb' 22 6) (w.extractLsb' 14 8) (w.extractLsb' 8 6)⟩,
  ⟨0xF00000FF, 0x000000B5, fun w => .arvC (w.extractLsb' 21 7) (w.extractLsb' 14 7) (w.extractLsb' 8 6)⟩,
  ⟨0xF00000FF, 0x100000B5, fun w => .awtC (w.extractLsb' 21 7) (w.extractLsb' 14 7) (w.extractLsb' 8 6)⟩,
  ⟨0xF00000FF, 0x200000B5, fun w => .arvT (w.extractLsb' 21 7) (w.extractLsb' 14 7) (w.extractLsb' 8 6)⟩,
  ⟨0xF00000FF, 0x300000B5, fun w => .awtT (w.extractLsb' 21 7) (w.extractLsb' 14 7) (w.extractLsb' 8 6)⟩,
  ⟨0xFFE000FF, 0x000000B7, fun w => .fenceR (w.extractLsb' 18 3) (w.extractLsb' 16 2) (w.extractLsb' 8 8)⟩,
  ⟨0xFFE000FF, 0x000000B9, fun w => .fenceX (w.extractLsb' 18 3) (w.extractLsb' 16 2) (w.extractLsb' 12 4) (w.extractLsb' 8 4)⟩,
  ⟨0xF00000FF, 0x000000BB, fun w => .rngSet (w.extractLsb' 21 7) (w.extractLsb' 14 7) (w.extractLsb' 8 6)⟩,
  ⟨0xF81FC0FF, 0x100000BB, fun w => .rngSetH (w.extractLsb' 21 6) (w.extractLsb' 8 6)⟩,
  ⟨0xFFE000FF, 0x000000BD, fun w => .cueSet (w.extractLsb' 14 7) (w.extractLsb' 8 6)⟩,
  ⟨0xFFFFC0FF, 0x100000BD, fun w => .cueClr (w.extractLsb' 8 6)⟩,
  ⟨0xFFFE00FF, 0x200000BD, fun w => .cueRd (w.extractLsb' 14 3) (w.extractLsb' 8 6)⟩,
  ⟨0xF00FFFFF, 0x000000BF, fun w => .tlRel (w.extractLsb' 20 8)⟩,
  ⟨0xF00FFFFF, 0x100000BF, fun w => .tlWait (w.extractLsb' 20 8)⟩,
  ⟨0xF00FC0FF, 0x200000BF, fun w => .tlSt (w.extractLsb' 20 8) (w.extractLsb' 8 6)⟩,
  ⟨0xF80000FF, 0x300000BF, fun w => .recBind (w.extractLsb' 21 6) (w.extractLsb' 14 7) (w.extractLsb' 8 6)⟩]

/-- The encodings of this family: mask, pattern, and the instruction with its fields (R28 to R46). -/
def rowsControl : List Row := [
  ⟨0x000000FF, 0x000000C1, fun w => .bz (w.extractLsb' 14 18) (w.extractLsb' 8 6)⟩,
  ⟨0x000000FF, 0x000000C3, fun w => .bnz (w.extractLsb' 14 18) (w.extractLsb' 8 6)⟩,
  ⟨0x000000FF, 0x000000C5, fun w => .j (w.extractLsb' 8 24)⟩,
  ⟨0x000000FF, 0x000000C7, fun w => .call (w.extractLsb' 14 18) (w.extractLsb' 8 6)⟩,
  ⟨0xF0103FFF, 0x000000C9, fun w => .callr (w.extractLsb' 21 7) (w.extractLsb' 14 6)⟩,
  ⟨0xFFFFFFFF, 0x000000CB, fun _ => .ret⟩,
  ⟨0x00003FFF, 0x000000CD, fun w => .jpt (w.extractLsb' 14 18)⟩,
  ⟨0xFFFFFFFF, 0x000000CF, fun _ => .rcv⟩,
  ⟨0xFFF000FF, 0x000000D1, fun w => .rcvT (w.extractLsb' 14 6) (w.extractLsb' 8 6)⟩,
  ⟨0xFFFFFFFF, 0x000000D3, fun _ => .exit⟩,
  ⟨0xF0003FFF, 0x000000D5, fun w => .alloc (w.extractLsb' 14 14)⟩,
  ⟨0x000000FF, 0x000000D7, fun w => .brt (w.extractLsb' 14 18) (w.extractLsb' 8 6)⟩]

/-- The encodings of this family: mask, pattern, and the instruction with its fields (R28 to R46). -/
def rowsSystem : List Row := [
  ⟨0xF0003FFF, 0x000000F9, fun w => .trap (w.extractLsb' 14 14)⟩,
  ⟨0xFFFFFFFF, 0x100000F9, fun _ => .rtt⟩,
  ⟨0xF0003FFF, 0x200000F9, fun w => .brk (w.extractLsb' 14 14)⟩,
  ⟨0xF00000FF, 0x300000F9, fun w => .nop (w.extractLsb' 8 20)⟩,
  ⟨0xF0003FFF, 0x400000F9, fun w => .pool (w.extractLsb' 14 14)⟩,
  ⟨0xF00000FF, 0x500000F9, fun w => .mfs (w.extractLsb' 14 14) (w.extractLsb' 8 6)⟩,
  ⟨0xF00000FF, 0x600000F9, fun w => .mts (w.extractLsb' 14 14) (w.extractLsb' 8 6)⟩,
  ⟨0xFC003FFF, 0x700000F9, fun w => .fmt (w.extractLsb' 14 12)⟩,
  ⟨0xFC003FFF, 0x000000FB, fun w => .tmrSet (w.extractLsb' 20 6) (w.extractLsb' 14 6)⟩,
  ⟨0xFFF03FFF, 0x100000FB, fun w => .tmrClr (w.extractLsb' 14 6)⟩,
  ⟨0xFC0000FF, 0x200000FB, fun w => .wev (w.extractLsb' 20 6) (w.extractLsb' 14 6) (w.extractLsb' 8 6)⟩,
  ⟨0xFFF000FF, 0x300000FB, fun w => .wtm (w.extractLsb' 14 6) (w.extractLsb' 8 6)⟩,
  ⟨0xFC003FFF, 0x400000FB, fun w => .qkick (w.extractLsb' 20 6) (w.extractLsb' 14 6)⟩,
  ⟨0xFFFFC0FF, 0x500000FB, fun w => .evt (w.extractLsb' 8 6)⟩,
  ⟨0xFC0000FF, 0x000000FD, fun w => .msgSend (w.extractLsb' 20 6) (w.extractLsb' 14 6) (w.extractLsb' 8 6)⟩,
  ⟨0xFFF000FF, 0x100000FD, fun w => .msgRecv (w.extractLsb' 14 6) (w.extractLsb' 8 6)⟩,
  ⟨0xFFFFC0FF, 0x200000FD, fun w => .msgPeek (w.extractLsb' 8 6)⟩,
  ⟨0xFC0000FF, 0x300000FD, fun w => .msgHold (w.extractLsb' 20 6) (w.extractLsb' 14 6) (w.extractLsb' 8 6)⟩,
  ⟨0xFFFE00FF, 0x000000FF, fun w => .plset (w.extractLsb' 14 3) (w.extractLsb' 8 6)⟩,
  ⟨0xF00000FF, 0x100000FF, fun w => .rdstg (w.extractLsb' 14 14) (w.extractLsb' 8 6)⟩,
  ⟨0xF00000FF, 0xF00000FF, fun w => .undef (w.extractLsb' 8 20)⟩]

/-- The encodings of this family: mask, pattern, and the instruction with its fields (R28 to R46). -/
def rowsEngine : List Row := [
  ⟨0x000000FF, 0x000000E1, fun w => .flyIn (w.extractLsb' 31 1) (w.extractLsb' 25 6) (w.extractLsb' 19 6) (w.extractLsb' 11 8) (w.extractLsb' 8 3)⟩,
  ⟨0x000000FF, 0x000000E3, fun w => .flyOut (w.extractLsb' 31 1) (w.extractLsb' 25 6) (w.extractLsb' 19 6) (w.extractLsb' 11 8) (w.extractLsb' 8 3)⟩,
  ⟨0x000000FF, 0x000000E5, fun w => .flyGth (w.extractLsb' 31 1) (w.extractLsb' 25 6) (w.extractLsb' 19 6) (w.extractLsb' 11 8) (w.extractLsb' 8 3)⟩,
  ⟨0x000000FF, 0x000000E7, fun w => .flySct (w.extractLsb' 31 1) (w.extractLsb' 25 6) (w.extractLsb' 19 6) (w.extractLsb' 11 8) (w.extractLsb' 8 3)⟩,
  ⟨0x000000FF, 0x000000E9, fun w => .flyScl (w.extractLsb' 31 1) (w.extractLsb' 25 6) (w.extractLsb' 19 6) (w.extractLsb' 11 8) (w.extractLsb' 8 3)⟩,
  ⟨0x01FFF8FF, 0x000000EB, fun w => .flyCp (w.extractLsb' 31 1) (w.extractLsb' 25 6) (w.extractLsb' 8 3)⟩,
  ⟨0x0007F8FF, 0x000000ED, fun w => .flyAtm (w.extractLsb' 31 1) (w.extractLsb' 25 6) (w.extractLsb' 21 4) (w.extractLsb' 19 2) (w.extractLsb' 8 3)⟩,
  ⟨0x000000FF, 0x000000EF, fun w => .flyMc (w.extractLsb' 31 1) (w.extractLsb' 25 6) (w.extractLsb' 19 6) (w.extractLsb' 11 8) (w.extractLsb' 8 3)⟩,
  ⟨0x0007F8FF, 0x000000F7, fun w => .flyPf (w.extractLsb' 31 1) (w.extractLsb' 25 6) (w.extractLsb' 19 6) (w.extractLsb' 8 3)⟩,
  ⟨0x000000FF, 0x000000F1, fun w => .mxMma (w.extractLsb' 31 1) (w.extractLsb' 27 4) (w.extractLsb' 19 8) (w.extractLsb' 11 8) (w.extractLsb' 8 3)⟩,
  ⟨0x000000FF, 0x000000F3, fun w => .mxSpr (w.extractLsb' 31 1) (w.extractLsb' 27 4) (w.extractLsb' 19 8) (w.extractLsb' 11 8) (w.extractLsb' 8 3)⟩,
  ⟨0xFFF0C0FF, 0x000000F5, fun w => .mxZero (w.extractLsb' 16 4) (w.extractLsb' 8 6)⟩,
  ⟨0xF000FFFF, 0x100000F5, fun w => .mxPut (w.extractLsb' 20 8) (w.extractLsb' 16 4)⟩,
  ⟨0xF000FFFF, 0x200000F5, fun w => .mxGet (w.extractLsb' 20 8) (w.extractLsb' 16 4)⟩,
  ⟨0xFFFFC0FF, 0x300000F5, fun w => .mxSput (w.extractLsb' 8 6)⟩]

/-- Every 32-bit encoding. -/
def rows32 : List Row := rowsInteger ++ rowsImmediate ++ rowsExchange ++ rowsFloat ++ rowsMemory ++ rowsSync ++ rowsControl ++ rowsSystem ++ rowsEngine

/-- The 16-bit form (R29, R30): all 32,768 halfwords with bit 0 clear are instructions. -/
def decode16 (w : BitVec 16) : Instr :=
  match (w.extractLsb' 1 4).toNat with
  | 0 => .mov16 (w.extractLsb' 10 6) (w.extractLsb' 5 5)
  | 1 => .add16 (w.extractLsb' 10 6) (w.extractLsb' 5 5)
  | 2 => .sub16 (w.extractLsb' 10 6) (w.extractLsb' 5 5)
  | 3 => .and16 (w.extractLsb' 10 6) (w.extractLsb' 5 5)
  | 4 => .or16 (w.extractLsb' 10 6) (w.extractLsb' 5 5)
  | 5 => .xor16 (w.extractLsb' 10 6) (w.extractLsb' 5 5)
  | 6 => .shl16 (w.extractLsb' 10 6) (w.extractLsb' 5 5)
  | 7 => .shr16 (w.extractLsb' 10 6) (w.extractLsb' 5 5)
  | 8 => .sar16 (w.extractLsb' 10 6) (w.extractLsb' 5 5)
  | 9 => .mul16 (w.extractLsb' 10 6) (w.extractLsb' 5 5)
  | 10 => .min16 (w.extractLsb' 10 6) (w.extractLsb' 5 5)
  | 11 => .max16 (w.extractLsb' 10 6) (w.extractLsb' 5 5)
  | 12 => .fadd16 (w.extractLsb' 10 6) (w.extractLsb' 5 5)
  | 13 => .fsub16 (w.extractLsb' 10 6) (w.extractLsb' 5 5)
  | 14 => .fmul16 (w.extractLsb' 10 6) (w.extractLsb' 5 5)
  | _ => .addi16 (w.extractLsb' 10 6) (w.extractLsb' 5 5)

/-- The 32-bit forms (R31 to R46). -/
def decode32 (w : BitVec 32) : Instr :=
  match rows32.find? (fun r => w &&& r.mask == r.pattern) with
  | some r => r.make w
  | none => .reservedEncoding w

/-- Decoding of the two halfwords at an address: bit 0 of the first gives the length (R28). -/
def decodeHalves (lo hi : BitVec 16) : Instr :=
  if lo.getLsbD 0 then decode32 (hi ++ lo) else decode16 lo

/-- Bytes of an instruction: 2 when bit 0 is clear, else 4 (R28). -/
def lengthOf (lo : BitVec 16) : Nat := if lo.getLsbD 0 then 4 else 2

/-- Why a byte list gives no instruction. -/
inductive DecodeError where
  /-- The list ends before the instruction does. -/
  | truncated
  deriving DecidableEq, Repr

/-- The first instruction of a list of bytes in address order, and the bytes after it. -/
def decodeBytes : List (BitVec 8) → Except DecodeError (Instr × List (BitVec 8))
  | b0 :: b1 :: rest =>
    if (b1 ++ b0).getLsbD 0 then
      match rest with
      | b2 :: b3 :: rest' => .ok (decode32 ((b3 ++ b2) ++ (b1 ++ b0)), rest')
      | _ => .error .truncated
    else .ok (decode16 (b1 ++ b0), rest)
  | _ => .error .truncated

/-- The instruction whose bits are `w`, numbered as the opcode table numbers them. -/
def decodeTableWord (nbits w : Nat) : Option Instr :=
  let v := BitVec.ofNat 32 (w % 2 ^ nbits)
  match decodeBytes [v.extractLsb' 0 8, v.extractLsb' 8 8, v.extractLsb' 16 8, v.extractLsb' 24 8] with
  | .ok (i, _) => some i
  | .error _ => none

/-! ## Encoding -/

/-- The halfwords of an instruction; an event has none. -/
inductive Code where
  | none
  | short (w : BitVec 16)
  | long (w : BitVec 32)
  deriving DecidableEq, Repr

/-- The word of an instruction (R29 to R46, R67). -/
def encode : Instr → Code
  | .add c w b a d => .long (c ++ w ++ 0x0#2 ++ b ++ a ++ d ++ 0x1#8)
  | .sub c w b a d => .long (c ++ w ++ 0x1#2 ++ b ++ a ++ d ++ 0x1#8)
  | .adds c w b a d => .long (c ++ w ++ 0x2#2 ++ b ++ a ++ d ++ 0x1#8)
  | .subs c w b a d => .long (c ++ w ++ 0x3#2 ++ b ++ a ++ d ++ 0x1#8)
  | .mul c w b a d => .long (c ++ w ++ 0x0#2 ++ b ++ a ++ d ++ 0x3#8)
  | .mulhs c w b a d => .long (c ++ w ++ 0x1#2 ++ b ++ a ++ d ++ 0x3#8)
  | .mulhu c w b a d => .long (c ++ w ++ 0x2#2 ++ b ++ a ++ d ++ 0x3#8)
  | .mad c w b a d => .long (c ++ w ++ 0x3#2 ++ b ++ a ++ d ++ 0x3#8)
  | .min c w b a d => .long (c ++ w ++ 0x0#2 ++ b ++ a ++ d ++ 0x5#8)
  | .max c w b a d => .long (c ++ w ++ 0x1#2 ++ b ++ a ++ d ++ 0x5#8)
  | .minu c w b a d => .long (c ++ w ++ 0x2#2 ++ b ++ a ++ d ++ 0x5#8)
  | .maxu c w b a d => .long (c ++ w ++ 0x3#2 ++ b ++ a ++ d ++ 0x5#8)
  | .and c w b a d => .long (c ++ w ++ 0x0#2 ++ b ++ a ++ d ++ 0x7#8)
  | .or c w b a d => .long (c ++ w ++ 0x1#2 ++ b ++ a ++ d ++ 0x7#8)
  | .xor c w b a d => .long (c ++ w ++ 0x2#2 ++ b ++ a ++ d ++ 0x7#8)
  | .andn c w b a d => .long (c ++ w ++ 0x3#2 ++ b ++ a ++ d ++ 0x7#8)
  | .shl c w b a d => .long (c ++ w ++ 0x0#2 ++ b ++ a ++ d ++ 0x9#8)
  | .shr c w b a d => .long (c ++ w ++ 0x1#2 ++ b ++ a ++ d ++ 0x9#8)
  | .sar c w b a d => .long (c ++ w ++ 0x2#2 ++ b ++ a ++ d ++ 0x9#8)
  | .rot c w b a d => .long (c ++ w ++ 0x3#2 ++ b ++ a ++ d ++ 0x9#8)
  | .cmpeq c w b a d => .long (c ++ w ++ 0x0#2 ++ b ++ a ++ d ++ 0xB#8)
  | .cmpne c w b a d => .long (c ++ w ++ 0x1#2 ++ b ++ a ++ d ++ 0xB#8)
  | .cmplt c w b a d => .long (c ++ w ++ 0x2#2 ++ b ++ a ++ d ++ 0xB#8)
  | .cmple c w b a d => .long (c ++ w ++ 0x3#2 ++ b ++ a ++ d ++ 0xB#8)
  | .cmpltu c w b a d => .long (c ++ w ++ 0x0#2 ++ b ++ a ++ d ++ 0xD#8)
  | .cmpleu c w b a d => .long (c ++ w ++ 0x1#2 ++ b ++ a ++ d ++ 0xD#8)
  | .tst c w b a d => .long (c ++ w ++ 0x2#2 ++ b ++ a ++ d ++ 0xD#8)
  | .absd c w b a d => .long (c ++ w ++ 0x3#2 ++ b ++ a ++ d ++ 0xD#8)
  | .sel c w b a d => .long (c ++ w ++ 0x0#2 ++ b ++ a ++ d ++ 0xF#8)
  | .bfx c w b a d => .long (c ++ w ++ 0x1#2 ++ b ++ a ++ d ++ 0xF#8)
  | .bfi c w b a d => .long (c ++ w ++ 0x2#2 ++ b ++ a ++ d ++ 0xF#8)
  | .lea c w b a d => .long (c ++ w ++ 0x3#2 ++ b ++ a ++ d ++ 0xF#8)
  | .popc c w a d => .long (c ++ w ++ 0x0#9 ++ a ++ d ++ 0x11#8)
  | .clz c w a d => .long (c ++ w ++ 0x80#9 ++ a ++ d ++ 0x11#8)
  | .ctz c w a d => .long (c ++ w ++ 0x100#9 ++ a ++ d ++ 0x11#8)
  | .brev c w a d => .long (c ++ w ++ 0x180#9 ++ a ++ d ++ 0x11#8)
  | .divs c w b a d => .long (c ++ w ++ 0x0#2 ++ b ++ a ++ d ++ 0x13#8)
  | .divu c w b a d => .long (c ++ w ++ 0x1#2 ++ b ++ a ++ d ++ 0x13#8)
  | .rems c w b a d => .long (c ++ w ++ 0x2#2 ++ b ++ a ++ d ++ 0x13#8)
  | .remu c w b a d => .long (c ++ w ++ 0x3#2 ++ b ++ a ++ d ++ 0x13#8)
  | .mov c w a d => .long (c ++ w ++ 0x0#9 ++ a ++ d ++ 0x15#8)
  | .zxb c w a d => .long (c ++ w ++ 0x80#9 ++ a ++ d ++ 0x15#8)
  | .sxb c w a d => .long (c ++ w ++ 0x100#9 ++ a ++ d ++ 0x15#8)
  | .sxh c w a d => .long (c ++ w ++ 0x180#9 ++ a ++ d ++ 0x15#8)
  | .zxh c w a d => .long (c ++ w ++ 0x0#9 ++ a ++ d ++ 0x17#8)
  | .pack c w b a d => .long (c ++ w ++ 0x1#2 ++ b ++ a ++ d ++ 0x17#8)
  | .bsw c w a d => .long (c ++ w ++ 0x100#9 ++ a ++ d ++ 0x17#8)
  | .addi c w i a d => .long (c ++ w ++ i ++ a ++ d ++ 0x21#8)
  | .andi c w i a d => .long (c ++ w ++ i ++ a ++ d ++ 0x23#8)
  | .ori c w i a d => .long (c ++ w ++ i ++ a ++ d ++ 0x25#8)
  | .xori c w i a d => .long (c ++ w ++ i ++ a ++ d ++ 0x27#8)
  | .shli c w i a d => .long (c ++ w ++ 0x0#4 ++ i ++ a ++ d ++ 0x29#8)
  | .shri c w i a d => .long (c ++ w ++ 0x0#4 ++ i ++ a ++ d ++ 0x2B#8)
  | .sari c w i a d => .long (c ++ w ++ 0x0#4 ++ i ++ a ++ d ++ 0x2D#8)
  | .cmpeqi c w i a d => .long (c ++ w ++ i ++ a ++ d ++ 0x2F#8)
  | .cmplti c w i a d => .long (c ++ w ++ i ++ a ++ d ++ 0x31#8)
  | .cmpltui c w i a d => .long (c ++ w ++ i ++ a ++ d ++ 0x33#8)
  | .muli c w i a d => .long (c ++ w ++ i ++ a ++ d ++ 0x35#8)
  | .ldp i a d => .long (0x0#2 ++ i ++ 0x0#1 ++ a ++ d ++ 0x37#8)
  | .movi c w i d => .long (c ++ w ++ i ++ d ++ 0x39#8)
  | .movh c w i d => .long (c ++ w ++ i ++ d ++ 0x3B#8)
  | .lit i d => .long (0x0#2 ++ i ++ d ++ 0x3D#8)
  | .shfl c w b a d => .long (c ++ w ++ 0x0#2 ++ b ++ a ++ d ++ 0x41#8)
  | .shup c w b a d => .long (c ++ w ++ 0x1#2 ++ b ++ a ++ d ++ 0x41#8)
  | .shdn c w b a d => .long (c ++ w ++ 0x2#2 ++ b ++ a ++ d ++ 0x41#8)
  | .shxor c w b a d => .long (c ++ w ++ 0x3#2 ++ b ++ a ++ d ++ 0x41#8)
  | .vany c w a d => .long (c ++ w ++ 0x0#9 ++ a ++ d ++ 0x43#8)
  | .vall c w a d => .long (c ++ w ++ 0x80#9 ++ a ++ d ++ 0x43#8)
  | .ballot c w a d => .long (c ++ w ++ 0x100#9 ++ a ++ d ++ 0x43#8)
  | .leader c w a d => .long (c ++ w ++ 0x180#9 ++ a ++ d ++ 0x43#8)
  | .redadd c w a d => .long (c ++ w ++ 0x0#9 ++ a ++ d ++ 0x45#8)
  | .redmin c w a d => .long (c ++ w ++ 0x80#9 ++ a ++ d ++ 0x45#8)
  | .redmax c w a d => .long (c ++ w ++ 0x100#9 ++ a ++ d ++ 0x45#8)
  | .redminu c w a d => .long (c ++ w ++ 0x180#9 ++ a ++ d ++ 0x45#8)
  | .scan c w a d => .long (c ++ w ++ 0x0#9 ++ a ++ d ++ 0x47#8)
  | .rank c w a d => .long (c ++ w ++ 0x80#9 ++ a ++ d ++ 0x47#8)
  | .matchLanes c w a d => .long (c ++ w ++ 0x100#9 ++ a ++ d ++ 0x47#8)
  | .fadd c w b a d => .long (c ++ w ++ 0x0#2 ++ b ++ a ++ d ++ 0x61#8)
  | .fsub c w b a d => .long (c ++ w ++ 0x1#2 ++ b ++ a ++ d ++ 0x61#8)
  | .fmul c w b a d => .long (c ++ w ++ 0x2#2 ++ b ++ a ++ d ++ 0x61#8)
  | .fdiv c w b a d => .long (c ++ w ++ 0x3#2 ++ b ++ a ++ d ++ 0x61#8)
  | .fma c w b a d => .long (c ++ w ++ 0x0#2 ++ b ++ a ++ d ++ 0x63#8)
  | .fms c w b a d => .long (c ++ w ++ 0x1#2 ++ b ++ a ++ d ++ 0x63#8)
  | .fnma c w b a d => .long (c ++ w ++ 0x2#2 ++ b ++ a ++ d ++ 0x63#8)
  | .fnms c w b a d => .long (c ++ w ++ 0x3#2 ++ b ++ a ++ d ++ 0x63#8)
  | .fmin c w b a d => .long (c ++ w ++ 0x0#2 ++ b ++ a ++ d ++ 0x65#8)
  | .fmax c w b a d => .long (c ++ w ++ 0x1#2 ++ b ++ a ++ d ++ 0x65#8)
  | .fminnum c w b a d => .long (c ++ w ++ 0x2#2 ++ b ++ a ++ d ++ 0x65#8)
  | .fmaxnum c w b a d => .long (c ++ w ++ 0x3#2 ++ b ++ a ++ d ++ 0x65#8)
  | .fcmpeq c w b a d => .long (c ++ w ++ 0x0#2 ++ b ++ a ++ d ++ 0x67#8)
  | .fcmplt c w b a d => .long (c ++ w ++ 0x1#2 ++ b ++ a ++ d ++ 0x67#8)
  | .fcmple c w b a d => .long (c ++ w ++ 0x2#2 ++ b ++ a ++ d ++ 0x67#8)
  | .fcmpun c w b a d => .long (c ++ w ++ 0x3#2 ++ b ++ a ++ d ++ 0x67#8)
  | .frcp c w a d => .long (c ++ w ++ 0x0#9 ++ a ++ d ++ 0x69#8)
  | .frsq c w a d => .long (c ++ w ++ 0x80#9 ++ a ++ d ++ 0x69#8)
  | .fsqrt c w a d => .long (c ++ w ++ 0x100#9 ++ a ++ d ++ 0x69#8)
  | .fclass c w a d => .long (c ++ w ++ 0x180#9 ++ a ++ d ++ 0x69#8)
  | .fexp2 c w a d => .long (c ++ w ++ 0x0#9 ++ a ++ d ++ 0x6B#8)
  | .flog2 c w a d => .long (c ++ w ++ 0x80#9 ++ a ++ d ++ 0x6B#8)
  | .fsinpi c w a d => .long (c ++ w ++ 0x100#9 ++ a ++ d ++ 0x6B#8)
  | .fcospi c w a d => .long (c ++ w ++ 0x180#9 ++ a ++ d ++ 0x6B#8)
  | .frnd c w m a d => .long (c ++ w ++ m ++ 0x0#7 ++ a ++ d ++ 0x6D#8)
  | .hadd2 c w b a d => .long (c ++ w ++ 0x0#2 ++ b ++ a ++ d ++ 0x6F#8)
  | .hmul2 c w b a d => .long (c ++ w ++ 0x1#2 ++ b ++ a ++ d ++ 0x6F#8)
  | .hfma2 c w b a d => .long (c ++ w ++ 0x2#2 ++ b ++ a ++ d ++ 0x6F#8)
  | .bfma2 c w b a d => .long (c ++ w ++ 0x3#2 ++ b ++ a ++ d ++ 0x6F#8)
  | .cvt c w m k a d => .long (c ++ w ++ m ++ k ++ a ++ d ++ 0x71#8)
  | .cvtsr c w t b a d => .long (c ++ w ++ t ++ b ++ a ++ d ++ 0x73#8)
  | .dp4 c w b a d => .long (c ++ w ++ 0x0#2 ++ b ++ a ++ d ++ 0x75#8)
  | .dp8 c w b a d => .long (c ++ w ++ 0x1#2 ++ b ++ a ++ d ++ 0x75#8)
  | .dp2 c w b a d => .long (c ++ w ++ 0x2#2 ++ b ++ a ++ d ++ 0x75#8)
  | .dp4u c w b a d => .long (c ++ w ++ 0x3#2 ++ b ++ a ++ d ++ 0x75#8)
  | .scl c w b a d => .long (c ++ w ++ 0x0#2 ++ b ++ a ++ d ++ 0x77#8)
  | .pk8 c w b a d => .long (c ++ w ++ 0x1#2 ++ b ++ a ++ d ++ 0x77#8)
  | .upk c w b a d => .long (c ++ w ++ 0x2#2 ++ b ++ a ++ d ++ 0x77#8)
  | .mxs c w a d => .long (c ++ w ++ 0x180#9 ++ a ++ d ++ 0x77#8)
  | .mov16 s d => .short (s ++ d ++ 0x0#5)
  | .add16 s d => .short (s ++ d ++ 0x2#5)
  | .sub16 s d => .short (s ++ d ++ 0x4#5)
  | .and16 s d => .short (s ++ d ++ 0x6#5)
  | .or16 s d => .short (s ++ d ++ 0x8#5)
  | .xor16 s d => .short (s ++ d ++ 0xA#5)
  | .shl16 s d => .short (s ++ d ++ 0xC#5)
  | .shr16 s d => .short (s ++ d ++ 0xE#5)
  | .sar16 s d => .short (s ++ d ++ 0x10#5)
  | .mul16 s d => .short (s ++ d ++ 0x12#5)
  | .min16 s d => .short (s ++ d ++ 0x14#5)
  | .max16 s d => .short (s ++ d ++ 0x16#5)
  | .fadd16 s d => .short (s ++ d ++ 0x18#5)
  | .fsub16 s d => .short (s ++ d ++ 0x1A#5)
  | .fmul16 s d => .short (s ++ d ++ 0x1C#5)
  | .addi16 i d => .short (i ++ d ++ 0x1E#5)
  | .ldWl h o b d => .long (h ++ o ++ b ++ d ++ 0x81#8)
  | .stWl h o b s => .long (h ++ o ++ b ++ s ++ 0x83#8)
  | .ldSb h o b d => .long (h ++ o ++ b ++ d ++ 0x85#8)
  | .ldSh h o b d => .long (h ++ o ++ b ++ d ++ 0x87#8)
  | .ldSw h o b d => .long (h ++ o ++ b ++ d ++ 0x89#8)
  | .ldSq h o b d => .long (h ++ o ++ b ++ d ++ 0x8B#10)
  | .stSb h o b s => .long (h ++ o ++ b ++ s ++ 0x8D#8)
  | .stSh h o b s => .long (h ++ o ++ b ++ s ++ 0x8F#8)
  | .stSw h o b s => .long (h ++ o ++ b ++ s ++ 0x91#8)
  | .stSq h o b s => .long (h ++ o ++ b ++ s ++ 0x93#10)
  | .ldSa h o b d => .long (h ++ o ++ b ++ d ++ 0x95#8)
  | .stSr h o b s => .long (h ++ o ++ b ++ s ++ 0x97#8)
  | .ldT k i t d => .long (k ++ i ++ t ++ d ++ 0x99#8)
  | .stT k i t s => .long (k ++ i ++ t ++ s ++ 0x9B#8)
  | .ldTq k i t d => .long (k ++ i ++ t ++ d ++ 0x9D#10)
  | .stTq k i t s => .long (k ++ i ++ t ++ s ++ 0x9F#10)
  | .atomS q p r a d => .long (q ++ p ++ r ++ a ++ d ++ 0xA1#8)
  | .atomC q p r a d => .long (q ++ p ++ r ++ a ++ d ++ 0xA3#8)
  | .ldCw h o b d => .long (h ++ o ++ b ++ d ++ 0xA5#8)
  | .stCw h o b s => .long (h ++ o ++ b ++ s ++ 0xA7#8)
  | .ldCq h o b d => .long (h ++ o ++ b ++ d ++ 0xA9#10)
  | .stCq h o b s => .long (h ++ o ++ b ++ s ++ 0xAB#10)
  | .ldCa h o b d => .long (h ++ o ++ b ++ d ++ 0xAD#8)
  | .stCr h o b s => .long (h ++ o ++ b ++ s ++ 0xAF#8)
  | .barC i n d => .long (0x0#4 ++ i ++ n ++ d ++ 0xB1#8)
  | .barT i n d => .long (0x0#4 ++ i ++ n ++ d ++ 0xB3#8)
  | .arvC b a d => .long (0x0#4 ++ b ++ a ++ d ++ 0xB5#8)
  | .awtC b a d => .long (0x1#4 ++ b ++ a ++ d ++ 0xB5#8)
  | .arvT b a d => .long (0x2#4 ++ b ++ a ++ d ++ 0xB5#8)
  | .awtT b a d => .long (0x3#4 ++ b ++ a ++ d ++ 0xB5#8)
  | .fenceR s k m => .long (0x0#11 ++ s ++ k ++ m ++ 0xB7#8)
  | .fenceX s k t f => .long (0x0#11 ++ s ++ k ++ t ++ f ++ 0xB9#8)
  | .rngSet b a k => .long (0x0#4 ++ b ++ a ++ k ++ 0xBB#8)
  | .rngSetH h k => .long (0x2#5 ++ h ++ 0x0#7 ++ k ++ 0xBB#8)
  | .cueSet a k => .long (0x0#11 ++ a ++ k ++ 0xBD#8)
  | .cueClr k => .long (0x4000#18 ++ k ++ 0xBD#8)
  | .cueRd k d => .long (0x1000#15 ++ k ++ d ++ 0xBD#8)
  | .tlRel t => .long (0x0#4 ++ t ++ 0xBF#20)
  | .tlWait t => .long (0x1#4 ++ t ++ 0xBF#20)
  | .tlSt t d => .long (0x2#4 ++ t ++ 0x0#6 ++ d ++ 0xBF#8)
  | .recBind h a d => .long (0x6#5 ++ h ++ a ++ d ++ 0xBF#8)
  | .bz o c => .long (o ++ c ++ 0xC1#8)
  | .bnz o c => .long (o ++ c ++ 0xC3#8)
  | .j o => .long (o ++ 0xC5#8)
  | .call o n => .long (o ++ n ++ 0xC7#8)
  | .callr n a => .long (0x0#4 ++ n ++ 0x0#1 ++ a ++ 0xC9#14)
  | .ret => .long (0xCB#32)
  | .jpt o => .long (o ++ 0xCD#14)
  | .rcv => .long (0xCF#32)
  | .rcvT a d => .long (0x0#12 ++ a ++ d ++ 0xD1#8)
  | .exit => .long (0xD3#32)
  | .alloc i => .long (0x0#4 ++ i ++ 0xD5#14)
  | .brt o c => .long (o ++ c ++ 0xD7#8)
  | .trap i => .long (0x0#4 ++ i ++ 0xF9#14)
  | .rtt => .long (0x100000F9#32)
  | .brk i => .long (0x2#4 ++ i ++ 0xF9#14)
  | .nop x => .long (0x3#4 ++ x ++ 0xF9#8)
  | .pool l => .long (0x4#4 ++ l ++ 0xF9#14)
  | .mfs r d => .long (0x5#4 ++ r ++ d ++ 0xF9#8)
  | .mts r s => .long (0x6#4 ++ r ++ s ++ 0xF9#8)
  | .fmt i => .long (0x1C#6 ++ i ++ 0xF9#14)
  | .tmrSet b a => .long (0x0#6 ++ b ++ a ++ 0xFB#14)
  | .tmrClr a => .long (0x100#12 ++ a ++ 0xFB#14)
  | .wev b a d => .long (0x8#6 ++ b ++ a ++ d ++ 0xFB#8)
  | .wtm a d => .long (0x300#12 ++ a ++ d ++ 0xFB#8)
  | .qkick b a => .long (0x10#6 ++ b ++ a ++ 0xFB#14)
  | .evt d => .long (0x14000#18 ++ d ++ 0xFB#8)
  | .msgSend b a d => .long (0x0#6 ++ b ++ a ++ d ++ 0xFD#8)
  | .msgRecv a d => .long (0x100#12 ++ a ++ d ++ 0xFD#8)
  | .msgPeek d => .long (0x8000#18 ++ d ++ 0xFD#8)
  | .msgHold b a d => .long (0xC#6 ++ b ++ a ++ d ++ 0xFD#8)
  | .plset c d => .long (0x0#15 ++ c ++ d ++ 0xFF#8)
  | .rdstg i d => .long (0x1#4 ++ i ++ d ++ 0xFF#8)
  | .undef x => .long (0xF#4 ++ x ++ 0xFF#8)
  | .flyIn e b h t k => .long (e ++ b ++ h ++ t ++ k ++ 0xE1#8)
  | .flyOut e b h t k => .long (e ++ b ++ h ++ t ++ k ++ 0xE3#8)
  | .flyGth e b h t k => .long (e ++ b ++ h ++ t ++ k ++ 0xE5#8)
  | .flySct e b h t k => .long (e ++ b ++ h ++ t ++ k ++ 0xE7#8)
  | .flyScl e b h t k => .long (e ++ b ++ h ++ t ++ k ++ 0xE9#8)
  | .flyCp e b k => .long (e ++ b ++ 0x0#14 ++ k ++ 0xEB#8)
  | .flyAtm e b p q k => .long (e ++ b ++ p ++ q ++ 0x0#8 ++ k ++ 0xED#8)
  | .flyMc e b h t k => .long (e ++ b ++ h ++ t ++ k ++ 0xEF#8)
  | .flyPf e b h k => .long (e ++ b ++ h ++ 0x0#8 ++ k ++ 0xF7#8)
  | .mxMma s r b a k => .long (s ++ r ++ b ++ a ++ k ++ 0xF1#8)
  | .mxSpr s r b a k => .long (s ++ r ++ b ++ a ++ k ++ 0xF3#8)
  | .mxZero r s => .long (0x0#12 ++ r ++ 0x0#2 ++ s ++ 0xF5#8)
  | .mxPut t r => .long (0x1#4 ++ t ++ r ++ 0xF5#16)
  | .mxGet t r => .long (0x2#4 ++ t ++ r ++ 0xF5#16)
  | .mxSput s => .long (0xC000#18 ++ s ++ 0xF5#8)
  | .reservedEncoding w => .long w
  | .splitEntryRefill => .none
  | .rcvTTimeout => .none
  | .splitReschedule => .none
  | .laneAccessComplete => .none
  | .pumpServeRequest => .none
  | .pumpRowTransferDone => .none
  | .bandWindow => .none
  | .bandRaise => .none
  | .currentWindowBoundary => .none
  | .stallCycle => .none
  | .bankDrowsy => .none
  | .bankWake => .none
  | .tileDrainEnd => .none
  | .queueHeadDecide => .none
  | .flyCommandHandover => .none
  | .flyLineComplete => .none
  | .flyCommandComplete => .none
  | .asyncTrapTaken => .none
  | .matrixOpStart => .none
  | .matrixKStep => .none
  | .matrixOpComplete => .none
  | .pageWalkComplete => .none
  | .pageRequestWrite => .none
  | .companyFaultRestore => .none
  | .prqReply => .none
  | .prqRdWrite => .none
  | .prqBaseWrite => .none
  | .xlinvFunction => .none
  | .xlinvPage => .none
  | .xlinvContext => .none
  | .xlinvStage2Page => .none
  | .xlinvInvalidKind => .none
  | .xlinvComplete => .none
  | .ctxCreate => .none
  | .ctxStart => .none
  | .ctxDestroy => .none
  | .ctxDestroyComplete => .none
  | .ctxPolicyWrite => .none
  | .ctxPcountWrite => .none
  | .ctxEvctlWrite => .none
  | .ctxEvrdWrite => .none
  | .ctxWdogWrite => .none
  | .queueEnable => .none
  | .queueDisable => .none
  | .registerWrite => .none
  | .kick => .none
  | .qrestartReread => .none
  | .qrestartSkip => .none
  | .prompterReread => .none
  | .launch => .none
  | .resume => .none
  | .write => .none
  | .signal => .none
  | .writeSignal => .none
  | .wait => .none
  | .waitReevaluate => .none
  | .fence => .none
  | .grant => .none
  | .cont => .none
  | .troupePlace => .none
  | .admissionOrderHold => .none
  | .companyComplete => .none
  | .runComplete => .none
  | .eventRecordWrite => .none
  | .preemptionRequest => .none
  | .contextRestore => .none
  | .sliceExpiry => .none
  | .watchdogExpiry => .none
  | .timerExpiry => .none
  | .wevDeadline => .none
  | .wtmDeadline => .none
  | .stageTimeCorrection => .none
  | .messageArrival => .none
  | .outsideEventVisible => .none
  | .callBoardActionPoint => .none
  | .linkRequestArrival => .none
  | .linkResponseArrival => .none
  | .linkResponseTimeout => .none
  | .memoEntryExpiry => .none
  | .linkPortFail => .none
  | .linkFlitReplay => .none
  | .linkXoff => .none
  | .linkXon => .none
  | .multicastWriteArrival => .none
  | .aggregateAckArrival => .none
  | .vfPointChange => .none
  | .vfChangeComplete => .none
  | .clusterGate => .none
  | .clusterWakeRequest => .none
  | .wakeRampEnd => .none
  | .clusterWakeComplete => .none
  | .thermalStep => .none
  | .thermalTrip105 => .none
  | .thermalTrip115 => .none
  | .coldReset => .none
  | .pcieHotReset => .none
  | .functionLevelReset => .none
  | .pluginBudgetExpiry => .none
  | .spdmRequest => .none
  | .keySlotLoad => .none
  | .keySlotRetire => .none
  | .pldmRequest => .none
  | .curtainAssert => .none
  | .curtainRelease => .none
  | .debugTokenAccept => .none
  | .catwalkRead => .none
  | .debugStep => .none
  | .eccUncorrectable => .none
  | .routerFail => .none
  | .hubFail => .none
  | .cisternSizeChange => .none
  | .partitionAssign => .none
  | .grantCacheEviction => .none
  | .hostMemoryAccess => .none
  | .linkTrainingComplete => .none
  | .linkLaneLoss => .none
  | .linkLockLoss => .none
  | .debugHalt => .none
  | .debugResume => .none
  | .contextMigration => .none
  | .checkpoint => .none
  | .thermalTripClear => .none
  | .virtualFunctionEnable => .none
  | .multicastGroupEntryWrite => .none
  | .pluginImageLoad => .none

/-- The bytes of an instruction in address order: the low halfword first, each little-endian (R28). -/
def Code.bytes : Code → List (BitVec 8)
  | .none => []
  | .short w => [w.extractLsb' 0 8, w.extractLsb' 8 8]
  | .long w => [w.extractLsb' 0 8, w.extractLsb' 8 8, w.extractLsb' 16 8, w.extractLsb' 24 8]

/-- The instruction word as a trap reports it (R50): a 16-bit instruction in bits 15:0. -/
def Code.word : Code → BitVec 32
  | .none => 0
  | .short w => w.setWidth 32
  | .long w => w

/-- Bytes the instruction takes. -/
def Code.length : Code → Nat
  | .none => 0
  | .short _ => 2
  | .long _ => 4

/-! ## Legal fields (R48) -/

/-- A source selector (R32): kind 1 has bits 5:2 zero. -/
def selLegal (s : BitVec 7) : Bool := !s.getLsbD 6 || s.extractLsb' 2 4 == 0

/-- Whether a selector names a latch (R32). -/
def selLatch (s : BitVec 7) : Bool := s.getLsbD 6

/-- The numbers of the special registers (R25). -/
def sregKnown (r : BitVec 14) : Bool :=
  [0x000, 0x001, 0x002, 0x003, 0x004, 0x008, 0x009, 0x00A, 0x00B, 0x010, 0x011, 0x012, 0x013, 0x018, 0x019,
   0x01A, 0x01B, 0x01C, 0x01D, 0x020, 0x021, 0x022, 0x028, 0x030, 0x031].contains r.toNat

/-- The special registers that `mts` may write (R25, R92). -/
def sregWritable (r : BitVec 14) : Bool := [0x008, 0x009, 0x00B, 0x012, 0x020, 0x021, 0x022].contains r.toNat

/-- An atomic operation code and its operand field (R37). -/
def aopLegal (p : BitVec 4) (r : BitVec 6) : Bool :=
  decide (p.toNat ≤ 12) && (decide (p.toNat < 11) || r == 0)

/-- Whether every field of the instruction holds a value its form allows (R48). An event has no fields to judge. -/
def fieldsLegal : Instr → Bool
  | .add _ _ b a _ => selLegal a && selLegal b
  | .sub _ _ b a _ => selLegal a && selLegal b
  | .adds _ _ b a _ => selLegal a && selLegal b
  | .subs _ _ b a _ => selLegal a && selLegal b
  | .mul _ _ b a _ => selLegal a && selLegal b
  | .mulhs _ _ b a _ => selLegal a && selLegal b
  | .mulhu _ _ b a _ => selLegal a && selLegal b
  | .mad _ _ b a _ => selLegal a && selLegal b
  | .min _ _ b a _ => selLegal a && selLegal b
  | .max _ _ b a _ => selLegal a && selLegal b
  | .minu _ _ b a _ => selLegal a && selLegal b
  | .maxu _ _ b a _ => selLegal a && selLegal b
  | .and _ _ b a _ => selLegal a && selLegal b
  | .or _ _ b a _ => selLegal a && selLegal b
  | .xor _ _ b a _ => selLegal a && selLegal b
  | .andn _ _ b a _ => selLegal a && selLegal b
  | .shl _ _ b a _ => selLegal a && selLegal b
  | .shr _ _ b a _ => selLegal a && selLegal b
  | .sar _ _ b a _ => selLegal a && selLegal b
  | .rot _ _ b a _ => selLegal a && selLegal b
  | .cmpeq _ _ b a _ => selLegal a && selLegal b
  | .cmpne _ _ b a _ => selLegal a && selLegal b
  | .cmplt _ _ b a _ => selLegal a && selLegal b
  | .cmple _ _ b a _ => selLegal a && selLegal b
  | .cmpltu _ _ b a _ => selLegal a && selLegal b
  | .cmpleu _ _ b a _ => selLegal a && selLegal b
  | .tst _ _ b a _ => selLegal a && selLegal b
  | .absd _ _ b a _ => selLegal a && selLegal b
  | .sel _ _ b a _ => selLegal a && selLegal b
  | .bfx _ _ b a _ => selLegal a && selLegal b
  | .bfi _ _ b a _ => selLegal a && selLegal b
  | .lea _ _ b a _ => selLegal a && selLegal b
  | .popc _ _ a _ => selLegal a
  | .clz _ _ a _ => selLegal a
  | .ctz _ _ a _ => selLegal a
  | .brev _ _ a _ => selLegal a
  | .divs _ _ b a _ => selLegal a && selLegal b
  | .divu _ _ b a _ => selLegal a && selLegal b
  | .rems _ _ b a _ => selLegal a && selLegal b
  | .remu _ _ b a _ => selLegal a && selLegal b
  | .mov _ _ a _ => selLegal a
  | .zxb _ _ a _ => selLegal a
  | .sxb _ _ a _ => selLegal a
  | .sxh _ _ a _ => selLegal a
  | .zxh _ _ a _ => selLegal a
  | .pack _ _ b a _ => selLegal a && selLegal b
  | .bsw _ _ a _ => selLegal a
  | .addi _ _ _ a _ => selLegal a
  | .andi _ _ _ a _ => selLegal a
  | .ori _ _ _ a _ => selLegal a
  | .xori _ _ _ a _ => selLegal a
  | .shli _ _ _ a _ => selLegal a
  | .shri _ _ _ a _ => selLegal a
  | .sari _ _ _ a _ => selLegal a
  | .cmpeqi _ _ _ a _ => selLegal a
  | .cmplti _ _ _ a _ => selLegal a
  | .cmpltui _ _ _ a _ => selLegal a
  | .muli _ _ _ a _ => selLegal a
  | .ldp _ _ _ => true
  | .movi _ _ _ _ => true
  | .movh _ _ _ _ => true
  | .lit _ _ => true
  | .shfl _ _ b a _ => selLegal a && selLegal b
  | .shup _ _ b a _ => selLegal a && selLegal b
  | .shdn _ _ b a _ => selLegal a && selLegal b
  | .shxor _ _ b a _ => selLegal a && selLegal b
  | .vany _ _ a _ => selLegal a
  | .vall _ _ a _ => selLegal a
  | .ballot _ _ a _ => selLegal a
  | .leader _ _ a _ => selLegal a
  | .redadd _ _ a _ => selLegal a
  | .redmin _ _ a _ => selLegal a
  | .redmax _ _ a _ => selLegal a
  | .redminu _ _ a _ => selLegal a
  | .scan _ _ a _ => selLegal a
  | .rank _ _ a _ => selLegal a
  | .matchLanes _ _ a _ => selLegal a
  | .fadd _ _ b a _ => selLegal a && selLegal b
  | .fsub _ _ b a _ => selLegal a && selLegal b
  | .fmul _ _ b a _ => selLegal a && selLegal b
  | .fdiv _ _ b a _ => selLegal a && selLegal b
  | .fma _ _ b a _ => selLegal a && selLegal b
  | .fms _ _ b a _ => selLegal a && selLegal b
  | .fnma _ _ b a _ => selLegal a && selLegal b
  | .fnms _ _ b a _ => selLegal a && selLegal b
  | .fmin _ _ b a _ => selLegal a && selLegal b
  | .fmax _ _ b a _ => selLegal a && selLegal b
  | .fminnum _ _ b a _ => selLegal a && selLegal b
  | .fmaxnum _ _ b a _ => selLegal a && selLegal b
  | .fcmpeq _ _ b a _ => selLegal a && selLegal b
  | .fcmplt _ _ b a _ => selLegal a && selLegal b
  | .fcmple _ _ b a _ => selLegal a && selLegal b
  | .fcmpun _ _ b a _ => selLegal a && selLegal b
  | .frcp _ _ a _ => selLegal a
  | .frsq _ _ a _ => selLegal a
  | .fsqrt _ _ a _ => selLegal a
  | .fclass _ _ a _ => selLegal a
  | .fexp2 _ _ a _ => selLegal a
  | .flog2 _ _ a _ => selLegal a
  | .fsinpi _ _ a _ => selLegal a
  | .fcospi _ _ a _ => selLegal a
  | .frnd _ _ _ a _ => selLegal a
  | .hadd2 _ _ b a _ => selLegal a && selLegal b
  | .hmul2 _ _ b a _ => selLegal a && selLegal b
  | .hfma2 _ _ b a _ => selLegal a && selLegal b
  | .bfma2 _ _ b a _ => selLegal a && selLegal b
  | .cvt _ _ _ k a _ => selLegal a && decide ((k.extractLsb' 0 4).toNat < 14)
  | .cvtsr _ _ _ b a _ => selLegal a && selLegal b
  | .dp4 _ _ b a _ => selLegal a && selLegal b
  | .dp8 _ _ b a _ => selLegal a && selLegal b
  | .dp2 _ _ b a _ => selLegal a && selLegal b
  | .dp4u _ _ b a _ => selLegal a && selLegal b
  | .scl _ _ b a _ => selLegal a && selLegal b
  | .pk8 _ _ b a _ => selLegal a && selLegal b
  | .upk _ _ b a _ => selLegal a && selLegal b
  | .mxs _ _ a _ => selLegal a
  | .mov16 _ _ => true
  | .add16 _ _ => true
  | .sub16 _ _ => true
  | .and16 _ _ => true
  | .or16 _ _ => true
  | .xor16 _ _ => true
  | .shl16 _ _ => true
  | .shr16 _ _ => true
  | .sar16 _ _ => true
  | .mul16 _ _ => true
  | .min16 _ _ => true
  | .max16 _ _ => true
  | .fadd16 _ _ => true
  | .fsub16 _ _ => true
  | .fmul16 _ _ => true
  | .addi16 _ _ => true
  | .ldWl _ _ _ _ => true
  | .stWl _ _ _ _ => true
  | .ldSb _ _ _ _ => true
  | .ldSh _ _ _ _ => true
  | .ldSw _ _ _ _ => true
  | .ldSq _ _ _ _ => true
  | .stSb _ _ _ _ => true
  | .stSh _ _ _ _ => true
  | .stSw _ _ _ _ => true
  | .stSq _ _ _ _ => true
  | .ldSa _ _ _ _ => true
  | .stSr _ _ _ _ => true
  | .ldT _ _ _ _ => true
  | .stT _ _ _ _ => true
  | .ldTq _ _ _ _ => true
  | .stTq _ _ _ _ => true
  | .atomS _ p r _ _ => aopLegal p r
  | .atomC _ p r _ _ => aopLegal p r
  | .ldCw _ _ _ _ => true
  | .stCw _ _ _ _ => true
  | .ldCq _ _ _ _ => true
  | .stCq _ _ _ _ => true
  | .ldCa _ _ _ _ => true
  | .stCr _ _ _ _ => true
  | .barC i n _ => decide (i.toNat < 16) && decide (n.toNat ≤ 32)
  | .barT i n _ => decide (i.toNat < 4) && decide (n.toNat ≤ 8)
  | .arvC b a _ => selLegal a && selLegal b
  | .awtC b a _ => selLegal a && selLegal b
  | .arvT b a _ => selLegal a && selLegal b
  | .awtT b a _ => selLegal a && selLegal b
  | .fenceR s k m => decide (s.toNat ≤ 5) && k != 0 && m != 0
  | .fenceX s k t f => decide (s.toNat ≤ 5) && k != 0 && t != 0 && f != 0
  | .rngSet b a k => selLegal a && selLegal b && a != 0x3F && decide (k.toNat < 8)
  | .rngSetH _ k => decide (k.toNat < 8)
  | .cueSet a k => selLegal a && k != 0 && decide (k.toNat < 8)
  | .cueClr k => k != 0 && decide (k.toNat < 8)
  | .cueRd _ _ => true
  | .tlRel _ => true
  | .tlWait _ => true
  | .tlSt _ _ => true
  | .recBind _ a _ => selLegal a
  | .bz _ _ => true
  | .bnz _ _ => true
  | .j _ => true
  | .call _ n => decide (n.toNat ≤ 48)
  | .callr n _ => decide (n.toNat ≤ 48)
  | .ret => true
  | .jpt _ => true
  | .rcv => true
  | .rcvT _ _ => true
  | .exit => true
  | .alloc i => decide (i.toNat ≤ 48)
  | .brt _ _ => true
  | .trap _ => true
  | .rtt => true
  | .brk _ => true
  | .nop _ => true
  | .pool _ => true
  | .mfs r _ => sregKnown r
  | .mts r _ => sregWritable r
  | .fmt _ => true
  | .tmrSet _ _ => true
  | .tmrClr _ => true
  | .wev _ _ _ => true
  | .wtm a _ => a != 63
  | .qkick _ a => a != 63
  | .evt _ => true
  | .msgSend b a _ => decide (a.toNat < 62) && b != 63
  | .msgRecv _ _ => true
  | .msgPeek _ => true
  | .msgHold _ a _ => a != 63
  | .plset c _ => decide (c.toNat < 6)
  | .rdstg i _ => decide (i.toNat < 2)
  | .undef _ => false
  | .reservedEncoding _ => false
  | .flyIn _ _ _ _ _ => true
  | .flyOut _ _ _ _ _ => true
  | .flyGth _ _ _ _ _ => true
  | .flySct _ _ _ _ _ => true
  | .flyScl _ _ _ _ _ => true
  | .flyCp _ _ _ => true
  | .flyAtm _ _ p _ _ => decide (p.toNat ≤ 12)
  | .flyMc _ _ _ _ _ => true
  | .flyPf _ _ _ _ => true
  | .mxMma _ _ _ _ _ => true
  | .mxSpr _ _ _ _ _ => true
  | .mxZero _ _ => true
  | .mxPut _ _ => true
  | .mxGet _ _ => true
  | .mxSput s => s != 63
  | .splitEntryRefill => true
  | .rcvTTimeout => true
  | .splitReschedule => true
  | .laneAccessComplete => true
  | .pumpServeRequest => true
  | .pumpRowTransferDone => true
  | .bandWindow => true
  | .bandRaise => true
  | .currentWindowBoundary => true
  | .stallCycle => true
  | .bankDrowsy => true
  | .bankWake => true
  | .tileDrainEnd => true
  | .queueHeadDecide => true
  | .flyCommandHandover => true
  | .flyLineComplete => true
  | .flyCommandComplete => true
  | .asyncTrapTaken => true
  | .matrixOpStart => true
  | .matrixKStep => true
  | .matrixOpComplete => true
  | .pageWalkComplete => true
  | .pageRequestWrite => true
  | .companyFaultRestore => true
  | .prqReply => true
  | .prqRdWrite => true
  | .prqBaseWrite => true
  | .xlinvFunction => true
  | .xlinvPage => true
  | .xlinvContext => true
  | .xlinvStage2Page => true
  | .xlinvInvalidKind => true
  | .xlinvComplete => true
  | .ctxCreate => true
  | .ctxStart => true
  | .ctxDestroy => true
  | .ctxDestroyComplete => true
  | .ctxPolicyWrite => true
  | .ctxPcountWrite => true
  | .ctxEvctlWrite => true
  | .ctxEvrdWrite => true
  | .ctxWdogWrite => true
  | .queueEnable => true
  | .queueDisable => true
  | .registerWrite => true
  | .kick => true
  | .qrestartReread => true
  | .qrestartSkip => true
  | .prompterReread => true
  | .launch => true
  | .resume => true
  | .write => true
  | .signal => true
  | .writeSignal => true
  | .wait => true
  | .waitReevaluate => true
  | .fence => true
  | .grant => true
  | .cont => true
  | .troupePlace => true
  | .admissionOrderHold => true
  | .companyComplete => true
  | .runComplete => true
  | .eventRecordWrite => true
  | .preemptionRequest => true
  | .contextRestore => true
  | .sliceExpiry => true
  | .watchdogExpiry => true
  | .timerExpiry => true
  | .wevDeadline => true
  | .wtmDeadline => true
  | .stageTimeCorrection => true
  | .messageArrival => true
  | .outsideEventVisible => true
  | .callBoardActionPoint => true
  | .linkRequestArrival => true
  | .linkResponseArrival => true
  | .linkResponseTimeout => true
  | .memoEntryExpiry => true
  | .linkPortFail => true
  | .linkFlitReplay => true
  | .linkXoff => true
  | .linkXon => true
  | .multicastWriteArrival => true
  | .aggregateAckArrival => true
  | .vfPointChange => true
  | .vfChangeComplete => true
  | .clusterGate => true
  | .clusterWakeRequest => true
  | .wakeRampEnd => true
  | .clusterWakeComplete => true
  | .thermalStep => true
  | .thermalTrip105 => true
  | .thermalTrip115 => true
  | .coldReset => true
  | .pcieHotReset => true
  | .functionLevelReset => true
  | .pluginBudgetExpiry => true
  | .spdmRequest => true
  | .keySlotLoad => true
  | .keySlotRetire => true
  | .pldmRequest => true
  | .curtainAssert => true
  | .curtainRelease => true
  | .debugTokenAccept => true
  | .catwalkRead => true
  | .debugStep => true
  | .eccUncorrectable => true
  | .routerFail => true
  | .hubFail => true
  | .cisternSizeChange => true
  | .partitionAssign => true
  | .grantCacheEviction => true
  | .hostMemoryAccess => true
  | .linkTrainingComplete => true
  | .linkLaneLoss => true
  | .linkLockLoss => true
  | .debugHalt => true
  | .debugResume => true
  | .contextMigration => true
  | .checkpoint => true
  | .thermalTripClear => true
  | .virtualFunctionEnable => true
  | .multicastGroupEntryWrite => true
  | .pluginImageLoad => true

/-- The selectors of forms A and B that name sources of the instruction, for the latch rules (R21, R44). -/
def selectors (i : Instr) : List (BitVec 7) :=
  match encode i with
  | .long w =>
    let major := (w.extractLsb' 1 7).toNat
    let sa := w.extractLsb' 14 7
    let sb := w.extractLsb' 21 7
    if major < 0x0C || (0x20 ≤ major && major < 0x38) || major == 0x39 || major == 0x3A || major == 0x3B then [sa, sb]
    else if major == 0x38 || (0x10 ≤ major && major < 0x1B) then [sa]
    else if major == 0x5A then [sa, sb]
    else if major == 0x5D && w.extractLsb' 28 2 == 0 then [sa, sb]
    else if major == 0x5E && w.extractLsb' 28 2 == 0 then [sa]
    else if major == 0x5F && w.extractLsb' 28 2 == 3 then [sa]
    else []
  | _ => []

/-- Whether the instruction may be a chain member (R44): majors 0x00 to 0x1D and 0x20 to 0x3B but `ldp`. -/
def chainable (i : Instr) : Bool :=
  match encode i with
  | .long w =>
    let major := (w.extractLsb' 1 7).toNat
    (major ≤ 0x0B || 0x10 ≤ major && major ≤ 0x1D && major != 0x1B || 0x20 ≤ major && major ≤ 0x23 || 0x30 ≤ major && major ≤ 0x3B)
  | _ => false

/-- The ch bit of a chain member (R33). -/
def chBit (i : Instr) : Bool :=
  match encode i with
  | .long w => chainable i && w.getLsbD 31
  | _ => false

/-- Whether a reserved word is `ldp` or `lit` with ch set and nothing else wrong: its own cause is chain form and
not illegal encoding (R44, R48). -/
def chOnLoadLiteral (w : BitVec 32) : Bool :=
  w.getLsbD 31 && !w.getLsbD 30 &&
    (w.extractLsb' 0 8 == 0x3D || (w.extractLsb' 0 8 == 0x37 && !w.getLsbD 20))

end Sys2Proof
end

