-- ==== Sys2Proof/Machine/State.lean ====
section
/-!
DEFINITION. The state of the device: everything the spec gives it, as plain data. Fields marked MODEL are the
model's own bookkeeping, not state the spec names. Widths and rules stand in INVENTORY.md.
-/
namespace Sys2Proof.Machine

/-- Bytes at addresses, sorted, no repeats; an address that is not listed reads 0 (log 3). -/
abbrev Memory := List Host.Cell

/-! ## The chorus -/

/-- What a split has asked the call board for, with the address of its instruction: to send a message with these operands (R388), or to
put the first visible message into the stage (R389). -/
inductive BoardOp where
  | send (dest control replyTo : Word) (addr len : Nat) (pc : Word)
  | recv (addr : Nat) (pc : Word)
  deriving DecidableEq, Repr

/-- What a waiting split waits for. MODEL: the spec's state codes 0x2 to 0x5 (R17) with what ends the wait.
The first group issues its instruction again when the condition holds; the second group has issued, and its end
writes `vd` and moves on. -/
inductive Wait where
  | none
  /-- Until the tile is ready (R170), or leaves the state that will become ready (R169). -/
  | tile (t : Nat)
  /-- `tl.wait` at that address, which has issued: until the tile is ready (R174). -/
  | tileReady (t : Nat) (epc : Word)
  /-- Until the engine queue has room (R178). -/
  | queue
  /-- Until the in-flight count is below 64 (R24). -/
  | inflight
  /-- Until the tile's reader count is below 255 (R168). -/
  | readers (t : Nat)
  /-- Until a range-tagged counter is below 255 (R275). -/
  | counter
  /-- A range fence (R276): the slots still to serve, the slot and old phase being drained, and the earlier
  lane reads that have not returned. -/
  | fenceR (mask : BitVec 8) (draining : Option (Nat × Nat)) (reads : List Nat)
  /-- A cross-path fence (R277): the operations issued before it that are still to complete. -/
  | fenceX (lane : List Nat) (fly : List Nat) (mx : List Nat) (msgs : List (BitVec 12 × BitVec 32))
  /-- Until the rows from `a` to `b` are resident (R126, state 0x3). -/
  | window (a b : Nat)
  /-- A call whose link word waits for row `a` and the callee's rows up to `b` (R127). -/
  | link (a b : Nat) (w : Word)
  /-- Until the company fault that stopped a well access is answered (R138). -/
  | fault
  /-- A company barrier (R181, R182): token semantics, status to `vd`. -/
  | barC (bar : Nat) (token : Word) (vd : BitVec 6)
  /-- A troupe barrier (R182, R215). -/
  | barT (bar : Nat) (token : Word) (vd : BitVec 6)
  /-- `wev` (R334): mask and deadline in ticks. -/
  | wev (mask : BitVec 7) (deadline : Nat) (vd : BitVec 6)
  /-- `wtm` (R335). -/
  | wtm (deadline : Nat) (vd : BitVec 6)
  /-- Arrived at its join point by `rcv` (R122). -/
  | join
  /-- Arrived at its join point by `rcv.t` with a deadline in ticks (R123). -/
  | joinT (deadline : Nat) (vd : BitVec 6)
  /-- Until the lane accesses with these numbers, which load registers that the next instruction or chain reads, have
  completed (R137, R151). -/
  | data (uids : List Nat)
  /-- A split whose wait is over: the outcome `v`, to be written to `vds`, waits for the rows from `a` to `b` (R123, R126, log 78). -/
  | outcome (a b : Nat) (vds : List (BitVec 6)) (v : Word)
  /-- Until the call board answers `msg.send` or `msg.recv` (R388, R389, R393). -/
  | board (op : BoardOp) (vd : BitVec 6)
  /-- A cross-path fence from the message path that stands behind such an answer for another split of its chorus (R277). -/
  | boards
  deriving DecidableEq, Repr

/-- The split states of R17, codes 0x0 to 0x5. -/
inductive SplitState where
  | ready | running | waitMemory | waitWindow | arrived | waitEvent
  deriving DecidableEq, Repr

/-- One entry of the split table (R17). `frame` is the split's column of the status row (R125). -/
structure Split where
  members : Mask
  xm : Mask
  wb : Nat
  depth : Nat
  frame : Nat
  pc : Word
  joinPc : Word
  fmt : BitVec 16
  mem : Nat
  state : SplitState
  wait : Wait
  /-- Whether the entry stands in the split area of the well, in which of its 16 places, and whether the pump has still to
  write its image there (R17, R23). -/
  spilled : Bool
  place : Nat
  owed : Bool
  /-- Consecutive issues while another split was ready (R121). -/
  issues : Nat
  deriving DecidableEq, Repr

/-- One entry of the join-format table (R122). -/
structure JoinFmt where
  joinPc : Word
  wb : Nat
  depth : Nat
  fmt : BitVec 12
  deriving DecidableEq, Repr

/-- A cue slot (R20). -/
inductive Cue where
  | unresolved | isFalse | isTrue
  deriving DecidableEq, Repr

/-- A range slot (R273). -/
structure RangeSlot where
  length : Word
  space : BitVec 2
  base : BitVec 48
  deriving DecidableEq, Repr

/-- A lane-path instruction whose accesses have not all completed (R24), with its range tags (R275). -/
structure InFlight where
  uid : Nat
  reads : Bool
  members : Mask
  tags : List (Nat × Nat)
  /-- The tile it counts as a reader of (R168). -/
  tile : Option Nat
  /-- Absolute rows and house rows that a load writes: the pump does not spill the former meanwhile (R133), and an
  instruction that reads one of them waits (R137, R151). -/
  rows : List Nat
  house : List Nat
  /-- Stage time at its issue: it completes within 2 µs. -/
  since : Nat
  deriving DecidableEq, Repr

/-- A bound shape record (R175). -/
structure Record where
  base : BitVec 64
  extents : List Nat
  strides : List Nat
  box : List Nat
  format : BitVec 4
  rank : Nat
  overlap : Bool
  scaled : Bool
  noscale : Bool
  tile : Nat
  scaleHandle : Nat
  deriving DecidableEq, Repr

/-- The commands of the fly engine (R228, R382). -/
inductive FlyOp where
  | inn | out | gth | sct | scl | cp | atm | pf | mc
  deriving DecidableEq, Repr

/-- Where a fly command stands. MODEL: at the head of its queue a true cue has decided it, and it goes to the engine as soon as
there is room (R178, R227). -/
inductive CmdState where
  | queued | decided | handed | recorded | done
  deriving DecidableEq, Repr

/-- A deny record in the making (R260): page and its size, principal, first address, lane, tag, count, vt. -/
structure Denial where
  page : Nat
  size : Nat
  principal : BitVec 12
  addr : BitVec 64
  lane : Nat
  tag : BitVec 16
  count : Nat
  vt : Nat
  deriving DecidableEq, Repr

/-- A fly command with everything it captured at its issue (R227). -/
structure FlyCmd where
  uid : Nat
  word : Word
  epc : Word
  op : FlyOp
  ev : Bool
  cue : Nat
  tile : Nat
  record : Option Record
  scaleRecord : Option Record
  /-- The lanes that were active at its issue, and their leader. -/
  lanes : Mask
  leader : Nat
  /-- The principal table entry of each lane (R257). -/
  principals : List Word
  /-- Origins: one list of coordinates per lane (R230, R233). -/
  origins : List (List Int)
  /-- `fly.cp`: spaces, addresses and length (R236). -/
  srcSpace : Nat
  dstSpace : Nat
  src : BitVec 64
  dst : BitVec 64
  len : Nat
  /-- `fly.atm`: operation, order, and per-lane operands (R237). -/
  aop : BitVec 4
  order : BitVec 2
  addrs : List (BitVec 64)
  operands : List Word
  expecteds : List Word
  result : Word
  /-- `fly.mc`: group and acknowledgement address (R382). -/
  group : BitVec 16
  ackAddr : Nat
  /-- Range tags, and the bytes that decide them: space, base and length (R275). -/
  tags : List (Nat × Nat)
  footprint : List (Nat × Nat × Nat)
  state : CmdState
  /-- Whether the engine has begun it: what lies outside the tensor is done, and the guarded check of writes made. -/
  begun : Bool
  /-- The elements, then the scales, still to do: the complement of the progress bitmap (R240). -/
  todo : List Nat
  /-- Whether it counts as a reader of its source tile (R168). -/
  reading : Bool
  denied : Bool
  denials : List Denial
  /-- `fly.cp`: the source words read so far, each with its mark of poison, as the command began (R236). -/
  snapshot : List (Option (Word × Bool))
  /-- Remote elements that still await an answer (R379). -/
  remote : List Nat
  /-- MODEL: elements over two pages, of which one is a peer's, whose first byte is done: the byte, its mark of poison, and whether it was
  denied (R376). -/
  halves : List (Nat × Nat × Bool × Bool)
  /-- MODEL: granules of the stage and of the score into which the command has delivered poison (R348). -/
  stained : List Nat
  stainedScore : List Nat
  /-- `fly.mc`: the aggregate acknowledgement, once it is in (R382). -/
  ack : Option AggregateAck
  /-- The cause and `tval` of the trap that ends it, while its deny records are still to be written (R241, R260). -/
  failed : Option (Nat × Word)
  status : Nat
  deriving DecidableEq, Repr

/-- A matrix command of one member (R185). -/
structure MxCmd where
  uid : Nat
  word : Word
  epc : Word
  /-- The operation's number in the member's ensemble (R184). -/
  op : Nat
  cue : Nat
  fmt : BitVec 12
  shape : Word
  /-- How its cue resolved while it was at the head of its queue; later changes do not affect it (R178, R186). -/
  verdict : Option Bool
  deriving DecidableEq, Repr

/-- One entry of the engine queue (R178). -/
inductive QueueEntry where
  | fly (c : FlyCmd)
  | mx (c : MxCmd)
  /-- `mx.sput` (R198): score address and one word per active lane. -/
  | sput (uid : Nat) (word epc : Word) (base : Nat) (lanes : Mask) (data : Lanes)
  deriving DecidableEq, Repr

/-- A trap raised after issue, taken at the chorus's next chain boundary (R187, R241). -/
structure AsyncTrap where
  cause : Nat
  epc : Word
  tval : Word
  /-- Whether it goes to the S-mode scheduler (R241) or is delivered as R26 states (R187). -/
  scheduler : Bool
  /-- The members of the split that takes it; 0 when the running split does. -/
  split : Mask
  deriving DecidableEq, Repr

/-- A request of a waiting split for rows of the window (R132), and the pump's move under way. -/
structure PumpMove where
  low2 : Nat
  high2 : Nat
  /-- Rows still to spill and still to fill. -/
  spill : List Nat
  fill : List Nat
  /-- The transfer of the first of them is under way (R340), and the stage time since which. -/
  moving : Bool
  since : Nat
  deriving DecidableEq, Repr

/-- A chorus (R10). -/
structure Chorus where
  index : Nat
  populated : Mask
  exited : Mask
  pli : List (BitVec 5)
  /-- House rows v0 to v15 (R11); row 0 is never read as a register. -/
  house : List Lanes
  /-- Physical ring rows (R14). -/
  ring : List Lanes
  low : Nat
  high : Nat
  top : Nat
  splits : List Split
  joins : List JoinFmt
  cues : List Cue
  latches : List Lanes
  /-- The member index the next instruction has in its chain, and the address of member 0 (R44). -/
  chain : Option (Nat × Word)
  wellp : Word
  /-- Virtual address of the well (R312). -/
  wellBase : BitVec 64
  inflight : List InFlight
  slots : List RangeSlot
  /-- The two counters of each range slot and its phase bit (R275). -/
  counters : List (Nat × Nat)
  phases : List Bool
  /-- Armed timers, as deadlines in ticks of `vt` (R333). -/
  timers : List (Option Nat)
  pending : BitVec 7
  queue : List QueueEntry
  /-- The entries of the engine queue whose SRAM is poisoned, by the numbers of their commands (R348). -/
  queuePoison : List Nat
  /-- Collective operations issued (R184). -/
  collectives : Nat
  /-- The completion-event counter (R242). -/
  events : Word
  cause : Word
  epc : Word
  tval : Word
  fm : Mask
  handler : Bool
  cycHi : Word
  vtHi : Word
  msgvt : BitVec 64
  msgvtHi : Word
  /-- Bits 63:32 of stage time latched by `rdstg` (R326). -/
  stageHi : Word
  traps : List AsyncTrap
  pump : Option PumpMove
  /-- Requests of splits in state 0x3, oldest first, named by their members (R132). -/
  requests : List Mask
  /-- The splits whose well access waited for a page whose request failed, each with the stage and the page: that access meets a
  permanent fault (R138, R256). -/
  failed : List (Mask × Nat × Nat)
  /-- The split whose request the pump served last, with the rows it asked for: it keeps them until it has issued (R134). -/
  served : Option (Mask × Nat × Nat)
  /-- Slot 0 to 95 of the core (R146). -/
  slot : Nat
  /-- Core cycles since it became ready, and its band wait (R151, R152). -/
  readyAge : Nat
  bandWait : Nat
  /-- MODEL: it issued in the core cycle under way, or its next instruction trapped at decode in it, which is no issue (R149). -/
  issued : Bool
  refused : Bool
  /-- Its next instruction is not decoded yet (R151). -/
  fetching : Bool
  /-- Ticks for which all its splits have waited on memory (R157). -/
  memWait : Nat
  halted : Option Nat
  ended : Bool
  /-- MODEL: what its end or halt brings to its queue, its ensemble and the barriers has taken effect, after the four bays of the
  cycle (R171, R179, R216, R349). -/
  swept : Bool
  /-- Poisoned 32-byte granules of its register rows: physical row and granule 0 to 3 (R348); house rows
  are numbered from 0 and ring rows from 16. -/
  poison : List (Nat × Nat)
  /-- The bits that the vector unit gets wrong in each lane of its next checked result (R347): an input from the hardware. -/
  upset : Lanes
  deriving DecidableEq, Repr

/-! ## The company, the troupe and the run -/

/-- Tile states (R168). -/
inductive TileState where
  | empty | filling | ready | draining
  deriving DecidableEq, Repr

/-- A tile-table entry (R168). -/
structure Tile where
  score : Nat
  readers : Nat
  state : TileState
  claim : Bool
  format : BitVec 4
  cols : Nat
  rows : Nat
  capacity : Nat
  base : Nat
  /-- Shape and format that the claiming fill gives the tile when it becomes filling (R167). -/
  claimShape : Option (BitVec 4 × Nat × Nat)
  /-- Core cycles that have ended since its release: a draining tile may leave that state after the second (R169). -/
  drainAge : Nat
  deriving DecidableEq, Repr

/-- A company barrier (R180). -/
structure Barrier where
  phase : Word
  arrived : List Nat
  target : Nat
  deriving DecidableEq, Repr

/-- A pit region record (R188). -/
structure Region where
  shaped : Bool
  cols : Nat
  rows : Nat
  capacity : Nat
  base : Nat
  deriving DecidableEq, Repr

/-- The kinds of collective matrix operations (R191). -/
inductive MxKind where
  | mma | spr | zero | put | get
  deriving DecidableEq, Repr

/-- A collective matrix operation of an ensemble, from its first member's issue on (R184 to R204). -/
structure MxOp where
  uid : Nat
  ensemble : Nat
  number : Nat
  kind : MxKind
  word : Word
  fmt : BitVec 12
  shape : Word
  region : Nat
  tileA : Nat
  tileB : Nat
  sc : Bool
  /-- Members that issued it, with the address of their instance. -/
  issued : List (Nat × Word)
  gathered : Bool
  started : Bool
  finished : Bool
  /-- Operand tiles it has reserved (R199). -/
  reserved : List Nat
  /-- MODEL: the `vt` at which it could start but for the array (R186, R201). -/
  ready : Option Nat
  /-- Next K-step, or next block (R204). -/
  next : Nat
  /-- The `vt` at which the K-step or block under way ends, in ticks (R194), the arithmetic cycles of it that are charged already
  (R154), and while a change of point stops the clock those that it still needs (R361). -/
  due : Nat
  charged : Nat
  left : Nat
  /-- A member has halted while it ran: it stops at its next K-step boundary (R187). -/
  stopping : Bool
  /-- It stands at a boundary, because a company of its group is being stopped or the array is not free (R201, R204, R340). -/
  paused : Bool
  deriving DecidableEq, Repr

/-- Pit and score placement and the other fields of a playbill (R306), as the box office read it. -/
structure Playbill where
  codeBase : BitVec 64
  codeLength : Nat
  entry : Nat
  handler : Option Nat
  paramOffset : Nat
  wellSize : Nat
  localSize : Nat
  fmt : BitVec 12
  ring : Nat
  choruses : Nat
  ensemble : Nat
  companies : Nat
  stage : Nat
  scoreSlots : Nat
  scoreBase : Option Nat
  pools : List (Nat × Nat)
  tiles : List Tile
  pit : List Region
  deriving DecidableEq, Repr

/-- Where a company stands (R135, R341, R346). -/
inductive CompanyState where
  | running
  /-- Saved for a recoverable fault: waits for the page requests in the list. -/
  | faultSaved
  | preempted
  | complete
  deriving DecidableEq, Repr

/-- The first chorus of a company or a run to halt: when (`cyc` of the company, stage time for a run), its index and
its cause; a tie goes to the lowest index (R319). -/
structure FirstHalt where
  at_ : Nat
  ch : Nat
  cause : Nat
  deriving DecidableEq, Repr

/-- A company (R4) with the state R10, R161 to R190 give it. -/
structure Company where
  uid : Nat
  ctx : Nat
  run : Nat
  troupe : Nat
  index : Nat
  core : Nat
  state : CompanyState
  /-- Saved for a fault while its context is pre-empted: its restore awaits both (R346). -/
  faulted : Bool
  /-- MODEL: a recoverable fault asks for its save, and its units go to their stopping points (R340, R346). -/
  saving : Bool
  cyc : Nat
  playbill : Playbill
  code : Memory
  stage : Memory
  stagePoison : List Nat
  tiles : List Tile
  handles : List (Option Record)
  barriers : List Barrier
  abandoned : Bool
  pit : List Region
  /-- Accumulators that are not +0, by block × 256 + position (R188). -/
  acc : List (Nat × Word)
  /-- Poisoned granules of the pit, eight accumulators each (R348). -/
  accPoison : List Nat
  score : Memory
  scorePoison : List Nat
  principals : List Word
  choruses : List Chorus
  /-- Handed-over commands (R227), with the index of their chorus. -/
  engine : List (Nat × FlyCmd)
  ops : List MxOp
  /-- The outputs, by row and column, that the array gets wrong in its next K-step, and in which bits (R205): an input from the
  hardware. -/
  mxUpset : List (Nat × Nat × Word)
  /-- The company was fault-saved and its core keeps its stage, tiles, pit and score (R213). -/
  keepsCore : Bool
  /-- The first of its choruses to halt (R319). -/
  firstHalt : Option FirstHalt
  /-- The physical address of its frame in the green room (R342). -/
  frame : Nat
  deriving DecidableEq, Repr

/-- A troupe barrier (R214): the choruses that arrived in the phase, each with its company's index. -/
structure TroupeBarrier where
  phase : Word
  arrivals : List (Nat × Nat)
  /-- The companies that have arrived whole; one that completes or halts afterwards stays. -/
  arrived : List Nat
  counts : List (Nat × Nat)
  target : Option Nat
  deriving DecidableEq, Repr

/-- A placed troupe (R212, R214). -/
structure Troupe where
  ctx : Nat
  run : Nat
  index : Nat
  cluster : Nat
  barriers : List TroupeBarrier
  abandoned : Bool
  deriving DecidableEq, Repr

/-- A run (R311, R312). -/
structure Run where
  ctx : Nat
  id : Nat
  tag : BitVec 64
  queue : Nat
  cls : Nat
  prio : Nat
  troupes : Nat
  nextTroupe : Nat
  doneTroupes : Nat
  playbill : Playbill
  code : Memory
  /-- Where the code image lies in memory under the tables as they stand, as offset in it, place and length of each piece, and the words
  written there since the launch, each with its offset (R84). -/
  codeAt : List (Nat × Nat × Nat)
  codeSince : List (Nat × Word)
  params : List Byte
  window : Nat
  lanes : Nat
  wells : BitVec 64
  principals : List Word
  pliMap : List (BitVec 5)
  /-- `vt` at its acceptance, and whether it holds back later runs (R317). -/
  accepted : Nat
  holding : Bool
  /-- `vt` at the placement of its first troupe, from which the watchdog counts (R338). -/
  placedAt : Option Nat
  /-- Cistern windows: die and contents (R223), and their poisoned granules. -/
  windows : List (Nat × Memory)
  windowPoison : List (Nat × Nat)
  firstHalt : Option FirstHalt
  /-- The run has ended with a record of this kind and status (R319). -/
  ending : Option (Nat × Nat)
  resumed : Bool
  /-- Kind and status of the record with which it is to end early, until its accesses in flight have completed (R24). -/
  killed : Option (Nat × Nat)
  /-- The address and length of its last checkpoint image (R350), and the address of one asked for, until its companies have stopped for it
  (R340, R342). -/
  checkpoint : Option (BitVec 64 × Nat)
  snapAt : Option (BitVec 64)
  deriving DecidableEq, Repr

/-! ## The context and the front end -/

/-- What holds a queue after its packet has started (R313): a WAIT with its address, value, mask, condition and the stage
time by which it reads its word again, or a FENCE. -/
inductive Hold where
  | none
  | wait (addr value mask cond reread : Nat)
  | fence
  deriving DecidableEq, Repr

/-- A command queue (R304, R308, R310). -/
structure Queue where
  base : BitVec 64
  ctl : BitVec 64
  mirror : BitVec 64
  w : Nat
  rd : Nat
  stopped : Bool
  code : Nat
  stopIndex : Nat
  hold : Hold
  /-- Stage time at which a slot whose seq did not match is read again (R310). -/
  reread : Option Nat
  /-- A page, by stage, whose request failed: the packet that needs it meets a permanent fault (R256). -/
  failed : Option (Nat × Nat)
  /-- Packets that have started and not completed (R314): LAUNCH and RESUME by run id. -/
  open_ : List Nat
  /-- A write of the mirror word that a recoverable fault holds up (R313). -/
  mirrorOwed : Bool
  deriving DecidableEq, Repr

/-- A 32-byte event record that is still to be written (R319). -/
structure EventRecord where
  tag : BitVec 64
  fm : Mask
  troupe : Nat
  run : Nat
  company : Nat
  status : Nat
  queue : Nat
  kind : Nat
  deriving DecidableEq, Repr

/-- An entry of the call board (R384): a message not yet taken, or a reply owed on a message taken. -/
structure BoardEntry where
  msg : Message
  taken : Bool
  /-- Whether the message is visible (R336). -/
  visible : Bool
  order : Nat
  /-- Stamp at the kept resolution, in ticks of `vt`, and the stage time of its arrival (R336, R337). -/
  stampTicks : Nat
  arrivedAt : Nat
  /-- Reply owed: deadline in ticks of stage time, notices sent, and whether the context was off stage
  since the arrival (R386). -/
  owed : Bool
  deadline : Nat
  holds : Nat
  wasOff : Bool
  /-- MODEL: its action point has passed without an act of the board (R386). -/
  passed : Bool
  deriving DecidableEq, Repr

/-- Who awaits the answer to a transaction. -/
inductive Asker where
  | fly (co ch cmd elem : Nat)
  | message (ctx co ch : Nat) (epc : Word)
  | notice
  deriving DecidableEq, Repr

/-- What a transaction carries: an access to a context of the peer with the principal number and owner flag of R376 and
the tag and G of R261, or a message. -/
inductive LinkSend where
  | access (ctx : BitVec 12) (addr : BitVec 64) (principal : BitVec 12) (owner : Bool)
    (tag : BitVec 16) (guarded : Bool) (op : LinkOp)
  | message (m : Message)
  /-- A multicast write: group, principal, owner flag, poison, elements, and the request identifier of each member (R381, R382). -/
  | multicast (group : BitVec 16) (principal : BitVec 12) (owner poisoned : Bool) (writes : List (Nat × Nat × Nat))
    (ids : List (BitVec 12 × BitVec 32))
  deriving DecidableEq, Repr

/-- A transaction not yet answered (R379). -/
structure Outstanding where
  dest : BitVec 12
  ident : BitVec 32
  /-- A read, which carries no request identifier; `ident` is then the requester's own tag. -/
  plainRead : Bool
  retried : Bool
  /-- It waits for a port, or for an identifier within 4,096 of the oldest unanswered one (R379, R380). -/
  held : Bool
  port : Option Nat
  sentAt : Nat
  asker : Asker
  what : LinkSend
  /-- An invalidation that began during the access waits for it (R253). -/
  stale : Bool
  deriving DecidableEq, Repr

/-- An answer of a peer that arrived while the context was stopped (R336). -/
structure OutsideResponse where
  resp : LinkResponse
  /-- The aggregate acknowledgement, where it answers a multicast (R382). -/
  ack : Option AggregateAck
  answers : Outstanding
  stampTicks : Nat
  arrivedAt : Nat
  order : Nat
  deriving DecidableEq, Repr

/-- A checkpoint that the scheduler submits again by RESUME once the run it is of has ended (R350). -/
structure Rollback where
  run : Nat
  image : BitVec 64
  length : Nat
  tag : BitVec 64
  queue : Nat
  deriving DecidableEq, Repr

/-- Context states (R304). -/
inductive CtxState where
  | free | created | resident | saved | halted
  deriving DecidableEq, Repr

/-- How a context leaves for good while its runs are still to end (R24): it halts whole (R352, R372), or its function is reset (R365). -/
inductive Leaving where
  | halt | reset
  deriving DecidableEq, Repr

/-- A context (R303 to R305). -/
structure Context where
  id : Nat
  fn : Nat
  page : Nat
  state : CtxState
  root : BitVec 64
  pasid : BitVec 20
  policy : BitVec 64
  pcount : Nat
  prio : BitVec 2
  /-- The scheduling weight that the plug-in of its tenant gives it (R366). -/
  weight : Nat
  evBase : BitVec 64
  evCtl : BitVec 64
  evWr : Nat
  evRd : Nat
  denyBase : BitVec 64
  denyCtl : BitVec 64
  denyWr : Nat
  denyRd : Nat
  denyCnt : Nat
  denyOvf : Nat
  evLost : Nat
  noticeLost : Nat
  wdog : Word
  /-- The limit before the last change of CTX_WDOG, and the `vt` in ticks from which the change applies (R338). -/
  wdogOld : Word
  wdogFrom : Nat
  /-- Virtual time in ticks (R327). -/
  vt : Nat
  onStage : Bool
  /-- Stage time at which it last stopped, in ticks (R336); it may lie within the core cycles that were under way. -/
  stopAt : Nat
  debugHalted : Bool
  /-- A debugger's step under way: company, chorus and members of its split, and whether it has issued (R329). -/
  stepping : Option (Nat × Nat × Mask)
  stepped : Bool
  /-- A pre-emption has been asked for at the end of the slice (R315). -/
  sliceOver : Bool
  /-- A DESTROY has begun, or it leaves for good in another way: nothing of it is placed or served any more. -/
  destroying : Bool
  leaving : Option Leaving
  queues : List Queue
  partition : List Nat
  keySlot : Nat
  /-- Cistern quota per die, in bytes (R221). -/
  quotas : List Nat
  /-- The run id given last (R312). -/
  lastRun : Nat
  board : List BoardEntry
  /-- Permits of the channels that are not 0 (R384). -/
  permits : List (Nat × BitVec 64)
  responses : List OutsideResponse
  /-- Records owed to the event ring, oldest first (R319). -/
  records : List EventRecord
  /-- The green room that firmware has pinned: physical address and length (R342). -/
  green : Nat
  greenSize : Nat
  /-- Checkpoints to submit again, oldest first. -/
  rollbacks : List Rollback
  deriving DecidableEq, Repr

/-! ## Translation -/

/-- Who waits for a page (R240, R256). -/
inductive Waiter where
  | fly (co cmd : Nat)
  | pump (co ch : Nat)
  | lane (co ch : Nat)
  | front (ctx q : Nat)
  | mirror (ctx q : Nat)
  | record (ctx : Nat)
  /-- The copy of a checkpoint image, by its number (R342). -/
  | copy (image : Nat)
  /-- An entry of the stage-1 ring of a virtual function, whose base lies on the page (R255). -/
  | ring (fn : Nat)
  deriving DecidableEq, Repr

/-- A TLB entry: the combined result of both stages (R251). -/
structure TlbEntry where
  ctx : Nat
  fn : Nat
  va : Nat
  size : Nat
  pa : Nat
  swizzle : BitVec 4
  r : Bool
  w : Bool
  x : Bool
  sc : Bool
  g : Bool
  tag : BitVec 16
  /-- The guest-physical page of a two-stage translation, and the size of the stage-1 page (R253). -/
  gpa : Nat
  span : Nat
  /-- The D bits of the leaves of both stages were set when the entry was made (R247, R254). -/
  dirty : Bool
  deriving DecidableEq, Repr

/-- An entry of a page-walk cache: a table entry of a stage at its address, and the addresses that it translates (R251). -/
structure TableEntry where
  ctx : Nat
  fn : Nat
  stage : Nat
  addr : Nat
  value : Nat
  first : Nat
  size : Nat
  deriving DecidableEq, Repr

/-- A walk under way (R251). -/
structure Walk where
  uid : Nat
  ctx : Nat
  core : Nat
  va : BitVec 64
  access : Nat
  who : Waiter
  /-- An invalidation that began during the walk keeps its result out of the TLBs (R253). -/
  stale : Bool
  deriving DecidableEq, Repr

/-- A page request (R254): one outstanding tag per page, stage and function, and the 4 KiB of the address that faulted (R255). -/
structure PageReq where
  fn : Nat
  stage : Nat
  page : Nat
  addr : Nat
  ctx : Nat
  pasid : BitVec 20
  access : Nat
  /-- The tag, once the entry has been written to the ring. -/
  tag : Option Nat
  /-- Its entry could not be written for a permanent failure of the ring's base; it waits until PRQ_BASE is written. -/
  blocked : Bool
  waiters : List Waiter
  deriving DecidableEq, Repr

/-- The registers of one page-request ring (R255). -/
structure Ring where
  base : BitVec 64
  wr : BitVec 64
  rd : BitVec 64
  vec : BitVec 64
  deriving DecidableEq, Repr

/-- An SR-IOV function (R373, R374). -/
structure Func where
  num : Nat
  enabled : Bool
  xlinvAddr : BitVec 64
  xlinvCtl : BitVec 64
  ring1 : Ring
  ring2 : Ring
  /-- Root of the stage-2 table (R254). -/
  s2root : BitVec 64
  /-- MSI-X vectors raised, newest first (R255, R320). -/
  msix : List Nat
  deriving DecidableEq, Repr

/-- A grant-cache entry of a core (R259). -/
structure Grant where
  ctx : Nat
  principal : BitVec 12
  tag : BitVec 16
  bit : Bool
  deriving DecidableEq, Repr

/-- What is kept with a 128-byte line of HBM4: its tag and G in the reservoir while it is cached (R222, R261), and the
context whose key encrypts it (R262). -/
structure LineTag where
  line : Nat
  cached : Bool
  tag : BitVec 16
  g : Bool
  /-- None while only the host has touched the line. -/
  key : Option Nat
  deriving DecidableEq, Repr

/-! ## Cores, clusters and dies -/

/-- The timing classes T0 to T3 (R147). -/
inductive TClass where
  | t0 | t1 | t2 | t3
  deriving DecidableEq, Repr

/-- A core (R146 to R157), numbered 0 to 383. -/
structure Core where
  num : Nat
  /-- Stage time, in ticks, at which its cycle under way began (R149), and at which the cycle before it did: a deadline
passes in the first cycle that starts at or after it, once all has issued (R330). -/
  at_ : Nat
  began : Nat
  /-- MODEL: the choruses that were ready as the cycle under way began, once its first bay has its turn (R151): company
and chorus. -/
  ready : Option (List (Nat × Nat))
  /-- MODEL: the bay that issues next in the cycle under way, 4 when all have had their turn (R171). -/
  bay : Nat
  /-- The highest class that has issued in the cycle under way. -/
  issuing : Option TClass
  /-- A chain was mid-issue as the cycle began (R156). -/
  mid : Bool
  /-- Classes in the execute stages E1 to E3 (R149). -/
  e1 : Option TClass
  e2 : Option TClass
  e3 : Option TClass
  band : Nat
  /-- Core cycles into the 8-cycle band window (R150). -/
  bandCycle : Nat
  /-- Last slot picked per bay (R152). -/
  picked : List Nat
  /-- Stall credit and ratio as fractions of `creditDen` (R156). -/
  credit : Nat
  ratio : Nat
  ratioDen : Nat
  stalled : Bool
  /-- The `vt` at which the matrix array finished its last operation (R201). -/
  arrayAt : Nat
  drowsy : List Nat
  /-- Banks that wake, each with the core cycles it still needs (R157). -/
  waking : List (Nat × Nat)
  tlb : List TlbEntry
  grants : List Grant
  outOfService : Bool
  deriving DecidableEq, Repr

/-- Where the power of a cluster stands (R362, R363); times are ticks of stage time. -/
inductive Power where
  | on
  | hold (until_ : Nat)
  | gated
  | queued
  | ramp (until_ : Nat)
  | settle (until_ : Nat)
  deriving DecidableEq, Repr

/-- A cluster (R210, R218, R219), numbered 0 to 47. -/
structure Cluster where
  num : Nat
  owner : Option Nat
  available : Bool
  power : Power
  /-- When the break-even hold ends of a cluster that was freed while it woke (R362). -/
  freed : Option Nat
  /-- Order of the wake request among those of the die (R363). -/
  wakeOrder : Nat
  record : Nat
  draw : Nat
  limit : Nat
  newLimit : Option Nat
  /-- Above three quarters of the limit, and over it (R155). -/
  nearLimit : Bool
  overLimit : Bool
  /-- Arithmetic ticks into the current window (R154). -/
  windowAt : Nat
  l2 : List TlbEntry
  deriving DecidableEq, Repr

/-- A stage die (R221, R360 to R364, R351). -/
structure Die where
  num : Nat
  cistern : Nat
  point : Nat
  /-- A change of point under way: the point it goes to and the stage time by which it ends (R361). -/
  changing : Option (Nat × Nat)
  temp : Nat
  lastStep : Option Nat
  powered : Bool
  /-- Corrected errors of its SRAMs and of its HBM4 stack, and uncorrectable ones (R370). -/
  corrected : Nat
  stackCorrected : Nat
  uncorrectable : Nat
  failedRouters : List (Nat × Nat)
  outOfService : Bool
  /-- The page-walk cache of its walkers, last used first (R251). -/
  pwc : List TableEntry
  deriving DecidableEq, Repr

/-! ## Fabric -/

/-- A link port (R377, R378). -/
structure Port where
  num : Nat
  state : Nat
  lanes : Nat
  xoff : BitVec 4
  peer : BitVec 64
  crc : Nat
  fec : Nat
  replay : Nat
  errBeat : BitVec 64
  /-- Replays of one flit in a row, and the flit (R377). -/
  row : Nat
  rowSeq : Nat
  lockLost : Option Nat
  /-- The sequence of the next flit, the one that the partner acknowledged last, and the replay buffer: the sequence of each flit that is
  not acknowledged and the number of what it carries among the outputs (R377). -/
  seq : BitVec 12
  acked : BitVec 12
  buffer : List (BitVec 12 × Nat)
  deriving DecidableEq, Repr

/-- A memo entry of a target (R379). -/
structure Memo where
  src : BitVec 12
  ident : BitVec 32
  status : LinkStatus
  data : List Byte
  poisoned : Bool
  tag : BitVec 16
  guarded : Bool
  at_ : Nat
  deriving DecidableEq, Repr

/-- An answer to a peer, with the tag and G that travel with it (R261, R379). -/
structure Answer where
  dest : BitVec 12
  ident : BitVec 32
  status : LinkStatus
  data : List Byte
  poisoned : Bool
  tag : BitVec 16
  guarded : Bool
  deriving DecidableEq, Repr

/-- A context that goes from one device to another, with its runs, its troupes and its companies (R329). MODEL: `next` is one past
the numbers that the device it leaves has given. -/
structure Migrant where
  context : Context
  runs : List Run
  troupes : List Troupe
  companies : List Company
  next : Nat
  deriving DecidableEq, Repr

/-- What the device has put on its links or shown to the host and the management port. MODEL: the outside world
reads it; nothing inside the device does. -/
inductive Output where
  | transaction (port : Nat) (dest : BitVec 12) (ident : BitVec 32) (retry : Bool) (what : LinkSend)
  | answer (port : Nat) (a : Answer)
  | hostRead (data : List Byte)
  /-- An access to host memory made for a context, with its function and PASID (R373, R375). -/
  | hostAccess (fn : Nat) (pasid : BitVec 20) (pa bytes : Nat) (write : Bool)
  | spdm (index : Nat) (digest : BitVec 384) (signature : BitVec 768)
  /-- The device identity certificate with both signatures (R367). -/
  | certificate (body : List Byte) (ecdsa : BitVec 768) (lms : List Byte)
  | pldm (sensor unit value : Nat)
  | tripReport (die : Nat)
  /-- The step of bring-up that failed, and the index of its image (R367). -/
  | recovery (step image : Nat)
  | scan
  /-- A context that has gone to another device (R329). -/
  | migrated (m : Migrant)
  deriving DecidableEq, Repr

/-- A save image as the device wrote it: what it records, and the seal over its bytes (R342 to R345, log 12). -/
structure Image where
  mac : BitVec 128
  /-- MODEL: a number that tells images apart. -/
  number : Nat
  kind : Nat
  ctx : Nat
  run : Nat
  vt : Nat
  runState : Run
  companies : List Company
  troupes : List Troupe
  deriving DecidableEq, Repr

/-! ## Firmware (R366, R367) -/

/-- The modes of a firmware core (R366), and the layer that each runs: monitor, scheduler, policy plug-in. -/
inductive FwMode where
  | m | s | u
  deriving DecidableEq, Repr

/-- A region of a stage-manager core's memory that its physical memory protection opens (R366): to the scheduler, or to the plug-in of
one tenant. -/
structure PmpRegion where
  base : Nat
  size : Nat
  tenant : Option Nat
  deriving DecidableEq, Repr

/-- A stage-manager core: the registers of RV64GC, its mode, whether the monitor has set its physical memory protection and the regions
of that, and the tenant whose plug-in it calls with the stage time of the call (R366, log 95). -/
structure Manager where
  num : Nat
  mode : FwMode
  pmp : Bool
  regions : List PmpRegion
  call : Option (Nat × Nat)
  pc : BitVec 64
  /-- x1 to x31; x0 is 0. -/
  x : List (BitVec 64)
  f : List (BitVec 64)
  fcsr : BitVec 32
  deriving DecidableEq, Repr

/-- What a stage-manager core does (R366): the scheduler calls the plug-in of a tenant, which returns or traps; the monitor sets the
protection; an instruction of RV64GC leaves registers, accesses memory, or sets the scheduling weight of a context. -/
inductive FwStep where
  | call (tenant : Nat)
  | ret
  | trap
  | protect (regions : List PmpRegion)
  | run (pc : BitVec 64) (x f : List (BitVec 64)) (fcsr : BitVec 32)
  | access (addr bytes : Nat)
  | weigh (ctx weight : Nat)
  deriving DecidableEq, Repr

/-- The policy plug-in of a tenant: its image, and whether it has been stopped, so that the default policy applies (R366). -/
structure Plugin where
  tenant : Nat
  image : FirmwareImage
  stopped : Bool
  deriving DecidableEq, Repr

/-! ## The device -/

/-- A chorus of the device: company uid and chorus index. -/
structure ChorusRef where
  co : Nat
  ch : Nat
  deriving DecidableEq, Repr

/-- What moves next. MODEL: the interleaving of the device's agents, held as data. -/
inductive Turn where
  /-- The chorus issues its next instruction. -/
  | issue (r : ChorusRef)
  /-- A bay of a core passes without an issue. -/
  | skip (core : Nat)
  /-- The split of a chorus stalls before its next instruction, for data, rows, a tile or room (R151). -/
  | hold (r : ChorusRef)
  /-- A core ends its cycle. -/
  | cycle (core : Nat)
  /-- What the end or the halt of a chorus brings after the four bays of its cycle (R171, R179, R216, R349). -/
  | sweep (r : ChorusRef)
  /-- The save of a company for a fault, once its units have stopped (R346). -/
  | save (co : Nat)
  /-- Errors of the hardware in the next checked results of a chorus's vector unit, and of a company's array (R205, R347). -/
  | upset (r : ChorusRef) (bits : Lanes)
  | mxUpset (co : Nat) (outputs : List (Nat × Nat × Word))
  /-- A corrected error of a die, in its stack or in an SRAM (R348). -/
  | corrected (die : Nat) (stack : Bool)
  /-- The call board answers a split of a chorus (R393). -/
  | board (r : ChorusRef) (members : Mask)
  /-- A stage-manager core takes a step (R366). -/
  | firmware (manager : Nat) (what : FwStep)
  /-- A link port begins to train; its FEC corrects some symbols; its partner acknowledges flits up to a sequence (R377, R378). -/
  | train (port : Nat)
  | fec (port symbols : Nat)
  | flitAck (port : Nat) (seq : BitVec 12)
  /-- The next step of bring-up (R365), and another image where it finds the one of an index. -/
  | boot
  | flash (index : Nat) (im : FirmwareImage)
  /-- The next instruction of a chorus is not decoded yet, and is (R151). -/
  | starve (r : ChorusRef)
  | decoded (r : ChorusRef)
  /-- A debugger's step of a context is over (R329). -/
  | stepEnd (ctx : Nat)
  /-- A context arrives from another device (R329). -/
  | arrive (m : Migrant)
  /-- Stage time moves on while no core has work. -/
  | idle
  | event (i : Instr) (arg : EventArg)
  deriving DecidableEq, Repr

/-- The device: what the spec gives it, and the fields marked MODEL, which hold what moves next and what has left. -/
structure State where
  /-- MODEL: the happenings still to come, in order. -/
  agenda : List Turn
  /-- MODEL: the operands of the event that is happening. -/
  arg : EventArg
  /-- MODEL: the chorus that issues next when the agenda is empty. -/
  cur : ChorusRef
  /-- MODEL: how many free values and unique numbers have been used. -/
  free : Nat
  uid : Nat
  /-- Stage time in ticks of 1/36,000 ns (R325, R327). -/
  now : Nat
  /-- The correction of stage time still to be slewed, in ticks, and the part of 10,000 ticks that has passed towards the next tick of
  it (R325). -/
  slew : Int
  slewPart : Nat
  mem : Memory
  memPoison : List Nat
  lines : List LineTag
  dies : List Die
  clusters : List Cluster
  cores : List Core
  contexts : List Context
  funcs : List Func
  runs : List Run
  troupes : List Troupe
  companies : List Company
  walks : List Walk
  requests : List PageReq
  /-- Key slots in use: slot and context (R262), and those whose key was imported (R369). -/
  keySlots : List (Nat × Nat)
  imported : List Nat
  images : List Image
  /-- Checkpoint images on their way to the memory that the context names (R342). -/
  copies : List (Image × BitVec 64)
  permitSel : BitVec 64
  apertures : List (Nat × BitVec 64)
  ports : List Port
  routes : List (Nat × List Nat)
  deviceId : BitVec 12
  idents : List (Nat × BitVec 32)
  sent : List Outstanding
  memos : List Memo
  groups : List GroupEntry
  /-- MODEL: group entries that were revoked, each with the stage time of that (R391). -/
  revoked : List (GroupEntry × Nat)
  /-- Answers to peers that wait for a port (R377). -/
  replies : List Answer
  outputs : List Output
  curtain : Bool
  curtainCount : Nat
  /-- Stage time at which the curtain was asserted last (R371). -/
  curtainAt : Nat
  /-- What has arrived from peers under the curtain, and waits (R371). -/
  waiting : List Turn
  pcieUp : Bool
  debugOpen : Bool
  debugState : Bool
  /-- The stage-manager cores, the plug-ins, the images by measurement index that bring-up has verified and those it will find, and
  the security versions in fuses (R366 to R368). -/
  managers : List Manager
  plugins : List Plugin
  firmware : List (Nat × FirmwareImage)
  flash : List (Nat × FirmwareImage)
  fuses : List (Nat × Nat)
  thermalTrips : Nat
  /-- Errors that the ECC of the FOH die has corrected, and those it has not (R370). -/
  fohCorrected : Nat
  fohUncorrectable : Nat
  tripped : Bool
  /-- Steps of bring-up done (R365), and the step and image of one that failed (R367). -/
  bootStep : Nat
  recovery : Option (Nat × Nat)
  deriving DecidableEq, Repr

/-- Why the machine stops with a fault. -/
inductive Fault where
  /-- An instruction was asked to execute with no chorus that could issue it: raised by `exec` alone, never by
  a step of the device; safe. -/
  | noIssuer
  deriving DecidableEq, Repr

/-- Why an instruction has no meaning in the model. -/
inductive Refusal where
  /-- The instruction of that mnemonic is not modelled yet; safe. -/
  | notModelled (mnemonic : String)
  deriving DecidableEq, Repr

/-! ## Reset -/

/-- A cluster after a cold reset: powered, free, in its break-even hold (R362, R365 step 7). -/
def Cluster.init (n : Nat) : Cluster :=
  { num := n, owner := none, available := true, power := .hold (20000 * 36000), freed := none, wakeOrder := 0, record := 0,
    draw := 0, limit := 0, newLimit := none, nearLimit := false, overLimit := false, windowAt := 0, l2 := [] }

/-- A core after reset: band 3 (R150). -/
def Core.init (n : Nat) : Core :=
  { num := n, at_ := 0, began := 0, ready := none, bay := 0, issuing := none, mid := false, e1 := none, e2 := none, e3 := none, band := 3, bandCycle := 0, picked := [23, 23, 23, 23],
    credit := 0, ratio := 0, ratioDen := 1, stalled := false, arrayAt := 0, drowsy := List.range 48, waking := [], tlb := [], grants := [],
    outOfService := false }

/-- A die after reset: cistern 48 MiB, VF0 (R221, R365). -/
def Die.init (n : Nat) : Die :=
  { num := n, cistern := 48 * 1048576, point := 0, changing := none, temp := 0, lastStep := none, powered := true,
    corrected := 0, stackCorrected := 0, uncorrectable := 0, failedRouters := [], outOfService := false, pwc := [] }

/-- A ring after reset (R255). -/
def Ring.init : Ring := { base := 0, wr := 0, rd := 0, vec := 0 }

/-- A function after reset. -/
def Func.init (n : Nat) : Func :=
  { num := n, enabled := n == 0, xlinvAddr := 0, xlinvCtl := 0, ring1 := Ring.init, ring2 := Ring.init,
    s2root := 0, msix := [] }

/-- A disabled queue (R305). -/
def Queue.init : Queue :=
  { base := 0, ctl := 0, mirror := 0, w := 0, rd := 0, stopped := false, code := 0, stopIndex := 0,
    hold := .none, reread := none, failed := none, open_ := [], mirrorOwed := false }

/-- A context just created: every register 0, every queue disabled (R305). -/
def Context.init (id fn page : Nat) : Context :=
  { id := id, fn := fn, page := page, state := .created, root := 0, pasid := 0, policy := 0, pcount := 0,
    prio := 0, weight := 0, evBase := 0, evCtl := 0, evWr := 0, evRd := 0, denyBase := 0, denyCtl := 0, denyWr := 0,
    denyRd := 0, denyCnt := 0, denyOvf := 0, evLost := 0, noticeLost := 0, wdog := 0, wdogOld := 0, wdogFrom := 0, vt := 0,
    onStage := false, stopAt := 0, debugHalted := false, stepping := none, stepped := false, sliceOver := false, destroying := false, leaving := none,
    queues := List.replicate 16 Queue.init, partition := [], keySlot := 0, quotas := List.replicate 8 0,
    lastRun := 0, board := [], permits := [], responses := [], records := [], green := 0, greenSize := 0, rollbacks := [] }

/-- The context of firmware (R303, R366): its key slot is 0, and it holds no cluster at reset, so it is not resident. It belongs to no
function, so it has no context page: its page number is one past the last. -/
def Context.firmware : Context := { Context.init 0 0 256 with state := .saved }

/-- A link port after reset (log 2). -/
def Port.init (n : Nat) : Port :=
  { num := n, state := 0, lanes := 0, xoff := 0, peer := 0, crc := 0, fec := 0, replay := 0, errBeat := 0,
    row := 0, rowSeq := 0, lockLost := none, seq := 0, acked := 0, buffer := [] }

/-- The numbers of the 48 clusters. -/
def clusterIds : List Nat := List.range 48

/-- A stage-manager core after reset: the scheduler runs (R365, R366). -/
def Manager.init (n : Nat) : Manager := 
  { num := n, mode := .s, pmp := true, regions := [], call := none, pc := 0, x := List.replicate 31 0, f := List.replicate 32 0, fcsr := 0 }

/-- The images of the monitor and the scheduler with which the device is delivered, by their measurement index (R368). -/
def firstImages : List (Nat × FirmwareImage) :=
  [(2, { digest := 2, ecdsa := true, lms := true, version := 0 }), (3, { digest := 3, ecdsa := true, lms := true, version := 0 })]

/-- The device after a cold reset (R365). Cores are listed when they leave their reset values. -/
def State.reset : State :=
  { agenda := [], arg := { a := 0, b := 0, c := 0, d := 0, v := 0, x := .none }, cur := { co := 0, ch := 0 }, free := 0, uid := 1, now := 0, slew := 0, slewPart := 0, mem := [],
    memPoison := [], lines := [], dies := (List.range 8).map Die.init, clusters := clusterIds.map Cluster.init,
    cores := [], contexts := [Context.firmware], funcs := [Func.init 0], runs := [], troupes := [],
    companies := [], walks := [], requests := [], keySlots := [(0, 0)], imported := [], images := [], copies := [], permitSel := 0,
    apertures := [], ports := (List.range 16).map Port.init, routes := [], deviceId := 0, idents := [],
    sent := [], memos := [], groups := [], revoked := [], replies := [], outputs := [], curtain := false, curtainCount := 0, curtainAt := 0, waiting := [], pcieUp := true,
    debugOpen := false, debugState := false, managers := (List.range 8).map Manager.init, plugins := [], firmware := firstImages, flash := firstImages, fuses := []
    thermalTrips := 0, fohCorrected := 0, fohUncorrectable := 0, tripped := false, bootStep := 7, recovery := none }

end Sys2Proof.Machine
end

