-- ==== Sys2Proof/Machine/Mem.lean ====
section
/-!
DEFINITION. Memory: a canonical list of bytes at addresses; an address not listed reads 0 (R161, R190, R223, R365).
-/
namespace Sys2Proof.Machine

/-- What an unlisted address reads as (R365 step 4; log 3). -/
def emptyByte : Byte := 0

/-- One byte. -/
def Memory.read : Memory → Nat → Byte
  | [], _ => emptyByte
  | (k, b) :: t, a => if k = a then b else Memory.read t a

/-- One byte stored; storing what an unlisted address reads as removes the entry. -/
def Memory.write : Memory → Nat → Byte → Memory
  | [], a, v => if v = emptyByte then [] else [(a, v)]
  | (k, b) :: t, a, v =>
    if a < k then (if v = emptyByte then (k, b) :: t else (a, v) :: (k, b) :: t)
    else if a = k then (if v = emptyByte then t else (a, v) :: t)
    else (k, b) :: Memory.write t a v

/-- The canonical form: addresses strictly rising from at least `n`, and no entry at the unlisted value. -/
def Memory.wfFrom (n : Nat) : Memory → Bool
  | [] => true
  | (k, b) :: t => decide (n ≤ k) && b != emptyByte && Memory.wfFrom (k + 1) t

/-- The canonical form of a memory. -/
def Memory.wf (m : Memory) : Bool := Memory.wfFrom 0 m

/-- `n` bytes from address `a`. -/
def Memory.readBytes (m : Memory) (a n : Nat) : List Byte :=
  match n with
  | 0 => []
  | n + 1 => m.read a :: Memory.readBytes m (a + 1) n

/-- The little-endian number of `n` bytes at `a`. -/
def Memory.readLE (m : Memory) (a n : Nat) : Nat := ofBytesLE (m.readBytes a n)

/-- A 32-bit word. -/
def Memory.readWord (m : Memory) (a : Nat) : Word := BitVec.ofNat 32 (m.readLE a 4)

/-- Bytes stored from address `a` on. -/
def Memory.writeBytes (m : Memory) (a : Nat) : List Byte → Memory
  | [] => m
  | b :: r => Memory.writeBytes (m.write a b) (a + 1) r

/-- The entries of bytes from address `a` on. -/
def blockCells (a : Nat) : List Byte → Memory
  | [] => []
  | b :: r => if b = emptyByte then blockCells (a + 1) r else (a, b) :: blockCells (a + 1) r

/-- Many bytes stored at once from address `a` on. -/
def Memory.writeBlock (m : Memory) (a : Nat) (bs : List Byte) : Memory :=
  m.filter (fun c => decide (c.1 < a)) ++ blockCells a bs ++ m.filter (fun c => decide (a + bs.length ≤ c.1))

/-- The low `n` bytes of a number stored little-endian. -/
def Memory.writeLE (m : Memory) (a n v : Nat) : Memory := m.writeBytes a (bytesLE n v)

/-- A 32-bit word stored. -/
def Memory.writeWord (m : Memory) (a : Nat) (w : Word) : Memory := m.writeLE a 4 w.toNat

/-- `n` bits from bit address `a` (byte `a / 8`, lowest bit first), for packed elements (R58); at most 32 bits. -/
def Memory.readBits (m : Memory) (a n : Nat) : Nat := m.readLE (a / 8) 5 / 2 ^ (a % 8) % 2 ^ n

/-- `n` bits stored at bit address `a`, the neighbouring bits kept (R58). -/
def Memory.writeBits (m : Memory) (a n v : Nat) : Memory :=
  let sh := a % 8
  let k := ceilDiv (sh + n) 8
  let old := m.readLE (a / 8) k
  let keep := old % 2 ^ sh + old / 2 ^ (sh + n) * 2 ^ (sh + n)
  m.writeLE (a / 8) k (keep + v % 2 ^ n * 2 ^ sh)

end Sys2Proof.Machine
end

