-- ==== Sys2Proof/Machine/Ops.lean ====
section
/-!
DEFINITION. The named operations over the state: access to its parts, time, tiles, splits, waits, and taking a trap.
-/
namespace Sys2Proof.Machine

/-- The outcome of a meaning. -/
abbrev Out := Host.Outcome State Fault Refusal

/-! ## Parts of the state -/

def State.company? (s : State) (u : Nat) : Option Company := s.companies.find? (fun c => c.uid == u)

def State.setCompany (s : State) (c : Company) : State :=
  { s with companies := updWhere (fun d => d.uid == c.uid) (fun _ => c) s.companies }

def State.modCompany (s : State) (u : Nat) (f : Company → Company) : State :=
  { s with companies := updWhere (fun d => d.uid == u) f s.companies }

def Company.chorus? (c : Company) (i : Nat) : Option Chorus := c.choruses.find? (fun h => h.index == i)

def Company.setChorus (c : Company) (h : Chorus) : Company :=
  { c with choruses := updWhere (fun d => d.index == h.index) (fun _ => h) c.choruses }

def Company.modChorus (c : Company) (i : Nat) (f : Chorus → Chorus) : Company :=
  { c with choruses := updWhere (fun d => d.index == i) f c.choruses }

def State.chorus? (s : State) (u i : Nat) : Option Chorus := (s.company? u).bind (fun c => c.chorus? i)

def State.modChorus (s : State) (u i : Nat) (f : Chorus → Chorus) : State :=
  s.modCompany u (fun c => c.modChorus i f)

def State.context? (s : State) (i : Nat) : Option Context :=
  s.contexts.find? (fun c => c.id == i && decide (c.state ≠ .free))

def State.modContext (s : State) (i : Nat) (f : Context → Context) : State :=
  { s with contexts := updWhere (fun c => c.id == i) f s.contexts }

def State.run? (s : State) (ctx r : Nat) : Option Run := s.runs.find? (fun x => x.ctx == ctx && x.id == r)

def State.modRun (s : State) (ctx r : Nat) (f : Run → Run) : State :=
  { s with runs := updWhere (fun x => x.ctx == ctx && x.id == r) f s.runs }

def State.troupe? (s : State) (ctx r t : Nat) : Option Troupe :=
  s.troupes.find? (fun x => x.ctx == ctx && x.run == r && x.index == t)

def State.modTroupe (s : State) (ctx r t : Nat) (f : Troupe → Troupe) : State :=
  { s with troupes := updWhere (fun x => x.ctx == ctx && x.run == r && x.index == t) f s.troupes }

def State.func? (s : State) (n : Nat) : Option Func := s.funcs.find? (fun f => f.num == n)

def State.modFunc (s : State) (n : Nat) (f : Func → Func) : State :=
  { s with funcs := updWhere (fun x => x.num == n) f s.funcs }

def State.core (s : State) (n : Nat) : Core := (s.cores.find? (fun c => c.num == n)).getD (Core.init n)

def State.setCore (s : State) (c : Core) : State :=
  if s.cores.any (fun d => d.num == c.num)
  then { s with cores := updWhere (fun d => d.num == c.num) (fun _ => c) s.cores }
  else { s with cores := s.cores ++ [c] }

def State.cluster (s : State) (n : Nat) : Cluster := (s.clusters.find? (fun c => c.num == n)).getD (Cluster.init n)

def State.modCluster (s : State) (n : Nat) (f : Cluster → Cluster) : State :=
  { s with clusters := updWhere (fun c => c.num == n) f s.clusters }

def State.die (s : State) (n : Nat) : Die := (s.dies.find? (fun d => d.num == n)).getD (Die.init n)

def State.modDie (s : State) (n : Nat) (f : Die → Die) : State :=
  { s with dies := updWhere (fun d => d.num == n) f s.dies }

/-- The cluster and the die of a core (R210, R303). -/
def clusterOf (core : Nat) : Nat := core / 8
def dieOfCluster (cluster : Nat) : Nat := cluster / 6
def dieOfCore (core : Nat) : Nat := core / 48

/-- A value the spec leaves open: fresh and unconstrained (log 5). -/
def State.freeValue (s : State) : BitVec 64 × State := (Config.freeWord s.free, { s with free := s.free + 1 })

/-- A number no other object has. -/
def State.fresh (s : State) : Nat × State := (s.uid, { s with uid := s.uid + 1 })

/-! ## Time (R148, R149, R325 to R327, R360) -/

/-- Ticks in a nanosecond: the least unit in which every cycle length of R148 and R360 is whole (log 6). -/
def ticksPerNs : Nat := 36000

/-- The factor of a voltage and frequency point, in hundredths (R360). -/
def pointFactor (p : Nat) : Nat :=
  match p with
  | 0 => 100
  | 1 => 125
  | 2 => 160
  | _ => 225

/-- The nominal cycle length of a class in ticks (R148). -/
def classTicks : TClass → Nat
  | .t0 => 14400
  | .t1 => 18000
  | .t2 => 22500
  | .t3 => 36000

/-- The longest cycle of a core, by which stage time may move on at once: a stated bound falls before it (R24, R361). -/
def longestCycle : Nat := 81000

/-- The order of the classes. -/
def TClass.num : TClass → Nat
  | .t0 => 0
  | .t1 => 1
  | .t2 => 2
  | .t3 => 3

/-- The higher of two classes. -/
def TClass.max (a b : TClass) : TClass := if a.num < b.num then b else a

/-- A context's clock runs while it is on stage, not halted by a debugger and not under the curtain (R328). -/
def Context.running (c : Context) (curtain : Bool) : Bool := c.onStage && !c.debugHalted && !curtain

/-- Whether a context is on its way out: nothing of it is placed, served or issued any more. -/
def Context.leaves (c : Context) : Bool := c.destroying || c.leaving.isSome

/-- Whether all splits of a chorus wait on memory or a tile (R157). -/
def Chorus.waitsOnMemory (h : Chorus) : Bool := !h.splits.isEmpty && h.splits.all (fun p => p.state == .waitMemory)

/-- Whether a core holds a company that runs, and its die's clocks run (R361, R371). -/
def State.coreRuns (s : State) (core : Nat) : Bool :=
  !s.curtain && (s.die (dieOfCore core)).changing.isNone &&
    s.companies.any (fun k => k.core == core && k.state == .running &&
      (s.context? k.ctx).any (fun c => c.running s.curtain))

/-- The length of a core's current cycle at a point (R149): the highest class in E1, E2 and E3. -/
def Core.stageTicks (c : Core) (point : Nat) : Nat :=
  let up (o : Option TClass) (k : TClass) : TClass := match o with | some x => x.max k | none => k
  classTicks (up c.e1 (up c.e2 (up c.e3 .t0))) * pointFactor point / 100

/-- The point of a core's die. -/
def State.pointOf (s : State) (core : Nat) : Nat := (s.die (dieOfCore core)).point

/-- Whether a core's cycles pass although nothing issues: its clocks run and no company on it does. -/
def State.coreRests (s : State) (core : Nat) : Bool :=
  !s.curtain && (s.die (dieOfCore core)).changing.isNone && !s.coreRuns core

/-- `n` cycles of a core that rests, each of `len` ticks: its windows pass, and with no ready chorus the arbiter sets band 3 (R150);
its stages move on (R149), and banks that wake are awake in time (R157). -/
def Core.idleCycles (c : Core) (n len : Nat) : Core :=
  if n = 0 then c
  else
    { c with
      at_ := c.at_ + n * len, began := c.at_ + (n - 1) * len, ready := none, bay := 0, issuing := none, mid := false, stalled := false
      e1 := if n = 1 then c.issuing else none, e2 := if n = 1 then c.e1 else none, e3 := if n = 1 then c.e2 else none
      band := if 8 ≤ c.bandCycle + n then 3 else c.band, bandCycle := (c.bandCycle + n) % 8
      waking := (c.waking.map (fun b => (b.1, b.2 - n))).filter (fun b => b.2 != 0) }

/-- Whether a core's stages hold no instruction, and none is to enter them. -/
def Core.drained (c : Core) : Bool := c.issuing.isNone && c.e1.isNone && c.e2.isNone && c.e3.isNone

/-- Single cycles of a core that rests while its stages still hold instructions, each as long as these make it (R149). -/
def Core.drainTo (c : Core) (t point : Nat) : Nat → Core
  | 0 => c
  | k + 1 => if c.drained || decide (t < c.at_ + c.stageTicks point) then c else (c.idleCycles 1 (c.stageTicks point)).drainTo t point k

/-- The cycles of a core that rests, up to the one under way at `t`. -/
def Core.idleTo (c : Core) (t point : Nat) : Core :=
  let c := c.drainTo t point 4
  if c.drained then c.idleCycles ((t - c.at_) / c.stageTicks point) (c.stageTicks point) else c

/-- Register banks of a core (R157). -/
def bankIds : List Nat := List.range 48

/-- A core none of whose rows is allocated has no bank awake (R157). -/
def Core.asleep (c : Core) : Core := { c with drowsy := bankIds, waking := [] }

/-- Whether no company holds rows of a core. -/
def State.coreBare (s : State) (core : Nat) : Bool := !s.companies.any (fun k => k.core == core && k.state == .running)

/-- The bank rows of a core that its choruses hold, lowest first (log 22): company, chorus and first row. -/
def State.rowsOn (s : State) (core : Nat) : List (Nat × Chorus × Nat) :=
  ((s.companies.filter (fun k => k.core == core && k.state == .running)).flatMap (fun k => k.choruses.map (fun h => (k.uid, h)))).foldl
    (fun (r : List (Nat × Chorus × Nat)) p => r ++ [(p.1, p.2, total (r.map (fun q => 16 + q.2.1.ring.length)))]) []

/-- The bank of a row of a chorus, counted as marks of poison count it. -/
def State.bankOf (s : State) (k : Company) (h : Chorus) (row : Nat) : Nat :=
  ((((s.rowsOn k.core).find? (fun r => r.1 == k.uid && r.2.1.index == h.index)).map (·.2.2)).getD 0 + row) / 128

/-- Whether a bank is awake, and a bank that begins to wake, over two more cycles of its core (R157). -/
def Core.awake (c : Core) (b : Nat) : Bool := !c.drowsy.contains b && c.waking.all (fun w => w.1 != b)
def Core.wake (c : Core) (b : Nat) : Core :=
  if c.drowsy.contains b then { c with drowsy := c.drowsy.filter (· != b), waking := c.waking ++ [(b, 2)] } else c

/-- Stage time moves on by `d` ticks, slewed by at most a tick in every 10,000 (R325), and the clock of every context
on stage with it (R327), from the stage time of a stop that has been taken back on. The starts of the cores' cycles are slewed too, so that `vt` stays the sum of cycle lengths
(R158). -/
def State.advance (s : State) (d : Nat) : State :=
  let lim : Int := (s.slewPart + d) / 10000
  let c : Int := if s.slew > lim then lim else if s.slew < -lim then -lim else s.slew
  let dt : Nat := (Int.ofNat d + c).toNat
  { s with
    now := s.now + dt
    slew := s.slew - c
    slewPart := if s.slew == c then 0 else (s.slewPart + d) % 10000
    cores := s.cores.map (fun k =>
      let k := if c == 0 then k else { k with at_ := (Int.ofNat k.at_ + c).toNat, began := (Int.ofNat k.began + c).toNat }
      let k := if s.coreRests k.num then k.idleTo (s.now + dt) (s.pointOf k.num) else k
      if s.coreBare k.num then k.asleep else k)
    contexts := s.contexts.map (fun x => if x.running s.curtain then { x with vt := x.vt + (dt - (x.stopAt - s.now)) } else x)
    clusters := s.clusters.map (fun x =>
      if s.curtain || (s.die (x.num / 6)).changing.isSome then x else { x with windowAt := x.windowAt + dt })
    companies := s.companies.map (fun k => { k with choruses := k.choruses.map (fun h =>
      { h with memWait := if !h.waitsOnMemory then 0 else if (s.context? k.ctx).any (fun x => x.running s.curtain) then h.memWait + dt else h.memWait }) }) }

/-- The `vt` of a context in whole nanoseconds (R327). -/
def State.vtNs (s : State) (ctx : Nat) : Nat := ((s.context? ctx).map (fun c => c.vt / ticksPerNs)).getD 0

/-- The `vt` of a context in ticks. -/
def State.vtTicks (s : State) (ctx : Nat) : Nat := ((s.context? ctx).map (·.vt)).getD 0

/-- The `vt` at which the last cycle of a company's core began: the deadlines up to it have passed (R330). -/
def State.deadlineVt (s : State) (c : Company) : Nat := s.vtTicks c.ctx - (s.now - (s.core c.core).began)

/-- The length of a core's current cycle (R149): the highest class in E1, E2 and E3, at the die's point. -/
def State.cycleTicks (s : State) (core : Nat) : Nat := (s.core core).stageTicks (s.pointOf core)

/-- Whether a split can issue: ready or running, on chip, and not waiting. -/
def Split.issuable (p : Split) : Bool :=
  (p.state == .ready || p.state == .running) && !p.spilled && p.wait == .none

/-- A chorus is ready when its next instruction is decoded and its running split can issue (R151). -/
def Chorus.isReady (h : Chorus) : Bool :=
  h.halted.isNone && !h.ended && !h.fetching && h.splits.any (fun p => p.state == .running && p.issuable)

/-- The least of a list of numbers. -/
def least : List Nat → Option Nat
  | [] => none
  | a :: r => some (match least r with | none => a | some b => Nat.min a b)

/-- Whether a chain is mid-issue on a core. -/
def State.chainMid (s : State) (core : Nat) : Bool :=
  s.companies.any (fun k => k.core == core && k.state == .running && k.choruses.any (fun h => h.chain.isSome && h.halted.isNone))

/-- Notes that the chorus of a debugger's step has issued an instruction or a whole chain on a core in this cycle (R329). -/
def State.noteSteps (s : State) (core : Nat) : State :=
  let did (c : Context) : Bool :=
    match c.stepping with
    | none => false
    | some (u, ch, _) =>
      s.companies.any (fun k => k.uid == u && k.core == core && k.choruses.any (fun h => h.index == ch && (h.issued || h.refused) && h.chain.isNone))
  { s with contexts := s.contexts.map (fun (c : Context) => if did c then { c with stepped := true } else c) }

/-- Whether a debugger's step is over (R329): its chorus has ended or halted, or it has issued and no member of the stepped split
waits. -/
def State.stepOver (s : State) (c : Context) : Bool :=
  match c.stepping with
  | none => false
  | some (u, ch, m) =>
    match (s.company? u).bind (fun k => k.chorus? ch) with
    | none => true
    | some h => h.halted.isSome || h.ended || (c.stepped && h.splits.all (fun p => p.members &&& m == 0 || p.wait == .none))

/-- The end of a core's cycle (R149, R151, R156, R158): `cyc` of its company advances by one, the execute stages move,
the tiles it released age (R169), the waits of its ready choruses count, and the core goes on from the end of the cycle. Stage time reaches the
earliest start of a cycle among the cores that run. -/
def State.endCycle (s : State) (core : Nat) (stall : Bool) : State :=
  let d := s.cycleTicks core
  let c := s.core core
  let start := Nat.max c.at_ s.now
  let s : State := s.noteSteps core
  let credit := if stall then c.credit - c.ratioDen else if c.stalled || c.mid then c.credit else c.credit + c.ratio
  let s : State := s.setCore
    { c with at_ := start + d, began := start, ready := none, bay := 0, issuing := none, mid := s.chainMid core, e1 := c.issuing, e2 := c.e1, e3 := c.e2,
             bandCycle := c.bandCycle + 1, stalled := stall, credit := credit
             waking := (c.waking.map (fun b => (b.1, b.2 - 1))).filter (fun b => b.2 != 0) }
  let s : State :=
    { s with companies := s.companies.map (fun (k : Company) =>
        if k.core == core && k.state == .running then
          { k with
            cyc := k.cyc + 1
            tiles := k.tiles.map (fun (t : Tile) => if t.state == .draining then { t with drainAge := t.drainAge + 1 } else t)
            choruses := k.choruses.map (fun (h : Chorus) =>
              if !h.isReady then { h with readyAge := 0, bandWait := 0, issued := false, refused := false }
              else if h.issued then { h with readyAge := 1, bandWait := 1, issued := false, refused := false }
              else { h with readyAge := h.readyAge + 1, bandWait := h.bandWait + 1, refused := false }) }
        else k) }
  match least ((s.cores.filter (fun (k : Core) => s.coreRuns k.num)).map (·.at_)) with
  | none => s.advance d
  | some t => if s.now < t then s.advance (t - s.now) else s

/-- Notes the class of an issue in the cycle under way, and that the core's next bay has its turn. -/
def State.noteIssue (s : State) (core : Nat) (k : TClass) : State :=
  let c := s.core core
  s.setCore { c with issuing := some (match c.issuing with | none => k | some j => j.max k), bay := c.bay + 1 }

/-- Charges a cluster's current record (R154). -/
def State.charge (s : State) (cluster n : Nat) : State :=
  s.modCluster cluster (fun c => { c with record := c.record + n })

/-! ## The issuing split -/

/-- The company, the chorus and the running split that an instruction acts on. -/
structure Site where
  co : Company
  ch : Chorus
  sp : Split
  deriving DecidableEq, Repr

/-- The running split of the chorus that issues. -/
def State.site? (s : State) : Option Site :=
  match s.company? s.cur.co with
  | none => none
  | some co =>
    match co.chorus? s.cur.ch with
    | none => none
    | some ch =>
      if co.state == .running && ch.halted.isNone && !ch.ended then
        (ch.splits.find? (fun p => p.state == .running)).map (fun sp => { co := co, ch := ch, sp := sp })
      else none

/-- A chorus with its split of the same members replaced. -/
def Chorus.setSplit (h : Chorus) (p : Split) : Chorus :=
  { h with splits := updWhere (fun q => q.members == p.members) (fun _ => p) h.splits }

/-- The state with the site's split, chorus and company written back. -/
def State.put (s : State) (x : Site) : State := s.setCompany (x.co.setChorus (x.ch.setSplit x.sp))

/-- The lanes that act (R15). -/
def Site.active (x : Site) : Mask := x.sp.xm &&& x.sp.members &&& ~~~x.ch.exited

/-- The members that have not exited. -/
def Site.live (x : Site) : Mask := x.sp.members &&& ~~~x.ch.exited

/-- The lowest active lane (R6). -/
def Site.leader? (x : Site) : Option Nat := lowest x.active

/-- The leader, or with an empty active set the lowest member that has not exited (R16). -/
def Site.leaderOrMember (x : Site) : Nat := ((lowest x.active).orElse (fun _ => lowest x.live)).getD 0

/-- The chorus's name. -/
def Site.ref (x : Site) : ChorusRef := { co := x.co.uid, ch := x.ch.index }

/-! ## Registers (R11, R12, R14) -/

/-- Row of register `n` in a chorus seen from window base `wb`; v0 reads zero. -/
def Chorus.row (h : Chorus) (wb n : Nat) : Lanes :=
  if n == 0 then Lanes.zero
  else if n < 16 then h.house.getD n Lanes.zero
  else h.ring.getD ((wb + n - 16) % h.ring.length) Lanes.zero

/-- Lane `l` of register `n` as the split sees it. -/
def Site.reg (x : Site) (n l : Nat) : Word := (x.ch.row x.sp.wb n).at l

/-- Writes `f l` to register `n` in the lanes of `m`; a write to v0 is dropped. A write that covers a whole 32-byte
granule, eight lanes, clears its mark of poison (R348). -/
def Chorus.setRow (h : Chorus) (wb n : Nat) (m : Mask) (f : Nat → Word) : Chorus :=
  let new (old : Lanes) : Lanes := Lanes.ofFn (fun l => if m.has l then f l else old.at l)
  let whole (g : Nat) : Bool := (List.range 8).all (fun k => m.has (8 * g + k))
  let clean (r : Nat) : List (Nat × Nat) := h.poison.filter (fun q => !(q.1 == r && whole q.2))
  if n == 0 then h
  else if n < 16 then { h with house := updAt h.house n new, poison := clean n }
  else
    let r := (wb + n - 16) % h.ring.length
    { h with ring := updAt h.ring r new, poison := clean (16 + r) }

/-- Writes `w` to an absolute row of the ring in the lanes of `m` (R127). -/
def Chorus.setAbs (h : Chorus) (row : Nat) (m : Mask) (w : Word) : Chorus :=
  h.setRow row 16 m (fun _ => w)

/-- Lane `l` of an absolute row of the ring (R130). -/
def Chorus.absRow (h : Chorus) (row l : Nat) : Word := (h.row row 16).at l

/-- Writes a register of the split in its active lanes. -/
def Site.write (x : Site) (n : Nat) (f : Nat → Word) : Site :=
  { x with ch := x.ch.setRow x.sp.wb n x.active f }

/-- Writes a register in the lanes of a mask. -/
def Site.writeMask (x : Site) (n : Nat) (m : Mask) (f : Nat → Word) : Site :=
  { x with ch := x.ch.setRow x.sp.wb n m f }

/-- Latches outside a chain (R21). -/
def noLatches : List Lanes := [Lanes.zero, Lanes.zero, Lanes.zero, Lanes.zero]

/-! ## The needed range (R126) -/

/-- The needed range of a split. -/
def Split.needed (p : Split) : Nat × Nat := (if p.depth = 0 then p.wb else p.wb - 1, p.wb + p.frame)

/-- The end of the range when registers are named. -/
def rangeEnd (wb : Nat) (hi : Nat) : List Nat → Nat
  | [] => hi
  | n :: r => rangeEnd wb (if 16 ≤ n then Nat.max hi (wb + n - 15) else hi) r

/-- Whether a range of rows is resident. -/
def Chorus.resident (h : Chorus) (r : Nat × Nat) : Bool := decide (h.low ≤ r.1) && decide (r.2 ≤ h.high)

/-- The operations in flight that a lane of a mask awaits (R117, R121). -/
def Chorus.outstanding (h : Chorus) (m : Mask) : Nat := (h.inflight.filter (fun f => f.members &&& m != 0)).length

/-! ## Choosing a split (R121) -/

/-- Whether a split is ready but for its window: it waits for nothing, and its entry is on chip. -/
def Split.choosable (p : Split) : Bool := p.state == .ready && !p.spilled && p.wait == .none

/-- Whether a split is ready, so that it may be chosen to run: its window is resident too (R121, R126). -/
def Chorus.canRun (h : Chorus) (p : Split) : Bool := p.choosable && h.resident p.needed

/-- A split whose window is not resident is in state 0x3, and asks the pump for it (R121, R126, R132). -/
def Chorus.windowed (h : Chorus) : Chorus :=
  let out (p : Split) : Bool := p.choosable && !h.resident p.needed
  { h with
    splits := updWhere out (fun p => { p with state := .waitWindow, wait := .window p.needed.1 p.needed.2 }) h.splits
    requests := h.requests ++ (h.splits.filter out).map (·.members) }

/-- Whether `a` is chosen before `b`: fewer outstanding memory operations, then the lower member mask. -/
def Split.before (a b : Split) : Bool := a.mem < b.mem || (a.mem == b.mem && a.members.toNat < b.members.toNat)

/-- The best split of some to run. -/
def bestSplit : List Split → Option Split
  | [] => none
  | p :: r =>
    match bestSplit r with
    | none => some p
    | some q => if p.before q then some p else some q

/-- Chooses a split when none runs; the count of consecutive issues restarts. -/
def Chorus.choose (h : Chorus) : Chorus :=
  if h.splits.any (fun p => p.state == .running) then h
  else
    let h := h.windowed
    match bestSplit (h.splits.filter h.canRun) with
    | none => h
    | some p => h.setSplit { p with state := .running, issues := 0 }

/-- The split that runs goes back to those that are ready. -/
def Chorus.putBack (h : Chorus) : Chorus :=
  { h with splits := updWhere (fun (q : Split) => q.state == SplitState.running) (fun q => { q with state := SplitState.ready }) h.splits }

/-- A split is chosen afresh among those that are ready, and the one that ran goes back to ready (R121, log 25). -/
def Chorus.rechoose (h : Chorus) : Chorus :=
  match bestSplit (h.splits.filter h.canRun) with
  | none => h
  | some p => h.putBack.setSplit { p with state := .running, issues := 0 }

/-! ## The pump's choice (R132, R134) -/

/-- The range that a waiting split asks for. -/
def rowsAwaited : Wait → Option (Nat × Nat)
  | .window a b => some (a, b)
  | .link a b _ => some (a, b)
  | .outcome a b _ _ => some (a, b)
  | _ => none

/-- Whether a split is ready or running: one whose entry is spilled, or whose window is not resident, is not ready (R121, R132). -/
def Chorus.isActive (h : Chorus) (p : Split) : Bool := (p.state == .running && !p.spilled) || h.canRun p

/-- The rows that a split keeps: those it needs, and those the pump has brought for it (R134). -/
def Chorus.rowsKept (h : Chorus) (p : Split) : Nat × Nat :=
  match h.served with
  | some (m, a, b) => if m == p.members then (Nat.min a p.needed.1, Nat.max b p.needed.2) else p.needed
  | none => p.needed

/-- The hull of a range and the needed ranges of all ready and running splits. -/
def Chorus.hull (h : Chorus) (r : Nat × Nat) : Nat × Nat :=
  (h.splits.filter h.isActive).foldl (fun r p => (Nat.min r.1 (h.rowsKept p).1, Nat.max r.2 (h.rowsKept p).2)) r

/-- Whether a range fits the ring beside those of all ready and running splits. -/
def Chorus.hullFits (h : Chorus) (r : Nat × Nat) : Bool := decide ((h.hull r).2 - (h.hull r).1 ≤ h.ring.length)

/-- The range that is served: the hull when it fits the ring, else the split's own. -/
def Chorus.servedRange (h : Chorus) (r : Nat × Nat) : Nat × Nat := if h.hullFits r then h.hull r else r

/-- Numbers from `a` below `b`. -/
def rowsFrom (a b : Nat) : List Nat := (List.range (b - a)).map (a + ·)

/-- The move that brings a range in by the least amount. -/
def Chorus.moveFor (h : Chorus) (r : Nat × Nat) : PumpMove :=
  let ring := h.ring.length
  let low2 := Nat.min r.1 (Nat.max h.low (r.2 - ring))
  let high2 := Nat.max r.2 (Nat.min h.high (low2 + ring))
  { low2 := low2, high2 := high2, moving := true, since := 0
    spill := (rowsFrom h.low h.high).filter (fun n => decide (n < low2) || decide (high2 ≤ n))
    fill := (rowsFrom low2 high2).filter (fun n => decide (n < h.low) || decide (h.high ≤ n)) }

/-- Whether the pump spills no row of a split to serve another: of the one that runs, and of the one served last until it has issued
or stalled (R134). -/
def Chorus.protects (h : Chorus) (p : Split) : Bool :=
  (p.state == .running && !p.spilled) || (h.served.any (fun v => v.1 == p.members) && h.isActive p)

/-- Whether a move spills a row of a split. -/
def PumpMove.spills (m : PumpMove) (r : Nat × Nat) : Bool := m.spill.any (fun n => decide (r.1 ≤ n) && decide (n < r.2))

/-- Whether the pump may serve a range now: where the spread does not fit, the move takes no row of a split it protects (R134). -/
def Chorus.mayServe (h : Chorus) (r : Nat × Nat) : Bool :=
  h.hullFits r || (h.splits.filter h.protects).all (fun p => !(h.moveFor r).spills (h.rowsKept p))

/-- What a split asks the pump for. -/
def Chorus.asksFor (h : Chorus) (m : Mask) : Option (Nat × Nat) := (h.splits.find? (fun p => p.members == m)).bind (fun p => rowsAwaited p.wait)

/-- The oldest request of a split that still waits. -/
def Chorus.request? (h : Chorus) : Option (Nat × Nat) := h.requests.findSome? h.asksFor

/-- Whether the split that runs keeps the pump from the oldest request: the splits alternate (R134, log 89). -/
def Chorus.crowded (h : Chorus) : Bool := h.pump.isNone && h.request?.any (fun r => !h.mayServe r)

/-! ## Merging (R122) -/

/-- Whether two splits belong to one merge set. -/
def Split.sameJoin (a b : Split) : Bool := a.joinPc == b.joinPc && a.wb == b.wb && a.depth == b.depth

/-- The join PC of a split that has none. -/
def noJoin : Word := 0xFFFFFFFF

/-- Whether a split has arrived at a join point. -/
def Split.isArrived (p : Split) : Bool := p.state == .arrived

/-- An arrived split whose whole merge set has arrived. -/
def mergeReady (ps : List Split) : Option Split :=
  ps.find? (fun p => p.isArrived && !p.spilled && p.joinPc != noJoin &&
    ps.all (fun q => !q.sameJoin p || (q.isArrived && !q.spilled)))

/-- Frees join-format entries (R122): after a merge of `key`, its entry when no split holds that key; and every entry
whose join PC no split holds. -/
def freeJoins (ps : List Split) (key : Option Split) (js : List JoinFmt) : List JoinFmt :=
  js.filter (fun j =>
    ps.any (fun q => q.joinPc == j.joinPc) &&
      (match key with
       | none => true
       | some k =>
         if j.joinPc == k.joinPc && j.wb == k.wb && j.depth == k.depth
         then ps.any (fun q => q.joinPc == j.joinPc && q.wb == j.wb && q.depth == j.depth) else true))

/-- The split of the set with the lowest member mask. -/
def lowestSplit : List Split → Option Split
  | [] => none
  | p :: r =>
    match lowestSplit r with
    | none => some p
    | some q => if p.members.toNat < q.members.toNat then some p else some q

/-- Writes the outcome of a wait in the active lanes of a split. -/
def writeOutcome (h : Chorus) (m : Split) (vds : List (BitVec 6)) (v : Word) : Chorus :=
  vds.foldl (fun h d => h.setRow m.wb d.toNat (m.xm &&& m.members &&& ~~~h.exited) (fun _ => v)) h

/-- The `rcv.t` destinations among arrived splits. -/
def timedVds (set : List Split) : List (BitVec 6) :=
  set.filterMap (fun p => match p.wait with | .joinT _ vd => some vd | _ => none)

/-- Whether the rows of registers seen from `wb` are resident. -/
def Chorus.holdsRows (h : Chorus) (wb : Nat) (regs : List Nat) : Bool :=
  regs.all (fun n => decide (n < 16) || h.resident (wb + n - 16, wb + n - 15))

/-- A split whose wait is over takes its place with the outcome `v`. Where a destination's row is not resident, since the pump has moved
the ring meanwhile, the split waits for it, and the outcome is written then (R123, R126). -/
def Chorus.settleOutcome (h : Chorus) (m : Split) (vds : List (BitVec 6)) (v : Word) : Chorus :=
  let regs := vds.map (·.toNat)
  if h.holdsRows m.wb regs then writeOutcome h m vds v
  else
    let w : Wait := .outcome m.needed.1 (rangeEnd m.wb m.needed.2 regs) vds v
    { h.setSplit { m with state := .waitWindow, wait := w } with requests := h.requests ++ [m.members] }

/-- Replaces the arrived splits of a set by the merged split (R15, R122), writing `v` for each `rcv.t` among them. -/
def Chorus.mergeSet (h : Chorus) (key : Split) (v : Word) : Chorus :=
  let set := h.splits.filter (fun q => q.sameJoin key && q.isArrived)
  let rest := h.splits.filter (fun q => !(q.sameJoin key && q.isArrived))
  let members := set.foldl (fun m q => m ||| q.members) 0 &&& ~~~h.exited
  let frame := set.foldl (fun f q => Nat.max f q.frame) 0
  let fmt : BitVec 16 :=
    match h.joins.find? (fun j => j.joinPc == key.joinPc && j.wb == key.wb && j.depth == key.depth) with
    | some j => j.fmt.setWidth 16
    | none => ((lowestSplit set).map (·.fmt)).getD 0
  let merged : Split :=
    { key with members := members, xm := members, frame := frame, pc := key.joinPc + 4, joinPc := noJoin, fmt := fmt,
               mem := h.outstanding members, state := .ready, wait := .none, issues := 0 }
  let splits := if members == 0 then rest else rest ++ [merged]
  let h := { h with splits := splits, joins := freeJoins splits (some key) h.joins }
  if members == 0 then h else h.settleOutcome merged (timedVds set) v

/-- Completes every merge whose set has arrived. -/
def mergeLoop (fuel : Nat) (h : Chorus) : Chorus :=
  match fuel with
  | 0 => h
  | n + 1 =>
    match mergeReady h.splits with
    | none => { h with joins := freeJoins h.splits none h.joins }
    | some p => mergeLoop n (h.mergeSet p 0)

/-- Splits all of whose members have exited arrive at once, or end where they have no join point (R16); then the
merge sets are evaluated again, and a split is chosen. -/
def Chorus.reconverge (h : Chorus) : Chorus :=
  let gone (p : Split) : Bool := p.members &&& ~~~h.exited == 0
  let ps := h.splits.filter (fun p => !(gone p && p.joinPc == noJoin))
  let ps := ps.map (fun p => if gone p && !p.isArrived then { p with state := .arrived, wait := .join } else p)
  (mergeLoop 33 { h with splits := ps }).windowed.choose

/-! ## The split table (R17) -/

/-- Entries kept on chip. -/
def onChip : Nat := 16

/-- The highest-masked split that satisfies `p`. -/
def highestSplit (p : Split → Bool) : List Split → Option Split
  | [] => none
  | q :: r =>
    match highestSplit p r with
    | none => if p q then some q else none
    | some t => if p q && decide (t.members.toNat < q.members.toNat) then some q else some t

/-- The lowest place of the split area that no spilled entry has (R23). -/
def freePlace (ps : List Split) : Nat :=
  ((List.range 16).find? (fun k => ps.all (fun p => !p.spilled || p.place != k))).getD 0

/-- One entry leaves the chip: it has a place of the split area, and the pump owes its image there. -/
def spillEntry (m : Mask) (ps : List Split) : List Split :=
  updWhere (fun p => p.members == m) (fun p => { p with spilled := true, place := freePlace ps, owed := true }) ps

/-- Spills entries until at most 16 are on chip: arrived entries first, then others, the highest member mask first. -/
def spillLoop (fuel : Nat) (ps : List Split) : List Split :=
  match fuel with
  | 0 => ps
  | n + 1 =>
    if (ps.filter (fun p => !p.spilled)).length ≤ onChip then ps
    else
      let victim :=
        (highestSplit (fun p => p.isArrived && !p.spilled) ps).orElse
          (fun _ => highestSplit (fun p => !p.spilled && p.state != .running) ps)
      match victim with
      | none => ps
      | some v => spillLoop n (spillEntry v.members ps)

/-! ## Divergence (R117) -/

/-- Groups the lanes of a list by next PC, in the order in which the PCs first occur. -/
def groupByPc : List (Nat × Word) → List (Word × Mask) → List (Word × Mask)
  | [], acc => acc
  | (l, pc) :: r, acc =>
    let bit : Mask := 1#32 <<< l
    if acc.any (fun g => g.1 == pc)
    then groupByPc r (updWhere (fun g => g.1 == pc) (fun g => (g.1, g.2 ||| bit)) acc)
    else groupByPc r (acc ++ [(pc, bit)])

/-- Records the `fmt` of a divergence under the key of the dividing split, unless the key is recorded (R117). -/
def recordJoin (h : Chorus) (p : Split) : List JoinFmt :=
  if p.joinPc == noJoin || h.joins.any (fun j => j.joinPc == p.joinPc && j.wb == p.wb && j.depth == p.depth)
  then h.joins
  else h.joins ++ [{ joinPc := p.joinPc, wb := p.wb, depth := p.depth, fmt := p.fmt.extractLsb' 0 12 }]

/-- Replaces the running split by others, with the table's spills (R17) and the merge sets evaluated afresh (R122). -/
def Site.replace (x : Site) (new : List Split) : Chorus :=
  let counted := new.map (fun p =>
    { p with
      mem := x.ch.outstanding p.members
      state := SplitState.ready
      issues := 0 })
  let rest := x.ch.splits.filter (fun p => p.members != x.sp.members)
  ({ x.ch with joins := recordJoin x.ch x.sp, splits := spillLoop 32 (rest ++ counted), chain := none }).reconverge

/-- The splits of a divergence by next PC. The group of `leader` takes the members that are not active. -/
def Site.parts (x : Site) (groups : List (Word × Mask)) : List Split :=
  let lead := (x.leader?).getD 0
  let idle := x.live &&& ~~~x.active
  groups.map (fun g =>
    { x.sp with members := if g.2.has lead then g.2 ||| idle else g.2, xm := g.2, pc := g.1, wait := .none })

/-! ## Tiles (R166 to R171) -/

/-- Width in bits of a format (R52). -/
def formatBits (f : BitVec 4) : Nat :=
  match f.toNat with
  | 0 => 8
  | 1 => 8
  | 2 => 6
  | 3 => 6
  | 4 => 4
  | 5 => 8
  | 6 => 8
  | 7 => 4
  | 8 => 4
  | 9 => 16
  | 10 => 16
  | 11 => 32
  | 12 => 32
  | 13 => 8
  | _ => 0

/-- Row pitch in bytes (R167). -/
def pitch (cols width : Nat) : Nat := ceilDiv (cols * width) 128 * 16

/-- Extent of a tile in bytes (R167). -/
def Tile.extent (t : Tile) : Nat := t.rows * pitch t.cols (formatBits t.format)

def Company.tile? (c : Company) (t : Nat) : Option Tile := c.tiles[t]?

def Company.setTile (c : Company) (n : Nat) (t : Tile) : Company := { c with tiles := updAt c.tiles n (fun _ => t) }

def Company.modTile (c : Company) (n : Nat) (f : Tile → Tile) : Company := { c with tiles := updAt c.tiles n f }

/-- One reader more, and one less (R168). -/
def Company.readTile (c : Company) (n : Nat) : Company := c.modTile n (fun t => { t with readers := t.readers + 1 })
def Company.unreadTile (c : Company) (n : Nat) : Company := c.modTile n (fun t => { t with readers := t.readers - 1 })

/-- A fill names the tile as its target (R169, R170): an empty tile becomes filling with the fill's shape, a draining
tile without a claim is claimed and takes the shape when it becomes filling. `none` is the tile-state trap. -/
def Tile.fill? (t : Tile) (shape : BitVec 4 × Nat × Nat) : Option Tile :=
  match t.state with
  | .empty => some { t with state := .filling, format := shape.1, cols := shape.2.1, rows := shape.2.2 }
  | .draining => if t.claim then none else some { t with claim := true, claimShape := some shape }
  | _ => none

/-- The end of a drain (R169): with no readers the tile becomes filling when claimed, else empty. -/
def Tile.drained (t : Tile) : Tile :=
  if t.state == .draining && t.readers == 0 && decide (2 ≤ t.drainAge) then
    if t.claim then
      match t.claimShape with
      | some (f, c, r) => { t with state := .filling, claim := false, claimShape := none, drainAge := 0, format := f, cols := c, rows := r }
      | none => { t with state := .filling, claim := false, drainAge := 0 }
    else { t with state := .empty, drainAge := 0 }
  else t

/-! ## Traps (R26, R140, R349, R350) -/

/-- Puts an asynchronous trap on a chorus (R187, R241). -/
def Company.asyncTrap (c : Company) (ch : Nat) (t : AsyncTrap) : Company :=
  c.modChorus ch (fun h => { h with traps := h.traps ++ [t] })

/-- Status added to the completion-event counter (R242), and pending bit 4 (R332). -/
def Chorus.postEvent (h : Chorus) (status : Nat) : Chorus :=
  let low := (h.events.toNat % 2 ^ 24 + 1) % 2 ^ 24
  let high := (h.events.toNat / 2 ^ 24 + (if status == 2 || status == 3 then 1 else 0)) % 2 ^ 8
  { h with events := BitVec.ofNat 32 (high * 2 ^ 24 + low), pending := h.pending ||| 0x10#7 }

/-- Undoes the range tags of an access (R275). -/
def Chorus.untag (h : Chorus) (tags : List (Nat × Nat)) : Chorus :=
  { h with counters := tags.foldl (fun cs t =>
      updAt cs t.1 (fun c => if t.2 == 0 then (c.1 - 1, c.2) else (c.1, c.2 - 1))) h.counters }

/-- The members of the ensemble of a chorus (R184, R306). -/
def Company.ensembleOf (c : Company) (ch : Nat) : List Nat :=
  let e := Nat.max c.playbill.ensemble 1
  (List.range e).map (fun k => ch / e * e + k)

/-- An operation ends: its reservations, and what is left of it in the queues (R186, R199). -/
def Company.removeOp (c : Company) (o : MxOp) : Company :=
  let c := o.reserved.foldl (fun c t => c.unreadTile t) c
  let mine (h : Chorus) (q : QueueEntry) : Bool :=
    match q with
    | .mx m => m.op == o.number && h.index / Nat.max c.playbill.ensemble 1 == o.ensemble
    | _ => false
  { c with
    ops := c.ops.filter (fun p => p.uid != o.uid)
    choruses := c.choruses.map (fun h => { h with queue := h.queue.filter (fun q => !mine h q) }) }

/-- Every member that has issued an operation traps, each with the address of its instance (R187). -/
def Company.trapMembers (c : Company) (o : MxOp) (cause : Nat) (tval : Nat → Word) : Company :=
  o.issued.foldl (fun c m =>
    c.asyncTrap m.1 { cause := cause, epc := m.2, tval := tval m.1, scheduler := false, split := 0 }) c

/-- The operand tiles of an operation at position `pos` of a spread group (R192, R196, R203). -/
def MxOp.operands (o : MxOp) (pos : Nat) : List Nat :=
  match o.kind with
  | .mma => if o.tileA = o.tileB then [o.tileA] else [o.tileA, o.tileB]
  | .spr => (if pos % 2 = 0 then [o.tileA] else []) ++ (if pos / 2 = 0 && !(pos % 2 = 0 && o.tileA = o.tileB) then [o.tileB] else [])
  | .put => [o.tileA]
  | _ => []

/-- Operands that a gathered operation of a company still awaits (R199). -/
def Company.awaits (c : Company) (o : MxOp) : List Nat :=
  if o.gathered then (o.operands (c.index % 4)).filter (fun t => !o.reserved.contains t) else []

/-- The splits of a chorus that wait for a tile take the tile-state trap (R169). -/
def Chorus.failTile (h : Chorus) (n : Nat) : Chorus :=
  let at_ (p : Split) : Option Word :=
    match p.wait with
    | .tile t => if t = n then some p.pc else none
    | .tileReady t a => if t = n then some a else none
    | _ => none
  { h with
    traps := h.traps ++ h.splits.filterMap (fun p => (at_ p).map (fun a =>
      { cause := 0x09, epc := a, tval := BitVec.ofNat 32 n, scheduler := false, split := p.members }))
    splits := updWhere (fun p => (at_ p).isSome) (fun p => { p with wait := .none, state := .ready }) h.splits }

/-- The fill of a tile is given up (R169): filling goes to empty and a claim is dropped. The splits that wait for the
tile to become ready trap with tile state; the matrix operations that await it trap their members (R199). -/
def Company.unfill (c : Company) (n : Nat) : Company :=
  match c.tile? n with
  | none => c
  | some t =>
    if t.claim then c.setTile n { t with claim := false, claimShape := none }
    else if t.state == .filling then
      let c := c.setTile n { t with state := .empty }
      let c := { c with
        choruses := c.choruses.map (fun (h : Chorus) => h.failTile n) }
      (c.ops.filter (fun o => (c.awaits o).contains n)).foldl (fun c o =>
        (c.removeOp o).trapMembers o 0x09 (fun _ => BitVec.ofNat 32 n)) c
    else c

/-- Discards an operation: its reservations end, and a fill that it named is given up (R186, R204). -/
def Company.dropOp (c : Company) (o : MxOp) : Company :=
  let c := c.removeOp o
  if o.gathered && o.kind == .get then c.unfill o.tileA else c

/-- Discards the operation with a number, if the company still has it: the end of another may have ended it (R199). -/
def Company.dropAgain (c : Company) (uid : Nat) : Company :=
  match c.ops.find? (fun o => o.uid == uid) with
  | some o => c.dropOp o
  | none => c

/-- Discards an operation and traps every member (R187). -/
def Company.trapOp (c : Company) (o : MxOp) (cause : Nat) (tval : Word) : Company :=
  (c.dropOp o).trapMembers o cause (fun _ => tval)

/-- The end of an operation that a member, ended or halted, keeps from gathering: it leaves every queue, and the other
members that issued it trap with that member's index (R179, R187). -/
def Company.breakOp (c : Company) (ch : Nat) (o : MxOp) : Company :=
  (c.dropOp o).trapMembers { o with issued := o.issued.filter (fun m => m.1 != ch) } 0x0A
    (fun _ => BitVec.ofNat 32 (ch % Nat.max c.playbill.ensemble 1))

/-- When a member ends or halts, no operation of its ensemble that is not gathered can gather any more (R179, R187, R349). -/
def Company.breakEnsemble (c : Company) (ch : Nat) : Company :=
  let e := Nat.max c.playbill.ensemble 1
  (c.ops.filter (fun o => o.ensemble == ch / e && !o.gathered)).foldl (fun c o => c.breakOp ch o) c

/-- The live choruses of a company (R180). -/
def Company.live (c : Company) : Nat := (c.choruses.filter (fun h => h.halted.isNone && !h.ended)).length

/-- Completes the phases of company barriers that hold enough arrivals (R180). -/
def Barrier.recheck (b : Barrier) (live : Nat) : Barrier :=
  if !b.arrived.isEmpty && decide (Nat.min b.target live ≤ b.arrived.length)
  then { b with phase := b.phase + 1, arrived := [] } else b

def Company.recheckBarriers (c : Company) : Company :=
  { c with barriers := c.barriers.map (fun b => b.recheck c.live) }

/-- The companies of a troupe that are neither complete nor halted whole (R214). -/
def State.liveCompanies (s : State) (ctx run troupe : Nat) : List Company :=
  s.companies.filter (fun c => c.ctx == ctx && c.run == run && c.troupe == troupe && c.state != .complete &&
    c.choruses.any (fun h => h.halted.isNone))

/-- A company has arrived in the phase when each of its live choruses has (R182, R214). -/
def companyArrived (b : TroupeBarrier) (c : Company) : Bool :=
  b.arrivals.any (fun a => a.1 == c.index) &&
    c.choruses.all (fun h => h.halted.isSome || h.ended || b.arrivals.any (fun a => a == (c.index, h.index)))

/-- Completes a troupe phase: the target is set by the first company to arrive whole, and a company that has arrived stays in
the arrived set until the phase completes (R214). -/
def TroupeBarrier.recheck (b : TroupeBarrier) (live : List Company) (all : Nat) : TroupeBarrier :=
  let new := (live.filter (fun c => companyArrived b c && !b.arrived.contains c.index)).map (·.index)
  let arrived := b.arrived ++ new
  let count (k : Nat) : Nat := ((b.counts.find? (fun c => c.1 == k)).map (·.2)).getD 0
  let target : Option Nat :=
    match b.target with
    | some t => some t
    | none => arrived.head?.map (fun k => if count k == 0 then all else count k)
  match target with
  | none => b
  | some t =>
    if Nat.min t live.length ≤ arrived.length
    then { phase := b.phase + 1, arrivals := [], arrived := [], counts := [], target := none }
    else { b with arrived := arrived, target := target }

def State.recheckTroupe (s : State) (ctx run troupe : Nat) : State :=
  let live := s.liveCompanies ctx run troupe
  let all := ((s.run? ctx run).map (fun r => r.playbill.companies)).getD 0
  s.modTroupe ctx run troupe (fun t => { t with barriers := t.barriers.map (fun b => b.recheck live all) })

/-- The end of a queued entry that is not handed over: its tags, its tile and its event (R169, R178, R242). -/
def Company.discard (c : Company) (ch : Nat) (q : QueueEntry) (status : Nat) : Company :=
  match q with
  | .fly f =>
    let c := if f.op == .inn || f.op == .gth then c.unfill f.tile else c
    let c := if f.reading then c.unreadTile f.tile else c
    c.modChorus ch (fun h =>
      let h := h.untag f.tags
      if f.ev then h.postEvent status else h)
  | _ => c

/-- Keeps the first halt: an earlier one stays, unless the new one is of the same time and a lower index (R319). -/
def FirstHalt.keep (old : Option FirstHalt) (f : FirstHalt) : Option FirstHalt :=
  match old with
  | none => some f
  | some o => if o.at_ == f.at_ && decide (f.ch < o.ch) then some f else some o

/-- Halts a chorus (R349): it issues nothing more, and its company and run note their first halt. What the halt brings to its
queue, its ensemble and the barriers takes effect after the four bays of the cycle (`State.sweep`). -/
def State.halt (s : State) (u i cause : Nat) : State :=
  match s.company? u with
  | none => s
  | some c =>
    match c.chorus? i with
    | none => s
    | some h =>
      if h.halted.isSome then s
      else
        let c := c.modChorus i (fun h => { h with halted := some cause, swept := false, chain := none, pump := none, requests := [] })
        let s := s.setCompany { c with firstHalt := FirstHalt.keep c.firstHalt { at_ := c.cyc, ch := i, cause := cause } }
        s.modRun c.ctx c.run (fun r => { r with firstHalt := FirstHalt.keep r.firstHalt { at_ := s.now, ch := i, cause := cause } })

/-- Halts a chorus for an error that one of its commands has met (R205, R237, R348, R379): `cause`, `epc` and `tval` are written. -/
def State.haltFor (s : State) (u i cause : Nat) (epc tval : Word) : State :=
  (s.modChorus u i (fun h => if h.halted.isSome then h else { h with cause := BitVec.ofNat 32 cause, epc := epc, tval := tval })).halt u i cause

/-- Takes a trap (R26, R140): `epc`, `cause` and `tval` are written; the playbill's handler is entered when there is
one, none runs already, and the cause may be delivered to it (R50); else the trap goes to the S-mode scheduler, whose
default policy halts the chorus (R350). The active set, `wb`, frame, `depth` and `fmt` stay. -/
def State.takeTrap (s : State) (x : Site) (cause : Nat) (epc tval : Word) (scheduler : Bool) : State :=
  let ch := { x.ch with cause := BitVec.ofNat 32 cause, epc := epc, tval := tval, chain := none }
  match x.co.playbill.handler with
  | some hpc =>
    if scheduler || x.ch.handler || cause == 0x0F || cause == 0x10
    then (s.put { x with ch := ch }).halt x.co.uid x.ch.index cause
    else s.put { x with ch := { ch with handler := true }, sp := { x.sp with pc := BitVec.ofNat 32 hpc, state := .running, wait := .none } }
  | none => (s.put { x with ch := ch }).halt x.co.uid x.ch.index cause

/-- A synchronous trap of the instruction at the split's PC, or of its chain at member 0 (R22, R50). -/
def State.trap (s : State) (x : Site) (cause : Nat) (tval : Word) : State :=
  let epc := match x.ch.chain with | some (_, p) => p | none => x.sp.pc
  s.takeTrap x cause epc tval false

/-- The return from a trap (R141): the handler flag is cleared and the split goes on at `epc`. -/
def Site.returnFromTrap (x : Site) : Site :=
  { x with ch := { x.ch with handler := false, chain := none }, sp := { x.sp with pc := x.ch.epc } }

/-- Halts the issuing chorus for an error it consumed (R348, R347): `epc`, `cause` and `tval` are written. -/
def State.haltSite (s : State) (x : Site) (cause : Nat) (tval : Word) : State :=
  s.takeTrap x cause (match x.ch.chain with | some (_, p) => p | none => x.sp.pc) tval true

/-! ## Ending waits -/

/-- The troupe of a company. -/
def State.troupeOf (s : State) (c : Company) : Option Troupe := s.troupe? c.ctx c.run c.troupe

/-- Whether phase `token` of a barrier at phase `p` has completed (R182). -/
def phaseDone (p token : Word) : Bool := (p - token - 1).toNat < 2 ^ 31

/-- What ends a wait. -/
inductive WaitEnd where
  /-- The wait goes on. -/
  | no
  /-- The instruction issues again. -/
  | again
  /-- The instruction is over; the outcome goes to a register. -/
  | done (vd : BitVec 6) (v : Word)
  /-- The instruction is over and writes nothing. -/
  | over_
  deriving DecidableEq, Repr

/-- Whether a fence's slot is drained and its next slot begins (R276): the chorus and the wait after it. -/
def fenceRStep (h : Chorus) (mask : BitVec 8) (dr : Option (Nat × Nat)) : Chorus × BitVec 8 × Option (Nat × Nat) :=
  let cnt (k ph : Nat) : Nat := let c := h.counters.getD k (0, 0); if ph == 0 then c.1 else c.2
  match dr with
  | some (k, p) => if cnt k p == 0 then (h, mask &&& ~~~(1#8 <<< k), none) else (h, mask, dr)
  | none =>
    match (List.range 8).find? (fun k => mask.getLsbD k) with
    | none => (h, mask, none)
    | some k =>
      let p := if h.phases.getD k false then 1 else 0
      if cnt k (1 - p) == 0 then ({ h with phases := updAt h.phases k (fun b => !b) }, mask, some (k, p))
      else (h, mask, none)

/-- Runs a range fence as far as it can go. -/
def fenceRLoop (fuel : Nat) (h : Chorus) (mask : BitVec 8) (dr : Option (Nat × Nat)) :
    Chorus × BitVec 8 × Option (Nat × Nat) :=
  match fuel with
  | 0 => (h, mask, dr)
  | n + 1 =>
    if mask == 0 then (h, mask, dr)
    else
      let (h', m', d') := fenceRStep h mask dr
      if m' == mask && d' == dr then (h, mask, dr) else fenceRLoop n h' m' d'

/-- Fly commands of the chorus that are queued or handed over, by uid. -/
def Company.liveCommands (c : Company) (ch : Nat) : List Nat :=
  let queued := ((c.chorus? ch).map (fun h => h.queue.filterMap (fun q => match q with | .fly f => some f.uid | _ => none))).getD []
  queued ++ (c.engine.filterMap (fun e => if e.1 == ch && e.2.state != .done then some e.2.uid else none))

/-- Matrix operations and score writes that the chorus has issued and that have not completed, by uid (R201). -/
def Company.liveMatrix (c : Company) (ch : Nat) : List Nat :=
  (c.ops.filter (fun o => o.issued.any (fun m => m.1 == ch))).map (·.uid) ++
    ((c.chorus? ch).map (fun h => h.queue.filterMap (fun q => match q with | .sput u _ _ _ _ _ => some u | _ => none))).getD []

/-- Whether a wait is for an answer of the call board. -/
def Wait.onBoard : Wait → Bool
  | .board _ _ => true
  | _ => false

/-- Whether a wait of a split is over (R170, R178, R180, R275 to R277, R334). Deadlines are events of their own. -/
def waitEnd (s : State) (c : Company) (h : Chorus) (w : Wait) : WaitEnd :=
  match w with
  | .none => .no
  | .tile t => if (c.tile? t).any (fun x => x.state != .filling) then .again else .no
  | .tileReady t _ => if (c.tile? t).any (fun x => x.state != .filling) then .over_ else .no
  | .queue => if h.queue.length < 16 then .again else .no
  | .inflight => if h.inflight.length < 64 then .again else .no
  | .readers t => if (c.tile? t).any (fun x => x.readers < 255) then .again else .no
  | .counter => .again
  | .fenceR mask dr reads =>
    if mask == 0 && dr.isNone && reads.all (fun u => h.inflight.all (fun f => f.uid != u)) then .over_ else .no
  | .fenceX lane fly mx msgs =>
    if lane.all (fun u => h.inflight.all (fun f => f.uid != u)) &&
       fly.all (fun u => !(c.liveCommands h.index).contains u) &&
       mx.all (fun u => !(c.liveMatrix h.index).contains u) &&
       msgs.all (fun m => s.sent.all (fun o => !(o.dest == m.1 && o.ident == m.2)))
    then .over_ else .no
  | .window a b => if h.low ≤ a && b ≤ h.high then .again else .no
  | .link a b _ => if h.low ≤ a && b ≤ h.high then .over_ else .no
  | .fault => .no
  | .barC b tok vd =>
    match c.barriers[b]? with
    | none => .no
    | some x => if phaseDone x.phase tok then .done vd 0 else if c.abandoned then .done vd 1 else .no
  | .barT b tok vd =>
    match (s.troupeOf c).bind (fun t => t.barriers[b]?) with
    | none => .no
    | some x =>
      if phaseDone x.phase tok then .done vd 0
      else if (s.troupeOf c).any (·.abandoned) then .done vd 1 else .no
  | .wev m _ vd => if h.pending &&& m != 0 then .done vd (zext (h.pending &&& m)) else .no
  | .wtm _ _ => .no
  | .join => .no
  | .joinT _ _ => .no
  | .data us => if us.all (fun u => h.inflight.all (fun f => f.uid != u)) then .again else .no
  | .outcome a b _ _ => if h.low ≤ a && b ≤ h.high then .over_ else .no
  | .board _ _ => .no
  | .boards => if h.splits.any (fun p => p.wait.onBoard) then .no else .again

/-- What a wait does as it goes on: a range fence serves its slots (R276). -/
def Chorus.serveWait (h : Chorus) (w : Wait) : Chorus × Wait :=
  match w with
  | .fenceR mask dr reads =>
    let r := fenceRLoop 20 h mask dr
    (r.1, .fenceR r.2.1 r.2.2 reads)
  | w => (h, w)

/-- The events that the end of a wait consumes (R334). -/
def Chorus.consume (h : Chorus) : Wait → Chorus
  | .wev m _ _ => { h with pending := h.pending &&& ~~~m }
  | _ => h

/-- What the end of a wait writes: the outcome in the active lanes, and the events it consumes (R334), or the link word of
a call in every member (R127), or the outcome of a wait that has ended before (R123). -/
def Chorus.finishWait (h : Chorus) (p : Split) (w : Wait) (e : WaitEnd) : Chorus :=
  match e with
  | .done vd v => writeOutcome (h.consume w) p [vd] v
  | .over_ =>
    match w with
    | .link a _ v => h.setAbs a (p.members &&& ~~~h.exited) v
    | .outcome _ _ vds v => writeOutcome h p vds v
    | _ => h
  | _ => h

/-- The wait of a split ends: it is ready again. -/
def Chorus.wake (h : Chorus) (p : Split) (w : Wait) (e : WaitEnd) : Chorus :=
  let q := { p with wait := .none, state := .ready }
  match e with
  | .done vd v => (((h.consume w).setSplit q).settleOutcome q [vd] v).windowed
  | e => ((h.finishWait p w e).setSplit q).windowed

/-- Ends the wait of one split of a chorus when it is over. -/
def wakeSplit (s : State) (c : Company) (h : Chorus) (p : Split) : Chorus :=
  let r := h.serveWait p.wait
  match waitEnd s c r.1 r.2 with
  | .no => r.1.setSplit { p with wait := r.2 }
  | e => r.1.wake p r.2 e

/-- Ends every wait of a chorus that is over, and chooses a split when none runs. -/
def wakeChorus (s : State) (c : Company) (h : Chorus) : Chorus :=
  if h.halted.isSome || h.ended then h
  else
    (h.splits.foldl (fun g p => match g.splits.find? (fun q => q.members == p.members) with
      | some q => if q.wait == .none then g else wakeSplit s c g q
      | none => g) h).choose

/-- Ends the waits of a company that are over. A saved company's waits end when it is restored (R337). -/
def State.settleCompany (s : State) (u : Nat) : State :=
  match s.company? u with
  | none => s
  | some c =>
    if c.state == .running
    then s.setCompany { c with choruses := c.choruses.map (fun h => wakeChorus s c h) }
    else s

/-- Ends the waits of every company of a troupe. -/
def State.settleTroupe (s : State) (ctx run troupe : Nat) : State :=
  (s.companies.filter (fun c => c.ctx == ctx && c.run == run && c.troupe == troupe)).foldl
    (fun s c => s.settleCompany c.uid) s

/-- A split that has issued, or has stalled, no longer keeps the rows that the pump brought for it (R134). -/
def Chorus.unserve (h : Chorus) (m : Mask) : Option (Mask × Nat × Nat) := h.served.filter (fun v => v.1 != m)

/-- A split begins a wait: it stalls, and the scheduler chooses afresh (R121). A wait for rows is a request to the
pump (R132). -/
def Site.await (x : Site) (w : Wait) (st : SplitState) : Site :=
  let sp := { x.sp with wait := w, state := st }
  let ch := { x.ch with served := x.ch.unserve sp.members }
  let ch := match w with
    | .window _ _ => { ch with requests := ch.requests ++ [sp.members] }
    | .link _ _ _ => { ch with requests := ch.requests ++ [sp.members] }
    | _ => ch
  { x with sp := sp, ch := (ch.setSplit sp).choose }

/-- The state with a site whose chorus already holds its split. -/
def State.putChorus (s : State) (x : Site) : State := s.setCompany (x.co.setChorus x.ch)

/-! ## The end of a chorus (R16, R179) -/

/-- A queue entry with the verdict of its cue (R178, R186). -/
def QueueEntry.decide (q : QueueEntry) (v : Bool) : QueueEntry :=
  match q with
  | .fly f => if v && f.state == .queued then .fly { f with state := .decided } else q
  | .mx m => if m.verdict.isNone then .mx { m with verdict := some v } else q
  | _ => q

/-- At the end of a chorus its queued commands are decided in queue order: a true cue hands the command over or leaves
it queued for room, any other discards it with status 2; a matrix command whose operation has gathered is discarded for every
member. -/
def Company.decideAtEnd (c : Company) (ch : Nat) (q : QueueEntry) : Company :=
  let cueTrue (h : Chorus) (k : Nat) : Bool := k == 0 || h.cues.getD k .unresolved == .isTrue
  let set (c : Company) (v : Bool) : Company :=
    c.modChorus ch (fun h => { h with queue := updWhere (fun e => e == q) (fun e => e.decide v) h.queue })
  match c.chorus? ch with
  | none => c
  | some h =>
    match q with
    | .fly f =>
      if f.state == .decided || cueTrue h f.cue then set c true
      else (c.modChorus ch (fun h => { h with queue := h.queue.filter (fun e => e != q) })).discard ch q 2
    | .mx m =>
      match c.ops.find? (fun o => o.number == m.op && o.issued.any (fun i => i.1 == ch)) with
      | none => c
      | some o => if m.verdict.getD (cueTrue h m.cue) then set c true else if o.gathered then c.dropOp o else c
    | .sput _ _ _ _ _ _ => c

/-- A chorus whose populated lanes have all exited and that holds no split ends. What its end brings takes effect after the
four bays of the cycle (`State.sweep`). -/
def State.endChorus (s : State) (u i : Nat) : State :=
  match s.chorus? u i with
  | none => s
  | some h =>
    if h.ended || h.halted.isSome || !h.splits.isEmpty then s
    else s.modChorus u i (fun h => { h with ended := true, swept := false, chain := none })

/-- What the end of a chorus brings: its queue is decided, and what its ensemble has not gathered is broken (R179, R187). -/
def Company.sweepEnd (c : Company) (h : Chorus) : Company :=
  (h.queue.foldl (fun c q => c.decideAtEnd h.index q) c).breakEnsemble h.index

/-- What the halt of a chorus brings (R349, R187): its queued commands are discarded with status 3, the ensemble's operations are
discarded, stop at their next boundary, or trap the other members. -/
def Company.sweepHalt (c : Company) (h : Chorus) : Company :=
  let c := c.modChorus h.index (fun h => { h with queue := [] })
  let c := h.queue.foldl (fun c q => c.discard h.index q 3) c
  let e := Nat.max c.playbill.ensemble 1
  let c := (c.ops.filter (fun o => o.ensemble == h.index / e && o.gathered && !o.started)).foldl (fun c o => c.dropAgain o.uid) c
  let c := { c with ops := updWhere (fun o => o.started && o.ensemble == h.index / e) (fun o => { o with stopping := true }) c.ops }
  c.breakEnsemble h.index

/-- Whether a chorus has ended or halted and what that brings is still to take effect. -/
def Chorus.unswept (h : Chorus) : Bool := (h.ended || h.halted.isSome) && !h.swept

/-- What the end or the halt of a chorus brings, after the four bays of its cycle (R171, R179, R216, R349): first its queue and
its ensemble; then the live counts have fallen, so phases may complete; and after a halt the barriers are abandoned. -/
def State.sweep (s : State) (u i : Nat) : State :=
  match s.company? u with
  | none => s
  | some c =>
    match c.chorus? i with
    | none => s
    | some h =>
      if !h.unswept then s
      else
        let halted := h.halted.isSome
        let c := if halted then c.sweepHalt h else c.sweepEnd h
        let c := (c.modChorus i (fun h => { h with swept := true })).recheckBarriers
        let s := (s.setCompany { c with abandoned := c.abandoned || halted }).recheckTroupe c.ctx c.run c.troupe
        (s.modTroupe c.ctx c.run c.troupe (fun t => { t with abandoned := t.abandoned || halted })).settleTroupe c.ctx c.run c.troupe

end Sys2Proof.Machine
end

