-- ==== Sys2Proof/Machine/Operands.lean ====
section
/-!
DEFINITION. Operand forms: source selectors, the registers each instruction names, the values taken from the leader,
and the timing class and weight of each instruction (R12, R32, R36, R69, R95, R115, R147).
-/
namespace Sys2Proof.Machine

/-! ## Sources (R32, R67) -/

/-- Lane `l` of a source selector: a register, or a latch. -/
def Site.src (x : Site) (s : BitVec 7) (l : Nat) : Word :=
  if s.getLsbD 6 then (x.ch.latches.getD (s.extractLsb' 0 2).toNat Lanes.zero).at l
  else x.reg (s.extractLsb' 0 6).toNat l

/-- The register a selector names, if it names one. -/
def selReg (s : BitVec 7) : List Nat := if s.getLsbD 6 then [] else [(s.extractLsb' 0 6).toNat]

/-- The four registers of a quad field (R36). -/
def quadRegs (d : BitVec 4) : List Nat := [4 * d.toNat, 4 * d.toNat + 1, 4 * d.toNat + 2, 4 * d.toNat + 3]

/-- A register's value in the leader, or with an empty active set in the lowest member that has not exited (R16). -/
def Site.uniform (x : Site) (n : Nat) : Word := x.reg n x.leaderOrMember

/-- A selector's value in the leader. -/
def Site.uniformSrc (x : Site) (s : BitVec 7) : Word := x.src s x.leaderOrMember

/-- Two consecutive registers of the leader as a 64-bit value. -/
def Site.uniformPair (x : Site) (n : Nat) : BitVec 64 := dword (x.uniform n) (x.uniform (n + 1))

/-- Whether no lane acts. -/
def Site.idle (x : Site) : Bool := x.active == 0

/-! ## Registers named (R126) -/

/-- Registers read in fields that are no selectors, `vd` of the in-place forms among them. -/
def fieldsRead : Instr → List Nat
  | .mad _ _ _ _ d => [d.toNat]
  | .sel _ _ _ _ d => [d.toNat]
  | .bfi _ _ _ _ d => [d.toNat]
  | .ldp _ a _ => [a.toNat]
  | .movh _ _ _ d => [d.toNat]
  | .fma _ _ _ _ d => [d.toNat]
  | .fms _ _ _ _ d => [d.toNat]
  | .fnma _ _ _ _ d => [d.toNat]
  | .fnms _ _ _ _ d => [d.toNat]
  | .hfma2 _ _ _ _ d => [d.toNat]
  | .bfma2 _ _ _ _ d => [d.toNat]
  | .dp4 _ _ _ _ d => [d.toNat]
  | .dp8 _ _ _ _ d => [d.toNat]
  | .dp2 _ _ _ _ d => [d.toNat]
  | .dp4u _ _ _ _ d => [d.toNat]
  | .pk8 _ _ _ _ d => [d.toNat]
  | .mov16 s _ => [s.toNat]
  | .add16 s d => [s.toNat, d.toNat]
  | .sub16 s d => [s.toNat, d.toNat]
  | .and16 s d => [s.toNat, d.toNat]
  | .or16 s d => [s.toNat, d.toNat]
  | .xor16 s d => [s.toNat, d.toNat]
  | .shl16 s d => [s.toNat, d.toNat]
  | .shr16 s d => [s.toNat, d.toNat]
  | .sar16 s d => [s.toNat, d.toNat]
  | .mul16 s d => [s.toNat, d.toNat]
  | .min16 s d => [s.toNat, d.toNat]
  | .max16 s d => [s.toNat, d.toNat]
  | .fadd16 s d => [s.toNat, d.toNat]
  | .fsub16 s d => [s.toNat, d.toNat]
  | .fmul16 s d => [s.toNat, d.toNat]
  | .addi16 _ d => [d.toNat]
  | .ldWl _ _ b _ => [b.toNat]
  | .stWl _ _ b s => [b.toNat, s.toNat]
  | .ldSb _ _ b _ => [b.toNat]
  | .ldSh _ _ b _ => [b.toNat]
  | .ldSw _ _ b _ => [b.toNat]
  | .ldSq _ _ b _ => [b.toNat]
  | .stSb _ _ b s => [b.toNat, s.toNat]
  | .stSh _ _ b s => [b.toNat, s.toNat]
  | .stSw _ _ b s => [b.toNat, s.toNat]
  | .stSq _ _ b s => [b.toNat] ++ quadRegs s
  | .ldSa _ _ b _ => [b.toNat]
  | .stSr _ _ b s => [b.toNat, s.toNat]
  | .ldT _ i _ _ => [i.toNat]
  | .stT _ i _ s => [i.toNat, s.toNat]
  | .ldTq _ i _ _ => [i.toNat]
  | .stTq _ i _ s => [i.toNat] ++ quadRegs s
  | .atomS _ p r a d => [a.toNat] ++ (if p.toNat < 11 then [r.toNat] else []) ++ (if p == 10 then [d.toNat] else [])
  | .atomC _ p r a d => [a.toNat] ++ (if p.toNat < 11 then [r.toNat] else []) ++ (if p == 10 then [d.toNat] else [])
  | .ldCw _ _ b _ => [b.toNat]
  | .stCw _ _ b s => [b.toNat, s.toNat]
  | .ldCq _ _ b _ => [b.toNat]
  | .stCq _ _ b s => [b.toNat] ++ quadRegs s
  | .ldCa _ _ b _ => [b.toNat]
  | .stCr _ _ b s => [b.toNat, s.toNat]
  | .rngSet _ a _ => [a.toNat + 1]
  | .bz _ c => [c.toNat]
  | .bnz _ c => [c.toNat]
  | .callr _ a => [a.toNat]
  | .rcvT a _ => [a.toNat]
  | .brt _ c => [c.toNat]
  | .mts _ s => [s.toNat]
  | .tmrSet b a => [a.toNat, b.toNat]
  | .tmrClr a => [a.toNat]
  | .wev b a _ => [a.toNat, b.toNat]
  | .wtm a _ => [a.toNat, a.toNat + 1]
  | .qkick b a => [a.toNat, a.toNat + 1, b.toNat]
  | .msgSend b a _ => [a.toNat, a.toNat + 1, a.toNat + 2, b.toNat, b.toNat + 1]
  | .msgRecv a _ => [a.toNat]
  | .msgHold b a _ => [a.toNat, a.toNat + 1, b.toNat]
  | .plset _ d => [d.toNat]
  | .mxZero _ s => [s.toNat]
  | .mxSput s => [s.toNat, s.toNat + 1]
  | _ => []

/-- Registers an instruction reads. -/
def regsRead (i : Instr) : List Nat := (selectors i).flatMap selReg ++ fieldsRead i

/-- Registers an instruction writes. -/
def regsWritten : Instr → List Nat
  | .add _ _ _ _ d => [d.toNat]
  | .sub _ _ _ _ d => [d.toNat]
  | .adds _ _ _ _ d => [d.toNat]
  | .subs _ _ _ _ d => [d.toNat]
  | .mul _ _ _ _ d => [d.toNat]
  | .mulhs _ _ _ _ d => [d.toNat]
  | .mulhu _ _ _ _ d => [d.toNat]
  | .mad _ _ _ _ d => [d.toNat]
  | .min _ _ _ _ d => [d.toNat]
  | .max _ _ _ _ d => [d.toNat]
  | .minu _ _ _ _ d => [d.toNat]
  | .maxu _ _ _ _ d => [d.toNat]
  | .and _ _ _ _ d => [d.toNat]
  | .or _ _ _ _ d => [d.toNat]
  | .xor _ _ _ _ d => [d.toNat]
  | .andn _ _ _ _ d => [d.toNat]
  | .shl _ _ _ _ d => [d.toNat]
  | .shr _ _ _ _ d => [d.toNat]
  | .sar _ _ _ _ d => [d.toNat]
  | .rot _ _ _ _ d => [d.toNat]
  | .cmpeq _ _ _ _ d => [d.toNat]
  | .cmpne _ _ _ _ d => [d.toNat]
  | .cmplt _ _ _ _ d => [d.toNat]
  | .cmple _ _ _ _ d => [d.toNat]
  | .cmpltu _ _ _ _ d => [d.toNat]
  | .cmpleu _ _ _ _ d => [d.toNat]
  | .tst _ _ _ _ d => [d.toNat]
  | .absd _ _ _ _ d => [d.toNat]
  | .sel _ _ _ _ d => [d.toNat]
  | .bfx _ _ _ _ d => [d.toNat]
  | .bfi _ _ _ _ d => [d.toNat]
  | .lea _ _ _ _ d => [d.toNat]
  | .popc _ _ _ d => [d.toNat]
  | .clz _ _ _ d => [d.toNat]
  | .ctz _ _ _ d => [d.toNat]
  | .brev _ _ _ d => [d.toNat]
  | .divs _ _ _ _ d => [d.toNat]
  | .divu _ _ _ _ d => [d.toNat]
  | .rems _ _ _ _ d => [d.toNat]
  | .remu _ _ _ _ d => [d.toNat]
  | .mov _ _ _ d => [d.toNat]
  | .zxb _ _ _ d => [d.toNat]
  | .sxb _ _ _ d => [d.toNat]
  | .sxh _ _ _ d => [d.toNat]
  | .zxh _ _ _ d => [d.toNat]
  | .pack _ _ _ _ d => [d.toNat]
  | .bsw _ _ _ d => [d.toNat]
  | .addi _ _ _ _ d => [d.toNat]
  | .andi _ _ _ _ d => [d.toNat]
  | .ori _ _ _ _ d => [d.toNat]
  | .xori _ _ _ _ d => [d.toNat]
  | .shli _ _ _ _ d => [d.toNat]
  | .shri _ _ _ _ d => [d.toNat]
  | .sari _ _ _ _ d => [d.toNat]
  | .cmpeqi _ _ _ _ d => [d.toNat]
  | .cmplti _ _ _ _ d => [d.toNat]
  | .cmpltui _ _ _ _ d => [d.toNat]
  | .muli _ _ _ _ d => [d.toNat]
  | .ldp _ _ d => [d.toNat]
  | .movi _ _ _ d => [d.toNat]
  | .movh _ _ _ d => [d.toNat]
  | .lit _ d => [d.toNat]
  | .shfl _ _ _ _ d => [d.toNat]
  | .shup _ _ _ _ d => [d.toNat]
  | .shdn _ _ _ _ d => [d.toNat]
  | .shxor _ _ _ _ d => [d.toNat]
  | .vany _ _ _ d => [d.toNat]
  | .vall _ _ _ d => [d.toNat]
  | .ballot _ _ _ d => [d.toNat]
  | .leader _ _ _ d => [d.toNat]
  | .redadd _ _ _ d => [d.toNat]
  | .redmin _ _ _ d => [d.toNat]
  | .redmax _ _ _ d => [d.toNat]
  | .redminu _ _ _ d => [d.toNat]
  | .scan _ _ _ d => [d.toNat]
  | .rank _ _ _ d => [d.toNat]
  | .matchLanes _ _ _ d => [d.toNat]
  | .fadd _ _ _ _ d => [d.toNat]
  | .fsub _ _ _ _ d => [d.toNat]
  | .fmul _ _ _ _ d => [d.toNat]
  | .fdiv _ _ _ _ d => [d.toNat]
  | .fma _ _ _ _ d => [d.toNat]
  | .fms _ _ _ _ d => [d.toNat]
  | .fnma _ _ _ _ d => [d.toNat]
  | .fnms _ _ _ _ d => [d.toNat]
  | .fmin _ _ _ _ d => [d.toNat]
  | .fmax _ _ _ _ d => [d.toNat]
  | .fminnum _ _ _ _ d => [d.toNat]
  | .fmaxnum _ _ _ _ d => [d.toNat]
  | .fcmpeq _ _ _ _ d => [d.toNat]
  | .fcmplt _ _ _ _ d => [d.toNat]
  | .fcmple _ _ _ _ d => [d.toNat]
  | .fcmpun _ _ _ _ d => [d.toNat]
  | .frcp _ _ _ d => [d.toNat]
  | .frsq _ _ _ d => [d.toNat]
  | .fsqrt _ _ _ d => [d.toNat]
  | .fclass _ _ _ d => [d.toNat]
  | .fexp2 _ _ _ d => [d.toNat]
  | .flog2 _ _ _ d => [d.toNat]
  | .fsinpi _ _ _ d => [d.toNat]
  | .fcospi _ _ _ d => [d.toNat]
  | .frnd _ _ _ _ d => [d.toNat]
  | .hadd2 _ _ _ _ d => [d.toNat]
  | .hmul2 _ _ _ _ d => [d.toNat]
  | .hfma2 _ _ _ _ d => [d.toNat]
  | .bfma2 _ _ _ _ d => [d.toNat]
  | .cvt _ _ _ _ _ d => [d.toNat]
  | .cvtsr _ _ _ _ _ d => [d.toNat]
  | .dp4 _ _ _ _ d => [d.toNat]
  | .dp8 _ _ _ _ d => [d.toNat]
  | .dp2 _ _ _ _ d => [d.toNat]
  | .dp4u _ _ _ _ d => [d.toNat]
  | .scl _ _ _ _ d => [d.toNat]
  | .pk8 _ _ _ _ d => [d.toNat]
  | .upk _ _ _ _ d => [d.toNat]
  | .mxs _ _ _ d => [d.toNat]
  | .mov16 _ d => [d.toNat]
  | .add16 _ d => [d.toNat]
  | .sub16 _ d => [d.toNat]
  | .and16 _ d => [d.toNat]
  | .or16 _ d => [d.toNat]
  | .xor16 _ d => [d.toNat]
  | .shl16 _ d => [d.toNat]
  | .shr16 _ d => [d.toNat]
  | .sar16 _ d => [d.toNat]
  | .mul16 _ d => [d.toNat]
  | .min16 _ d => [d.toNat]
  | .max16 _ d => [d.toNat]
  | .fadd16 _ d => [d.toNat]
  | .fsub16 _ d => [d.toNat]
  | .fmul16 _ d => [d.toNat]
  | .addi16 _ d => [d.toNat]
  | .ldWl _ _ _ d => [d.toNat]
  | .ldSb _ _ _ d => [d.toNat]
  | .ldSh _ _ _ d => [d.toNat]
  | .ldSw _ _ _ d => [d.toNat]
  | .ldSq _ _ _ d => quadRegs d
  | .ldSa _ _ _ d => [d.toNat]
  | .ldT _ _ _ d => [d.toNat]
  | .ldTq _ _ _ d => quadRegs d
  | .atomS _ _ _ _ d => [d.toNat]
  | .atomC _ _ _ _ d => [d.toNat]
  | .ldCw _ _ _ d => [d.toNat]
  | .ldCq _ _ _ d => quadRegs d
  | .ldCa _ _ _ d => [d.toNat]
  | .barC _ _ d => [d.toNat]
  | .barT _ _ d => [d.toNat]
  | .arvC _ _ d => [d.toNat]
  | .awtC _ _ d => [d.toNat]
  | .arvT _ _ d => [d.toNat]
  | .awtT _ _ d => [d.toNat]
  | .cueRd _ d => [d.toNat]
  | .tlSt _ d => [d.toNat]
  | .recBind _ _ d => [d.toNat]
  | .rcvT _ d => [d.toNat]
  | .mfs _ d => [d.toNat]
  | .wev _ _ d => [d.toNat]
  | .wtm _ d => [d.toNat]
  | .evt d => [d.toNat]
  | .msgSend _ _ d => [d.toNat]
  | .msgRecv _ d => [d.toNat]
  | .msgPeek d => [d.toNat]
  | .msgHold _ _ d => [d.toNat]
  | .rdstg _ d => [d.toNat]
  | _ => []

/-- First register and number of the operands of a fly command (R228, R382); `none` of another instruction. A command
that names an unbound handle has no count. -/
def flyOperands (x : Site) (i : Instr) : Option (Nat × Nat) :=
  let rank (h : BitVec 6) : Nat := match (x.co.handles.getD h.toNat none) with | some r => r.rank | none => 0
  match i with
  | .flyIn _ b h _ _ => some (b.toNat, rank h)
  | .flyOut _ b h _ _ => some (b.toNat, rank h)
  | .flyGth _ b h _ _ => some (b.toNat, rank h)
  | .flySct _ b h _ _ => some (b.toNat, rank h)
  | .flyScl _ b h _ _ => some (b.toNat, rank h)
  | .flyPf _ b h _ => some (b.toNat, rank h)
  | .flyMc _ b h _ _ => some (b.toNat, rank h + 2)
  | .flyCp _ b _ => some (b.toNat, 6)
  | .flyAtm _ b _ _ _ => some (b.toNat, 5)
  | _ => none

/-- The operand registers of a fly command that lie within v63. -/
def flyRegs (x : Site) (i : Instr) : List Nat :=
  match flyOperands x i with
  | none => []
  | some (b, n) => if b + n ≤ 64 then (List.range n).map (b + ·) else []

/-- Every register the instruction names. -/
def regsNamed (x : Site) (i : Instr) : List Nat := regsRead i ++ regsWritten i ++ flyRegs x i

/-! ## Classes and weights -/

/-- Timing class and current weight of an instruction (R69, R95, R115, R147). -/
def timing : Instr → TClass × Nat
  | .mul _ _ _ _ _
  | .mulhs _ _ _ _ _
  | .mulhu _ _ _ _ _
  | .mad _ _ _ _ _
  | .muli _ _ _ _ _
  | .fadd _ _ _ _ _
  | .fsub _ _ _ _ _
  | .fmul _ _ _ _ _
  | .fmin _ _ _ _ _
  | .fmax _ _ _ _ _
  | .fminnum _ _ _ _ _
  | .fmaxnum _ _ _ _ _
  | .fcmpeq _ _ _ _ _
  | .fcmplt _ _ _ _ _
  | .fcmple _ _ _ _ _
  | .fcmpun _ _ _ _ _
  | .fclass _ _ _ _
  | .frnd _ _ _ _ _
  | .hadd2 _ _ _ _ _
  | .hmul2 _ _ _ _ _
  | .cvt _ _ _ _ _ _
  | .cvtsr _ _ _ _ _ _
  | .pk8 _ _ _ _ _
  | .upk _ _ _ _ _
  | .mul16 _ _
  | .fadd16 _ _
  | .fsub16 _ _
  | .fmul16 _ _
  | .atomS _ _ _ _ _
  | .atomC _ _ _ _ _ => (.t1, 2)
  | .divs _ _ _ _ _
  | .divu _ _ _ _ _
  | .rems _ _ _ _ _
  | .remu _ _ _ _ _
  | .fdiv _ _ _ _ _
  | .frcp _ _ _ _
  | .frsq _ _ _ _
  | .fsqrt _ _ _ _
  | .fexp2 _ _ _ _
  | .flog2 _ _ _ _
  | .fsinpi _ _ _ _
  | .fcospi _ _ _ _ => (.t3, 3)
  | .shfl _ _ _ _ _
  | .shup _ _ _ _ _
  | .shdn _ _ _ _ _
  | .shxor _ _ _ _ _
  | .vany _ _ _ _
  | .vall _ _ _ _
  | .ballot _ _ _ _
  | .leader _ _ _ _
  | .redadd _ _ _ _
  | .redmin _ _ _ _
  | .redmax _ _ _ _
  | .redminu _ _ _ _
  | .scan _ _ _ _
  | .rank _ _ _ _
  | .matchLanes _ _ _ _ => (.t0, 2)
  | .fma _ _ _ _ _
  | .fms _ _ _ _ _
  | .fnma _ _ _ _ _
  | .fnms _ _ _ _ _
  | .hfma2 _ _ _ _ _
  | .bfma2 _ _ _ _ _
  | .scl _ _ _ _ _ => (.t2, 3)
  | .dp4 _ _ _ _ _
  | .dp8 _ _ _ _ _
  | .dp2 _ _ _ _ _
  | .dp4u _ _ _ _ _
  | .mxs _ _ _ _ => (.t2, 4)
  | .ldWl _ _ _ _
  | .stWl _ _ _ _
  | .ldSb _ _ _ _
  | .ldSh _ _ _ _
  | .ldSw _ _ _ _
  | .ldSq _ _ _ _
  | .stSb _ _ _ _
  | .stSh _ _ _ _
  | .stSw _ _ _ _
  | .stSq _ _ _ _
  | .ldSa _ _ _ _
  | .stSr _ _ _ _
  | .ldT _ _ _ _
  | .stT _ _ _ _
  | .ldTq _ _ _ _
  | .stTq _ _ _ _
  | .ldCw _ _ _ _
  | .stCw _ _ _ _
  | .ldCq _ _ _ _
  | .stCq _ _ _ _
  | .ldCa _ _ _ _
  | .stCr _ _ _ _ => (.t1, 1)
  | _ => (.t0, 1)

end Sys2Proof.Machine
end

