-- ==== Sys2Proof/Machine/Issue.lean ====
section
/-!
DEFINITION. What every instruction has in common: the decode-time causes and the window check before it, the advance of
the split after it, and the lane operation (R16, R22, R44, R49, R67, R126).
-/
namespace Sys2Proof.Machine

/-! ## Decode-time causes (R48, R49, R96) -/

/-- The extent whose first word lies at `a` (R50, cause 0x04). -/
def extentAt (pools : List (Nat × Nat)) (a k : Nat) : Option Nat :=
  match pools with
  | [] => none
  | p :: r => if p.1 == a then some k else extentAt r a (k + 1)

/-- Whether the fields of `fmt` that an instruction uses hold codes it accepts (R96). -/
def fmtLegal (f : BitVec 16) : Instr → Bool
  | .dp4 _ _ _ _ _ => dp4Code (fmtA f) && dp4Code (fmtB f)
  | .dp4u _ _ _ _ _ => dp4Code (fmtA f) && dp4Code (fmtB f)
  | .dp8 _ _ _ _ _ => dp8Code (fmtA f) && dp8Code (fmtB f)
  | .dp2 _ _ _ _ _ => dp2Code (fmtA f) && dp2Code (fmtB f)
  | .pk8 _ _ _ _ _ => operandCode (fmtA f)
  | .upk _ _ _ _ _ => operandCode (fmtA f)
  | .mxs _ _ _ _ => operandCode (fmtA f)
  | _ => true

/-- The latch numbers an instruction reads. -/
def latchReads (i : Instr) : List Nat := ((selectors i).filter selLatch).map (fun s => (s.extractLsb' 0 2).toNat)

/-- Whether the instruction is one that only firmware may execute (R48). -/
def firmwareOnly : Instr → Bool
  | .plset _ _ => true
  | .rdstg _ _ => true
  | _ => false

/-- Whether a word is reserved for its ch bit alone (R44). -/
def chFormWord : Instr → Bool
  | .reservedEncoding w => chOnLoadLiteral w
  | _ => false

/-- The first cause, in the order of R49, that an instruction has at address `pc` as member `m` of a chain that began
`off` bytes before it, with its `tval`; `follows` says that a ch = 1 member stands before it. -/
def causeAt (fmt : BitVec 16) (ctx : Nat) (pools : List (Nat × Nat)) (pc : Nat) (i : Instr) (m : Option Nat) (off : Word)
    (follows : Bool) : Option (Nat × Word) :=
  match i with
  | .pool _ => some (0x04, match extentAt pools (pc + 4) 0 with | some k => BitVec.ofNat 32 k | none => 0xFFFFFFFF)
  | _ =>
    if (!fieldsLegal i && !chFormWord i) || !fmtLegal fmt i then some (0x01, (encode i).word)
    else if firmwareOnly i && ctx != 0 then some (0x0B, (encode i).word)
    else if chFormWord i || (follows && !chainable i) then some (0x03, off)
    else if m == some 3 && chBit i then some (0x03, off + 4)
    else if (latchReads i).any (fun k => match m with | none => true | some j => decide (j ≤ k)) then some (0x02, off)
    else none

/-- The member that the instruction is of a chain, if it is one (R44). -/
def Site.member (x : Site) (i : Instr) : Option Nat :=
  match x.ch.chain with
  | some (k, _) => some k
  | none => if chBit i then some 0 else none

/-- The bytes from member 0 of the chain to the instruction. -/
def Site.chainOffset (x : Site) : Word := match x.ch.chain with | some (_, p) => x.sp.pc - p | none => 0

/-- The cause that the instruction has on its own at the split's PC. -/
def ownCause (x : Site) (i : Instr) : Option (Nat × Word) :=
  causeAt x.sp.fmt x.co.ctx x.co.playbill.pools x.sp.pc.toNat i (x.member i) x.chainOffset x.ch.chain.isSome

/-! ## The window (R126) -/

/-- The needed range extended by the window registers that an instruction names. -/
def Site.neededBy (x : Site) (regs : List Nat) : Nat × Nat :=
  (x.sp.needed.1, rangeEnd x.sp.wb x.sp.needed.2 regs)

/-- The row that would not fit the ring (R126). -/
def Site.overflowRow (x : Site) (regs : List Nat) : Option Nat :=
  let r := x.neededBy regs
  if x.ch.ring.length < r.2 - r.1 then some (r.2 - 1) else none

/-! ## Poison (R348) -/

/-- The row of a register, numbered as poison marks are. -/
def Site.physRow (x : Site) (n : Nat) : Nat := if n < 16 then n else 16 + (x.sp.wb + n - 16) % x.ch.ring.length

/-- Whether an instruction takes a value from a lane although no lane is active (R16). -/
def readsWhenIdle : Instr → Bool
  | .rcvT _ _ => true
  | .tmrSet _ _ => true
  | .tmrClr _ => true
  | .wev _ _ _ => true
  | .wtm _ _ => true
  | .mts r _ => r == 0x008
  | .mxZero _ _ => true
  | _ => false

/-- The lowest lane that reads a poisoned register. -/
def poisonedLane (x : Site) (i : Instr) : Option Nat :=
  let lanes := if x.idle then (if readsWhenIdle i then [x.leaderOrMember] else []) else x.active.lanes
  lanes.find? (fun l => (regsRead i ++ flyRegs x i).any (fun n => n != 0 && x.ch.poison.contains (x.physRow n, l / 8)))

/-! ## Registers that a load is still to write (R137, R151) -/

/-- Whether an access in flight is still to write a register of the split: a row is written per lane, so only a load of one
of the split's lanes counts. -/
def Site.fills (x : Site) (f : InFlight) (n : Nat) : Bool :=
  f.members &&& x.sp.members != 0 && (if n < 16 then f.house.contains n else f.rows.contains (x.sp.wb + n - 16))

/-- The registers that an instruction takes values from: none without an active lane, save where the split acts as a whole
(R16). -/
def Site.sources (x : Site) (i : Instr) : List Nat :=
  if x.idle && !readsWhenIdle i then [] else regsRead i ++ flyRegs x i

/-- The accesses whose data an instruction awaits. -/
def Site.loading (x : Site) (i : Instr) : List Nat :=
  (x.ch.inflight.filter (fun f => (x.sources i).any (x.fills f))).map (·.uid)

/-! ## Issue -/

/-- The site of an instruction that has issued in the cycle under way. -/
def Site.acted (x : Site) : Site := { x with ch := { x.ch with issued := true } }

/-- A trap that the decode or the window check finds: the instruction does not issue (R26, R49, R126, R149), so that its chorus's waits
and its age go on (R151, R152); its bay picks another for this cycle. -/
def State.refuse (s : State) (x : Site) (cause : Nat) (tval : Word) : State :=
  s.trap { x with ch := { x.ch with refused := true } } cause tval

/-- Charges an issue to the cluster (R154) and puts its class into the core's cycle (R149). -/
def State.bill (s : State) (i : Instr) (x : Site) : State :=
  (s.charge (clusterOf x.co.core) ((timing i).2 * popcount x.active)).noteIssue x.co.core (timing i).1

/-- A trap that arises at execution: the instruction has issued, and it is billed as any other (R115, R149, R154). -/
def State.fail (s : State) (i : Instr) (x : Site) (cause : Nat) (tval : Word) : State := (s.bill i x).trap x.acted cause tval

/-- A halt of the issuing chorus for an error that no handler sees (R347, R348): the instruction has issued. -/
def State.failHalt (s : State) (i : Instr) (x : Site) (cause : Nat) (tval : Word) : State :=
  (s.bill i x).haltSite x.acted cause tval

/-- A split waits, and its instruction issues again afterwards. -/
def State.stall (s : State) (x : Site) (w : Wait) (st : SplitState) : State := s.putChorus (x.await w st)

/-- A lane number as `tval`. -/
def laneWord (l : Nat) : Word := BitVec.ofNat 32 l

/-- The common beginning of every instruction: its decode-time causes (R49), the window check (R126), registers whose data is
still to come (R137, R151) and poisoned registers (R348). The continuation gets the site that issues. -/
def issue (i : Instr) (s : State) (k : Site → Out) : Out :=
  match s.site? with
  | none => .fault .noIssuer
  | some x =>
    match ownCause x i with
    | some (c, tv) => .next (s.refuse x c tv)
    | none =>
      match x.overflowRow (regsNamed x i) with
      | some row => .next (s.refuse x 0x07 (BitVec.ofNat 32 row))
      | none =>
        let r := x.neededBy (regsNamed x i)
        if x.ch.resident r then
          if (x.loading i).isEmpty then
            match poisonedLane x i with
            | some l => .next (s.failHalt i x 0x10 (laneWord l))
            | none => k x
          else .next (s.stall x (.data (x.loading i)) .waitMemory)
        else .next (s.stall x (.window r.1 r.2) .waitWindow)

/-- The count of consecutive issues after one more instruction or chain: it runs while another split of the chorus is ready (R121), or
awaits rows that the ring cannot hold beside this one's (R134, log 89). -/
def Site.issuesAfter (x : Site) (i : Instr) : Nat :=
  if chBit i then x.sp.issues
  else if x.ch.splits.any (fun q => q.members != x.sp.members && x.ch.canRun q) || x.ch.crowded then x.sp.issues + 1 else 0

/-- The split goes on after the instruction: the PC, the chain (R44), the latches (R21), the count of consecutive
issues (R121) and the rows it kept (R134). -/
def Site.next (x : Site) (i : Instr) : Site :=
  let start := match x.ch.chain with | some (_, p) => p | none => x.sp.pc
  { x with
    sp := { x.sp with
      pc := x.sp.pc + BitVec.ofNat 32 (encode i).length
      issues := x.issuesAfter i }
    ch := { x.ch with
      chain := if chBit i then (x.member i).map (fun k => (k + 1, start)) else none
      latches := if chBit i then x.ch.latches else noLatches
      served := if chBit i then x.ch.served else x.ch.unserve x.sp.members
      issued := true } }

/-- The common end of an instruction that issued at `x0` and left its site as `x`. -/
def State.retire (s : State) (i : Instr) (x0 x : Site) : State := (s.put (x.next i)).bill i x0

/-- As `retire`, for an instruction that may end waits of its company. -/
def State.retireSettle (s : State) (i : Instr) (x0 x : Site) : State := (s.retire i x0 x).settleCompany x.co.uid

/-- An instruction that has issued and waits: the split has moved past it, and the end of the wait completes it. A wait
that is over at once does not stall the split. -/
def State.retireWait (s : State) (i : Instr) (x0 x : Site) (w : Wait) (st : SplitState) : State :=
  let y := x.next i
  let r := y.ch.serveWait w
  let y := { y with ch := r.1 }
  match waitEnd s y.co y.ch r.2 with
  | .no => ((s.putChorus (y.await r.2 st)).bill i x0).settleCompany x.co.uid
  | e => ((s.put { y with ch := y.ch.finishWait y.sp r.2 e }).bill i x0).settleCompany x.co.uid

/-- As `retire`, for an instruction that leaves the split at an address of its own. -/
def State.retireAt (s : State) (i : Instr) (x0 x : Site) (pc : Word) : State :=
  let y := x.next i
  (s.put { y with sp := { y.sp with pc := pc } }).bill i x0

/-- As `retire`, for an instruction that replaces the running split (R117). -/
def State.retireSplit (s : State) (i : Instr) (x0 x : Site) (new : List Split) : State :=
  let y := x.next i
  (s.putChorus { y with ch := y.replace new }).bill i x0

/-- The `vt` of the site's context in whole nanoseconds (R327). -/
def State.vtOf (s : State) (x : Site) : Nat := s.vtNs x.co.ctx

/-! ## Lane operations (R67) -/

/-- The elements of an instruction's result that the understudy checks (R97): the lowest bit and the format of each. -/
def checkedElems (f : BitVec 16) : Instr → List (Nat × Fmt)
  | .fadd _ _ _ _ _ | .fsub _ _ _ _ _ | .fmul _ _ _ _ _ | .fdiv _ _ _ _ _ => [(0, fp32)]
  | .fma _ _ _ _ _ | .fms _ _ _ _ _ | .fnma _ _ _ _ _ | .fnms _ _ _ _ _ => [(0, fp32)]
  | .fmin _ _ _ _ _ | .fmax _ _ _ _ _ | .fminnum _ _ _ _ _ | .fmaxnum _ _ _ _ _ => [(0, fp32)]
  | .frcp _ _ _ _ | .frsq _ _ _ _ | .fsqrt _ _ _ _ => [(0, fp32)]
  | .fexp2 _ _ _ _ | .flog2 _ _ _ _ | .fsinpi _ _ _ _ | .fcospi _ _ _ _ => [(0, fp32)]
  | .frnd _ _ _ _ _ | .scl _ _ _ _ _ | .upk _ _ _ _ _ => [(0, fp32)]
  | .hadd2 _ _ _ _ _ | .hmul2 _ _ _ _ _ | .hfma2 _ _ _ _ _ => [(0, fp16), (16, fp16)]
  | .bfma2 _ _ _ _ _ => [(0, bf16), (16, bf16)]
  | .fadd16 _ _ | .fsub16 _ _ | .fmul16 _ _ => [(0, fp32)]
  | .cvt _ _ _ k _ _ => match cvtDest k with | .flt d => [(0, d)] | _ => []
  | .cvtsr _ _ t _ _ _ => [(0, match t.toNat with | 0 => bf16 | 1 => e4m3 | 2 => e5m2 | _ => e2m1)]
  | .dp4 _ _ _ _ _ | .dp8 _ _ _ _ _ | .dp2 _ _ _ _ _ | .dp4u _ _ _ _ _ =>
    if codeIsInt (fmtA f) && codeIsInt (fmtB f) then [] else [(0, fp32)]
  | .pk8 _ _ _ _ _ =>
    match elemFmt (fmtA f) with
    | some (.flt d) => let w := container (fmtA f); if w = 16 then [(0, d), (16, d)] else [(32 - 2 * w, d), (32 - w, d)]
    | _ => []
  | _ => []

/-- Whether the understudy finds a mismatch between a right result and one computed (R347). -/
def elemsDiffer (es : List (Nat × Fmt)) (a b : Word) : Bool :=
  es.any (fun e => e.2.differs (a.toNat / 2 ^ e.1 % 2 ^ e.2.width) (b.toNat / 2 ^ e.1 % 2 ^ e.2.width))

/-- What the vector unit computes where `f` is right: an upset spoils the next checked result (R97, R347). -/
def Site.computed (x : Site) (i : Instr) (f : Nat → Word) (l : Nat) : Word :=
  if (checkedElems x.sp.fmt i).isEmpty then f l else f l ^^^ x.ch.upset.at l

/-- The lowest lane whose checked result mismatches (R347). -/
def Site.mismatchLane (x : Site) (i : Instr) (f : Nat → Word) : Option Nat :=
  x.active.lanes.find? (fun l => elemsDiffer (checkedElems x.sp.fmt i) (f l) (x.computed i f l))

/-- The site after a result that the upset may have spoilt: it is spent. -/
def Site.spent (x : Site) (i : Instr) : Site :=
  if (checkedElems x.sp.fmt i).isEmpty then x else { x with ch := { x.ch with upset := Lanes.zero } }

/-- The results of a lane operation: the write-back unless nw is set, and the latch of a chain member, 0 outside the
active set (R21, R67). -/
def Site.result (x : Site) (i : Instr) (w : BitVec 1) (d : BitVec 6) (f : Nat → Word) : Site :=
  let y := if w == 0 then x.write d.toNat f else x
  match x.member i with
  | none => y
  | some k =>
    { y with ch := { y.ch with
        latches := updAt y.ch.latches k (fun _ => Lanes.ofFn (fun l => if x.active.has l then f l else 0)) } }

/-- A lane operation: every read in every lane before any write. -/
def laneOp (i : Instr) (w : BitVec 1) (d : BitVec 6) (f : Site → Nat → Word) (s : State) : Out :=
  issue i s (fun x =>
    match x.mismatchLane i (f x) with
    | some l => .next (s.failHalt i (x.spent i) 0x0F (laneWord l))
    | none => .next (s.retire i x ((x.spent i).result i w d (x.computed i (f x)))))

/-- A binary operation on two sources, a unary one, and one that also reads `vd` in place (R67, R94). -/
def binary (i : Instr) (w : BitVec 1) (d : BitVec 6) (a b : BitVec 7) (op : Word → Word → Word) (s : State) : Out :=
  laneOp i w d (fun x l => op (x.src a l) (x.src b l)) s

def unary (i : Instr) (w : BitVec 1) (d : BitVec 6) (a : BitVec 7) (op : Word → Word) (s : State) : Out :=
  laneOp i w d (fun x l => op (x.src a l)) s

def inPlace (i : Instr) (w : BitVec 1) (d : BitVec 6) (a b : BitVec 7) (op : Word → Word → Word → Word) (s : State) : Out :=
  laneOp i w d (fun x l => op (x.src a l) (x.src b l) (x.reg d.toNat l)) s

/-- An operation with an immediate (R80). -/
def immediate (i : Instr) (w : BitVec 1) (d : BitVec 6) (a : BitVec 7) (imm : Word) (op : Word → Word → Word) (s : State) : Out :=
  laneOp i w d (fun x l => op (x.src a l) imm) s

/-- A 16-bit two-address operation (R30). -/
def twoAddress (i : Instr) (vd : BitVec 5) (vs : BitVec 6) (op : Word → Word → Word) (s : State) : Out :=
  laneOp i 0 (vd.setWidth 6) (fun x l => op (x.reg vd.toNat l) (x.reg vs.toNat l)) s

/-- The values of a source in the active lanes, lowest lane first. -/
def Site.activeValues (x : Site) (a : BitVec 7) : List Word := x.active.lanes.map (fun l => x.src a l)

/-- An operation whose result is the same in every active lane (R87, R88). -/
def across (i : Instr) (w : BitVec 1) (d : BitVec 6) (op : Site → Word) (s : State) : Out :=
  laneOp i w d (fun x _ => op x) s

end Sys2Proof.Machine
end

