-- ==== Sys2Proof/Machine/Translate.lean ====
section
/-!
DEFINITION. Translation: placement of physical addresses, page walks of one and two stages, the TLBs, the state kept
with lines, and page requests (R222, R245 to R262, R375).
-/
namespace Sys2Proof.Machine

/-! ## Placement (R248, R249, R375) -/

/-- Whether a physical address is the device's own HBM4, host memory, or peer memory (R375). -/
def isHbm (pa : Nat) : Bool := decide (pa < 2 ^ 39)
def isHost (pa : Nat) : Bool := decide (2 ^ 39 ≤ pa) && decide (pa < 2 ^ 47)
def isPeer (pa : Nat) : Bool := decide (2 ^ 47 ≤ pa) && decide (pa < 2 ^ 48)

/-- The lowest selecting bit of a swizzle mode (R249). -/
def swizzleLow (mode : Nat) : Nat :=
  match mode % 8 with
  | 0 => 12
  | 1 => 13
  | 2 => 15
  | 3 => 16
  | 4 => 21
  | 5 => 12
  | 6 => 36
  | _ => 12

/-- The stack of a physical address (R249). -/
def stackOf (mode pa : Nat) : Nat :=
  let f (lo : Nat) : Nat := bits pa (lo + 2) lo
  match mode % 8 with
  | 5 => f 12 ^^^ f 21
  | 7 => f 12 ^^^ f 15 ^^^ f 18
  | m => f (swizzleLow m)

/-- The offset within the stack. -/
def stackOffset (mode pa : Nat) : Nat :=
  let lo := swizzleLow mode
  pa / 2 ^ (lo + 3) * 2 ^ lo + pa % 2 ^ lo

/-- The place in `State.mem` of a physical address: HBM4 by stack and offset, host memory by its own address. -/
def place (mode pa : Nat) : Nat := if isHbm pa then stackOf mode pa * 2 ^ 36 + stackOffset mode pa else pa

/-! ## Table entries (R246, R247) -/

/-- Whether an entry is present, and whether it is a leaf. -/
def entryPresent (e : Nat) : Bool := e % 2 == 1
def entryLeaf (e : Nat) : Bool := bits e 3 1 != 0

/-- A well-formed table entry at a level above 0. -/
def tableOk (level e : Nat) : Bool :=
  bits e 63 48 == 0 && bits e 11 9 == 0 && bits e 7 4 == 0 && (level == 1 || bits e 8 8 == 0)

/-- The size of a leaf's page at a level. -/
def pageSize (level : Nat) (g64 : Bool) : Nat :=
  match level with
  | 0 => if g64 then 65536 else 4096
  | 1 => 2 ^ 21
  | _ => 2 ^ 30

/-- A well-formed leaf. -/
def leafOk (size e : Nat) : Bool := !(bits e 2 2 == 1 && bits e 1 1 == 0) && e % 2 ^ 48 / 4096 * 4096 % size == 0

/-- Kinds of access, with the codes of a page request (R255). -/
inductive Access where
  | read | write | fetch | rmw
  deriving DecidableEq, Repr

def Access.code : Access → Nat
  | .read => 0
  | .write => 1
  | .fetch => 2
  | .rmw => 3

/-- Whether the access writes. -/
def Access.writes : Access → Bool
  | .write => true
  | .rmw => true
  | _ => false

/-- Whether permissions allow an access (R247): writes and atomics need R and W, a fetch needs X. -/
def Access.allowed (a : Access) (r w x : Bool) : Bool :=
  match a with
  | .read => r
  | .write => r && w
  | .fetch => x
  | .rmw => r && w

/-! ## One walk (R245, R251, R254) -/

/-- A page that a walk lacks: its base, and the 4 KiB of the address that faulted, which a request names (R254, R255). -/
structure PageRef where
  base : Nat
  addr : Nat
  deriving DecidableEq, Repr

/-- The page of a size around an address. -/
def pageRef (va size : Nat) : PageRef := { base := va / size * size, addr := va / 4096 * 4096 }

/-- A walker at work for a context of a function: memory, its die's page-walk cache, and how many entries that holds; the front
end walks without one. -/
structure Walker where
  mem : Memory
  cache : List TableEntry
  ctx : Nat
  fn : Nat
  room : Nat

/-- A walker without a cache. -/
def Walker.plain (m : Memory) : Walker := { mem := m, cache := [], ctx := 0, fn := 0, room := 0 }

/-- The cached table entry of a stage at an address. -/
def Walker.cached (w : Walker) (stage a : Nat) : Option TableEntry :=
  w.cache.find? (fun e => e.ctx == w.ctx && e.fn == w.fn && e.stage == stage && e.addr == a)

/-- The addresses that an entry of a level translates. -/
def levelSpan (level : Nat) : Nat := 4096 * 512 ^ level

/-- A table entry that the walker has read, or used again, stands first in the cache. -/
def Walker.keep (w : Walker) (stage a v level va : Nat) : Walker :=
  let e : TableEntry :=
    { ctx := w.ctx, fn := w.fn, stage := stage, addr := a, value := v, first := va / levelSpan level * levelSpan level, size := levelSpan level }
  { w with cache := (e :: w.cache.filter (fun f => !(f.ctx == e.ctx && f.fn == e.fn && f.stage == e.stage && f.addr == e.addr))).take w.room }

/-- A read of a table entry: its value, an absent page at stage 2, or a permanent failure. -/
inductive TableRead where
  | val (v : Nat)
  | absent2 (page : PageRef)
  | bad
  deriving DecidableEq, Repr

/-- The end of a walk: the leaf, its address and page size, an absent page at a stage, or a permanent failure. -/
inductive WalkEnd where
  | leaf (addr entry size : Nat)
  | absent (stage : Nat) (page : PageRef)
  | bad
  deriving DecidableEq, Repr

/-- The index of a virtual address at a level. -/
def levelIndex (level : Nat) (g64 : Bool) (va : Nat) : Nat :=
  match level with
  | 3 => bits va 47 39
  | 2 => bits va 38 30
  | 1 => bits va 29 21
  | _ => if g64 then bits va 20 16 else bits va 20 12

/-- An entry as the walker sees it: a cached table entry, else what `rd` reads, which may set A bits in memory. -/
def Walker.look (w : Walker) (stage : Nat) (rd : Walker → Nat → TableRead × Walker) (a : Nat) : TableRead × Walker :=
  match w.cached stage a with
  | some e => (.val e.value, w)
  | none => rd w a

/-- Walks from a level down (R245 to R247). -/
def walkFrom (stage : Nat) (rd : Walker → Nat → TableRead × Walker) (w : Walker) (level table : Nat) (g64 : Bool) (va : Nat) :
    WalkEnd × Walker :=
  let a := table + 8 * levelIndex level g64 va
  match w.look stage rd a with
  | (.bad, w) => (.bad, w)
  | (.absent2 p, w) => (.absent 2 p, w)
  | (.val e, w) =>
    if !entryPresent e then (.absent stage (pageRef va (if level = 0 then pageSize 0 g64 else 4096)), w)
    else if entryLeaf e then
      let size := pageSize level g64
      if level = 3 || !leafOk size e then (.bad, w) else (.leaf a e size, w)
    else
      match level with
      | 0 => (.bad, w)
      | l + 1 =>
        if tableOk (l + 1) e then
          walkFrom stage rd (w.keep stage a e (l + 1) va) l (e % 2 ^ 48 / 4096 * 4096) (l = 0 && bits e 8 8 == 1) va
        else (.bad, w)

/-- The entry at a physical address, which the walker reaches under swizzle mode 0 (R410). -/
def readPhysEntry (w : Walker) (a : Nat) : TableRead × Walker :=
  if isHbm a then (.val (w.mem.readLE (place 0 a) 8), w) else (.bad, w)

/-- An entry with A set, and D for a write (R247). -/
def markEntry (e : Nat) (write : Bool) : Nat :=
  let e := if bits e 4 4 == 0 then e + 16 else e
  if write && bits e 5 5 == 0 then e + 32 else e

/-- Marks the entry at a physical address (R247). -/
def markPhys (w : Walker) (a : Nat) (write : Bool) : Walker :=
  { w with mem := w.mem.writeLE (place 0 a) 8 (markEntry (w.mem.readLE (place 0 a) 8) write) }

/-- A stage-2 translation (R254): the leaf's fields. -/
structure Stage2 where
  pa : Nat
  swizzle : BitVec 4
  size : Nat
  r : Bool
  w : Bool
  x : Bool
  sc : Bool
  d : Bool
  page : Nat
  deriving DecidableEq, Repr

/-- The end of a translation at stage 2. -/
inductive Stage2End where
  | ok (e : Stage2)
  | absent (page : PageRef)
  | bad
  deriving DecidableEq, Repr

/-- Translates a guest-physical address through the function's stage-2 table, for an access that reads or writes. -/
def stage2 (w : Walker) (root gpa : Nat) (acc : Access) : Stage2End × Walker :=
  if 2 ^ 48 ≤ gpa then (.bad, w)
  else
    match walkFrom 2 readPhysEntry w 3 root false gpa with
    | (.bad, w) => (.bad, w)
    | (.absent _ p, w) => (.absent p, w)
    | (.leaf a e size, w) =>
      let r := bits e 1 1 == 1
      let wr := bits e 2 2 == 1
      let x := bits e 3 3 == 1
      if acc.allowed r wr x then
        (.ok { pa := e % 2 ^ 48 / 4096 * 4096 + gpa % size, swizzle := BitVec.ofNat 4 (bits e 11 8), size := size,
               r := r, w := wr, x := x, sc := bits e 6 6 == 1, d := bits e 5 5 == 1, page := gpa / size * size }, markPhys w a acc.writes)
      else (.absent (pageRef gpa size), w)

/-- A read of a stage-1 table entry at a guest-physical address, through stage 2 (R254). -/
def readGuestEntry (root2 : Nat) (w : Walker) (a : Nat) : TableRead × Walker :=
  match stage2 w root2 a .read with
  | (.bad, w) => (.bad, w)
  | (.absent p, w) => (.absent2 p, w)
  | (.ok e, w) => if isHbm e.pa then (.val (w.mem.readLE (place e.swizzle.toNat e.pa) 8), w) else (.bad, w)

/-- Sets A and D of a stage-1 leaf at a guest-physical address; the update is a write at stage 2 (R254). -/
def markGuest (root2 : Nat) (w : Walker) (a : Nat) (write : Bool) : Option PageRef × Walker :=
  match stage2 w root2 a .write with
  | (.ok s, w) =>
    let p := place s.swizzle.toNat s.pa
    (none, { w with mem := w.mem.writeLE p 8 (markEntry (w.mem.readLE p 8) write) })
  | (.absent p, w) => (some p, w)
  | (.bad, w) => (none, w)

/-- The outcome of a translation: the entry, a recoverable fault at a stage, or a permanent one. -/
inductive Xlat where
  | ok (e : TlbEntry)
  | absent (stage : Nat) (page : PageRef)
  | bad
  deriving DecidableEq, Repr

/-- A walk of both stages for an access of a context (R245, R254). -/
def walk (w : Walker) (ctx fn root root2 va : Nat) (acc : Access) : Xlat × Walker :=
  if 2 ^ 48 ≤ va then (.bad, w)
  else if fn = 0 then
    match walkFrom 1 readPhysEntry w 3 root false va with
    | (.bad, w) => (.bad, w)
    | (.absent k p, w) => (.absent k p, w)
    | (.leaf a e size, w) =>
      let r := bits e 1 1 == 1
      let wr := bits e 2 2 == 1
      let x := bits e 3 3 == 1
      if acc.allowed r wr x then
        (.ok { ctx := ctx, fn := fn, va := va / size * size, size := size, pa := e % 2 ^ 48 / 4096 * 4096,
               swizzle := BitVec.ofNat 4 (bits e 11 8), r := r, w := wr, x := x, sc := bits e 6 6 == 1, g := bits e 7 7 == 1,
               tag := BitVec.ofNat 16 (bits e 63 48), gpa := 0, span := size, dirty := acc.writes || bits e 5 5 == 1 },
         markPhys w a acc.writes)
      else (.absent 1 (pageRef va size), w)
  else
    match walkFrom 1 (readGuestEntry root2) w 3 root false va with
    | (.bad, w) => (.bad, w)
    | (.absent k p, w) => (.absent k p, w)
    | (.leaf a e size, w) =>
      let r := bits e 1 1 == 1
      let wr := bits e 2 2 == 1
      let x := bits e 3 3 == 1
      if acc.allowed r wr x then
        match stage2 w root2 (e % 2 ^ 48 / 4096 * 4096 + va % size) acc with
        | (.bad, w) => (.bad, w)
        | (.absent p, w) => (.absent 2 p, w)
        | (.ok t, w) =>
          let small := Nat.min size t.size
          match (if bits e 4 4 == 1 && (!acc.writes || bits e 5 5 == 1) then (none, w) else markGuest root2 w a acc.writes) with
          | (some p, w) => (.absent 2 p, w)
          | (none, w) =>
            (.ok { ctx := ctx, fn := fn, va := va / small * small, size := small, pa := t.pa - va % small, swizzle := t.swizzle,
                   r := r && t.r, w := wr && t.w, x := x && t.x, sc := bits e 6 6 == 1 || t.sc, g := bits e 7 7 == 1,
                   tag := BitVec.ofNat 16 (bits e 63 48), gpa := t.page, span := size,
                   dirty := acc.writes || (bits e 5 5 == 1 && t.d) }, w)
      else (.absent 1 (pageRef va size), w)

/-! ## TLBs (R251, R252) -/

/-- Entries of an L1 and of an L2 TLB. -/
def l1Size : Nat := 96
def l2Size : Nat := 4096

/-- The entry that translates an address of a context. -/
def tlbFind (t : List TlbEntry) (ctx va : Nat) : Option TlbEntry :=
  t.find? (fun e => e.ctx == ctx && decide (e.va ≤ va) && decide (va < e.va + e.size))

/-- Whether an entry serves an access as it stands. -/
def TlbEntry.serves (e : TlbEntry) (acc : Access) : Bool := acc.allowed e.r e.w e.x && (!acc.writes || e.dirty)

/-- An entry put first, any other for its page removed. -/
def tlbInsert (size : Nat) (t : List TlbEntry) (e : TlbEntry) : List TlbEntry :=
  (e :: t.filter (fun d => !(d.ctx == e.ctx && d.va == e.va && d.size == e.size))).take size

/-- The roots of a context: its function and both table roots. -/
def State.roots (s : State) (ctx : Nat) : Nat × Nat × Nat :=
  match s.context? ctx with
  | some c => (c.fn, c.root.toNat, ((s.func? c.fn).map (fun f => f.s2root.toNat)).getD 0)
  | none => (0, 0, 0)

/-- Translates without a TLB or a page-walk cache, as the front end does. -/
def State.translateFront (s : State) (ctx va : Nat) (acc : Access) : Xlat × State :=
  let r := s.roots ctx
  match walk (Walker.plain s.mem) ctx r.1 r.2.1 r.2.2 va acc with
  | (x, w) => (x, { s with mem := w.mem })

/-- Entries of the page-walk cache of a die, and its walkers (R251). -/
def cacheSize : Nat := 512
def walkerCount : Nat := 16

/-- A walk by the walkers of a die. -/
def State.walkOn (s : State) (die ctx va : Nat) (acc : Access) : Xlat × State :=
  let r := s.roots ctx
  match walk { mem := s.mem, cache := (s.die die).pwc, ctx := ctx, fn := r.1, room := cacheSize } ctx r.1 r.2.1 r.2.2 va acc with
  | (x, w) => (x, State.modDie { s with mem := w.mem } die (fun d => { d with pwc := w.cache }))

/-- A stage-2 translation for a function, without a page-walk cache. -/
def State.throughStage2 (s : State) (fn gpa : Nat) (acc : Access) : Stage2End × State :=
  match stage2 (Walker.plain s.mem) (((s.func? fn).map (fun f => f.s2root.toNat)).getD 0) gpa acc with
  | (x, w) => (x, { s with mem := w.mem })

/-- Translates for a core: the L1 TLB, the cluster's L2, then a walk on its die, whose result enters both. A cached entry that
forbids the access is discarded and the walk decides (R252). -/
def State.translate (s : State) (core ctx va : Nat) (acc : Access) : Xlat × State :=
  let c := s.core core
  let hit := (tlbFind c.tlb ctx va).orElse (fun _ => tlbFind (s.cluster (clusterOf core)).l2 ctx va)
  match hit.filter (fun e => e.serves acc) with
  | some e => (.ok e, s.setCore { c with tlb := tlbInsert l1Size c.tlb e })
  | none =>
    let keep (e : TlbEntry) : Bool := !(e.ctx == ctx && decide (e.va ≤ va) && decide (va < e.va + e.size))
    let s := s.setCore { c with tlb := c.tlb.filter keep }
    let s := s.modCluster (clusterOf core) (fun k => { k with l2 := k.l2.filter keep })
    match s.walkOn (dieOfCore core) ctx va acc with
    | (.ok e, s) =>
      let c := s.core core
      let s := s.setCore { c with tlb := tlbInsert l1Size c.tlb e }
      (.ok e, s.modCluster (clusterOf core) (fun k => { k with l2 := tlbInsert l2Size k.l2 e }))
    | (x, s) => (x, s)

/-- The physical address of a virtual one under an entry, and its place. -/
def TlbEntry.phys (e : TlbEntry) (va : Nat) : Nat := e.pa + va % e.size
def TlbEntry.at_ (e : TlbEntry) (va : Nat) : Nat := place e.swizzle.toNat (e.phys va)

/-- Whether an entry may serve the pump, a well access, a fetch or the front end: HBM4 and not guarded (R258, R375). -/
def TlbEntry.plain (e : TlbEntry) : Bool := isHbm e.pa && !e.g

/-! ## Lines: tags, keys and poison (R222, R261, R262, R348) -/

def State.lineOf (s : State) (loc : Nat) : Option LineTag := s.lines.find? (fun t => t.line == loc / 128)

/-- The lines that `n` bytes from `loc` lie on. -/
def linesOf (loc n : Nat) : List Nat := if n = 0 then [] else (List.range ((loc + n - 1) / 128 - loc / 128 + 1)).map (loc / 128 + ·)

/-- Lines of a stack, and those that the reservoir of its die holds: what the cistern leaves of 96 MiB (R221, R222). -/
def stackLines : Nat := 2 ^ 29
def Die.reservoir (d : Die) : Nat := (96 * 1048576 - d.cistern) / 128

/-- The first `n` cached lines of a stack stay in the reservoir, and any other is evicted: the spec gives no rule of replacement,
and the model evicts the line that was used longest ago (log 19). -/
def evictLines (stack : Nat) : Nat → List LineTag → List LineTag
  | _, [] => []
  | n, t :: r =>
    if t.cached && t.line / stackLines == stack then
      match n with
      | 0 => { t with cached := false } :: evictLines stack 0 r
      | k + 1 => t :: evictLines stack k r
    else t :: evictLines stack n r

/-- A request brings a line into the reservoir, with its tag and G, and for a write the key of its context; the line stands first
among those used. -/
def State.touchLine (s : State) (loc ctx : Nat) (tag : BitVec 16) (g write : Bool) : State :=
  let kept := if write then none else (s.lineOf loc).bind (·.key)
  let t : LineTag := { line := loc / 128, cached := true, tag := tag, g := g, key := kept.orElse (fun _ => some ctx) }
  { s with lines := evictLines (t.line / stackLines) (s.die (t.line / stackLines)).reservoir (t :: s.lines.filter (fun u => u.line != t.line)) }

/-- The lines of `n` bytes of HBM4 are brought in. -/
def State.touchLines (s : State) (loc n ctx : Nat) (tag : BitVec 16) (g write : Bool) : State :=
  if isHbm loc then (linesOf loc n).foldl (fun s k => s.touchLine (128 * k) ctx tag g write) s else s

/-- Whether a place lies on a line of HBM4 under the key of another context (R262). -/
def State.foreign (s : State) (ctx loc : Nat) : Bool := isHbm loc && (s.lineOf loc).any (fun t => t.key.any (· != ctx))

/-- Bytes that no rule gives. -/
def State.freeBytes (s : State) : Nat → List Byte × State
  | 0 => ([], s)
  | n + 1 =>
    let r := s.freeBytes n
    let v := r.2.freeValue
    (r.1 ++ [v.1.extractLsb' 0 8], v.2)

/-- Bytes of HBM4 or host memory as a context reads them: under another context's key they are unrelated bytes, which
no rule gives (R262). -/
def State.readBytes (s : State) (ctx loc n : Nat) : List Byte × State :=
  if (linesOf loc n).any (fun k => s.foreign ctx (128 * k)) then
    (List.range n).foldl (fun (r : List Byte × State) k =>
      if s.foreign ctx (loc + k) then let v := r.2.freeValue; (r.1 ++ [v.1.extractLsb' 0 8], v.2)
      else (r.1 ++ [s.mem.read (loc + k)], r.2)) ([], s)
  else (s.mem.readBytes loc n, s)

/-- Before a write, a line under the key of another context is filled under the writer's: its bytes are unrelated ones (R262). -/
def State.fillLine (s : State) (ctx line : Nat) : State :=
  if s.foreign ctx (128 * line) then
    let r := s.freeBytes 128
    { r.2 with mem := r.2.mem.writeBytes (128 * line) r.1 }
  else s

/-- Whether an agent that never uses guarded pages may access some bytes under an entry: HBM4, not guarded, and for a read on no
line that keeps G (R258, R261). -/
def State.mayUse (s : State) (e : TlbEntry) (acc : Access) (loc n : Nat) : Bool :=
  e.plain && (acc == .write || (linesOf loc n).all (fun k => !s.lines.any (fun t => t.line == k && t.cached && t.g)))

/-- The 32-byte granules that `n` bytes from `loc` touch, and those they cover whole. -/
def granules (loc n : Nat) : List Nat :=
  if n = 0 then [] else (List.range ((loc + n - 1) / 32 - loc / 32 + 1)).map (loc / 32 + ·)
def wholeGranules (loc n : Nat) : List Nat := (granules loc n).filter (fun g => decide (loc ≤ 32 * g) && decide (32 * g + 32 ≤ loc + n))

/-- Whether bytes of a memory are poisoned. -/
def poisoned (p : List Nat) (loc n : Nat) : Bool := (granules loc n).any p.contains

/-- Whether some ranges, as first byte and count, cover a granule whole between them. -/
def covered (rs : List (Nat × Nat)) (g : Nat) : Bool :=
  (List.range 32).all (fun k => rs.any (fun r => decide (r.1 ≤ 32 * g + k) && decide (32 * g + k < r.1 + r.2)))

/-- The marks after a write of clean data: granules covered whole lose theirs. -/
def poisonClear (p : List Nat) (loc n : Nat) : List Nat := p.filter (fun g => !(wholeGranules loc n).contains g)

/-- The marks after a copier's write of `n` bytes whose source was poisoned or not. -/
def poisonCopy (p : List Nat) (loc n : Nat) (bad : Bool) : List Nat :=
  if bad then p ++ (granules loc n).filter (fun g => !p.contains g) else poisonClear p loc n

/-- The words that `n` bytes from `loc` lie in, by their addresses. -/
def wordsOf (loc n : Nat) : List Nat := if n = 0 then [] else (List.range ((loc + n - 1) / 4 - loc / 4 + 1)).map (fun k => 4 * (loc / 4 + k))

/-- The entry under which an address stands in a context's tables, whatever access it permits. -/
def State.mapped (s : State) (ctx va : Nat) : Option TlbEntry :=
  [Access.read, Access.fetch].findSome? (fun a => match (s.translateFront ctx va a).1 with | .ok e => some e | _ => none)

/-- Where a code image of a playbill lies, page by page: offset, place and length of each piece (R84). -/
def State.codePlaces (s : State) (ctx : Nat) (b : Playbill) : List (Nat × Nat × Nat) :=
  let a := b.codeBase.toNat
  let pages := if b.codeLength = 0 then [] else (List.range ((a + b.codeLength - 1) / 4096 - a / 4096 + 1)).map (fun k => 4096 * (a / 4096 + k))
  pages.filterMap (fun p =>
    let lo := Nat.max a p
    (s.mapped ctx lo).map (fun e => (lo - a, e.at_ lo, Nat.min (a + b.codeLength) (p + 4096) - lo)))

/-- The offset in a run's code image of the word that lies at a place (R84). -/
def Run.codeOffset (r : Run) (w : Nat) : Option Nat :=
  r.codeAt.findSome? (fun p => if decide (p.2.1 ≤ w) && decide (w < p.2.1 + p.2.2) then some (p.1 + (w - p.2.1)) else none)

/-- Words have been written: those that lie in a code image are noted with their new values (R84); and where the tables have changed, the
image lies elsewhere from now on. -/
def State.noteCode (s : State) (ws : List Nat) : State :=
  { s with runs := s.runs.map (fun r =>
      { r with
        codeAt := s.codePlaces r.ctx r.playbill
        codeSince := r.codeSince ++ ws.filterMap (fun w => (r.codeOffset w).map (fun o => (o, s.mem.readWord w))) }) }

/-- Bytes stored in main memory by an agent of a context under a tag and G; the mark of poison of the data goes with them. -/
def State.writeMem (s : State) (ctx : Nat) (tag : BitVec 16) (g : Bool) (loc : Nat) (data : List Byte) (bad : Bool) : State :=
  let s := (linesOf loc data.length).foldl (fun s k => s.fillLine ctx k) s
  let s := { s with mem := s.mem.writeBytes loc data, memPoison := poisonCopy s.memPoison loc data.length bad }
  (s.touchLines loc data.length ctx tag g true).noteCode (wordsOf loc data.length)

/-- Bytes stored at places one by one; marks of poison are the caller's. -/
def State.storeAt (s : State) (ctx : Nat) (tag : BitVec 16) (g : Bool) (ws : List (Nat × Byte)) : State :=
  let ks := (ws.map (fun w => w.1 / 128)).eraseDups
  let s : State := ks.foldl (fun s k => s.fillLine ctx k) s
  let s : State := { s with mem := ws.foldl (fun m w => m.write w.1 w.2) s.mem }
  let s : State := ks.foldl (fun s k => s.touchLines (128 * k) 1 ctx tag g true) s
  s.noteCode (ws.map (fun w => w.1 / 4 * 4)).eraseDups

/-! ## Page requests (R254, R255) -/

/-- A recoverable fault: the request for the page gets one more waiter, or is made. -/
def State.pageRequest (s : State) (ctx stage : Nat) (page : PageRef) (acc : Access) (who : Waiter) : State :=
  let fn := (s.roots ctx).1
  let same (q : PageReq) : Bool := q.fn == fn && q.stage == stage && q.page == page.base
  if s.requests.any same then
    let f (q : PageReq) : PageReq := { q with waiters := if q.waiters.contains who then q.waiters else q.waiters ++ [who] }
    { s with requests := updWhere same f s.requests }
  else
    { s with requests := s.requests ++
        [{ fn := fn, stage := stage, page := page.base, addr := page.addr, ctx := ctx, pasid := ((s.context? ctx).map (·.pasid)).getD 0,
           access := acc.code, tag := none, blocked := false, waiters := [who] }] }

/-- Whether a request has a waiter of the company. -/
def Waiter.ofCompany (u : Nat) : Waiter → Bool
  | .fly co _ => co == u
  | .pump co _ => co == u
  | .lane co _ => co == u
  | _ => false

/-- Whether the company awaits an answer. -/
def State.awaitsPage (s : State) (u : Nat) : Bool := s.requests.any (fun q => q.waiters.any (Waiter.ofCompany u))

/-! ## Saving a company for a fault (R24, R135, R240, R346) -/

/-- Ends the oldest in-flight access of a chorus: its tags, its tile's reader, and the counts of the splits (R24, R168,
R275). -/
def Company.endAccess (c : Company) (ch : Nat) : Company :=
  match c.chorus? ch with
  | none => c
  | some h =>
    match h.inflight with
    | [] => c
    | f :: rest =>
      let h := { h with
        inflight := rest
        splits := updWhere (fun (p : Split) => p.members &&& f.members != 0) (fun p => { p with mem := p.mem - 1 }) h.splits }
      let c := c.setChorus (h.untag f.tags)
      match f.tile with
      | some t => c.unreadTile t
      | none => c

/-- Ends every in-flight access of a company, as a save waits for (R24). -/
def Company.drain (c : Company) : Company :=
  c.choruses.foldl (fun c h => (List.range h.inflight.length).foldl (fun c _ => c.endAccess h.index) c) c

/-- A chorus as a save leaves it: the counters and phases of its range slots are 0, and a fence that drained a slot begins
that slot anew, since every command is tagged again when the company is restored (R10, R275). Latches are lost. -/
def Chorus.saved (h : Chorus) : Chorus :=
  let fence (w : Wait) : Wait := match w with | .fenceR m _ r => .fenceR m none r | w => w
  { h with
    latches := noLatches
    pump := h.pump.map (fun m => { m with moving := false })
    counters := h.counters.map (fun _ => (0, 0))
    phases := h.phases.map (fun _ => false)
    queue := h.queue.map (fun q => match q with | .fly f => .fly { f with tags := [] } | q => q)
    splits := h.splits.map (fun p => { p with wait := fence p.wait }) }

/-- A company as a save leaves it. -/
def Company.asSaved (c : Company) : Company :=
  let c := c.drain
  { c with
    choruses := c.choruses.map Chorus.saved
    ops := c.ops.map (fun o => { o with ready := none })
    engine := c.engine.map (fun e => (e.1, { e.2 with tags := [], state := if e.2.state == .handed then .recorded else e.2.state })) }

/-- A recoverable fault asks for the save of a company: each unit goes to its stopping point (R340), and then the company is
saved (`State.save`). -/
def State.saveForFault (s : State) (u : Nat) : State := s.modCompany u (fun c => { c with saving := true })

end Sys2Proof.Machine
end

