-- ==== Sys2Proof/Machine/Memory.lean ====
section
/-!
DEFINITION. Lane accesses to the well, the stage, tiles and the cistern, and the lane atomics (R137, R138, R161 to R173,
R223 to R226, R275).
-/
namespace Sys2Proof.Machine

/-! ## Range tags (R273, R275) -/

/-- Bytes of one space that an access may touch: 0 main memory, 1 cistern window, 2 stage. -/
structure Span where
  space : Nat
  base : Nat
  len : Nat
  deriving DecidableEq, Repr

/-- Whether a bound range overlaps a span. -/
def RangeSlot.hits (r : RangeSlot) (p : Span) : Bool :=
  r.length != 0 && r.space.toNat == p.space && decide (r.base.toNat < p.base + p.len) &&
    decide (p.base < r.base.toNat + r.length.toNat) && p.len != 0

/-- The slots that a footprint overlaps, each with its phase. -/
def Chorus.tagsFor (h : Chorus) (fp : List Span) : List (Nat × Nat) :=
  (List.range 8).filterMap (fun k =>
    match h.slots[k]? with
    | some r => if fp.any r.hits then some (k, if h.phases.getD k false then 1 else 0) else none
    | none => none)

/-- The count behind a tag. -/
def Chorus.count (h : Chorus) (t : Nat × Nat) : Nat := let c := h.counters.getD t.1 (0, 0); if t.2 = 0 then c.1 else c.2

/-- Whether some counter is at its limit, so that issue waits. -/
def Chorus.tagsFull (h : Chorus) (tags : List (Nat × Nat)) : Bool := tags.any (fun t => decide (255 ≤ h.count t))

/-- Counts an access in its slots. -/
def Chorus.tag (h : Chorus) (tags : List (Nat × Nat)) : Chorus :=
  { h with counters := tags.foldl (fun cs t => updAt cs t.1 (fun c => if t.2 = 0 then (c.1 + 1, c.2) else (c.1, c.2 + 1))) h.counters }

/-! ## What lane accesses share -/

/-- The address of each active lane: base register plus a signed multiple of the size, modulo 2^32 (R36). -/
def Site.addresses (x : Site) (b : BitVec 6) (off : Word) : List (Nat × Nat) :=
  x.active.lanes.map (fun l => (l, (x.reg b.toNat l + off).toNat))

/-- The offset of a form-M field (R36). -/
def offsetOf (o : BitVec 10) (size : Nat) : Word := sext o * BitVec.ofNat 32 size

/-- The lowest lane whose address is no multiple of the size. -/
def misalignedLane (as : List (Nat × Nat)) (size : Nat) : Option Nat := (as.find? (fun a => a.2 % size != 0)).map (·.1)

/-- The lowest lane whose access would pass a limit. -/
def beyondLane (as : List (Nat × Nat)) (size limit : Nat) : Option Nat := (as.find? (fun a => decide (limit < a.2 + size))).map (·.1)

/-- Spans of lane accesses. -/
def spansOf (space size : Nat) (as : List (Nat × Nat)) : List Span := as.map (fun a => { space := space, base := a.2, len := size })

/-- A lane access enters flight (R24): the split's count, its tags, and the rows it writes (R133, R151). -/
def Site.enter (x : Site) (u : Nat × State) (reads : Bool) (tags : List (Nat × Nat)) (tile : Option Nat) (regs : List Nat) : Site :=
  let rows := regs.filterMap (fun n => if 16 ≤ n then some (x.sp.wb + n - 16) else none)
  let house := regs.filter (fun n => decide (0 < n) && decide (n < 16))
  let f : InFlight := { uid := u.1, reads := reads, members := x.active, tags := tags, tile := tile, rows := rows, house := house, since := u.2.now }
  { x with
    sp := { x.sp with mem := x.sp.mem + 1 }
    ch := { x.ch.tag tags with inflight := x.ch.inflight ++ [f] } }

/-- The beginning of a lane access: with an empty active set it makes none (R16), and a 65th in flight waits (R24). -/
def laneAccess (i : Instr) (s : State) (k : Site → Out) : Out :=
  issue i s (fun x =>
    if x.idle then .next (s.retire i x x)
    else if 64 ≤ x.ch.inflight.length then .next (s.stall x .inflight .waitMemory)
    else k x)

/-- The beginning of an access whose footprint is tagged: a full counter holds issue (R275). -/
def tagged (s : State) (x : Site) (fp : List Span) (k : List (Nat × Nat) → Out) : Out :=
  let tags := x.ch.tagsFor fp
  if x.ch.tagsFull tags then .next (s.stall x .counter .waitMemory) else k tags

/-- The value that each lane read. -/
def laneValue (vs : List (Nat × Word)) (l : Nat) : Word := ((vs.find? (fun v => v.1 == l)).map (·.2)).getD 0

/-- Writes the words that lanes read from addresses to consecutive registers, one word each (R163). -/
def Site.load (x : Site) (rd : Nat → Word) (as : List (Nat × Nat)) (regs : List Nat) (k : Nat) : Site :=
  match regs with
  | [] => x
  | n :: r => (x.write n (laneValue (as.map (fun a => (a.1, rd (a.2 + 4 * k)))))).load rd as r (k + 1)

/-- The bytes that a lane stores from consecutive registers; v0 stores zero (R12). -/
def Site.storeBytes (x : Site) (l : Nat) (regs : List Nat) : List Byte := regs.flatMap (fun n => bytesLE 4 (x.reg n l).toNat)

/-- Stores of all lanes in increasing lane order, so that the highest lane's value stays (R163). -/
def storeAll (m : Memory) (ws : List (Nat × List Byte)) : Memory := ws.foldl (fun m w => m.writeBytes w.1 w.2) m

/-- The marks after the stores of all lanes: a granule that they cover whole together loses its own (R348). -/
def clearStored (p : List Nat) (ws : List (Nat × List Byte)) : List Nat :=
  p.filter (fun g => !(List.range 32).all (fun k => ws.any (fun w => decide (w.1 ≤ 32 * g + k) && decide (32 * g + k < w.1 + w.2.length))))

/-- The lowest lane that reads poisoned bytes. -/
def poisonRead (p : List Nat) (as : List (Nat × Nat)) (size : Nat) : Option Nat :=
  if p.isEmpty then none else (as.find? (fun a => poisoned p a.2 size)).map (·.1)

/-! ## The well's local area (R137, R138) -/

/-- The outcome of the translation of every lane's word. -/
inductive Probe where
  | ok (locs : List (Nat × Nat × BitVec 16))
  | absent (va stage : Nat) (page : PageRef)
  | bad (va : Nat)
  deriving DecidableEq, Repr

/-- Translates the lanes' virtual addresses in turn, to the places and tags of their words; a guarded page or one that is not in
HBM4 is a permanent fault (R258, R375). -/
def probe (core ctx : Nat) (acc : Access) (s : State) (done : List (Nat × Nat × BitVec 16)) : List (Nat × Nat) → Probe × State
  | [] => (.ok done, s)
  | a :: r =>
    match s.translate core ctx a.2 acc with
    | (.bad, s) => (.bad a.2, s)
    | (.absent k p, s) => (.absent a.2 k p, s)
    | (.ok e, s) =>
      if s.mayUse e acc (e.at_ a.2) 4 then probe core ctx acc s (done ++ [(a.1, e.at_ a.2, e.tag)]) r
      else (.bad a.2, s)

/-- Bits 43:12 of a virtual address, the `tval` of cause 0x0C. -/
def faultWord (va : Nat) : Word := BitVec.ofNat 32 (va / 4096)

/-- The start of the local area (R23). -/
def wellLocal : Nat := 0x200

/-- An access to the well by `ld.wl` or `st.wl`: the checks of R137, then the translation of every lane's address. A
recoverable fault saves the company, and the instruction is performed again afterwards (R138); when the request for the
page failed, it meets a permanent fault (R256). -/
def wellAccess (i : Instr) (o : BitVec 10) (b : BitVec 6) (acc : Access) (s : State)
    (k : State → Site → List (Nat × Nat) → List (Nat × Nat × BitVec 16) → Out) : Out :=
  laneAccess i s (fun x =>
    let as := x.addresses b (x.ch.wellp + offsetOf o 4)
    match misalignedLane as 4 with
    | some l => .next (s.fail i x 0x0E (laneWord l))
    | none =>
      match beyondLane as 4 x.co.playbill.localSize with
      | some l => .next (s.fail i x 0x06 (laneWord l))
      | none =>
        let vas := as.map (fun a => (a.1, x.ch.wellBase.toNat + wellLocal + a.2))
        tagged s x (spansOf 0 4 vas) (fun tags =>
          let failed := x.ch.failed
          let x : Site := { x with ch := { x.ch with failed := failed.filter (fun f => f.1 != x.sp.members) } }
          match probe x.co.core x.co.ctx acc s [] vas with
          | (.bad va, s) => .next (s.fail i x 0x0C (faultWord va))
          | (.absent va g p, s) =>
            if failed.contains (x.sp.members, g, p.base) then .next (s.fail i x 0x0C (faultWord va))
            else .next (((s.pageRequest x.co.ctx g p acc (.lane x.co.uid x.ch.index)).stall x .fault .waitMemory).saveForFault x.co.uid)
          | (.ok locs, s) => k s x tags locs))

/-- `ld_wl` (R137). Loads a word of the local area in each active lane. -/
def execLdWl (h : BitVec 2) (o : BitVec 10) (b : BitVec 6) (d : BitVec 6) (s : State) : Out :=
  wellAccess (.ldWl h o b d) o b .read s (fun s x tags locs =>
    match poisonRead s.memPoison (locs.map (fun a => (a.1, a.2.1))) 4 with
    | some l => .next (s.failHalt (.ldWl h o b d) x 0x10 (laneWord l))
    | none =>
      let r := locs.foldl (fun (r : List (Nat × Word) × State) a =>
        match r.2.readBytes x.co.ctx a.2.1 4 with
        | (bs, s) => (r.1 ++ [(a.1, BitVec.ofNat 32 (ofBytesLE bs))], s.touchLines a.2.1 4 x.co.ctx a.2.2 false false)) ([], s)
      let u := r.2.fresh
      let y := (x.write d.toNat (laneValue r.1)).enter u true tags none [d.toNat]
      .next (u.2.retire (.ldWl h o b d) x y))

/-- `st_wl` (R137). Stores a word to the local area in each active lane; the highest lane's value stays. -/
def execStWl (h : BitVec 2) (o : BitVec 10) (b : BitVec 6) (s' : BitVec 6) (s : State) : Out :=
  wellAccess (.stWl h o b s') o b .write s (fun s x tags locs =>
    let ws := locs.map (fun a => (a.2.1, x.storeBytes a.1 [s'.toNat]))
    let t := locs.foldl (fun (t : State) a => t.writeMem x.co.ctx a.2.2 false a.2.1 (x.storeBytes a.1 [s'.toNat]) false) s
    let u := State.fresh { t with memPoison := clearStored s.memPoison ws }
    .next (u.2.retire (.stWl h o b s') x (x.enter u false tags none [])))

/-! ## The stage (R161 to R165) -/

/-- The checks of a stage access over all active lanes (R162), and its tags. -/
def stageAccess (i : Instr) (o : BitVec 10) (b : BitVec 6) (size : Nat) (s : State)
    (k : Site → List (Nat × Nat) → List (Nat × Nat) → Out) : Out :=
  laneAccess i s (fun x =>
    let as := x.addresses b (offsetOf o size)
    match misalignedLane as size with
    | some l => .next (s.fail i x 0x0E (laneWord l))
    | none =>
      match beyondLane as size x.co.playbill.stage with
      | some l => .next (s.fail i x 0x0D (laneWord l))
      | none => tagged s x (spansOf 2 size as) (fun tags => k x as tags))

/-- A load from the stage into `vd` of a value of one to four bytes. -/
def stageRead (s : State) (i : Instr) (x : Site) (as tags : List (Nat × Nat)) (size : Nat) (tile : Option Nat) (regs : List Nat) : Out :=
  match poisonRead x.co.stagePoison as size with
  | some l => .next (s.failHalt i x 0x10 (laneWord l))
  | none =>
    let rd (a : Nat) : Word := if size < 4 then BitVec.ofNat 32 (x.co.stage.readLE a size) else x.co.stage.readWord a
    let u := s.fresh
    .next (u.2.retire i x ((x.load rd as regs 0).enter u true tags tile regs))

/-- A store of lanes' bytes to the stage. -/
def stageWrite (s : State) (i : Instr) (x : Site) (tags : List (Nat × Nat)) (tile : Option Nat) (ws : List (Nat × List Byte)) : Out :=
  let co := { x.co with stage := storeAll x.co.stage ws, stagePoison := clearStored x.co.stagePoison ws }
  let u := s.fresh
  .next (u.2.retire i x ({ x with co := co }.enter u false tags tile []))

/-- The low bytes that each lane stores. -/
def Site.stores (x : Site) (as : List (Nat × Nat)) (size : Nat) (regs : List Nat) : List (Nat × List Byte) :=
  as.map (fun a => (a.2, (x.storeBytes a.1 regs).take size))

/-- `ld_sb` (R163). Loads a byte, zero-extended. -/
def execLdSb (h : BitVec 2) (o : BitVec 10) (b : BitVec 6) (d : BitVec 6) (s : State) : Out :=
  stageAccess (.ldSb h o b d) o b 1 s (fun x as tags => stageRead s (.ldSb h o b d) x as tags 1 none [d.toNat])

/-- `ld_sh` (R163). Loads a halfword, zero-extended. -/
def execLdSh (h : BitVec 2) (o : BitVec 10) (b : BitVec 6) (d : BitVec 6) (s : State) : Out :=
  stageAccess (.ldSh h o b d) o b 2 s (fun x as tags => stageRead s (.ldSh h o b d) x as tags 2 none [d.toNat])

/-- `ld_sw` (R163). Loads a word. -/
def execLdSw (h : BitVec 2) (o : BitVec 10) (b : BitVec 6) (d : BitVec 6) (s : State) : Out :=
  stageAccess (.ldSw h o b d) o b 4 s (fun x as tags => stageRead s (.ldSw h o b d) x as tags 4 none [d.toNat])

/-- `ld_sq` (R163). Loads four words into four registers. -/
def execLdSq (h : BitVec 2) (o : BitVec 10) (b : BitVec 6) (d : BitVec 4) (s : State) : Out :=
  stageAccess (.ldSq h o b d) o b 16 s (fun x as tags => stageRead s (.ldSq h o b d) x as tags 16 none (quadRegs d))

/-- `st_sb` (R163). Stores bits 7:0. -/
def execStSb (h : BitVec 2) (o : BitVec 10) (b : BitVec 6) (s' : BitVec 6) (s : State) : Out :=
  stageAccess (.stSb h o b s') o b 1 s (fun x as tags => stageWrite s (.stSb h o b s') x tags none (x.stores as 1 [s'.toNat]))

/-- `st_sh` (R163). Stores bits 15:0. -/
def execStSh (h : BitVec 2) (o : BitVec 10) (b : BitVec 6) (s' : BitVec 6) (s : State) : Out :=
  stageAccess (.stSh h o b s') o b 2 s (fun x as tags => stageWrite s (.stSh h o b s') x tags none (x.stores as 2 [s'.toNat]))

/-- `st_sw` (R163). Stores a word. -/
def execStSw (h : BitVec 2) (o : BitVec 10) (b : BitVec 6) (s' : BitVec 6) (s : State) : Out :=
  stageAccess (.stSw h o b s') o b 4 s (fun x as tags => stageWrite s (.stSw h o b s') x tags none (x.stores as 4 [s'.toNat]))

/-- `st_sq` (R163). Stores four registers. -/
def execStSq (h : BitVec 2) (o : BitVec 10) (b : BitVec 6) (s' : BitVec 4) (s : State) : Out :=
  stageAccess (.stSq h o b s') o b 16 s (fun x as tags => stageWrite s (.stSq h o b s') x tags none (x.stores as 16 (quadRegs s')))

/-- `ld_sa` (R163, R271). As `ld.sw`; accesses are performed as they issue, so the acquire order holds. -/
def execLdSa (h : BitVec 2) (o : BitVec 10) (b : BitVec 6) (d : BitVec 6) (s : State) : Out :=
  stageAccess (.ldSa h o b d) o b 4 s (fun x as tags => stageRead s (.ldSa h o b d) x as tags 4 none [d.toNat])

/-- A release at company scope sets pending bit 6 in every other chorus of the company (R332), and the waits for it
end. -/
def State.releaseNote (s : State) (u ch : Nat) : State :=
  (s.modCompany u (fun c =>
    { c with choruses := c.choruses.map (fun h => if h.index == ch then h else { h with pending := h.pending ||| 0x40#7 }) })).settleCompany u

/-- A result with something done to its state. -/
def Out.andThen (o : Out) (f : State → State) : Out :=
  match o with
  | .next s => .next (f s)
  | .fault e => .fault e
  | .refused e => .refused e

/-- `st_sr` (R163, R271, R332). As `st.sw`, with release order at company scope. -/
def execStSr (h : BitVec 2) (o : BitVec 10) (b : BitVec 6) (s' : BitVec 6) (s : State) : Out :=
  stageAccess (.stSr h o b s') o b 4 s (fun x as tags =>
    Out.andThen (stageWrite s (.stSr h o b s') x tags none (x.stores as 4 [s'.toNat])) (fun t => t.releaseNote x.co.uid x.ch.index))

/-! ## Tile-relative access (R168, R170, R173) -/

/-- The state rule of an access to a tile (R166, R170): it proceeds only on a ready tile. -/
def readyTile (i : Instr) (s : State) (x : Site) (t : BitVec 8) (k : Tile → Out) : Out :=
  match x.co.tile? t.toNat with
  | none => .next (s.fail i x 0x09 (zext t))
  | some tl =>
    match tl.state with
    | .ready => if 255 ≤ tl.readers then .next (s.stall x (.readers t.toNat) .waitMemory) else k tl
    | .filling => .next (s.stall x (.tile t.toNat) .waitMemory)
    | _ => .next (s.fail i x 0x09 (zext t))

/-- A tile-relative access: the state rule, then the index against the tile's extent; the addresses of the units. -/
def tileAccess (i : Instr) (k : BitVec 4) (v : BitVec 6) (t : BitVec 8) (size : Nat) (s : State)
    (go : Site → List (Nat × Nat) → List (Nat × Nat) → Out) : Out :=
  laneAccess i s (fun x =>
    readyTile i s x t (fun tl =>
      let offs := x.active.lanes.map (fun l => (l, ((x.reg v.toNat l).toNat + k.toNat) * size))
      match beyondLane offs size tl.extent with
      | some l => .next (s.fail i x 0x0D (laneWord l))
      | none =>
        let as := offs.map (fun a => (a.1, tl.base + a.2))
        tagged s x (spansOf 2 size as) (fun tags => go { x with co := x.co.readTile t.toNat } as tags)))

/-- `ld_t` (R173). Loads a word of a ready tile. -/
def execLdT (k : BitVec 4) (i : BitVec 6) (t : BitVec 8) (d : BitVec 6) (s : State) : Out :=
  tileAccess (.ldT k i t d) k i t 4 s (fun x as tags => stageRead s (.ldT k i t d) x as tags 4 (some t.toNat) [d.toNat])

/-- `st_t` (R173). Stores a word into a ready tile. -/
def execStT (k : BitVec 4) (i : BitVec 6) (t : BitVec 8) (s' : BitVec 6) (s : State) : Out :=
  tileAccess (.stT k i t s') k i t 4 s (fun x as tags => stageWrite s (.stT k i t s') x tags (some t.toNat) (x.stores as 4 [s'.toNat]))

/-- `ld_tq` (R173). Loads a 16-byte unit of a ready tile. -/
def execLdTq (k : BitVec 4) (i : BitVec 6) (t : BitVec 8) (d : BitVec 4) (s : State) : Out :=
  tileAccess (.ldTq k i t d) k i t 16 s (fun x as tags => stageRead s (.ldTq k i t d) x as tags 16 (some t.toNat) (quadRegs d))

/-- `st_tq` (R173). Stores a 16-byte unit into a ready tile. -/
def execStTq (k : BitVec 4) (i : BitVec 6) (t : BitVec 8) (s' : BitVec 4) (s : State) : Out :=
  tileAccess (.stTq k i t s') k i t 16 s (fun x as tags => stageWrite s (.stTq k i t s') x tags (some t.toNat) (x.stores as 16 (quadRegs s')))

/-! ## Atomics (R37, R165, R226) -/

/-- The new value of an atomic operation. -/
def atomNew (p : BitVec 4) (old b expected : Word) : Word :=
  match p.toNat with
  | 0 => old + b
  | 1 => old - b
  | 2 => minS old b
  | 3 => maxS old b
  | 4 => minU old b
  | 5 => maxU old b
  | 6 => old &&& b
  | 7 => old ||| b
  | 8 => old ^^^ b
  | 9 => b
  | 10 => if old == expected then b else old
  | 11 => if old == 0xFFFFFFFF then old else old + 1
  | _ => if old == 0 then 0 else old - 1

/-- Performs the lanes' read-modify-writes in increasing lane order, each seeing the one before it: the memory and the
old values. -/
def atomAll (p : BitVec 4) (opnd expd : Nat → Word) (m : Memory) (olds : List (Nat × Word)) :
    List (Nat × Nat) → Memory × List (Nat × Word)
  | [] => (m, olds)
  | a :: r =>
    let old := m.readWord a.2
    atomAll p opnd expd (m.writeWord a.2 (atomNew p old (opnd a.1) (expd a.1))) (olds ++ [(a.1, old)]) r

/-- Whether an order holds a release (R37). -/
def releases (q : BitVec 2) : Bool := q.getLsbD 1

/-- `atom_s` (R165). Indivisible read-modify-write on a stage word per lane. -/
def execAtomS (q : BitVec 2) (p : BitVec 4) (r : BitVec 6) (a : BitVec 6) (d : BitVec 6) (s : State) : Out :=
  stageAccess (.atomS q p r a d) 0 a 4 s (fun x as tags =>
    match poisonRead x.co.stagePoison as 4 with
    | some l => .next (s.failHalt (.atomS q p r a d) x 0x10 (laneWord l))
    | none =>
      let e := atomAll p (x.reg r.toNat) (x.reg d.toNat) x.co.stage [] as
      let u := s.fresh
      let y := ({ x with co := { x.co with stage := e.1 } }.write d.toNat (laneValue e.2)).enter u true tags none [d.toNat]
      let t := u.2.retire (.atomS q p r a d) x y
      .next (if releases q then t.releaseNote x.co.uid x.ch.index else t))

/-! ## The cistern (R27, R223 to R226) -/

/-- The run's window on the die of a core. -/
def State.window? (s : State) (c : Company) : Option Memory :=
  ((s.run? c.ctx c.run).bind (fun r => r.windows.find? (fun w => w.1 == dieOfCore c.core))).map (·.2)

/-- The window's size W; 0 when the run has none there. -/
def State.windowSize (s : State) (c : Company) : Nat :=
  if (s.window? c).isSome then ((s.run? c.ctx c.run).map (·.window)).getD 0 else 0

/-- The poisoned granules of the window. -/
def State.windowMarks (s : State) (c : Company) : List Nat :=
  ((s.run? c.ctx c.run).map (fun r => (r.windowPoison.filter (fun p => p.1 == dieOfCore c.core)).map (·.2))).getD []

/-- The window replaced, with its marks. -/
def State.setWindow (s : State) (c : Company) (m : Memory) (marks : List Nat) : State :=
  s.modRun c.ctx c.run (fun r => { r with
    windows := updWhere (fun w => w.1 == dieOfCore c.core) (fun w => (w.1, m)) r.windows
    windowPoison := r.windowPoison.filter (fun p => p.1 != dieOfCore c.core) ++ marks.map (fun g => (dieOfCore c.core, g)) })

/-- Lanes switched off (R27): their `fm` bits are set and they are marked exited. -/
def Site.switchOff (x : Site) (m : Mask) : Site := { x with ch := { x.ch with fm := x.ch.fm ||| m, exited := x.ch.exited ||| m } }

/-- After lanes have exited: splits without members arrive or end, and the chorus ends when none remains (R16). -/
def State.afterExit (s : State) (x : Site) : State :=
  (s.modChorus x.co.uid x.ch.index Chorus.reconverge).endChorus x.co.uid x.ch.index

/-- The checks of a cistern access (R224): misaligned addresses trap; lanes outside the window are switched off, and the
others go on. -/
def cisternAccess (i : Instr) (o : BitVec 10) (b : BitVec 6) (size : Nat) (s : State)
    (k : Site → List (Nat × Nat) → List (Nat × Nat) → Out) : Out :=
  laneAccess i s (fun x =>
    let as := x.addresses b (offsetOf o size)
    match misalignedLane as size with
    | some l => .next (s.fail i x 0x0E (laneWord l))
    | none =>
      let w := s.windowSize x.co
      let off := maskOf (fun l => as.any (fun a => a.1 == l && decide (w < a.2 + size)))
      let live := as.filter (fun a => !off.has a.1)
      tagged s x (spansOf 1 size live) (fun tags =>
        if off == 0 then k x live tags
        else if live.isEmpty then .next ((s.retire i x (x.switchOff off)).afterExit x)
        else Out.andThen (k (x.switchOff off) live tags) (fun t => t.afterExit x)))

/-- A load from the cistern window. -/
def cisternRead (s : State) (i : Instr) (x : Site) (as tags : List (Nat × Nat)) (size : Nat) (regs : List Nat) : Out :=
  match poisonRead (s.windowMarks x.co) as size with
  | some l => .next (s.failHalt i x 0x10 (laneWord l))
  | none =>
    let m := (s.window? x.co).getD []
    let u := s.fresh
    .next (u.2.retire i x ((x.load m.readWord as regs 0).enter u true tags none regs))

/-- A store to the cistern window. -/
def cisternWrite (s : State) (i : Instr) (x : Site) (tags : List (Nat × Nat)) (ws : List (Nat × List Byte)) : Out :=
  let s := s.setWindow x.co (storeAll ((s.window? x.co).getD []) ws) (clearStored (s.windowMarks x.co) ws)
  let u := s.fresh
  .next (u.2.retire i x (x.enter u false tags none []))

/-- `ld_cw` (R225). Loads a cistern word. -/
def execLdCw (h : BitVec 2) (o : BitVec 10) (b : BitVec 6) (d : BitVec 6) (s : State) : Out :=
  cisternAccess (.ldCw h o b d) o b 4 s (fun x as tags => cisternRead s (.ldCw h o b d) x as tags 4 [d.toNat])

/-- `st_cw` (R225). Stores a cistern word. -/
def execStCw (h : BitVec 2) (o : BitVec 10) (b : BitVec 6) (s' : BitVec 6) (s : State) : Out :=
  cisternAccess (.stCw h o b s') o b 4 s (fun x as tags => cisternWrite s (.stCw h o b s') x tags (x.stores as 4 [s'.toNat]))

/-- `ld_cq` (R225). Loads four cistern words. -/
def execLdCq (h : BitVec 2) (o : BitVec 10) (b : BitVec 6) (d : BitVec 4) (s : State) : Out :=
  cisternAccess (.ldCq h o b d) o b 16 s (fun x as tags => cisternRead s (.ldCq h o b d) x as tags 16 (quadRegs d))

/-- `st_cq` (R225). Stores four registers. -/
def execStCq (h : BitVec 2) (o : BitVec 10) (b : BitVec 6) (s' : BitVec 4) (s : State) : Out :=
  cisternAccess (.stCq h o b s') o b 16 s (fun x as tags => cisternWrite s (.stCq h o b s') x tags (x.stores as 16 (quadRegs s')))

/-- `ld_ca` (R225, R271). As `ld.cw`, with acquire order at die scope. -/
def execLdCa (h : BitVec 2) (o : BitVec 10) (b : BitVec 6) (d : BitVec 6) (s : State) : Out :=
  cisternAccess (.ldCa h o b d) o b 4 s (fun x as tags => cisternRead s (.ldCa h o b d) x as tags 4 [d.toNat])

/-- `st_cr` (R225, R271). As `st.cw`, with release order at die scope. -/
def execStCr (h : BitVec 2) (o : BitVec 10) (b : BitVec 6) (s' : BitVec 6) (s : State) : Out :=
  cisternAccess (.stCr h o b s') o b 4 s (fun x as tags => cisternWrite s (.stCr h o b s') x tags (x.stores as 4 [s'.toNat]))

/-- `atom_c` (R226). Indivisible read-modify-write on a cistern word per lane. -/
def execAtomC (q : BitVec 2) (p : BitVec 4) (r : BitVec 6) (a : BitVec 6) (d : BitVec 6) (s : State) : Out :=
  cisternAccess (.atomC q p r a d) 0 a 4 s (fun x as tags =>
    match poisonRead (s.windowMarks x.co) as 4 with
    | some l => .next (s.failHalt (.atomC q p r a d) x 0x10 (laneWord l))
    | none =>
      let e := atomAll p (x.reg r.toNat) (x.reg d.toNat) ((s.window? x.co).getD []) [] as
      let s := s.setWindow x.co e.1 (s.windowMarks x.co)
      let u := s.fresh
      .next (u.2.retire (.atomC q p r a d) x ((x.write d.toNat (laneValue e.2)).enter u true tags none [d.toNat])))

end Sys2Proof.Machine
end

