-- ==== Sys2Proof/Machine/Sync.lean ====
section
/-!
DEFINITION. Barriers, fences, range slots, cues, tile state and handle bindings (R174 to R183, R215, R273 to R277).
-/
namespace Sys2Proof.Machine

/-! ## Barriers (R180 to R183, R214, R215) -/

/-- A chorus arrives in the open phase; count 0 stands for every member. -/
def Barrier.arrive (b : Barrier) (ch count all : Nat) : Barrier :=
  if b.arrived.contains ch then b
  else { b with arrived := b.arrived ++ [ch]
                target := if b.arrived.isEmpty then (if count = 0 then all else count) else b.target }

/-- A chorus arrives at a company barrier: the token is the phase of the arrival. -/
def Company.arriveAt (c : Company) (b ch count : Nat) : Company × Word :=
  match c.barriers[b]? with
  | none => (c, 0)
  | some x =>
    ({ c with barriers := updAt c.barriers b (fun y => (y.arrive ch count c.choruses.length).recheck c.live) }, x.phase)

/-- A chorus of company `co` arrives in the open phase of a troupe barrier. -/
def TroupeBarrier.arrive (b : TroupeBarrier) (co ch count : Nat) : TroupeBarrier :=
  if b.arrivals.contains (co, ch) then b
  else { b with arrivals := b.arrivals ++ [(co, ch)]
                counts := if b.counts.any (fun k => k.1 == co) then b.counts else b.counts ++ [(co, count)] }

/-- A chorus arrives at a troupe barrier. -/
def State.arriveTroupe (s : State) (c : Company) (b ch count : Nat) : State × Word :=
  match (s.troupeOf c).bind (fun t => t.barriers[b]?) with
  | none => (s, 0)
  | some x =>
    let t := s.modTroupe c.ctx c.run c.troupe (fun t => { t with barriers := updAt t.barriers b (fun y => y.arrive c.index ch count) })
    (t.recheckTroupe c.ctx c.run c.troupe, x.phase)

/-- The waits of the site's whole troupe that are over end. -/
def State.settleOf (s : State) (x : Site) : State := s.settleTroupe x.co.ctx x.co.run x.co.troupe

/-- `bar_c` (R181). Arrives at a company barrier and waits for the phase to complete. -/
def execBarC (i : BitVec 6) (n : BitVec 8) (d : BitVec 6) (s : State) : Out :=
  issue (.barC i n d) s (fun x =>
    let r := x.co.arriveAt i.toNat x.ch.index n.toNat
    .next (s.retireWait (.barC i n d) x { x with co := r.1 } (.barC i.toNat r.2 d) .waitEvent))

/-- `bar_t` (R215). Arrives at a troupe barrier and waits for its phase to complete. -/
def execBarT (i : BitVec 6) (n : BitVec 8) (d : BitVec 6) (s : State) : Out :=
  issue (.barT i n d) s (fun x =>
    let r := s.arriveTroupe x.co i.toNat x.ch.index n.toNat
    .next ((r.1.retireWait (.barT i n d) x x (.barT i.toNat r.2 d) .waitEvent).settleOf x))

/-- A count field of a register that must not pass a limit (R182). -/
def countOf (v : Word) (n : Nat) : Nat := v.toNat % 2 ^ n

/-- `arv_c` (R182). Arrives at a company barrier and returns the phase token. -/
def execArvC (b : BitVec 7) (a : BitVec 7) (d : BitVec 6) (s : State) : Out :=
  issue (.arvC b a d) s (fun x =>
    if x.idle then .next (s.retire (.arvC b a d) x x)
    else
      let n := countOf (x.uniformSrc b) 6
      if 32 < n then .next (s.fail (.arvC b a d) x 0x01 (encode (.arvC b a d)).word)
      else
        let r := x.co.arriveAt (countOf (x.uniformSrc a) 4) x.ch.index n
        .next (s.retireSettle (.arvC b a d) x ({ x with co := r.1 }.write d.toNat (fun _ => r.2))))

/-- `awt_c` (R182). Waits for a company barrier token's phase to complete. -/
def execAwtC (b : BitVec 7) (a : BitVec 7) (d : BitVec 6) (s : State) : Out :=
  issue (.awtC b a d) s (fun x =>
    if x.idle then .next (s.retire (.awtC b a d) x x)
    else .next (s.retireWait (.awtC b a d) x x (.barC (countOf (x.uniformSrc a) 4) (x.uniformSrc b) d) .waitEvent))

/-- `arv_t` (R182). Arrives at a troupe barrier and returns the phase token. -/
def execArvT (b : BitVec 7) (a : BitVec 7) (d : BitVec 6) (s : State) : Out :=
  issue (.arvT b a d) s (fun x =>
    if x.idle then .next (s.retire (.arvT b a d) x x)
    else
      let n := countOf (x.uniformSrc b) 4
      if 8 < n then .next (s.fail (.arvT b a d) x 0x01 (encode (.arvT b a d)).word)
      else
        let r := s.arriveTroupe x.co (countOf (x.uniformSrc a) 2) x.ch.index n
        .next ((r.1.retire (.arvT b a d) x (x.write d.toNat (fun _ => r.2))).settleOf x))

/-- `awt_t` (R182). Waits for a troupe barrier token's phase to complete. -/
def execAwtT (b : BitVec 7) (a : BitVec 7) (d : BitVec 6) (s : State) : Out :=
  issue (.awtT b a d) s (fun x =>
    if x.idle then .next (s.retire (.awtT b a d) x x)
    else .next (s.retireWait (.awtT b a d) x x (.barT (countOf (x.uniformSrc a) 2) (x.uniformSrc b) d) .waitEvent))

/-! ## Fences (R276, R277) -/

/-- The lane reads of the split that have not returned. -/
def Site.reads (x : Site) : List Nat :=
  (x.ch.inflight.filter (fun f => f.reads && f.members &&& x.sp.members != 0)).map (·.uid)

/-- `fence_r` (R276). Waits for the tagged accesses of the masked range slots, or for the split's earlier lane reads. -/
def execFenceR (s' : BitVec 3) (k : BitVec 2) (m : BitVec 8) (s : State) : Out :=
  issue (.fenceR s' k m) s (fun x =>
    let mask := if k.getLsbD 1 then m else 0
    let reads := if k.getLsbD 0 then x.reads else []
    .next (s.retireWait (.fenceR s' k m) x x (.fenceR mask none reads) .waitMemory))

/-- What a cross-path fence waits for: with kind acquire the earlier reads of the paths alone. -/
def State.fenceXWait (s : State) (x : Site) (k : BitVec 2) (f : BitVec 4) : Wait :=
  let acquire := k == 1
  .fenceX
    (if f.getLsbD 0 then (x.ch.inflight.filter (fun g => g.reads || !acquire)).map (·.uid) else [])
    (if f.getLsbD 1 then x.co.liveCommands x.ch.index else [])
    (if f.getLsbD 2 then
       (if acquire then (x.co.ops.filter (fun o => o.issued.any (fun m => m.1 == x.ch.index) && o.kind != .zero)).map (·.uid)
        else x.co.liveMatrix x.ch.index)
     else [])
    (if f.getLsbD 3 && !acquire then
       (s.sent.filter (fun o => match o.asker with | .message _ u c _ => u == x.co.uid && c == x.ch.index | _ => false)).map
         (fun o => (o.dest, o.ident))
     else [])

/-- `fence_x` (R277). Waits until the earlier accesses of the from-paths are complete; one from the message path stands behind the answers
that the call board owes other splits of its chorus. -/
def execFenceX (s' : BitVec 3) (k : BitVec 2) (t : BitVec 4) (f : BitVec 4) (s : State) : Out :=
  issue (.fenceX s' k t f) s (fun x =>
    if f.getLsbD 3 && x.ch.splits.any (·.wait.onBoard) then .next (s.stall x .boards .waitMemory)
    else .next (s.retireWait (.fenceX s' k t f) x x (s.fenceXWait x k f) .waitMemory))

/-! ## Range slots (R274) -/

/-- Binds a slot; its counters stay. -/
def Site.bindSlot (x : Site) (k : Nat) (r : RangeSlot) : Site :=
  { x with ch := { x.ch with slots := updAt x.ch.slots k (fun _ => r) } }

/-- `rng_set` (R274). Binds a range slot to a byte range from registers. -/
def execRngSet (b : BitVec 7) (a : BitVec 7) (k : BitVec 6) (s : State) : Out :=
  issue (.rngSet b a k) s (fun x =>
    if x.idle then .next (s.retire (.rngSet b a k) x x)
    else
      let v := x.uniformPair (a.extractLsb' 0 6).toNat
      let sp := v.extractLsb' 62 2
      if sp == 3 then .next (s.fail (.rngSet b a k) x 0x01 (encode (.rngSet b a k)).word)
      else .next (s.retire (.rngSet b a k) x (x.bindSlot k.toNat { length := x.uniformSrc b, space := sp, base := v.extractLsb' 0 48 })))

/-- Bytes from the first element of a tensor to the end of its last. -/
def Record.footprint (r : Record) : Nat :=
  ceilDiv (r.extents.getD 0 1 * formatBits r.format) 8 +
    total ((List.range 4).map (fun i => 16 * r.strides.getD (i + 1) 0 * (r.extents.getD (i + 1) 1 - 1)))

/-- `rng_set_h` (R274). Binds a range slot to a tensor handle's footprint; the spec gives no length for one of 4 GiB or
more, which is a free value (log 5). -/
def execRngSetH (h : BitVec 6) (k : BitVec 6) (s : State) : Out :=
  issue (.rngSetH h k) s (fun x =>
    match x.co.handles.getD h.toNat none with
    | none => .next (s.fail (.rngSetH h k) x 0x08 (zext h))
    | some r =>
      let base := r.base.extractLsb' 0 48
      if r.footprint < 2 ^ 32 then
        .next (s.retire (.rngSetH h k) x (x.bindSlot k.toNat { length := BitVec.ofNat 32 r.footprint, space := 0, base := base }))
      else
        let f := s.freeValue
        .next (f.2.retire (.rngSetH h k) x (x.bindSlot k.toNat { length := lo32 f.1, space := 0, base := base })))

/-! ## Cues (R20, R177) -/

/-- Sets a cue slot; slot 0 stays true. -/
def Chorus.setCue (h : Chorus) (k : Nat) (c : Cue) : Chorus := { h with cues := updAt h.cues k (fun _ => c) }

/-- The 2-bit code of a cue slot; g0 is true. -/
def Chorus.cueCode (h : Chorus) (k : Nat) : Nat :=
  if k = 0 then 3
  else match h.cues.getD k .unresolved with
    | .unresolved => 0
    | .isFalse => 2
    | .isTrue => 3

/-- `cue_set` (R177). Sets a cue slot true or false from a tested source. -/
def execCueSet (a : BitVec 7) (k : BitVec 6) (s : State) : Out :=
  issue (.cueSet a k) s (fun x =>
    if x.idle then .next (s.retire (.cueSet a k) x x)
    else .next (s.retire (.cueSet a k) x
      { x with ch := x.ch.setCue k.toNat (if x.uniformSrc a != 0 then .isTrue else .isFalse) }))

/-- `cue_clr` (R177). Makes a cue slot unresolved. -/
def execCueClr (k : BitVec 6) (s : State) : Out :=
  issue (.cueClr k) s (fun x => .next (s.retire (.cueClr k) x { x with ch := x.ch.setCue k.toNat .unresolved }))

/-- `cue_rd` (R177). Writes a cue slot's 2-bit code to vd. -/
def execCueRd (k : BitVec 3) (d : BitVec 6) (s : State) : Out :=
  issue (.cueRd k d) s (fun x => .next (s.retire (.cueRd k d) x (x.write d.toNat (fun _ => BitVec.ofNat 32 (x.ch.cueCode k.toNat)))))

/-! ## Tile state (R170, R174) -/

/-- `tl_rel` (R174). Moves a ready tile to draining. -/
def execTlRel (t : BitVec 8) (s : State) : Out :=
  issue (.tlRel t) s (fun x =>
    match x.co.tile? t.toNat with
    | none => .next (s.fail (.tlRel t) x 0x09 (zext t))
    | some tl =>
      if tl.state == .ready then
        .next (s.retire (.tlRel t) x { x with co := x.co.setTile t.toNat { tl with state := .draining, drainAge := 0 } })
      else .next (s.fail (.tlRel t) x 0x09 (zext t)))

/-- `tl_wait` (R174). Waits until a tile is ready: the instruction has issued, and the next one issues when the wait ends. -/
def execTlWait (t : BitVec 8) (s : State) : Out :=
  issue (.tlWait t) s (fun x =>
    match x.co.tile? t.toNat with
    | none => .next (s.fail (.tlWait t) x 0x09 (zext t))
    | some tl =>
      match tl.state with
      | .ready => .next (s.retire (.tlWait t) x x)
      | .filling => .next (s.retireWait (.tlWait t) x x (.tileReady t.toNat x.sp.pc) .waitMemory)
      | _ => .next (s.fail (.tlWait t) x 0x09 (zext t)))

/-- The code of a tile state (R168). -/
def TileState.code : TileState → Word
  | .empty => 0
  | .filling => 1
  | .ready => 2
  | .draining => 3

/-- `tl_st` (R174). Writes a tile's state code to vd. -/
def execTlSt (t : BitVec 8) (d : BitVec 6) (s : State) : Out :=
  issue (.tlSt t d) s (fun x =>
    match x.co.tile? t.toNat with
    | none => .next (s.fail (.tlSt t d) x 0x09 (zext t))
    | some tl => .next (s.retire (.tlSt t d) x (x.write d.toNat (fun _ => tl.state.code))))

/-! ## Shape records and handles (R175, R176) -/

/-- A shape record from its 64 bytes; dimensions beyond the rank count as R175 states. -/
def Record.ofNat (v : Nat) : Record :=
  let rank := bits v 447 440
  { base := BitVec.ofNat 64 v
    extents := (List.range 5).map (fun i => if i < rank then bits v (95 + 32 * i) (64 + 32 * i) else 1)
    strides := 0 :: (List.range 4).map (fun i => if i + 1 < rank then bits v (255 + 32 * i) (224 + 32 * i) else 0)
    box := (List.range 5).map (fun i => if i < rank then bits v (367 + 16 * i) (352 + 16 * i) else 1)
    format := BitVec.ofNat 4 (bits v 435 432)
    rank := rank
    overlap := bits v 448 448 == 1
    scaled := bits v 449 449 == 1
    noscale := bits v 471 471 == 1
    tile := bits v 463 456
    scaleHandle := bits v 469 464 }

/-- Element width in bits. -/
def Record.width (r : Record) : Nat := formatBits r.format

/-- The rows of the box: the product of its dimensions but the first (R167). -/
def Record.rows (r : Record) : Nat := (List.range 4).foldl (fun n i => n * r.box.getD (i + 1) 1) 1

/-- Bytes of the box as a tile (R167). -/
def Record.boxExtent (r : Record) : Nat := r.rows * pitch (r.box.getD 0 1) r.width

/-- Check 2 of R176: some stride is below the span of the dimension inside it. -/
def Record.strideShort (r : Record) : Bool :=
  (List.range 4).any (fun k =>
    decide (k + 1 < r.rank) &&
      decide (16 * r.strides.getD (k + 1) 0 <
        (if k = 0 then ceilDiv (r.extents.getD 0 1 * r.width) 8 else 16 * r.strides.getD k 0 * r.extents.getD k 1)))

/-- Check 7 of R176 of a scaled record against the binding of its scale handle. -/
def Record.scaleFails (r : Record) (sc : Option Record) : Bool :=
  match sc with
  | none => true
  | some q =>
    r.noscale || q.format != 0xD || r.box.getD 0 1 % 32 != 0 || q.rank != r.rank ||
      q.extents.drop 1 != r.extents.drop 1 || q.box.drop 1 != r.box.drop 1 ||
      q.extents.getD 0 1 != ceilDiv (r.extents.getD 0 1) 32 || q.box.getD 0 1 * 32 != r.box.getD 0 1

/-- The number of the first check that a record fails, or 0 (R176). -/
def Company.recordCode (c : Company) (r : Record) : Nat :=
  if r.rank == 0 || decide (5 < r.rank) then 6
  else if (List.range r.rank).any (fun i => r.extents.getD i 1 == 0 || r.box.getD i 1 == 0) then 1
  else if !r.overlap && r.strideShort then 2
  else if r.base.toNat % 16 != 0 then 3
  else if (match c.tile? r.tile with | none => true | some t => decide (t.capacity < r.boxExtent)) then 4
  else if decide (0xE ≤ r.format.toNat) || (r.width == 6 && r.box.getD 0 1 % 4 != 0) || (r.scaled && decide (0xA < r.format.toNat)) then 5
  else if r.scaled && r.scaleFails (c.handles.getD r.scaleHandle none) then 7
  else 0

/-- `rec_bind` (R176). Reads a shape record, checks it and binds a handle. -/
def execRecBind (h : BitVec 6) (a : BitVec 7) (d : BitVec 6) (s : State) : Out :=
  issue (.recBind h a d) s (fun x =>
    if x.idle then .next (s.retire (.recBind h a d) x x)
    else
      let addr := (x.uniformSrc a).toNat
      let lead := laneWord x.leaderOrMember
      if addr % 16 != 0 then .next (s.fail (.recBind h a d) x 0x0E lead)
      else if x.co.playbill.stage < addr + 64 then .next (s.fail (.recBind h a d) x 0x0D lead)
      else if poisoned x.co.stagePoison addr 64 then .next (s.failHalt (.recBind h a d) x 0x10 lead)
      else
        let r := Record.ofNat (x.co.stage.readLE addr 64)
        let code := x.co.recordCode r
        let co := { x.co with handles := updAt x.co.handles h.toNat (fun _ => if code = 0 then some r else none) }
        .next (s.retire (.recBind h a d) x ({ x with co := co }.write d.toNat (fun _ => BitVec.ofNat 32 code))))

end Sys2Proof.Machine
end

