-- ==== Sys2Proof/Machine/Fly.lean ====
section
/-!
DEFINITION. Issue of the commands of the fly engine (R227 to R238, R382).
-/
namespace Sys2Proof.Machine

/-- A command with nothing captured yet. -/
def FlyCmd.blank (i : Instr) (x : Site) (op : FlyOp) (e : BitVec 1) (k : BitVec 3) : FlyCmd :=
  { uid := 0, word := (encode i).word, epc := x.sp.pc, op := op, ev := e == 1, cue := k.toNat, tile := 0, failed := none, record := none,
    scaleRecord := none, lanes := x.active, leader := x.leaderOrMember,
    principals := laneIds.map (fun l => x.co.principals.getD (x.ch.pli.getD l 0).toNat 0), origins := [], srcSpace := 0, dstSpace := 0, src := 0,
    dst := 0, len := 0, aop := 0, order := 0, addrs := [], operands := [], expecteds := [], result := 0, group := 0,
    ackAddr := 0, tags := [], footprint := [], state := .queued, begun := false, todo := [], reading := false, denied := false, denials := [],
    snapshot := [], remote := [], halves := [], stained := [], stainedScore := [], ack := none, status := 0 }

/-- The common beginning: an empty active set queues nothing (R16), a 17th entry waits (R178), and operands past v63 trap
with the handle field (R228). -/
def flyIssue (i : Instr) (field : Word) (s : State) (k : Site → Out) : Out :=
  issue i s (fun x =>
    if x.idle then .next (s.retire i x x)
    else if 16 ≤ x.ch.queue.length then .next (s.stall x .queue .waitMemory)
    else
      match flyOperands x i with
      | some (b, n) => if 64 < b + n then .next (s.fail i x 0x08 field) else k x
      | none => k x)

/-- The command enters its chorus's engine queue, tagged by its footprint (R178, R275). `x` is the site that issues, `y`
what the command has made of it. -/
def State.enqueue (s : State) (i : Instr) (x y : Site) (c : FlyCmd) (fp : List Span) : Out :=
  tagged s x fp (fun tags =>
    let u := s.fresh
    let h := y.ch.tag tags
    .next (u.2.retire i x { y with ch := { h with queue := h.queue ++ [.fly { c with uid := u.1, tags := tags, footprint := fp.map (fun p => (p.space, p.base, p.len)) }] } }))

/-- The binding of a handle, with that of its scale handle, as an engine command captures them (R176). -/
def withRecord (i : Instr) (s : State) (x : Site) (h : BitVec 6) (k : Record → Option Record → Out) : Out :=
  match x.co.handles.getD h.toNat none with
  | none => .next (s.fail i x 0x08 (zext h))
  | some r =>
    if r.scaled then
      let sc := x.co.handles.getD r.scaleHandle none
      if r.scaleFails sc then .next (s.fail i x 0x08 (BitVec.ofNat 32 r.scaleHandle)) else k r sc
    else k r none

/-- The origin in a lane's registers, zero beyond the rank (R230). -/
def Site.origin (x : Site) (b rank l : Nat) : List Int :=
  (List.range 5).map (fun d => if d < rank then (x.reg (b + d) l).toInt else 0)

/-- Elements in a group that an origin must fall on (R230). -/
def Record.group (r : Record) : Nat :=
  if r.scaled then 32 else if r.width = 4 then 2 else if r.width = 6 then 4 else 1

/-- The lowest of some lanes whose origin does not fall on a whole group. -/
def Site.splitOrigin (x : Site) (r : Record) (b : Nat) (lanes : List Nat) : Option Nat :=
  lanes.find? (fun l => (x.origin b r.rank l).headD 0 % r.group != 0)

/-- Bytes of main memory of a record and of its scales. -/
def recordSpans (r : Record) (sc : Option Record) : List Span :=
  { space := 0, base := r.base.toNat, len := r.footprint } ::
    (match sc with | some q => [{ space := 0, base := q.base.toNat, len := q.footprint }] | none => [])

/-- Bytes of the stage of a tile of some shape. -/
def Tile.span (t : Tile) (rows cols width : Nat) : Span := { space := 2, base := t.base, len := rows * pitch cols width }

/-- A command that names a record: its captured bindings and origins, and the check of the origin (R176, R230). -/
def recordIssue (i : Instr) (op : FlyOp) (e : BitVec 1) (b h : BitVec 6) (k : BitVec 3) (perLane : Bool) (s : State)
    (go : Site → Record → Option Record → FlyCmd → Out) : Out :=
  flyIssue i (zext h) s (fun x =>
    withRecord i s x h (fun r sc =>
      if op == .scl && !r.scaled then .next (s.fail i x 0x08 (zext h))
      else
        match x.splitOrigin r b.toNat (if perLane then x.active.lanes else [x.leaderOrMember]) with
        | some l => .next (s.fail i x 0x0E (laneWord l))
        | none =>
          let origins := if perLane then laneIds.map (x.origin b.toNat r.rank) else [x.origin b.toNat r.rank x.leaderOrMember]
          go x r sc { FlyCmd.blank i x op e k with record := some r, scaleRecord := sc, origins := origins }))

/-- The tile that a command names, declared and, for a scaled record, bound to a score slot (R166, R230). -/
def withTile (i : Instr) (s : State) (x : Site) (t : BitVec 8) (scaled : Bool) (k : Tile → Out) : Out :=
  match x.co.tile? t.toNat with
  | none => .next (s.fail i x 0x09 (zext t))
  | some tl => if scaled && tl.score == 0xFF then .next (s.fail i x 0x09 (zext t)) else k tl

/-- A fill: capacity, the target's state, and the tile becomes filling or claimed (R167, R169, R170). -/
def fillIssue (i : Instr) (s : State) (x : Site) (t : BitVec 8) (r : Record) (sc : Option Record) (c : FlyCmd) (rows : Nat) : Out :=
  withTile i s x t r.scaled (fun tl =>
    let cols := r.box.getD 0 1
    if tl.capacity < rows * pitch cols r.width then .next (s.fail i x 0x09 (zext t))
    else
      match tl.fill? (r.format, cols, rows) with
      | none => .next (s.fail i x 0x09 (zext t))
      | some tl' =>
        s.enqueue i x { x with co := x.co.setTile t.toNat tl' } { c with tile := t.toNat } (tl.span rows cols r.width :: recordSpans r sc))

/-- A command that reads a ready tile: the source rules, the shape and format, and one reader more (R168, R170, R232); `more` are the bytes beside the
tile that it may touch (R275). -/
def sourceIssue (i : Instr) (s : State) (x : Site) (t : BitVec 8) (r : Record) (sc : Option Record) (c : FlyCmd) (rows : Nat)
    (more : List Span) : Out :=
  withTile i s x t r.scaled (fun _ =>
    readyTile i s x t (fun tl =>
      let cols := r.box.getD 0 1
      if tl.format != r.format || tl.cols != cols || tl.rows != rows then .next (s.fail i x 0x09 (zext t))
      else
        s.enqueue i x { x with co := x.co.readTile t.toNat } { c with tile := t.toNat, reading := true }
          (tl.span rows cols r.width :: more)))

/-- `fly_in` (R231). Queues a fill of a tile from a box of a tensor. -/
def execFlyIn (e : BitVec 1) (b : BitVec 6) (h : BitVec 6) (t : BitVec 8) (k : BitVec 3) (s : State) : Out :=
  recordIssue (.flyIn e b h t k) .inn e b h k false s (fun x r sc c => fillIssue (.flyIn e b h t k) s x t r sc c r.rows)

/-- `fly_out` (R232). Queues a write of a ready tile to a box of a tensor. -/
def execFlyOut (e : BitVec 1) (b : BitVec 6) (h : BitVec 6) (t : BitVec 8) (k : BitVec 3) (s : State) : Out :=
  recordIssue (.flyOut e b h t k) .out e b h k false s (fun x r sc c => sourceIssue (.flyOut e b h t k) s x t r sc c r.rows (recordSpans r sc))

/-- `fly_gth` (R233). Queues a per-lane gather of runs into a tile. -/
def execFlyGth (e : BitVec 1) (b : BitVec 6) (h : BitVec 6) (t : BitVec 8) (k : BitVec 3) (s : State) : Out :=
  recordIssue (.flyGth e b h t k) .gth e b h k true s (fun x r sc c => fillIssue (.flyGth e b h t k) s x t r sc c 32)

/-- `fly_sct` (R234). Queues a per-lane scatter of tile rows. -/
def execFlySct (e : BitVec 1) (b : BitVec 6) (h : BitVec 6) (t : BitVec 8) (k : BitVec 3) (s : State) : Out :=
  recordIssue (.flySct e b h t k) .sct e b h k true s (fun x r sc c => sourceIssue (.flySct e b h t k) s x t r sc c 32 (recordSpans r sc))

/-- `fly_scl` (R235). Queues a load of a box's block scales into a score slot. -/
def execFlyScl (e : BitVec 1) (b : BitVec 6) (h : BitVec 6) (t : BitVec 8) (k : BitVec 3) (s : State) : Out :=
  recordIssue (.flyScl e b h t k) .scl e b h k false s (fun x r sc c =>
    withTile (.flyScl e b h t k) s x t true (fun tl =>
      if tl.cols != r.box.getD 0 1 || tl.rows != r.rows then .next (s.fail (.flyScl e b h t k) x 0x09 (zext t))
      else s.enqueue (.flyScl e b h t k) x x { c with tile := t.toNat } (recordSpans r sc)))

/-- `fly_pf` (R238). Queues a prefetch of a box's lines into reservoirs. -/
def execFlyPf (e : BitVec 1) (b : BitVec 6) (h : BitVec 6) (k : BitVec 3) (s : State) : Out :=
  recordIssue (.flyPf e b h k) .pf e b h k false s (fun x r sc c => s.enqueue (.flyPf e b h k) x x c (recordSpans r sc))

/-- `fly_mc` (R382). Queues a multicast write of a tile with one aggregate acknowledgement. -/
def execFlyMc (e : BitVec 1) (b : BitVec 6) (h : BitVec 6) (t : BitVec 8) (k : BitVec 3) (s : State) : Out :=
  recordIssue (.flyMc e b h t k) .mc e b h k false s (fun x r sc c =>
    let g := x.uniform (b.toNat + r.rank)
    let a := (x.uniform (b.toNat + r.rank + 1)).toNat
    if 2 ^ 16 ≤ g.toNat then .next (s.fail (.flyMc e b h t k) x 0x01 (encode (.flyMc e b h t k)).word)
    else if a % 64 != 0 || decide (x.co.playbill.stage < a + 64) then .next (s.fail (.flyMc e b h t k) x 0x0D (laneWord x.leaderOrMember))
    else sourceIssue (.flyMc e b h t k) s x t r sc { c with group := g.extractLsb' 0 16, ackAddr := a } r.rows [{ space := 2, base := a, len := 64 }])

/-- The address of a copy in a space: 64 bits in main memory, 32 in the cistern and the stage (R236). -/
def copyAddr (space : Nat) (v : BitVec 64) : BitVec 64 := if space = 0 then v else (lo32 v).setWidth 64

/-- Whether a range of a copy in a given space passes a limit. -/
def copyBeyond (space want addr len limit : Nat) : Bool := space == want && decide (limit < addr + len)

/-- `fly_cp` (R236). Queues a copy between spaces. -/
def execFlyCp (e : BitVec 1) (b : BitVec 6) (k : BitVec 3) (s : State) : Out :=
  let i : Instr := .flyCp e b k
  flyIssue i 0 s (fun x =>
    let spaces := (x.uniform (b.toNat + 5)).toNat
    let ss := spaces % 4
    let ds := spaces / 4 % 4
    let src := copyAddr ss (x.uniformPair b.toNat)
    let dst := copyAddr ds (x.uniformPair (b.toNat + 2))
    let len := (x.uniform (b.toNat + 4)).toNat
    let lead := laneWord x.leaderOrMember
    let beyond (want limit : Nat) : Bool := copyBeyond ss want src.toNat len limit || copyBeyond ds want dst.toNat len limit
    let noWindow := (ss == 1 || ds == 1) && (s.window? x.co).isNone
    if ss = 3 || ds = 3 then .next (s.fail i x 0x01 (encode i).word)
    else if src.toNat % 16 != 0 || dst.toNat % 16 != 0 || len % 16 != 0 || decide (2 ^ 24 < len) then .next (s.fail i x 0x0E lead)
    else if beyond 2 x.co.playbill.stage then .next (s.fail i x 0x0D lead)
    else if beyond 1 (s.windowSize x.co) || noWindow then
      .next ((s.retire i x (x.switchOff (1#32 <<< x.leaderOrMember))).afterExit x)
    else
      s.enqueue i x x
        { FlyCmd.blank i x .cp e k with srcSpace := ss, dstSpace := ds, src := src, dst := dst, len := len }
        [{ space := ss, base := src.toNat, len := len }, { space := ds, base := dst.toNat, len := len }])

/-- `fly_atm` (R237). Queues an atomic on a main-memory word per lane. -/
def execFlyAtm (e : BitVec 1) (b : BitVec 6) (p : BitVec 4) (q : BitVec 2) (k : BitVec 3) (s : State) : Out :=
  let i : Instr := .flyAtm e b p q k
  flyIssue i (zext (p ++ q)) s (fun x =>
    let addr (l : Nat) : BitVec 64 := dword (x.reg b.toNat l) (x.reg (b.toNat + 1) l)
    let res := x.uniform (b.toNat + 4)
    let discard := res == 0xFFFFFFFF
    match x.active.lanes.find? (fun l => (addr l).toNat % 4 != 0) with
    | some l => .next (s.fail i x 0x0E (laneWord l))
    | none =>
      if !discard && (res.toNat % 4 != 0 || decide (x.co.playbill.stage < res.toNat + 128)) then
        .next (s.fail i x 0x0D (laneWord x.leaderOrMember))
      else
        s.enqueue i x x
          { FlyCmd.blank i x .atm e k with
            aop := p, order := q, addrs := laneIds.map addr, operands := laneIds.map (x.reg (b.toNat + 2)),
            expecteds := laneIds.map (x.reg (b.toNat + 3)), result := res }
          ((if discard then [] else [{ space := 2, base := res.toNat, len := 128 }]) ++
            x.active.lanes.map (fun l => { space := 0, base := (addr l).toNat, len := 4 })))

end Sys2Proof.Machine
end

