-- ==== Sys2Proof/Machine/Matrix.lean ====
section
/-!
DEFINITION. Issue and gathering of the matrix operations, and `mx.sput` (R184 to R203).
-/
namespace Sys2Proof.Machine

/-! ## Members (R184, R185) -/

/-- Choruses in an ensemble of the company. -/
def Company.ensembleSize (c : Company) : Nat := Nat.max c.playbill.ensemble 1

/-- The ensemble of a chorus. -/
def Company.ensembleNo (c : Company) (ch : Nat) : Nat := ch / c.ensembleSize

/-- The chorus indices of an ensemble, member 0 first. -/
def Company.members (c : Company) (e : Nat) : List Nat := (List.range c.ensembleSize).map (fun k => e * c.ensembleSize + k)

/-- The command of a member for operation `n` in its queue. -/
def Chorus.mxCmd? (h : Chorus) (n : Nat) : Option MxCmd :=
  h.queue.findSome? (fun q => match q with | .mx m => if m.op == n then some m else none | _ => none)

/-- The commands of an operation's members, member 0 first. -/
def Company.commands (c : Company) (o : MxOp) : List (Nat × MxCmd) :=
  (c.members o.ensemble).filterMap (fun k => ((c.chorus? k).bind (fun h => h.mxCmd? o.number)).map (fun m => (k, m)))

/-- A member that has ended or halted: no operation that a remaining member issues can gather any more (R179, R187). -/
def Company.missing (c : Company) (ch : Nat) : Option Nat :=
  (c.members (c.ensembleNo ch)).find? (fun k => (c.chorus? k).any (fun h => h.ended || h.halted.isSome))

/-! ## Regions (R188, R189, R195) -/

/-- A region's shape as `mx.zero` reads one: M below, N above. -/
def shapeWord (m n : Nat) : Word := BitVec.ofNat 32 (n * 65536 + m)
def shapeM (w : Word) : Nat := w.toNat % 65536
def shapeN (w : Word) : Nat := w.toNat / 65536

/-- Region `r`, when it is declared. -/
def Company.region? (c : Company) (r : Nat) : Option Region := (c.pit[r]?).filter (fun g => g.capacity != 0)

/-- Whether a region can take a shape: the limits of R195, and its capacity. -/
def Region.fits (g : Region) (m n : Nat) : Bool :=
  m % 16 == 0 && decide (16 ≤ m) && decide (m ≤ 192) && n % 16 == 0 && decide (16 ≤ n) && decide (n ≤ 320) &&
    decide (m / 16 * (n / 16) ≤ g.capacity)

/-- Gives a region a shape. -/
def Company.shapeRegion (c : Company) (r m n : Nat) : Company :=
  { c with pit := updAt c.pit r (fun g => { g with shaped := true, cols := n / 16, rows := m / 16 }) }

/-! ## The checks of gathering (R192, R195 to R197, R202) -/

/-- What a failed check traps with: a cause, and a `tval` or each member's own instruction word. -/
abbrev MxFail := Nat × Option Word

/-- The tile-state trap with a region as `tval` (R189), and with a tile. -/
def regionFail (r : Nat) : MxFail := (0x09, some (BitVec.ofNat 32 (0x100 + r)))
def tileFail (t : Nat) : MxFail := (0x09, some (BitVec.ofNat 32 t))

/-- The lowest member whose instruction differs from member 0's: the word but for a cue field, `fmt`, and the shape of
`mx.zero`. -/
def mismatchedMember (o : MxOp) (cs : List (Nat × MxCmd)) : Option Nat :=
  let mask : Word := if o.kind == .mma || o.kind == .spr then 0xFFFFF8FF else 0xFFFFFFFF
  match cs with
  | [] => none
  | (_, m) :: r =>
    ((List.range r.length).find? (fun k =>
      match r[k]? with
      | some (_, n) => n.word &&& mask != m.word &&& mask || n.fmt != m.fmt || (o.kind == .zero && n.shape != m.shape)
      | none => false)).map (· + 1)

/-- The first operand tile in a state that a matrix read does not accept (R166, R170). -/
def Company.badOperand (c : Company) (o : MxOp) : Option Nat :=
  (o.operands (c.index % 4)).find? (fun t => (c.tile? t).all (fun x => x.state == .empty || x.state == .draining))

/-- Whether the scales of a tile are bound and lie in the allocation (R190). -/
def Company.scalesOk (c : Company) (t : Tile) : Bool :=
  t.score != 0xFF && decide (t.score * 128 + t.rows * t.cols / 32 ≤ c.playbill.scoreSlots * 128)

/-- Whether an operation reads tile A and tile B at its company's place (R203). -/
def MxOp.readsA (o : MxOp) (pos : Nat) : Bool := o.kind != .spr || pos % 2 == 0
def MxOp.readsB (o : MxOp) (pos : Nat) : Bool := o.kind != .spr || pos / 2 == 0

/-- The shape checks of a product (R192), in order, on the tiles that the core reads. -/
def Company.productFail (c : Company) (o : MxOp) : Option MxFail :=
  let pos := c.index % 4
  let a := ((c.tile? o.tileA).filter (fun _ => o.readsA pos))
  let b := ((c.tile? o.tileB).filter (fun _ => o.readsB pos))
  let fmt : BitVec 16 := o.fmt.setWidth 16
  let named : Nat := if o.readsA pos then o.tileA else o.tileB
  let kBad (t : Tile) : Bool := t.cols % 32 != 0 || decide (512 < t.cols)
  if a.any (fun t => t.format != fmtA fmt) then some (tileFail o.tileA)
  else if b.any (fun t => t.format != fmtB fmt) then some (tileFail o.tileB)
  else if a.any (fun t => t.rows != shapeM o.shape) || b.any (fun t => t.rows != shapeN o.shape) ||
    a.any (fun t => b.any (fun u => u.cols != t.cols)) then some (tileFail named)
  else if a.any kBad || b.any kBad then some (tileFail named)
  else if o.sc && a.any (fun t => !c.scalesOk t) then some (tileFail o.tileA)
  else if o.sc && b.any (fun t => !c.scalesOk t) then some (tileFail o.tileB)
  else none

/-- Whether every operand tile is ready. -/
def Company.operandsReady (c : Company) (o : MxOp) : Bool :=
  (o.operands (c.index % 4)).all (fun t => (c.tile? t).any (fun x => x.state == .ready))

/-- Whether a company stands in a complete group of four (R202). -/
def Company.inGroup (c : Company) : Bool := decide (c.index / 4 * 4 + 4 ≤ c.playbill.companies)

/-- The checks that an operation fails at gathering, in the order of the rules. -/
def Company.gatherFail (c : Company) (o : MxOp) : Option MxFail :=
  let fmt : BitVec 16 := o.fmt.setWidth 16
  match o.kind with
  | .zero =>
    match c.region? o.region with
    | some g => if g.fits (shapeM o.shape) (shapeN o.shape) then none else some (regionFail o.region)
    | none => some (regionFail o.region)
  | .put =>
    match c.region? o.region with
    | none => some (regionFail o.region)
    | some g =>
      match c.badOperand o with
      | some t => some (tileFail t)
      | none =>
        match c.tile? o.tileA with
        | none => some (tileFail o.tileA)
        | some t =>
          if t.format == 0xD then some (tileFail o.tileA)
          else if g.fits t.rows t.cols then none else some (regionFail o.region)
  | .get =>
    match (c.region? o.region).filter (·.shaped) with
    | none => some (regionFail o.region)
    | some g =>
      match c.tile? o.tileA with
      | none => some (tileFail o.tileA)
      | some t =>
        if (t.fill? (t.format, g.cols * 16, g.rows * 16)).isNone then some (tileFail o.tileA)
        else if t.format == 0xD || decide (t.capacity < g.rows * 16 * pitch (g.cols * 16) (formatBits t.format)) then some (tileFail o.tileA)
        else none
  | _ =>
    if o.kind == .spr && !c.inGroup then some (0x0A, some 0xFFFFFFFF)
    else if !(operandCode (fmtA fmt) && operandCode (fmtB fmt)) then some (0x01, none)
    else if fmtScaled fmt != o.sc then some (0x01, none)
    else
      match (c.region? o.region).filter (·.shaped) with
      | none => some (regionFail o.region)
      | some _ =>
        match c.badOperand o with
        | some t => some (tileFail t)
        | none => if c.operandsReady o then c.productFail o else none

/-- Reserves a ready operand tile (R199). -/
def Company.reserve (c : Company) (uid t : Nat) : Company :=
  { c.readTile t with ops := updWhere (fun o => o.uid == uid) (fun o => { o with reserved := o.reserved ++ [t] }) c.ops }

/-- The shape an operation works on: that of its region as it gathers, after its own effect on the record. -/
def Company.opShape (c : Company) (o : MxOp) : Word :=
  match o.kind with
  | .zero => o.shape
  | .put => match c.tile? o.tileA with | some t => shapeWord t.rows t.cols | none => 0
  | _ => match c.region? o.region with | some g => shapeWord (g.rows * 16) (g.cols * 16) | none => 0

/-- The effects of a gathering that passes its checks: the region's shape, the fill of a tile, the reservations. -/
def Company.gathered (c : Company) (o : MxOp) : Company :=
  let c := { c with ops := updWhere (fun p => p.uid == o.uid) (fun _ => { o with gathered := true }) c.ops }
  match o.kind with
  | .zero => c.shapeRegion o.region (shapeM o.shape) (shapeN o.shape)
  | .get =>
    match (c.tile? o.tileA).bind (fun t => t.fill? (t.format, shapeN o.shape, shapeM o.shape)) with
    | some t => c.setTile o.tileA t
    | none => c
  | _ =>
    let c := if o.kind == .put then c.shapeRegion o.region (shapeM o.shape) (shapeN o.shape) else c
    ((o.operands (c.index % 4)).filter (fun t => (c.tile? t).any (fun x => x.state == .ready))).foldl (fun c t => c.reserve o.uid t) c

/-- Gathers an operation whose last member has issued: what fails, or the company after it. Member 0's command gives
the word, `fmt` and shape. -/
def Company.gather (c : Company) (o : MxOp) : MxFail ⊕ Company :=
  let cs := c.commands o
  match mismatchedMember o cs, cs with
  | some k, _ => .inl (0x0A, some (BitVec.ofNat 32 k))
  | none, [] => .inr c
  | none, (_, m) :: _ =>
    let o := { o with word := m.word, fmt := m.fmt, shape := m.shape }
    let o := { o with shape := c.opShape o }
    match c.gatherFail o with
    | some f => .inl f
    | none => .inr (c.gathered o)

/-- A tile of an operation whose readers are at 255 (R168). -/
def Company.fullOperand (c : Company) (o : MxOp) : Option Nat :=
  (o.operands (c.index % 4)).find? (fun t => (c.tile? t).any (fun x => x.state == .ready && decide (255 ≤ x.readers)))

/-! ## Issue -/

/-- The fields of a collective instruction. -/
structure MxFields where
  kind : MxKind
  region : Nat
  tileA : Nat
  tileB : Nat
  sc : Bool
  cue : Nat

/-- The operation that a member's instruction belongs to, new at its first member. -/
def Company.opFor (c : Company) (uid n e : Nat) (f : MxFields) : MxOp :=
  (c.ops.find? (fun o => o.ensemble == e && o.number == n)).getD
    { uid := uid, ensemble := e, number := n, kind := f.kind, word := 0, fmt := 0, shape := 0, region := f.region, tileA := f.tileA,
      tileB := f.tileB, sc := f.sc, issued := [], gathered := false, started := false, finished := false, reserved := [], ready := none,
      next := 0, due := 0, charged := 0, left := 0, stopping := false, paused := false }

/-- The company with an operation replaced or added. -/
def Company.putOp (c : Company) (o : MxOp) : Company :=
  { c with ops := if c.ops.any (fun p => p.uid == o.uid) then updWhere (fun p => p.uid == o.uid) (fun _ => o) c.ops else c.ops ++ [o] }

/-- A member's command enters its queue, and its operation notes it. -/
def Site.enterMx (x : Site) (o : MxOp) (m : MxCmd) : Site :=
  let ch := { x.ch with queue := x.ch.queue ++ [.mx m], collectives := x.ch.collectives + 1 }
  { x with co := (x.co.putOp o).setChorus ch, ch := ch }

/-- The chorus of the site as its company now holds it. -/
def Site.refresh (x : Site) (c : Company) : Site := { x with co := c, ch := (c.chorus? x.ch.index).getD x.ch }

/-- A collective instruction (R185, R187): it enters its member's queue, and the last member gathers the operation. A
failed check traps the last member at once and the others at their next chain boundary. -/
def collective (i : Instr) (f : MxFields) (shape : Site → Word) (s : State) : Out :=
  issue i s (fun x =>
    let n := x.ch.collectives
    let counted : Site := { x with ch := { x.ch with collectives := n + 1 } }
    if 16 ≤ x.ch.queue.length then .next (s.stall x .queue .waitMemory)
    else
      match x.co.missing x.ch.index with
      | some k => .next (s.fail i counted 0x0A (BitVec.ofNat 32 (k % x.co.ensembleSize)))
      | none =>
        let u := s.fresh
        let v := u.2.fresh
        let o := x.co.opFor u.1 n (x.co.ensembleNo x.ch.index) f
        let o := { o with issued := o.issued ++ [(x.ch.index, x.sp.pc)] }
        let y := x.enterMx o
          { uid := v.1, word := (encode i).word, epc := x.sp.pc, op := n, cue := f.cue, fmt := x.sp.fmt.extractLsb' 0 12, shape := shape x, verdict := none }
        if o.issued.length < x.co.ensembleSize then .next (v.2.retire i x y)
        else
          match x.co.fullOperand o with
          | some t => .next (s.stall x (.readers t) .waitMemory)
          | none =>
            match y.co.gather o with
            | .inr c => .next (v.2.retireSettle i x (y.refresh c))
            | .inl fl =>
              let word (k : Nat) : Word :=
                fl.2.getD ((((y.co.chorus? k).bind (fun h => h.mxCmd? n)).map (·.word)).getD 0)
              let others := { o with issued := o.issued.filter (fun m => m.1 != x.ch.index) }
              let c := (y.co.removeOp o).trapMembers others fl.1 word
              .next (v.2.fail i (y.refresh c) fl.1 (word x.ch.index)))

/-- `mx_mma` (R192). Multiplies a tile by a transposed tile and accumulates into a region. -/
def execMxMma (s' : BitVec 1) (r : BitVec 4) (b : BitVec 8) (a : BitVec 8) (k : BitVec 3) (s : State) : Out :=
  collective (.mxMma s' r b a k)
    { kind := .mma, region := r.toNat, tileA := a.toNat, tileB := b.toNat, sc := s' == 1, cue := k.toNat } (fun _ => 0) s

/-- `mx_spr` (R202, R203). The product spread over four cores. -/
def execMxSpr (s' : BitVec 1) (r : BitVec 4) (b : BitVec 8) (a : BitVec 8) (k : BitVec 3) (s : State) : Out :=
  collective (.mxSpr s' r b a k)
    { kind := .spr, region := r.toNat, tileA := a.toNat, tileB := b.toNat, sc := s' == 1, cue := k.toNat } (fun _ => 0) s

/-- `mx_zero` (R195). Shapes a region and clears it. -/
def execMxZero (r : BitVec 4) (v : BitVec 6) (s : State) : Out :=
  collective (.mxZero r v) { kind := .zero, region := r.toNat, tileA := 0, tileB := 0, sc := false, cue := 0 }
    (fun x => x.uniform v.toNat) s

/-- `mx_put` (R196). Loads a region from a tile. -/
def execMxPut (t : BitVec 8) (r : BitVec 4) (s : State) : Out :=
  collective (.mxPut t r) { kind := .put, region := r.toNat, tileA := t.toNat, tileB := 0, sc := false, cue := 0 } (fun _ => 0) s

/-- `mx_get` (R197). Fills a tile by converting a region. -/
def execMxGet (t : BitVec 8) (r : BitVec 4) (s : State) : Out :=
  collective (.mxGet t r) { kind := .get, region := r.toNat, tileA := t.toNat, tileB := 0, sc := false, cue := 0 } (fun _ => 0) s

/-- `mx_sput` (R198). Queues a write of scale bytes to the score. -/
def execMxSput (v : BitVec 6) (s : State) : Out :=
  issue (.mxSput v) s (fun x =>
    if x.idle then .next (s.retire (.mxSput v) x x)
    else
      let o := (x.uniform (v.toNat + 1)).toNat
      let lead := laneWord x.leaderOrMember
      let top := ((highest x.active).getD 0) + 1
      if 16 ≤ x.ch.queue.length then .next (s.stall x .queue .waitMemory)
      else if o % 4 != 0 then .next (s.fail (.mxSput v) x 0x0E lead)
      else if x.co.playbill.scoreSlots * 128 < o + 4 * top then .next (s.fail (.mxSput v) x 0x0D lead)
      else
        let u := s.fresh
        .next (u.2.retire (.mxSput v) x
          { x with ch := { x.ch with queue := x.ch.queue ++ [.sput u.1 (encode (.mxSput v)).word x.sp.pc o x.active (x.ch.row x.sp.wb v.toNat)] } }))

end Sys2Proof.Machine
end

