-- ==== Sys2Proof/Machine/Engine.lean ====
section
/-!
DEFINITION. The engine queue, the ends of drains and fills, traps taken after issue, and the matrix array (R169, R178,
R186 to R205, R241, R242).
-/
namespace Sys2Proof.Machine

/-! ## Activity -/

/-- Whether the agents of a company act: it runs on its core, its context is on stage and no clock is stopped (R361,
R371). -/
def State.acts (s : State) (c : Company) : Bool :=
  c.state == .running && !s.curtain && (s.die (dieOfCore c.core)).changing.isNone &&
    (s.context? c.ctx).any (fun x => x.running s.curtain)

/-- The limit of the watchdog that applies now (R338). -/
def Context.limit (c : Context) : Word := if c.vt < c.wdogFrom then c.wdogOld else c.wdog

/-- Whether a run's count has reached the limit of its context (R338). -/
def State.watchdogDue (s : State) (r : Run) : Bool :=
  match s.context? r.ctx, r.placedAt with
  | some c, some a => c.limit != 0 && r.ending.isNone && decide (a + c.limit.toNat * 1000 * ticksPerNs ≤ c.vt)
  | _, _ => false

/-- Whether the units of a company are to stop at their stopping points (R24, R340): for a fault, a pre-emption, the watchdog, a
checkpoint or a kill. -/
def State.stops (s : State) (c : Company) : Bool :=
  c.saving || (s.context? c.ctx).any (fun x => x.sliceOver || x.leaves) || (s.run? c.ctx c.run).any (fun r => s.watchdogDue r || r.snapAt.isSome || r.killed.isSome)

/-- A company whose agents act. -/
def State.actor? (s : State) (u : Nat) : Option Company := (s.company? u).filter s.acts

/-- An arithmetic cycle of a core's cluster in ticks (R148, R360). -/
def State.arithTicks (s : State) (core : Nat) : Nat := 20000 * pointFactor (s.die (dieOfCore core)).point / 100

/-! ## Tiles (R169, R199) -/

/-- The end of a fill: the tile becomes ready, and the matrix operations that await it reserve it (R169, R199). -/
def Company.fillDone (c : Company) (n : Nat) : Company :=
  let waiting := c.ops.filter (fun o => (c.awaits o).contains n)
  let c := c.modTile n (fun t => if t.state == .filling then { t with state := .ready } else t)
  waiting.foldl (fun c o => c.reserve o.uid n) c

/-- `tile_drain_end` (R169). A draining tile without readers becomes empty, or filling when it is claimed. -/
def execTileDrainEnd (s : State) : Out :=
  match s.company? s.arg.a with
  | none => .next s
  | some c => .next ((s.setCompany (c.modTile s.arg.b Tile.drained)).settleCompany c.uid)

/-! ## The engine queue (R178, R186, R198, R227) -/

/-- The cue of a queued entry. -/
def QueueEntry.cue : QueueEntry → Nat
  | .fly f => f.cue
  | .mx m => m.cue
  | .sput _ _ _ _ _ _ => 0

/-- Whether an operation is at the head of every member's queue. -/
def Company.atHead (c : Company) (o : MxOp) : Bool :=
  (c.members o.ensemble).all (fun k => (c.chorus? k).any (fun h =>
    match h.queue.head? with
    | some (.mx m) => m.op == o.number
    | _ => false))

/-- How the cues of an operation's members have resolved. -/
def Company.opCues (c : Company) (o : MxOp) : List (Option Bool) := (c.commands o).map (fun p => p.2.verdict)

/-- The bytes that `mx.sput` writes: address and value. -/
def sputBytes (base : Nat) (lanes : Mask) (data : Lanes) : List (Nat × Byte) :=
  lanes.lanes.flatMap (fun l => (List.range 4).map (fun k => (base + 4 * l + k, BitVec.ofNat 8 ((data.at l).toNat / 256 ^ k))))

/-- Bytes stored in the score; a granule written whole loses its mark of poison (R348). -/
def Company.writeScore (c : Company) (bs : List (Nat × Byte)) : Company :=
  { c with
    score := bs.foldl (fun m b => m.write b.1 b.2) c.score
    scorePoison := c.scorePoison.filter (fun g => !covered (bs.map (fun b => (b.1, 1))) g) }

/-- Takes the first entry out of a chorus's queue. -/
def Company.popQueue (c : Company) (ch : Nat) : Company := c.modChorus ch (fun h => { h with queue := h.queue.drop 1 })

/-- The first entry of a chorus's queue has its verdict. -/
def Company.decideFirst (c : Company) (ch : Nat) (v : Bool) : Company :=
  c.modChorus ch (fun h => { h with queue := updAt h.queue 0 (fun q => q.decide v) })

/-- A gathered operation is discarded for all members once every member's cue has resolved, one of them false (R186). -/
def Company.judgeOp (c : Company) (ch n : Nat) : Company :=
  match c.ops.find? (fun o => o.number == n && o.ensemble == c.ensembleNo ch) with
  | none => c
  | some o =>
    if o.gathered && !o.started && c.atHead o && (c.opCues o).all Option.isSome && (c.opCues o).contains (some false)
    then c.dropOp o else c

/-- Whether a running product still reads scales of the company: `mx.sput` reaches the score between operations, since the
operations of a core and the score writes between them take effect in queue order (R198, R282). -/
def Company.scoreRead (c : Company) : Bool := c.ops.any (fun o => o.started && !o.finished && o.sc)

/-- Decides the head of a queue against its cue: a resolved cue decides a command for good; a false one discards a fly
command with status 2, and a gathered operation once every member's cue has resolved; `mx.sput` takes effect. -/
def Company.decideHead (c : Company) (h : Chorus) : Company :=
  match h.queue.head? with
  | none => c
  | some (.fly f) =>
    if f.state == .decided then c
    else if h.cueCode f.cue == 3 then c.decideFirst h.index true
    else if h.cueCode f.cue == 2 then (c.popQueue h.index).discard h.index (.fly f) 2
    else c
  | some (.mx m) =>
    let c := if h.cueCode m.cue == 3 then c.decideFirst h.index true else if h.cueCode m.cue == 2 then c.decideFirst h.index false else c
    c.judgeOp h.index m.op
  | some (.sput _ _ _ b l d) => if c.scoreRead then c else (c.popQueue h.index).writeScore (sputBytes b l d)

/-- The number and the address of a queued command. -/
def QueueEntry.name : QueueEntry → Nat × Word
  | .fly f => (f.uid, f.epc)
  | .mx m => (m.uid, m.epc)
  | .sput u _ epc _ _ _ => (u, epc)

/-- The number of an entry of the engine queue. -/
def Chorus.queueNo (h : Chorus) (k : Nat) : Nat := ((h.queue[k]?).map (fun q => q.name.1)).getD 0

/-- `queue_head_decide` (R178, R186, R198, R348). The head of an engine queue is decided against its cue; one whose SRAM is poisoned
halts the chorus. -/
def execQueueHeadDecide (s : State) : Out :=
  match s.actor? s.arg.a with
  | none => .next s
  | some c =>
    match c.chorus? s.arg.b with
    | none => .next s
    | some h =>
      match h.queue.head? with
      | none => .next s
      | some q =>
        if h.queuePoison.contains q.name.1 then .next (s.haltFor c.uid h.index 0x10 q.name.2 0xFFFFFFFF)
        else .next ((s.setCompany (c.decideHead h)).settleCompany c.uid)

/-- Handed-over commands that have not completed, of every company on a core (R227). -/
def State.handedOn (s : State) (core : Nat) : Nat :=
  total ((s.companies.filter (fun k => k.core == core && k.state == .running)).map (fun k =>
    (k.engine.filter (fun e => e.2.state != .done)).length))

/-- Whether an order holds an acquire (R37). -/
def acquires (q : BitVec 2) : Bool := q.getLsbD 0

/-- Whether the order of atomics holds a command's handover (R271): an earlier `fly.atm` that acquires, or earlier
commands before one that releases. -/
def Company.orderHolds (c : Company) (ch : Nat) (f : FlyCmd) : Bool :=
  let live := (c.engine.filter (fun e => e.1 == ch && e.2.state != .done)).map (·.2)
  live.any (fun e => e.op == .atm && acquires e.order) || (f.op == .atm && releases f.order && !live.isEmpty)

/-- `fly_command_handover` (R227). The command at a queue's head goes to the fly engine. -/
def execFlyCommandHandover (s : State) : Out :=
  match s.actor? s.arg.a with
  | none => .next s
  | some c =>
    match (c.chorus? s.arg.b).bind (fun h => h.queue.head?.map (fun q => (h, q))) with
    | some (h, .fly f) =>
      if f.state == .decided && decide (s.handedOn c.core < 32) && !c.orderHolds h.index f && !s.stops c then
        let c := c.popQueue h.index
        .next ((s.setCompany { c with engine := c.engine ++ [(h.index, { f with state := .handed })] }).settleCompany c.uid)
      else .next s
    | _ => .next s

/-! ## Traps after issue (R187, R241) -/

/-- The split that takes a trap: the one named, else the running one; a trap of the scheduler halts the chorus whatever
its splits do. -/
def Chorus.trapSplit (h : Chorus) (t : AsyncTrap) : Option Split :=
  if t.split != 0 then h.splits.find? (fun p => p.members &&& t.split != 0)
  else (h.splits.find? (fun p => p.state == .running)).orElse (fun _ => if t.scheduler then h.splits.head? else none)

/-- A chorus in which one split runs and the one that ran before is ready. -/
def Chorus.runSplit (h : Chorus) (p : Split) : Chorus :=
  { h with splits := h.splits.map (fun q =>
      if q.members == p.members then { q with state := .running, wait := .none }
      else if q.state == .running then { q with state := .ready } else q) }

/-- `async_trap_taken` (R187, R241). A chorus takes the oldest trap raised after issue at a chain boundary. -/
def execAsyncTrapTaken (s : State) : Out :=
  match s.actor? s.arg.a with
  | none => .next s
  | some c =>
    match c.chorus? s.arg.b with
    | none => .next s
    | some h =>
      match h.traps with
      | [] => .next s
      | t :: rest =>
        if h.chain.isSome then .next s
        else if h.halted.isSome then .next (s.setCompany (c.modChorus h.index (fun h => { h with traps := rest })))
        else
          match h.trapSplit t with
          | some p =>
            let h := { h.runSplit p with traps := rest }
            .next (s.takeTrap { co := c, ch := h, sp := { p with state := .running, wait := .none } } t.cause t.epc t.tval t.scheduler)
          | none =>
            if h.ended then .next (s.setCompany (c.modChorus h.index (fun h => { h with traps := rest }))) else .next s

/-! ## The pit (R188) -/

/-- An accumulator, and one stored: the list keeps rising keys and no +0. -/
def accRead : List (Nat × Word) → Nat → Word
  | [], _ => 0
  | (k, w) :: t, a => if k = a then w else accRead t a
def accWrite : List (Nat × Word) → Nat → Word → List (Nat × Word)
  | [], a, v => if v = 0 then [] else [(a, v)]
  | (k, w) :: t, a, v =>
    if a < k then (if v = 0 then (k, w) :: t else (a, v) :: (k, w) :: t)
    else if a = k then (if v = 0 then t else (a, v) :: t)
    else (k, w) :: accWrite t a v

/-- The accumulator of output (i, j) of a region of N columns. -/
def accIndex (base n i j : Nat) : Nat := (base + i / 16 * (n / 16) + j / 16) * 256 + i % 16 * 16 + j % 16

/-- The element of a tile in row `i` and column `j`, stored packed in the stage (R167). -/
def Tile.bitAt (t : Tile) (i j : Nat) : Nat := 8 * (t.base + i * pitch t.cols (formatBits t.format)) + j * formatBits t.format
def Company.element (c : Company) (t : Tile) (i j : Nat) : Nat := c.stage.readBits (t.bitAt i j) (formatBits t.format)

/-- The scale of row `i` and block `k` of a tile (R190). -/
def scaleAt (t : Tile) (i k : Nat) : Nat := t.score * 128 + i * (t.cols / 32) + k

/-! ## Starting (R186, R192, R199, R203) -/

/-- Whether an operation can start: gathered, at every head with cues true, its operands reserved, and the target of
`mx.get` filling (R169). -/
def Company.canStart (c : Company) (o : MxOp) : Bool :=
  o.gathered && !o.started && c.atHead o && (c.opCues o).all (· == some true) && (c.awaits o).isEmpty &&
    (o.kind != .get || (c.tile? o.tileA).any (fun t => t.state == .filling))

/-- Whether the array of a core is free: no company that runs there has a started operation (R201). -/
def State.arrayFree (s : State) (core : Nat) : Bool :=
  s.companies.all (fun k => k.core != core || k.state != .running || k.ops.all (fun o => !o.started))

/-- The operations that start or step together: one, or those of a spread group that satisfy `p`, when all four do. -/
def State.party (s : State) (c : Company) (o : MxOp) (p : Company → MxOp → Bool) : Option (List (Company × MxOp)) :=
  if o.kind != .spr then (if s.acts c && p c o then some [(c, o)] else none)
  else
    let side (k : Nat) : Option (Company × MxOp) :=
      (s.companies.find? (fun d => d.ctx == c.ctx && d.run == c.run && d.troupe == c.troupe && d.index == c.index / 4 * 4 + k && s.acts d)).bind
        (fun d => (d.ops.find? (fun q => q.kind == .spr && p d q)).map (fun q => (d, q)))
    let all := (List.range 4).filterMap side
    if all.length == 4 then some all else none

/-- The operand tiles of the product of one member of a party: who holds tile A and who holds tile B (R203). -/
def operandA (ps : List (Company × MxOp)) (c : Company) : Option (Company × Tile) :=
  let k := if ps.length = 4 then c.index % 4 / 2 * 2 else 0
  (ps[k]?).bind (fun p => (p.1.tile? p.2.tileA).map (fun t => (p.1, t)))
def operandB (ps : List (Company × MxOp)) (c : Company) : Option (Company × Tile) :=
  let k := if ps.length = 4 then c.index % 2 else 0
  (ps[k]?).bind (fun p => (p.1.tile? p.2.tileB).map (fun t => (p.1, t)))

/-- The lowest position of a spread group whose operation differs from the first's in sc, `fmt`, M, N or K (R202). -/
def spreadMismatch (ps : List (Company × MxOp)) : Option Nat :=
  match ps with
  | [] => none
  | (c0, o0) :: _ =>
    let k (c : Company) : List Nat := ((operandA ps c).map (·.2.cols)).toList ++ ((operandB ps c).map (·.2.cols)).toList
    let k0 := (k c0).headD 0
    (List.range ps.length).find? (fun n =>
      match ps[n]? with
      | some (c, o) => o.sc != o0.sc || o.fmt != o0.fmt || o.shape != o0.shape || (k c).any (· != k0)
      | none => false)

/-- Steps of an operation: K-steps of a product, or moves of blocks (R193, R195 to R197, R204). -/
def stepCount (ps : List (Company × MxOp)) (c : Company) (o : MxOp) : Nat :=
  let blocks := shapeM o.shape / 16 * (shapeN o.shape / 16)
  match o.kind with
  | .mma => ((operandA ps c).map (fun t => t.2.cols / 32)).getD 0
  | .spr => ((operandA ps c).map (fun t => t.2.cols / 32)).getD 0
  | .zero => ceilDiv blocks 4
  | _ => blocks

/-- Formats of 4 and of 16 bits, for the rate of R194. -/
def isHalfRate (f : BitVec 4) : Bool := f == 4 || f == 7 || f == 8
def isWide (f : BitVec 4) : Bool := f == 9 || f == 10

/-- Arithmetic cycles of one step (R194, R195, R196). -/
def stepCycles (o : MxOp) : Nat :=
  let blocks := shapeM o.shape / 16 * (shapeN o.shape / 16)
  let a := fmtA (o.fmt.setWidth 16)
  let b := fmtB (o.fmt.setWidth 16)
  if o.kind == .mma || o.kind == .spr then
    if isHalfRate a && isHalfRate b then ceilDiv blocks 2 else if isWide a || isWide b then 2 * blocks else blocks
  else 1

/-- Whether an operation is a product, and whether its step is under way. -/
def MxOp.isProduct (o : MxOp) : Bool := o.kind == .mma || o.kind == .spr
def MxOp.onArray (o : MxOp) : Bool := o.started && !o.finished && !o.paused

/-- Whether a step of an operation has reached its end. -/
def stepDue (vt : Nat) (o : MxOp) : Bool := o.onArray && decide (o.due ≤ vt)

/-- The spread products that step together at a boundary which all four have reached (R203). -/
def State.stepParty (s : State) (c : Company) (o : MxOp) : Option (List (Company × MxOp)) :=
  s.party c o (fun d q => stepDue (s.vtTicks d.ctx) q)

/-- Whether an operation is on the array beyond its boundaries: one of a spread group stands at one while a core of the group does not
reach it (R203, R204). -/
def State.running (s : State) (c : Company) (o : MxOp) : Bool :=
  o.onArray && !(o.kind == .spr && stepDue (s.vtTicks c.ctx) o && (s.stepParty c o).isNone)

/-- Whether a company stands at its stopping points (R340): chain boundaries with no access in flight and no answer of the call board to come, arrays between steps, and the
pump between rows, with every entry that left the split table in the well (R17) unless a page is lacking there. -/
def State.stoppable (s : State) (c : Company) : Bool :=
  c.choruses.all (fun h => h.inflight.isEmpty && (h.halted.isSome || (h.chain.isNone && !h.splits.any (·.wait.onBoard) && h.pump.all (fun m => !m.moving) &&
    (h.splits.all (fun p => !p.owed) || s.requests.any (fun q => q.waiters.contains (.pump c.uid h.index)))))) &&
    c.ops.all (fun o => !s.running c o)

/-- Changes one operation of a company. -/
def Company.modOp (c : Company) (uid : Nat) (f : MxOp → MxOp) : Company :=
  { c with ops := updWhere (fun o => o.uid == uid) f c.ops }

/-- When an operation that starts on a core began: at once, or as the array became free where it waited for that (R201). -/
def State.startVt (s : State) (c : Company) (o : MxOp) : Nat :=
  match o.ready with
  | some t => Nat.max t (s.core c.core).arrayAt
  | none => s.vtTicks c.ctx

/-- Starts an operation at a `vt`: it leaves every queue, and its first step ends after its cycles. -/
def State.startOp (s : State) (c : Company) (o : MxOp) (vt : Nat) : State :=
  let c := (c.members o.ensemble).foldl (fun c k => c.popQueue k) c
  s.setCompany (c.modOp o.uid (fun o => { o with started := true, due := vt + stepCycles o * s.arithTicks c.core, charged := 0 }))

/-- The trap that a check at the start of a product raises for its members, if one does (R192). -/
def startFail (p : Company × MxOp) : Option (Nat × Word) :=
  if p.2.kind == .mma || p.2.kind == .spr then (p.1.productFail p.2).map (fun f => (f.1, f.2.getD 0)) else none

/-- Starts a party: the checks left for the start (R192), each for its own core's members, the comparison of a spread group
(R202), then each member, all at one time (R203). -/
def State.startParty (s : State) (ps : List (Company × MxOp)) : State :=
  if ps.any (fun p => (startFail p).isSome) then
    ps.foldl (fun s p => match startFail p with | some f => s.setCompany (p.1.trapOp p.2 f.1 f.2) | none => s) s
  else
    match (if ps.length = 4 then spreadMismatch ps else none) with
    | some k => ps.foldl (fun s p => s.setCompany (p.1.trapOp p.2 0x0A (BitVec.ofNat 32 k))) s
    | none =>
      let vt := ps.foldl (fun t p => Nat.max t (s.startVt p.1 p.2)) 0
      ps.foldl (fun s p => s.startOp p.1 p.2 vt) s

/-- An operation that could start but for the array notes when. -/
def State.noteReady (s : State) (c : Company) (o : MxOp) : State :=
  if c.canStart o && o.ready.isNone && !s.arrayFree c.core
  then s.setCompany (c.modOp o.uid (fun o => { o with ready := some (s.vtTicks c.ctx) })) else s

/-- Whether no operation is under way on the array of a core (R201). -/
def State.arrayIdle (s : State) (core : Nat) : Bool :=
  s.companies.all (fun k => k.core != core || k.state != .running || k.ops.all (fun o => !o.onArray))

/-- Operations that stood at a boundary go on with their next step. -/
def State.goOn (s : State) (ps : List (Company × MxOp)) : State :=
  ps.foldl (fun s p => s.setCompany (p.1.modOp p.2.uid (fun o =>
    { o with paused := false, charged := 0, due := s.vtTicks p.1.ctx + stepCycles o * s.arithTicks p.1.core }))) s

/-- `matrix_op_start` (R186, R192, R201, R202, R204). A gathered operation starts on the free array; one that stands at a boundary
goes on once no company of its group stops and the array is idle. -/
def execMatrixOpStart (s : State) : Out :=
  match s.actor? s.arg.a with
  | none => .next s
  | some c =>
    match c.ops.find? (fun o => o.uid == s.arg.b) with
    | none => .next s
    | some o =>
      if o.started then
        match s.party c o (fun d q => q.started && q.paused && s.arrayIdle d.core && !s.stops d) with
        | none => .next s
        | some ps => .next (s.goOn ps)
      else
        match s.party c o (fun d q => d.canStart q && s.arrayFree d.core && !s.stops d) with
        | none => .next (s.noteReady c o)
        | some ps => .next (ps.foldl (fun t p => t.settleCompany p.1.uid) (s.startParty ps))

/-! ## Steps on the array (R193 to R197, R203 to R205) -/

/-- One output of a K-step (R193): a single rounding of the exact sum. -/
def kOutput (acc : Word) (a b : List Val) (sa sb : Nat) : Word :=
  rneFp32 (dotSum .rne (fp32.value acc.toNat) (a.zip b) sa sb)

/-- Values of the 32 elements of K-step `k` in row `i` of an operand, and its scale. -/
def operandRow (p : Company × Tile) (k i : Nat) : List Val :=
  (List.range 32).map (fun x => codeValue p.2.format (p.1.element p.2 i (32 * k + x)))
def operandScale (p : Company × Tile) (sc : Bool) (k i : Nat) : Nat :=
  if sc then (p.1.score.read (scaleAt p.2 i k)).toNat else 127

/-- The region after K-step `k`: every output is updated once. -/
def productStep (acc : List (Nat × Word)) (base : Nat) (o : MxOp) (pa pb : Company × Tile) (k : Nat) : List (Nat × Word) :=
  let n := shapeN o.shape
  let bs := (List.range n).map (fun j => (operandRow pb k j, operandScale pb o.sc k j))
  (List.range (shapeM o.shape)).foldl (fun acc i =>
    let a := operandRow pa k i
    let sa := operandScale pa o.sc k i
    ((List.range n).zip bs).foldl (fun acc jb =>
      let x := accIndex base n i jb.1
      accWrite acc x (kOutput (accRead acc x) a jb.2.1 sa jb.2.2)) acc) acc

/-- Whether the reads of a K-step of an operand consume poison (R205). -/
def operandPoisoned (p : Company × Tile) (sc : Bool) (k rows : Nat) : Bool :=
  let w := formatBits p.2.format
  (List.range rows).any (fun i =>
    poisoned p.1.stagePoison (p.2.bitAt i (32 * k) / 8) (4 * w) || (sc && poisoned p.1.scorePoison (scaleAt p.2 i k) 1))

/-- Row and column of output `x` of block `q` of a region of N columns. -/
def blockCell (n q x : Nat) : Nat × Nat := (q / (n / 16) * 16 + x / 16, q % (n / 16) * 16 + x % 16)

/-- One block of `mx.put` (R196) and of `mx.get` (R197), and up to four of `mx.zero` (R195). -/
def Company.putBlock (c : Company) (o : MxOp) (base q : Nat) : Company :=
  match c.tile? o.tileA with
  | none => c
  | some t =>
    let n := shapeN o.shape
    { c with acc := (List.range 256).foldl (fun acc x =>
        let ij := blockCell n q x
        accWrite acc (accIndex base n ij.1 ij.2) (rneFp32 (codeValue t.format (c.element t ij.1 ij.2)))) c.acc }
def Company.getBlock (c : Company) (o : MxOp) (base q : Nat) : Company :=
  match c.tile? o.tileA with
  | none => c
  | some t =>
    let n := shapeN o.shape
    let sat := fmtSat (o.fmt.setWidth 16)
    { c with stage := (List.range 256).foldl (fun m x =>
        let ij := blockCell n q x
        m.writeBits (t.bitAt ij.1 ij.2) (formatBits t.format)
          (convertTo t.format .rne sat (fp32.value (accRead c.acc (accIndex base n ij.1 ij.2)).toNat))) c.stage }
def Company.zeroBlocks (c : Company) (o : MxOp) (base k : Nat) : Company :=
  let blocks := shapeM o.shape / 16 * (shapeN o.shape / 16)
  let lo := (base + 4 * k) * 256
  let hi := (base + Nat.min (4 * k + 4) blocks) * 256
  { c with acc := c.acc.filter (fun a => decide (a.1 < lo) || decide (hi ≤ a.1)) }

/-- The marks of poison that the granules lose which the rows of a filled tile cover between them (R348). -/
def Company.cleanTile (c : Company) (n : Nat) : Company :=
  match c.tile? n with
  | none => c
  | some t =>
    let rows := (List.range t.rows).map (fun i => (t.bitAt i 0 / 8, t.cols * formatBits t.format / 8))
    { c with stagePoison := c.stagePoison.filter (fun g => !covered rows g) }

/-- The granules of the pit that a step reads as accumulators (R348). -/
def Company.pitReads (c : Company) (o : MxOp) : List Nat :=
  let base := ((c.region? o.region).map (·.base)).getD 0
  let block (q : Nat) : List Nat := (List.range 32).map (32 * (base + q) + ·)
  match o.kind with
  | .mma | .spr => (List.range (shapeM o.shape / 16 * (shapeN o.shape / 16))).flatMap block
  | .get => block o.next
  | _ => []

/-- The blocks of the pit that a step writes whole, whose granules lose their marks of poison. -/
def Company.pitWrites (c : Company) (o : MxOp) : List Nat :=
  let base := ((c.region? o.region).map (·.base)).getD 0
  match o.kind with
  | .zero => ((List.range 4).map (4 * o.next + ·)).filterMap (fun q =>
      if q < shapeM o.shape / 16 * (shapeN o.shape / 16) then some (base + q) else none)
  | .put => [base + o.next]
  | _ => []

/-- The operation's effect in its step under way. -/
def Company.performStep (c : Company) (ps : List (Company × MxOp)) (o : MxOp) : Company :=
  let base := ((c.region? o.region).map (·.base)).getD 0
  let c := { c with accPoison := c.accPoison.filter (fun g => !(c.pitWrites o).contains (g / 32)) }
  match o.kind with
  | .zero => c.zeroBlocks o base o.next
  | .put => c.putBlock o base o.next
  | .get => c.getBlock o base o.next
  | _ =>
    match operandA ps c, operandB ps c with
    | some a, some b => { c with acc := productStep c.acc base o a b o.next }
    | _, _ => c

/-- What the array computes of a step: its upsets spoil the region (R205). -/
def Company.spoil (c : Company) (o : MxOp) : Company :=
  let base := ((c.region? o.region).map (·.base)).getD 0
  let n := shapeN o.shape
  { c with acc := c.mxUpset.foldl (fun acc u => let x := accIndex base n u.1 u.2.1; accWrite acc x (accRead acc x ^^^ u.2.2)) c.acc, mxUpset := [] }

/-- The lowest column in which the understudy finds a mismatch in K-step `k` (R205): of each block it checks the column k mod 16.
`c` holds the right values. -/
def Company.upsetColumn (c : Company) (o : MxOp) : Option Nat :=
  let base := ((c.region? o.region).map (·.base)).getD 0
  let n := shapeN o.shape
  least ((c.mxUpset.filter (fun u =>
    let r := (accRead c.acc (accIndex base n u.1 u.2.1)).toNat
    decide (u.1 < shapeM o.shape) && decide (u.2.1 < n) && u.2.1 % 16 == o.next % 16 && fp32.differs r (r ^^^ u.2.2.toNat))).map (·.2.1))

/-- Whether a step reads a poisoned operand, which halts every member of the operation's ensemble (R205). -/
def stepPoisoned (c : Company) (ps : List (Company × MxOp)) (o : MxOp) : Bool :=
  if (c.pitReads o).any c.accPoison.contains then true
  else if o.isProduct then
    match operandA ps c, operandB ps c with
    | some a, some b => operandPoisoned a o.sc o.next (shapeM o.shape) || operandPoisoned b o.sc o.next (shapeN o.shape)
    | _, _ => false
  else o.kind == .put && (c.tile? o.tileA).any (fun t =>
      let q := blockCell (shapeN o.shape) o.next 0
      (List.range 16).any (fun i => poisoned c.stagePoison (t.bitAt (q.1 + i) q.2 / 8) (2 * formatBits t.format)))

/-- Halts the members of an ensemble with a cause and `tval`, each with the address of its instruction (R205). -/
def State.haltMembers (s : State) (c : Company) (o : MxOp) (cause : Nat) (tval : Word) : State :=
  o.issued.foldl (fun s m => s.haltFor c.uid m.1 cause m.2 tval) s

/-- The array of a core has left an operation at a `vt` (R201). -/
def State.arrayLeft (s : State) (core vt : Nat) : State := s.setCore { s.core core with arrayAt := vt }

/-- The end of a step that `c` has performed: the next step begins, and after the last one the operation has finished and its
reservations end (R199). An operation whose member has halted stops here (R187), and one of whose group a company is being stopped waits
here (R204, R340). -/
def State.endStep (s : State) (c : Company) (ps : List (Company × MxOp)) (o : MxOp) : State :=
  if o.stopping then (s.setCompany (c.dropOp o)).arrayLeft c.core o.due
  else if stepCount ps c o ≤ o.next + 1 then
    let c := o.reserved.foldl (fun c t => c.unreadTile t) c
    (s.setCompany (c.modOp o.uid (fun o => { o with next := o.next + 1, finished := true, reserved := [], charged := 0 }))).arrayLeft c.core o.due
  else
    let stop := ps.any (fun p => s.stops p.1)
    s.setCompany (c.modOp o.uid (fun o =>
      { o with next := o.next + 1, due := o.due + stepCycles o * s.arithTicks c.core, charged := 0, paused := stop }))

/-- An operation stops for an error in its step: the region keeps the values of the boundary before, and the members halt (R205). -/
def State.breakStep (s : State) (c : Company) (o : MxOp) (cause : Nat) (tval : Word) : State :=
  ((s.setCompany (c.dropOp o)).arrayLeft c.core o.due).haltMembers c o cause tval

/-- One member's part of a step, whose cycles are charged (R154, R194). -/
def State.stepMember (s : State) (ps : List (Company × MxOp)) (p : Company × MxOp) : State :=
  match s.company? p.1.uid with
  | none => s
  | some c =>
    let o := p.2
    let s := if o.isProduct then s.charge (clusterOf c.core) (96 * (stepCycles o - o.charged)) else s
    if stepPoisoned c ps o then s.breakStep c o 0x10 0xFFFFFFFF
    else
      let d := c.performStep ps o
      if !o.isProduct then s.endStep d ps o
      else
        match d.upsetColumn o with
        | some j => s.breakStep { c with mxUpset := [] } o 0x0F (0x80000000 + BitVec.ofNat 32 j)
        | none => s.endStep (d.spoil o) ps o

/-- `matrix_k_step` (R193, R195 to R197, R204). A K-step, or a move of blocks, completes. -/
def execMatrixKStep (s : State) : Out :=
  match s.actor? s.arg.a with
  | none => .next s
  | some c =>
    match c.ops.find? (fun o => o.uid == s.arg.b) with
    | none => .next s
    | some o =>
      match s.stepParty c o with
      | none => .next (if o.stopping && stepDue (s.vtTicks c.ctx) o then (s.setCompany (c.dropOp o)).arrayLeft c.core o.due else s)
      | some ps => .next (ps.foldl (fun t p => t.settleCompany p.1.uid) (ps.foldl (fun t p => t.stepMember ps p) s))

/-- `matrix_op_complete` (R201). The last write of an operation is done: a filled tile becomes ready (R197). -/
def execMatrixOpComplete (s : State) : Out :=
  match s.actor? s.arg.a with
  | none => .next s
  | some c =>
    match c.ops.find? (fun o => o.uid == s.arg.b && o.finished) with
    | none => .next s
    | some o =>
      let d := c.removeOp o
      let d := if o.kind == .get then (d.cleanTile o.tileA).fillDone o.tileA else d
      .next ((s.setCompany d).settleCompany c.uid)

end Sys2Proof.Machine
end

