-- ==== Sys2Proof/Machine/Fetch.lean ====
section
/-!
DEFINITION. Fetching instructions from the code image, the decode of a whole chain before its first member issues, and
what the core's scheduler asks of a chorus's next issue (R22, R28, R44, R47, R147).
-/
namespace Sys2Proof.Machine

/-- The byte of the code image at an offset; past its length the spec gives none, and it comes from `w` (log 5). -/
def Company.codeByte (c : Company) (w : BitVec 64) (a k : Nat) : Byte :=
  if a + k < c.playbill.codeLength then c.code.read (a + k) else w.extractLsb' (8 * k) 8

/-- The instruction at a byte offset: bit 0 of its first halfword gives its length (R28). -/
def Company.instrAt (c : Company) (w : BitVec 64) (pc : Nat) : Instr :=
  match decodeBytes [c.codeByte w pc 0, c.codeByte w pc 1, c.codeByte w pc 2, c.codeByte w pc 3] with
  | .ok (i, _) => i
  | .error _ => .reservedEncoding 0

/-- Whether an address lies inside a pool extent. -/
def inPool (pools : List (Nat × Nat)) (a : Nat) : Bool := pools.any (fun p => decide (p.1 ≤ a) && decide (a < p.1 + 4 * p.2))

/-- The first halfword that a fetch of `len` bytes takes from inside an extent (R47). -/
def poolFetch (pools : List (Nat × Nat)) (pc len : Nat) : Option Nat :=
  if inPool pools pc then some pc else if len = 4 && inPool pools (pc + 2) then some (pc + 2) else none

/-- The instructions of the chain that starts at `pc`, the one after its last member included when it may not follow
(R22): offset and instruction. -/
def chainFrom (c : Company) (w : BitVec 64) (start pc fuel : Nat) : List (Nat × Instr) :=
  match fuel with
  | 0 => []
  | n + 1 =>
    let i := c.instrAt w pc
    (pc - start, i) :: (if chBit i && (chainable i || pc == start) then chainFrom c w start (pc + (encode i).length) n else [])

/-- The place of a cause in the order of R49, well overflow last (R22). -/
def causeRank (c : Nat) : Nat :=
  match c with
  | 0x05 => 0
  | 0x04 => 1
  | 0x01 => 2
  | 0x0B => 3
  | 0x03 => 4
  | 0x02 => 5
  | _ => 6

/-- The first cause of member `k` of a chain that starts at `start`. -/
def memberCause (x : Site) (start k : Nat) (m : Nat × Instr) : Option (Nat × Word) :=
  match poolFetch x.co.playbill.pools (start + m.1) (encode m.2).length with
  | some a => some (0x05, BitVec.ofNat 32 a)
  | none =>
    match causeAt x.sp.fmt x.co.ctx x.co.playbill.pools (start + m.1) m.2 (some k) (BitVec.ofNat 32 m.1) (decide (0 < k)) with
    | some c => some c
    | none => (x.overflowRow (regsNamed x m.2)).map (fun r => (0x07, BitVec.ofNat 32 r))

/-- The cause that is reported among those of members in address order: the first in rank, then the first in address. -/
def bestCause : List (Option (Nat × Word)) → Option (Nat × Word)
  | [] => none
  | none :: r => bestCause r
  | some a :: r =>
    match bestCause r with
    | some b => if causeRank b.1 < causeRank a.1 then some b else some a
    | none => some a

/-- What the fetch at a split's PC gives. -/
inductive Fetched where
  /-- An instruction to execute. -/
  | run (i : Instr)
  /-- A trap before it, or before its whole chain. -/
  | trap (cause : Nat) (tval : Word)
  /-- What the chain waits for: rows that are not resident, or data of loads. -/
  | wait (w : Wait) (st : SplitState)

/-- Numbers each element of a list. -/
def numbered {α : Type} (k : Nat) : List α → List (Nat × α)
  | [] => []
  | a :: r => (k, a) :: numbered (k + 1) r

/-- The rows that a chain needs: the hull of its members' ranges. -/
def chainRows (x : Site) (ms : List (Nat × Instr)) : Nat × Nat :=
  (x.sp.needed.1, ms.foldl (fun h m => Nat.max h (x.neededBy (regsNamed x m.2)).2) x.sp.needed.2)

/-- Fetches at the split's PC: inside a chain its members are decoded already; before member 0 the whole chain is
(R22); alone, an instruction is fetched and checked for pool fetch, and its other causes are its own. -/
def fetch (x : Site) (w : BitVec 64) : Fetched :=
  let pc := x.sp.pc.toNat
  let i := x.co.instrAt w pc
  if x.ch.chain.isSome then .run i
  else if chBit i then
    let ms := chainFrom x.co w pc pc 5
    match bestCause ((numbered 0 ms).map (fun m => memberCause x pc m.1 m.2)) with
    | some c => .trap c.1 c.2
    | none =>
      let r := chainRows x ms
      if x.ch.resident r then
        let us := (ms.flatMap (fun m => x.loading m.2)).eraseDups
        if us.isEmpty then .run i else .wait (.data us) .waitMemory
      else .wait (.window r.1 r.2) .waitWindow
  else
    match poolFetch x.co.playbill.pools pc (encode i).length with
    | some a => .trap 0x05 (BitVec.ofNat 32 a)
    | none => .run i

/-! ## The next issue of a chorus (R147, R151, R152) -/

/-- The members of a chorus's next issue: one instruction, or the rest of a chain. -/
def nextMembers (c : Company) (h : Chorus) (w : BitVec 64) : List Instr :=
  match h.splits.find? (fun p => p.state == .running) with
  | none => []
  | some p => (chainFrom c w p.pc.toNat p.pc.toNat 4).map (·.2)

/-- The class of the next issue: the highest among its members. -/
def nextClass (c : Company) (h : Chorus) (w : BitVec 64) : TClass := (nextMembers c h w).foldl (fun k i => k.max (timing i).1) .t0

/-- The charge of the next issue. -/
def nextCharge (c : Company) (h : Chorus) (w : BitVec 64) : Nat :=
  match h.splits.find? (fun p => p.state == .running) with
  | none => 0
  | some p => total ((nextMembers c h w).map (fun i => (timing i).2)) * popcount (p.xm &&& p.members &&& ~~~h.exited)

end Sys2Proof.Machine
end

