-- ==== Sys2Proof/Machine/Cores.lean ====
section
/-!
DEFINITION. The core's own steps: the split table, the register-window pump, the band arbiter, current control and drowsy
banks (R17, R24, R121, R123, R131 to R136, R150 to R157).
-/
namespace Sys2Proof.Machine

/-- A step of a chorus of an acting company. -/
def onChorus (s : State) (u ch : Nat) (k : Company → Chorus → State) : Out :=
  match s.actor? u with
  | none => .next s
  | some c =>
    match c.chorus? ch with
    | none => .next s
    | some h => if h.halted.isSome || h.ended then .next s else .next (k c h)

/-! ## Splits (R17, R121, R123) -/

/-- The split with the given members. -/
def Chorus.splitOf (h : Chorus) (m : BitVec 64) : Option Split := h.splits.find? (fun p => p.members == m.setWidth 32)

/-- Whether the whole merge set of a split has arrived. -/
def Chorus.setArrived (h : Chorus) (p : Split) : Bool := h.splits.all (fun q => !q.sameJoin p || q.isArrived)

/-- A spilled entry comes back on chip. Another is spilled in its place when the table is full, by the order of R17,
unless its merge set is complete and leaves the table at once. -/
def Chorus.refill (h : Chorus) (p : Split) : Chorus :=
  let back := updWhere (fun (q : Split) => q.members == p.members) (fun q => { q with spilled := false, owed := false }) h.splits
  let full := decide (onChip < (back.filter (fun q => !q.spilled)).length) && !(p.isArrived && h.setArrived p)
  let others := back.filter (fun q => q.members != p.members)
  let victim :=
    (highestSplit (fun q => q.isArrived && !q.spilled) others).orElse
      (fun _ => highestSplit (fun q => !q.spilled && q.state != .running) others)
  match (if full then victim else none) with
  | none => { h with splits := back }
  | some v => { h with splits := spillEntry v.members back }

/-- `rcv_t_timeout` (R123). A deadline has passed: the arrived splits of its merge set merge among themselves. -/
def execRcvTTimeout (s : State) : Out :=
  onChorus s s.arg.a s.arg.b (fun c h =>
    match h.splitOf s.arg.v with
    | some p =>
      match p.wait with
      | .joinT d _ =>
        if d ≤ s.deadlineVt c then
          (s.setCompany (c.setChorus (h.mergeSet p 0xFFFFFFFF).reconverge)).endChorus c.uid h.index
        else s
      | _ => s
    | none => s)

/-- The state code of a split (R17). -/
def SplitState.code : SplitState → Nat
  | .ready => 0
  | .running => 1
  | .waitMemory => 2
  | .waitWindow => 3
  | .arrived => 4
  | .waitEvent => 5

/-- The image of a split-table entry (R17). -/
def Split.image (p : Split) : List Byte :=
  bytesLE 4 0 ++ bytesLE 4 p.members.toNat ++ bytesLE 4 p.xm.toNat ++ bytesLE 4 p.wb ++ bytesLE 4 p.pc.toNat ++ bytesLE 4 p.joinPc.toNat ++
    bytesLE 4 (16 * p.state.code + 256 * p.mem + 65536 * (p.fmt.toNat % 65536)) ++ bytesLE 4 (p.depth % 65536)

/-- Consecutive issues after which another ready split gets its turn. -/
def issueLimit : Nat := 256

/-- The oldest access of a chorus must complete now: the bound of 2 µs would pass within the longest cycle of a core (R24). -/
def Chorus.accessDue (h : Chorus) (now : Nat) : Bool := h.inflight.head?.any (fun f => decide (f.since + 2000 * ticksPerNs ≤ now + longestCycle))

/-- `lane_access_complete` (R24). The oldest access in flight has completed in its last lane: at any moment, or where the operand
says so when its bound has come. -/
def execLaneAccessComplete (s : State) : Out :=
  match s.company? s.arg.a with
  | none => .next s
  | some c =>
    if s.arg.c = 1 && !(c.chorus? s.arg.b).any (fun h => h.accessDue s.now) then .next s
    else .next ((s.setCompany (c.endAccess s.arg.b)).settleCompany c.uid)

/-! ## The pump (R132 to R136) -/

/-- A finished move: the ring holds its rows, and the waits for them end. -/
def Chorus.endMove (h : Chorus) (m : PumpMove) : Chorus :=
  { h with
    low := m.low2, high := m.high2, top := Nat.max h.top m.high2, pump := none
    served := h.requests.head?.bind (fun k => (h.asksFor k).map (fun r => (k, r))), requests := h.requests.drop 1 }

/-- A move begins at a stage time: rows on their way are not resident, and a split that needs one is not ready. -/
def Chorus.beginMove (h : Chorus) (m : PumpMove) (now : Nat) : Chorus :=
  if m.spill.isEmpty && m.fill.isEmpty then h.endMove m
  else ({ h with low := Nat.max h.low m.low2, high := Nat.min h.high m.high2, pump := some { m with since := now } }).windowed

/-- Starts the oldest request that still waits, where the pump may serve it; requests of splits that wait no longer are dropped. -/
def Chorus.serve (h : Chorus) (now : Nat) : Chorus :=
  let h := { h with requests := h.requests.filter (fun m => (h.asksFor m).isSome) }
  match h.request? with
  | none => h
  | some r => if h.mayServe r then h.beginMove (h.moveFor (h.servedRange r)) now else h

/-- The split that runs makes room: the pump serves the oldest request, and a split is chosen afresh (R121, R134, log 89). -/
def Chorus.makeRoom (h : Chorus) (now : Nat) : Chorus := (h.putBack.serve now).choose

/-- `pump_serve_request` (R132). The pump serves the oldest request for rows; the rows of a chain under way stay (R126). -/
def execPumpServeRequest (s : State) : Out :=
  onChorus s s.arg.a s.arg.b (fun c h =>
    if h.pump.isSome || h.chain.isSome || s.stops c then s else (s.setCompany (c.setChorus (h.serve s.now))).settleCompany c.uid)

/-- `split_reschedule` (R121, R134). After 256 consecutive issues with another split ready, a split is chosen afresh; with none ready and
a request that waits for the rows of this one, it makes room (log 89). -/
def execSplitReschedule (s : State) : Out :=
  onChorus s s.arg.a s.arg.b (fun c h =>
    if h.chain.isNone && h.splits.any (fun p => p.state == .running && decide (issueLimit ≤ p.issues)) then
      if h.splits.any h.canRun then s.setCompany (c.setChorus h.rechoose)
      else if h.crowded && !s.stops c then (s.setCompany (c.setChorus (h.makeRoom s.now))).settleCompany c.uid
      else s
    else s)

/-- The virtual address of an absolute row in the well (R23). -/
def rowAddress (c : Company) (h : Chorus) (row : Nat) : Nat :=
  h.wellBase.toNat + wellLocal + c.playbill.localSize + 128 * row

/-- The bytes of a ring row, and a row from bytes. -/
def rowBytes (l : Lanes) : List Byte := laneIds.flatMap (fun k => bytesLE 4 (l.at k).toNat)
def lanesOf (bs : List Byte) : Lanes := Lanes.ofFn (fun l => BitVec.ofNat 32 (ofBytesLE ((bs.drop (4 * l)).take 4)))

/-- A row of the ring, and one replaced. -/
def Chorus.ringRow (h : Chorus) (row : Nat) : Lanes := h.ring.getD (row % h.ring.length) Lanes.zero
def Chorus.setRing (h : Chorus) (row : Nat) (l : Lanes) : Chorus :=
  { h with
    ring := updAt h.ring (row % h.ring.length) (fun _ => l)
    poison := h.poison.filter (fun q => q.1 != 16 + row % h.ring.length) }

/-- Whether a granule of a ring row is poisoned. -/
def Chorus.rowPoisoned (h : Chorus) (row g : Nat) : Bool := h.poison.contains (16 + row % h.ring.length, g)

/-- Writes a row to its place in memory; the marks of poison go with it. -/
def State.spillRow (s : State) (ctx : Nat) (tag : BitVec 16) (loc : Nat) (h : Chorus) (row : Nat) : State :=
  (List.range 4).foldl (fun s g =>
    s.writeMem ctx tag false (loc + 32 * g) (((rowBytes (h.ringRow row)).drop (32 * g)).take 32) (h.rowPoisoned row g)) s

/-- The chorus halts for a failure of the pump in its work for a split: the trap goes to the scheduler, with the address of
that split (R135). -/
def State.pumpStop (s : State) (c : Company) (h : Chorus) (p : Split) (cause : Nat) (tval : Word) : State :=
  s.takeTrap { co := c, ch := { h with pump := none }, sp := p } cause p.pc tval true

/-- A failure in the move of rows: the split that asked for them has it. -/
def State.pumpFail (s : State) (c : Company) (h : Chorus) (cause : Nat) (tval : Word) : State :=
  let asked := (h.requests.head?.bind (fun m => h.splits.find? (fun p => p.members == m))).orElse (fun _ => h.splits.head?)
  match asked with
  | none => s
  | some p => s.pumpStop c h p cause tval

/-- The company is saved for a page that the pump lacks, and the transfer is repeated afterwards (R135). -/
def State.pumpAbsent (s : State) (c : Company) (h : Chorus) (stage : Nat) (page : PageRef) (acc : Access) : State :=
  let s := s.setCompany (c.setChorus { h with pump := h.pump.map (fun m => { m with moving := false }) })
  (s.pageRequest c.ctx stage page acc (.pump c.uid h.index)).saveForFault c.uid

/-- The chorus after one row of a move: the next transfer starts, unless the company is being stopped (R340). -/
def State.pumped (s : State) (c : Company) (h : Chorus) (m : PumpMove) : State :=
  let h := if m.spill.isEmpty && m.fill.isEmpty then h.endMove m else { h with pump := some { m with moving := !s.stops c, since := s.now } }
  (s.setCompany (c.setChorus h)).settleCompany c.uid

/-- Spills one row. A row into which a load is still to write waits (R133). -/
def State.pumpSpill (s : State) (c : Company) (h : Chorus) (m : PumpMove) (row : Nat) : State :=
  if h.inflight.any (fun f => f.rows.contains row) then s
  else
    match s.translate c.core c.ctx (rowAddress c h row) .write with
    | (.bad, s) => s.pumpFail c h 0x0C (faultWord (rowAddress c h row))
    | (.absent k p, s) => s.pumpAbsent c h k p .write
    | (.ok e, s) =>
      if e.plain then (s.spillRow c.ctx e.tag (e.at_ (rowAddress c h row)) h row).pumped c h { m with spill := m.spill.drop 1 }
      else s.pumpFail c h 0x0C (faultWord (rowAddress c h row))

/-- Fills one row: zeros when it has never been resident, else its bytes. Where another agent has written them since the
spill, R136 lets each column hold the spilled value or one of those written: the model takes the last bytes written (log 77). -/
def State.pumpFill (s : State) (c : Company) (h : Chorus) (m : PumpMove) (row : Nat) : State :=
  let m' := { m with fill := m.fill.drop 1 }
  if h.top ≤ row then s.pumped c (h.setRing row Lanes.zero) m'
  else
    match s.translate c.core c.ctx (rowAddress c h row) .read with
    | (.bad, s) => s.pumpFail c h 0x0C (faultWord (rowAddress c h row))
    | (.absent k p, s) => s.pumpAbsent c h k p .read
    | (.ok e, s) =>
      let loc := e.at_ (rowAddress c h row)
      if !s.mayUse e .read loc 128 then s.pumpFail c h 0x0C (faultWord (rowAddress c h row))
      else
        match (List.range 4).find? (fun g => poisoned s.memPoison (loc + 32 * g) 32) with
        | some g => s.pumpFail c h 0x10 (laneWord (8 * g))
        | none =>
          let r := s.readBytes c.ctx loc 128
          (r.2.touchLines loc 128 c.ctx e.tag false false).pumped c (h.setRing row (lanesOf r.1)) m'

/-- The virtual address of an entry's place in the split area (R23). -/
def placeAddress (h : Chorus) (p : Split) : Nat := h.wellBase.toNat + 32 * p.place

/-- Writes the image of a spilled entry to its place in the split area (R17, R23). -/
def State.spillImage (s : State) (c : Company) (h : Chorus) (p : Split) : State :=
  let va := placeAddress h p
  match s.translate c.core c.ctx va .write with
  | (.bad, s) => s.pumpStop c h p 0x0C (faultWord va)
  | (.absent k q, s) => s.pumpAbsent c h k q .write
  | (.ok e, s) =>
    if e.plain then (s.writeMem c.ctx e.tag false (e.at_ va) p.image false).setCompany (c.setChorus (h.setSplit { p with owed := false }))
    else s.pumpStop c h p 0x0C (faultWord va)

/-- Reads the image of a spilled entry back from its place. Of the values that R136 allows for its columns when another agent
has written there, the model takes the spilled ones, which `p` still holds (log 62). -/
def State.refillImage (s : State) (c : Company) (h : Chorus) (p : Split) : State :=
  let va := placeAddress h p
  match s.translate c.core c.ctx va .read with
  | (.bad, s) => s.pumpStop c h p 0x0C (faultWord va)
  | (.absent k q, s) => s.pumpAbsent c h k q .read
  | (.ok e, s) =>
    if !s.mayUse e .read (e.at_ va) 32 then s.pumpStop c h p 0x0C (faultWord va)
    else if poisoned s.memPoison (e.at_ va) 32 then s.pumpStop c h p 0x10 (laneWord ((lowest p.members).getD 0))
    else (((s.readBytes c.ctx (e.at_ va) 32).2.touchLines (e.at_ va) 32 c.ctx e.tag false false).setCompany (c.setChorus (h.refill p).reconverge)).settleCompany c.uid

/-- `split_entry_refill` (R17). The pump refills a spilled entry, once its spill is complete (R136). -/
def execSplitEntryRefill (s : State) : Out :=
  onChorus s s.arg.a s.arg.b (fun c h =>
    match h.splitOf s.arg.v with
    | some p => if p.spilled && !p.owed && !s.stops c then s.refillImage c h p else s
    | none => s)

/-- A transfer of a ring row, which first wakes its bank (R157). -/
def State.touchRow (s : State) (c : Company) (h : Chorus) (row : Nat) (go : State) : State :=
  let b := s.bankOf c h (16 + row % h.ring.length)
  if (s.core c.core).awake b then go else s.setCore ((s.core c.core).wake b)

/-- `pump_row_transfer_done` (R133). The image of a spilled entry is written to the well (R17), or one row of the pump's move
is written there or filled. A move that a stop interrupted begins its next row. -/
def execPumpRowTransferDone (s : State) : Out :=
  onChorus s s.arg.a s.arg.b (fun c h =>
    match h.splits.find? (fun p => p.spilled && p.owed) with
    | some p => s.spillImage c h p
    | none =>
      match h.pump with
      | none => s
      | some m =>
        if !m.moving then (if s.stops c then s else s.setCompany (c.setChorus { h with pump := some { m with moving := true, since := s.now } }))
        else
          match m.spill with
          | row :: _ => s.touchRow c h row (s.pumpSpill c h m row)
          | [] =>
            match m.fill with
            | row :: _ => s.touchRow c h row (s.pumpFill c h m row)
            | [] => s.pumped c h m)

/-! ## The band arbiter (R150, R151) -/

/-- The ready choruses of a core, each with its company. -/
def State.readyOn (s : State) (core : Nat) : List (Company × Chorus) :=
  (s.companies.filter (fun k => k.core == core && s.acts k)).flatMap (fun k => (k.choruses.filter Chorus.isReady).map (fun h => (k, h)))

/-- What the spec leaves open of a fetch beyond the image, as the scheduler sees it. -/
def State.peek (s : State) : BitVec 64 := Config.freeWord s.free

/-- The number of bays that hold a ready chorus whose next issue has class at most `k`. -/
def State.baysUpTo (s : State) (core k : Nat) : Nat :=
  ((List.range 4).filter (fun b => (s.readyOn core).any (fun p => p.2.slot / 24 == b && decide ((nextClass p.1 p.2 s.peek).num ≤ k)))).length

/-- The band of a new window. -/
def State.bandFor (s : State) (core : Nat) : Nat :=
  ((List.range 4).find? (fun k => decide (3 ≤ s.baysUpTo core k))).getD 3

/-- The class to which a waiting chorus raises the band. -/
def State.bandRaiseTo (s : State) (core : Nat) : Option Nat :=
  let cs := ((s.readyOn core).filter (fun p => decide (32 ≤ p.2.bandWait))).map (fun p => (nextClass p.1 p.2 s.peek).num)
  let up := cs.filter (fun k => decide ((s.core core).band < k))
  if up.isEmpty then none else some (up.foldl Nat.max 0)

/-- The end of a window: the waits of choruses whose next issue its band admitted begin anew, and a window of the new
band begins. -/
def State.newWindow (s : State) (core band : Nat) : State :=
  let old := (s.core core).band
  let w := s.peek
  let restart (k : Company) (h : Chorus) : Chorus := if (nextClass k h w).num ≤ old then { h with bandWait := 0 } else h
  let f (k : Company) : Company := if k.core == core then { k with choruses := k.choruses.map (restart k) } else k
  let s := { s with companies := s.companies.map f }
  s.setCore { s.core core with band := band, bandCycle := 0 }

/-- `band_window` (R150). At the end of 8 core cycles the arbiter sets the band; a raise at the same time wins. -/
def execBandWindow (s : State) : Out :=
  let n := s.arg.a
  if (s.core n).bandCycle < 8 then .next s
  else .next (s.newWindow n ((s.bandRaiseTo n).getD (s.bandFor n)))

/-- `band_raise` (R151). A band wait of 32 raises the band, and a new window starts. -/
def execBandRaise (s : State) : Out :=
  match s.bandRaiseTo s.arg.a with
  | none => .next s
  | some k => .next (s.newWindow s.arg.a k)

/-! ## Current control (R154 to R156) -/

/-- Arithmetic cycles of a current window. -/
def windowCycles : Nat := 64

/-- The ticks of a cluster's current window. -/
def State.windowTicks (s : State) (cluster : Nat) : Nat := windowCycles * s.arithTicks (8 * cluster)

/-- Arithmetic cycles of a K-step under way that have passed by stage time `t` and are not charged. -/
def State.cyclesUncharged (s : State) (c : Company) (o : MxOp) (t : Nat) : Nat :=
  stepCycles o - ceilDiv (o.due - (s.vtTicks c.ctx - (s.now - t))) (s.arithTicks c.core) - o.charged

/-- Charges the cycles that a product has spent in its step up to stage time `t`. -/
def State.chargeOp (s : State) (c : Company) (o : MxOp) (t : Nat) : State :=
  let n := s.cyclesUncharged c o t
  (s.charge (clusterOf c.core) (96 * n)).modCompany c.uid (fun d => d.modOp o.uid (fun p => { p with charged := p.charged + n }))

/-- Charges the cycles that the arrays of a cluster have spent up to stage time `t` (R154, R194). -/
def State.chargeArrays (s : State) (cluster t : Nat) : State :=
  let here := s.companies.filter (fun k => clusterOf k.core == cluster && s.acts k)
  here.foldl (fun s c => (c.ops.filter (fun o => o.onArray && o.isProduct)).foldl (fun s o => s.chargeOp c o t) s) s

/-- The stall ratio of R156 as a fraction. -/
def stallRatio (d lm : Nat) : Nat × Nat := if d ≤ 2 * (d - lm) then (1, 2) else (d - lm, d)

/-- The end of a current window, which lay as far back as the next one has run: the record is drawn, the limit takes its new value, and the conditions and the stall
ratio of every core follow. -/
def State.endWindow (s : State) (cluster : Nat) : State :=
  let t := s.windowTicks cluster
  let s := s.chargeArrays cluster (s.now - ((s.cluster cluster).windowAt - t))
  let s := s.modCluster cluster (fun c =>
    let lm := c.newLimit.getD c.limit
    { c with
      draw := c.record, record := 0, limit := lm, newLimit := none, windowAt := c.windowAt - t
      nearLimit := lm != 0 && decide (3 * lm < 4 * c.record)
      overLimit := lm != 0 && decide (lm < c.record) })
  let c := s.cluster cluster
  let r : Nat × Nat := if c.overLimit then stallRatio c.draw c.limit else (0, 1)
  (List.range 8).foldl (fun s k =>
    s.setCore { s.core (8 * cluster + k) with credit := 0, ratio := r.1, ratioDen := r.2 }) s

/-- `current_window_boundary` (R155). -/
def execCurrentWindowBoundary (s : State) : Out :=
  if (s.cluster s.arg.a).windowAt < s.windowTicks s.arg.a then .next s else .next (s.endWindow s.arg.a)

/-- Whether a core is to stall the cycle that begins (R156). -/
def State.stallDue (s : State) (core : Nat) : Bool :=
  let c := s.core core
  (s.cluster (clusterOf core)).overLimit && c.bay == 0 && decide (c.ratioDen ≤ c.credit) && !c.stalled && !c.mid

/-- `stall_cycle` (R156). A core cycle passes in which no bay issues. -/
def execStallCycle (s : State) : Out :=
  if s.stallDue s.arg.a then .next (s.endCycle s.arg.a true) else .next s

/-! ## Drowsy banks (R157) -/

/-- The choruses with a row in a bank. -/
def State.inBank (s : State) (core bank : Nat) : List Chorus :=
  ((s.rowsOn core).filter (fun p => decide (p.2.2 < 128 * bank + 128) && decide (128 * bank < p.2.2 + 16 + p.2.1.ring.length))).map (·.2.1)

/-- Ticks of a wait on memory after which a bank may drop: 200 ns. -/
def drowsyWait : Nat := 200 * ticksPerNs

/-- Whether a bank is to drop to retention: none of its rows is held, or every chorus with one has waited on memory for
more than 200 ns. -/
def State.bankIdle (s : State) (core bank : Nat) : Bool :=
  bankIds.contains bank && (s.core core).awake bank && (s.inBank core bank).all (fun h => decide (drowsyWait < h.memWait))

/-- `bank_drowsy` (R157). -/
def execBankDrowsy (s : State) : Out :=
  if s.bankIdle s.arg.a s.arg.b then
    let c := s.core s.arg.a
    .next (s.setCore { c with drowsy := c.drowsy ++ [s.arg.b] })
  else .next s

/-- The banks that the next issue of a chorus touches (R157). -/
def State.banksOf (s : State) (k : Company) (h : Chorus) : List Nat :=
  match h.splits.find? (fun p => p.state == .running) with
  | none => []
  | some p =>
    let x : Site := { co := k, ch := h, sp := p }
    (((nextMembers k h s.peek).flatMap (regsNamed x)).filter (· != 0)).map (fun n => s.bankOf k h (x.physRow n))

/-- `bank_wake` (R157). A bank wakes over two more cycles of the core; what touches it waits that long. The pick of a chorus, which the
operands name, wakes all that it touches at once. -/
def execBankWake (s : State) : Out :=
  let bs := match (s.company? s.arg.c).bind (fun k => (k.chorus? s.arg.d).map (fun h => (k, h))) with
    | some (k, h) => if k.core = s.arg.a then s.banksOf k h else []
    | none => []
  .next (s.setCore ((s.arg.b :: bs).foldl Core.wake (s.core s.arg.a)))

end Sys2Proof.Machine
end

