-- ==== Sys2Proof/Machine/FrontMem.lean ====
section
/-!
DEFINITION. Reads and writes that the device makes for a context at virtual addresses, and the deny ring (R258, R260,
R313).
-/
namespace Sys2Proof.Machine

/-- The pieces of a range of virtual addresses that lie in one 4 KiB page each: address and length. -/
def pieces (fuel va n : Nat) : List (Nat × Nat) :=
  match fuel with
  | 0 => []
  | f + 1 =>
    if n = 0 then []
    else
      let k := Nat.min n (4096 - va % 4096)
      (va, k) :: pieces f (va + k) (n - k)

/-- A piece of a range that lies on one page: its place, its length and the tag of the page. -/
structure Piece where
  loc : Nat
  len : Nat
  tag : BitVec 16
  deriving DecidableEq, Repr

/-- What a range of virtual addresses translates to: its pieces, an absent page, or a permanent failure, which a guarded page
and a page outside HBM4 are too (R258, R375). -/
inductive Reach where
  | ok (ps : List Piece)
  | absent (stage : Nat) (page : PageRef)
  | bad
  deriving DecidableEq, Repr

/-- Translates the pieces in turn, without a TLB. -/
def reachAll (ctx : Nat) (acc : Access) (s : State) (done : List Piece) : List (Nat × Nat) → Reach × State
  | [] => (.ok done, s)
  | p :: r =>
    match s.translateFront ctx p.1 acc with
    | (.bad, s) => (.bad, s)
    | (.absent k g, s) => (.absent k g, s)
    | (.ok e, s) =>
      if s.mayUse e acc (e.at_ p.1) p.2 then reachAll ctx acc s (done ++ [{ loc := e.at_ p.1, len := p.2, tag := e.tag }]) r
      else (.bad, s)

def State.reach (s : State) (ctx va n : Nat) (acc : Access) : Reach × State := reachAll ctx acc s [] (pieces (n / 4096 + 2) va n)

/-- The outcome of a read of memory for a context. -/
inductive FrontRead where
  | data (bs : List Byte)
  | absent (stage : Nat) (page : PageRef)
  | bad
  deriving DecidableEq, Repr

/-- Reads the bytes of some pieces; their lines take the tags of the pages (R261). -/
def State.readPieces (s : State) (ctx : Nat) (ps : List Piece) : List Byte × State :=
  ps.foldl (fun (r : List Byte × State) p =>
    let q := r.2.readBytes ctx p.loc p.len
    (r.1 ++ q.1, q.2.touchLines p.loc p.len ctx p.tag false false)) ([], s)

/-- Whether bytes of some pieces are poisoned. -/
def State.piecesPoisoned (s : State) (ps : List Piece) : Bool := ps.any (fun p => poisoned s.memPoison p.loc p.len)

/-- Reads bytes for a context. -/
def State.frontRead (s : State) (ctx va n : Nat) : FrontRead × State :=
  match s.reach ctx va n .read with
  | (.bad, s) => (.bad, s)
  | (.absent k p, s) => (.absent k p, s)
  | (.ok ps, s) => let r := s.readPieces ctx ps; (.data r.1, r.2)

/-- Writes bytes for a context at the places of a range. -/
def State.writePieces (s : State) (ctx : Nat) : List Piece → List Byte → State
  | [], _ => s
  | p :: r, bs => (s.writeMem ctx p.tag false p.loc (bs.take p.len) false).writePieces ctx r (bs.drop p.len)

/-- How a write for a context ends. -/
inductive FrontWrite where
  | done
  | absent (stage : Nat) (page : PageRef)
  | bad
  deriving DecidableEq, Repr

/-- Writes bytes for a context at a virtual address. -/
def State.frontWrite (s : State) (ctx va : Nat) (bs : List Byte) : FrontWrite × State :=
  match s.reach ctx va bs.length .write with
  | (.bad, s) => (.bad, s)
  | (.absent k p, s) => (.absent k p, s)
  | (.ok ps, s) => (.done, s.writePieces ctx ps bs)

/-! ## Grants (R257 to R259) -/

/-- The principal number and the right to write guarded pages of a principal table entry (R257, R258). -/
def principalNo (p : Word) : BitVec 12 := p.extractLsb' 0 12
def ownsGuarded (p : Word) : Bool := p.getLsbD 31 && principalNo p == 0

/-- The answer of a grant bitmap: granted or not, or a page of the bitmap that is absent at stage 2. -/
inductive Granted where
  | bit (b : Bool)
  | absent (page : PageRef)
  deriving DecidableEq, Repr

/-- The bitmap byte of a principal and a tag, read at the policy base. -/
def State.policyByte (s : State) (ctx : Nat) (p : BitVec 12) (tag : BitVec 16) : Granted × State :=
  match s.context? ctx with
  | none => (.bit false, s)
  | some c =>
    let a := c.policy.toNat + p.toNat * 8192 + tag.toNat / 8
    let bitOf (loc : Nat) : Bool := (s.mem.read loc).getLsbD (tag.toNat % 8)
    if c.fn = 0 then (.bit (isHbm a && bitOf (place 0 a)), s)
    else
      match s.throughStage2 c.fn a .read with
      | (.bad, s) => (.bit false, s)
      | (.absent g, s) => (.absent g, s)
      | (.ok e, s) => (.bit (isHbm e.pa && (s.mem.read (place e.swizzle.toNat e.pa)).getLsbD (tag.toNat % 8)), s)

/-- Entries of a core's grant cache. -/
def grantEntries : Nat := 1024

/-- Whether a principal is granted a tag, by the core's grant cache or the bitmap. -/
def State.grantBit (s : State) (core ctx : Nat) (p : Word) (tag : BitVec 16) : Granted × State :=
  let n := principalNo p
  if ((s.context? ctx).map (·.pcount)).getD 0 ≤ n.toNat then (.bit false, s)
  else
    let c := s.core core
    match c.grants.find? (fun g => g.ctx == ctx && g.principal == n && g.tag == tag) with
    | some g => (.bit g.bit, s)
    | none =>
      match s.policyByte ctx n tag with
      | (.bit b, s) =>
        (.bit b, s.setCore { s.core core with grants := ({ ctx := ctx, principal := n, tag := tag, bit := b } :: c.grants).take grantEntries })
      | r => r

/-- Whether all of some tags are granted. -/
def State.grantAll (s : State) (core ctx : Nat) (p : Word) : List (BitVec 16) → Granted × State
  | [] => (.bit true, s)
  | t :: r =>
    match s.grantBit core ctx p t with
    | (.bit true, s) => s.grantAll core ctx p r
    | q => q

/-- The tag and G that a line of the reservoir keeps, where they are not those of an entry (R261). -/
def State.keptTag (s : State) (e : TlbEntry) (loc : Nat) : Option LineTag :=
  (s.lineOf loc).filter (fun l => l.cached && (l.tag != e.tag || l.g != e.g) && isHbm loc)

/-- The check of a read under an entry at a place (R258, R261): a line that keeps another tag or G asks for both tags,
with G set when either side has it; on a grant the line takes the values of the request. -/
def State.readCheck (s : State) (core ctx : Nat) (p : Word) (e : TlbEntry) (loc : Nat) : Granted × State :=
  let kept := s.keptTag e loc
  let guarded := e.g || kept.any (·.g)
  let tags := e.tag :: (kept.map (·.tag)).toList
  match (if guarded then s.grantAll core ctx p tags else (.bit true, s)) with
  | (.bit b, s) => (.bit b, if b && isHbm loc then s.touchLine loc ctx e.tag e.g false else s)
  | r => r

/-- The outcome of the checks of a read that may lie on two pages or lines: granted, denied by one of them, or an absent page of
the bitmap. -/
inductive Verdict where
  | granted
  | denied (e : TlbEntry) (va : Nat)
  | absent (page : PageRef)
  deriving DecidableEq, Repr

/-- The checks of a read in turn, each under its entry at its virtual address. -/
def State.readChecks (s : State) (core ctx : Nat) (p : Word) : List (TlbEntry × Nat) → Verdict × State
  | [] => (.granted, s)
  | a :: r =>
    match s.readCheck core ctx p a.1 (a.1.at_ a.2) with
    | (.bit true, s) => s.readChecks core ctx p r
    | (.bit false, s) => (.denied a.1 a.2, s)
    | (.absent g, s) => (.absent g, s)

/-! ## The deny ring (R260, R305) -/

/-- A deny record as a number. -/
def denyRecord (d : Denial) (major idx : Nat) : Nat :=
  d.vt * 2 ^ 192 + d.addr.toNat * 2 ^ 128 + d.tag.toNat * 2 ^ 112 + d.principal.toNat * 2 ^ 88 + d.lane * 2 ^ 83 + major % 128 * 2 ^ 76 +
    Nat.min d.count 4095 * 2 ^ 64 + idx % 2 ^ 64

/-- The outcome of a write to a ring: done or dropped, or an absent page. -/
inductive RingWrite where
  | over_
  | absent (stage : Nat) (page : PageRef)
  deriving DecidableEq, Repr

/-- A record that is dropped counts in the overflow count. -/
def State.denyDrop (s : State) (ctx : Nat) : State := s.modContext ctx (fun c => { c with denyOvf := (c.denyOvf + 1) % 2 ^ 64 })

/-- Writes a deny record: without a ring, with a full one, and on a permanent failure it is dropped. -/
def State.denyWrite (s : State) (ctx : Nat) (d : Denial) (major : Nat) : RingWrite × State :=
  match s.context? ctx with
  | none => (.over_, s)
  | some c =>
    let lg := c.denyCtl.toNat % 32
    if lg = 0 || decide (2 ^ lg ≤ c.denyWr - c.denyRd) then (.over_, s.denyDrop ctx)
    else
      match s.frontWrite ctx (c.denyBase.toNat + 32 * (c.denyWr % 2 ^ lg)) (bytesLE 32 (denyRecord d major c.denyWr)) with
      | (.done, s) => (.over_, s.modContext ctx (fun c => { c with denyWr := c.denyWr + 1 }))
      | (.absent k p, s) => (.absent k p, s)
      | (.bad, s) => (.over_, s.denyDrop ctx)

end Sys2Proof.Machine
end

