-- ==== Sys2Proof/Machine/Link.lean ====
section
/-!
DEFINITION. Sending on the fabric: request identifiers, ports, notices of the call board (R379, R380, R384 to R386).
-/
namespace Sys2Proof.Machine

/-- The next request identifier for a destination; the first is 1 (log 21). -/
def State.nextIdent (s : State) (dest : BitVec 12) : BitVec 32 × State :=
  match s.idents.find? (fun p => p.1 == dest.toNat) with
  | some p => (p.2, { s with idents := updWhere (fun q => q.1 == dest.toNat) (fun q => (q.1, q.2 + 1)) s.idents })
  | none => (1, { s with idents := s.idents ++ [(dest.toNat, 2)] })

/-- Unanswered identifiers a requester may keep per destination, counted from the oldest. -/
def identWindow : Nat := 4096

/-- The request identifiers that a transaction carries, each with its destination: a read carries none, and a multicast one for each
member (R379, R382). -/
def Outstanding.ids (o : Outstanding) : List (BitVec 12 × BitVec 32) :=
  match o.what with
  | .multicast _ _ _ _ _ l => l
  | _ => if o.plainRead then [] else [(o.dest, o.ident)]

/-- Whether an identifier is out of the window of its destination (R379): the oldest unanswered one stands first. -/
def State.windowFull (s : State) (o : Outstanding) : Bool :=
  o.ids.any (fun i => (s.sent.findSome? (fun p => p.ids.find? (fun j => j.1 == i.1))).any (fun j => decide (identWindow ≤ (i.2 - j.2).toNat)))

/-- The virtual channels: requests, responses, messages, and multicasts (R377). -/
def responseVc : Nat := 1
def LinkSend.vc : LinkSend → Nat
  | .access _ _ _ _ _ _ _ => 0
  | .message _ => 2
  | .multicast _ _ _ _ _ _ => 3

/-- The key under which the route table lists the ports of switches, which reach every destination (log 26). -/
def switchRoute : Nat := 4096

/-- The ports of a destination that are up or degraded and whose virtual channel is not stopped (R377, R378, R380); under the curtain
links carry idle flits alone (R371). -/
def State.livePorts (s : State) (dest : BitVec 12) (vc : Nat) : List Nat :=
  if s.curtain then []
  else (s.routes.filter (fun r => r.1 == dest.toNat || r.1 == switchRoute)).flatMap (fun r => r.2.filter (fun n =>
    s.ports.any (fun p => p.num == n && (p.state == 2 || p.state == 3) && !p.xoff.getLsbD vc)))

/-- A flit leaves by a port with a transaction: it takes the port's next sequence, and stays in the replay buffer until it is
acknowledged (R377). -/
def State.putFlit (s : State) (n : Nat) (what : Output) : State :=
  { s with
    outputs := s.outputs ++ [what]
    ports := updWhere (fun (p : Port) => p.num == n) (fun p => { p with seq := p.seq + 1, buffer := p.buffer ++ [(p.seq, s.outputs.length)] }) s.ports }

/-- Whether a transaction is a message to this device, which is reached without a link (R388). -/
def State.atHome (s : State) (o : Outstanding) : Bool :=
  match o.what with
  | .message m => m.destDev == s.deviceId
  | _ => false

/-- Whether two entries are the same transaction. -/
def Outstanding.same (o p : Outstanding) : Bool := p.dest == o.dest && p.ident == o.ident && p.plainRead == o.plainRead

/-- Changes one transaction. -/
def State.modSent (s : State) (o : Outstanding) (f : Outstanding → Outstanding) : State :=
  { s with sent := updWhere o.same f s.sent }

/-- The arrival of a message of this device at its own call board. -/
def homeArrival (m : Message) : Turn := .event .messageArrival { a := 0, b := 0, c := 0, d := 0, v := 0, x := .message m }

/-- Puts a transaction on one port of its set; a message to this device arrives as the next happening. Which port the hash of the address
takes is open (log 5). -/
def State.emit (s : State) (o : Outstanding) (retry : Bool) : State :=
  match (if s.atHome o then some o.what else none) with
  | some (.message m) => { s.modSent o (fun p => { p with held := false }) with agenda := s.agenda ++ [homeArrival m] }
  | _ =>
    match s.livePorts o.dest o.what.vc with
    | [] => s.modSent o (fun p => { p with held := true, port := none, retried := p.retried || retry })
    | ps =>
      let f := s.freeValue
      let n := ps.getD (f.1.toNat % ps.length) 0
      let t := f.2.modSent o (fun p =>
        { p with held := false, port := some n, retried := p.retried || retry, sentAt := if retry then p.sentAt else s.now })
      t.putFlit n (.transaction n o.dest o.ident (retry && !o.plainRead) o.what)

/-- Whether two messages are of one chorus: they leave in program order (R282 to R287). -/
def Outstanding.sameSender (o p : Outstanding) : Bool :=
  match o.asker, p.asker with
  | .message _ u ch _, .message _ v k _ => u == v && ch == k
  | _, _ => false

/-- Bytes that an operation reaches at its target. -/
def opBytes : LinkOp → Nat
  | .read n => n
  | .write d _ => d.length
  | .element sh w _ _ => ceilDiv (sh + w) 8
  | .atomic _ _ _ => 4

/-- The chorus and the bytes at its target of an access to a peer: company, chorus, device, context, first byte and count. -/
def Outstanding.target (o : Outstanding) : Option ((Nat × Nat) × (BitVec 12 × BitVec 12) × Nat × Nat) :=
  match o.asker, o.what with
  | .fly u ch _ _, .access c a _ _ _ _ op => some ((u, ch), (o.dest, c), a.toNat, opBytes op)
  | _, _ => none

/-- Whether an access was sent again and reaches a 128-byte line that a later one of its chorus reaches too (R380). -/
def Outstanding.resentBefore (p o : Outstanding) : Bool :=
  p.retried && (match p.target, o.target with
    | some (u, d, a, n), some (v, e, b, m) => u == v && d == e && (linesOf a n).any (linesOf b m).contains
    | _, _ => false)

/-- Whether a transaction has to wait: for the window, behind a message of its chorus that is held, or for an access to one of its
lines that was sent again. -/
def State.mustWait (s : State) (o : Outstanding) : Bool :=
  s.windowFull o || (s.sent.takeWhile (fun p => !p.same o)).any (fun p => (p.held && p.sameSender o) || p.resentBefore o)

/-- A new transaction: it waits for its turn, else for a port, else it goes out. Its age counts from here. -/
def State.transmit (s : State) (o : Outstanding) : State :=
  let o := { o with held := s.mustWait o, sentAt := s.now, port := none, retried := false }
  let t := { s with sent := s.sent ++ [o] }
  if o.held then t else t.emit o false

/-- Puts an answer to a peer on a port; one that finds none waits (R377). -/
def State.sendAnswer (s : State) (a : Answer) : State :=
  match s.livePorts a.dest responseVc with
  | [] => { s with replies := s.replies ++ [a] }
  | ps => let f := s.freeValue; let n := ps.getD (f.1.toNat % ps.length) 0; f.2.putFlit n (.answer n a)

/-- Held transactions that may go out do, oldest first: an identifier within the window, and a port (R379, R380); and so do the answers that
wait. -/
def State.releaseHeld (s : State) : State :=
  let t := (s.sent.filter (·.held)).foldl (fun t o =>
    if t.mustWait o || (!t.atHome o && (t.livePorts o.dest o.what.vc).isEmpty) then t else t.emit o o.retried) s
  t.replies.foldl (fun t a => t.sendAnswer a) { t with replies := [] }

/-- Sends a message. -/
def State.sendMessage (s : State) (m : Message) (who : Asker) : State :=
  s.transmit { dest := m.destDev, ident := m.ident, plainRead := false, retried := false, held := false, port := none,
               sentAt := s.now, asker := who, what := .message m, stale := false }

/-- Kinds of message (R385). -/
def kindData : BitVec 4 := 0
def kindReply : BitVec 4 := 1
def kindHold : BitVec 4 := 2
def kindBusy : BitVec 4 := 3
def kindRefused : BitVec 4 := 4

/-- A notice that answers a message (R386), sent in the name of a context. -/
def State.notice (s : State) (m : Message) (kind : BitVec 4) (ext : BitVec 16) (ctx : BitVec 12) (who : Asker) : State :=
  let r := s.nextIdent m.srcDev
  r.2.sendMessage { destDev := m.srcDev, destCtx := m.srcCtx, stamp := 0, ident := r.1, replyTo := m.ident, patience := 0,
                    ext := ext, srcDev := s.deviceId, srcCtx := ctx, channel := m.channel, length := 0, kind := kind,
                    dilation := false, payload := [] } who

/-- Ends an owed reply: a taken message leaves the board, another stays as a message. -/
def Context.endOwed (c : Context) (src : BitVec 12) (ident : BitVec 32) : Context :=
  let hit (e : BoardEntry) : Bool := e.owed && e.msg.srcDev == src && e.msg.ident == ident
  { c with board := (updWhere hit (fun e => { e with owed := false }) c.board).filter (fun e => !e.taken || e.owed) }

/-- The entry of an owed reply. -/
def Context.owedEntry? (c : Context) (src : BitVec 12) (ident : BitVec 32) : Option BoardEntry :=
  c.board.find? (fun e => e.owed && e.msg.srcDev == src && e.msg.ident == ident)

/-- HOLD notices a request may receive (R386). -/
def holdLimit : Nat := 15

/-- Sends HOLD with an extension in microseconds, or BUSY when the request may not be held further; the flag says which
(R386, R390). The board sends for itself, and `msg.hold` for its chorus, on whose message path its notice is (R266, R387). -/
def State.answerOwed (s : State) (ctx : Nat) (e : BoardEntry) (ext : BitVec 16) (who : Asker) : Bool × State :=
  if e.msg.dilation && decide (e.holds < holdLimit) then
    let hit (d : BoardEntry) : Bool := d.owed && d.msg.srcDev == e.msg.srcDev && d.msg.ident == e.msg.ident
    let f (d : BoardEntry) : BoardEntry := { d with holds := d.holds + 1, deadline := d.deadline + ext.toNat * 1000 * ticksPerNs, passed := false }
    let s := s.modContext ctx (fun c => { c with board := updWhere hit f c.board })
    (true, s.notice e.msg kindHold ext (BitVec.ofNat 12 ctx) who)
  else
    let s := s.modContext ctx (fun c => c.endOwed e.msg.srcDev e.msg.ident)
    (false, s.notice e.msg kindBusy 0 (BitVec.ofNat 12 ctx) who)

/-- The 32-byte header of a message as a number (R385). -/
def messageHeader (m : Message) : Nat :=
  m.stamp.toNat * 2 ^ 192 + m.ident.toNat * 2 ^ 160 + m.replyTo.toNat * 2 ^ 128 + m.patience.toNat * 2 ^ 112 +
    m.ext.toNat * 2 ^ 96 + m.srcDev.toNat * 2 ^ 84 + m.srcCtx.toNat * 2 ^ 72 + m.channel.toNat * 2 ^ 64 +
    m.length.toNat * 2 ^ 56 + m.kind.toNat * 2 ^ 52 + (if m.dilation then 2 ^ 51 else 0)

/-- The visible message that is taken next: the lowest stamp, ties in arrival order (R389). -/
def nextMessage (b : List BoardEntry) : Option BoardEntry :=
  b.foldl (fun r e =>
    if e.taken || !e.visible then r
    else match r with
      | none => some e
      | some d => if e.stampTicks < d.stampTicks || (e.stampTicks == d.stampTicks && e.order < d.order) then some e else r) none

end Sys2Proof.Machine
end

