-- ==== Sys2Proof/Machine/FlyEngine.lean ====
section
/-!
DEFINITION. The fly engine: elements of a command, its line requests, faults and completion (R230 to R243, R258 to R261,
R375, R376, R382, R383).
-/
namespace Sys2Proof.Machine

/-! ## Elements (R230, R233, R236, R237) -/

/-- One element or scale of a command, in the order of R230: its lane, the bit address of its memory side when it lies in
the tensor, its width, its bit address in the stage and its byte address in the score. -/
structure Elem where
  idx : Nat
  lane : Nat
  bit : Option Nat
  width : Nat
  cell : Option Nat
  score : Option Nat
  deriving DecidableEq, Repr

/-- Whether coordinates lie in a tensor. -/
def inTensor (r : Record) (c : List Int) : Bool :=
  (List.range (Nat.max r.rank 1)).all (fun d => decide (0 ≤ c.getD d 0) && decide (c.getD d 0 < (r.extents.getD d 1 : Int)))

/-- The bit address of coordinates. -/
def bitAddress (r : Record) (width : Nat) (c : List Int) : Nat :=
  r.base.toNat * 8 + (c.getD 0 0).toNat * width + total ((List.range 4).map (fun i => (c.getD (i + 1) 0).toNat * 16 * r.strides.getD (i + 1) 0 * 8))

/-- The coordinates above the first of a row of the box. -/
def rowCoords (r : Record) (o : List Int) (row : Nat) : List Int :=
  let b (d : Nat) : Nat := r.box.getD d 1
  [o.getD 1 0 + (row % b 1 : Nat), o.getD 2 0 + (row / b 1 % b 2 : Nat), o.getD 3 0 + (row / (b 1 * b 2) % b 3 : Nat),
    o.getD 4 0 + (row / (b 1 * b 2 * b 3) % b 4 : Nat)]

/-- Whether a command takes one run per lane. -/
def FlyCmd.perLane (f : FlyCmd) : Bool := f.op == .gth || f.op == .sct

/-- Rows of the command's tile. -/
def FlyCmd.rows (f : FlyCmd) (r : Record) : Nat := if f.perLane then 32 else r.rows

/-- The coordinates of column `j` of a row; none in the row of an inactive lane. -/
def FlyCmd.coords (f : FlyCmd) (r : Record) (row j : Nat) : Option (List Int) :=
  if f.perLane then
    if f.lanes.has row then
      let o := f.origins.getD row []
      some ((o.getD 0 0 + (j : Int)) :: o.drop 1)
    else none
  else
    let o := f.origins.headD []
    some ((o.getD 0 0 + (j : Int)) :: rowCoords r o row)

/-- Element (row, j) of a record's command. -/
def FlyCmd.boxElem (f : FlyCmd) (t : Tile) (r : Record) (row j : Nat) : Elem :=
  let b0 := r.box.getD 0 1
  { idx := row * b0 + j
    lane := if f.perLane then row else f.leader
    bit := (f.coords r row j).bind (fun c => if inTensor r c then some (bitAddress r r.width c) else none)
    width := r.width
    cell := if f.op == .pf then none else some (8 * (t.base + row * pitch b0 r.width) + j * r.width)
    score := none }

/-- The scale of (row, block k), numbered after the elements. -/
def FlyCmd.scaleElem (f : FlyCmd) (t : Tile) (r q : Record) (first row k : Nat) : Elem :=
  let nb := r.box.getD 0 1 / 32
  let c := (f.coords r row (32 * k)).map (fun c => (c.getD 0 0 / 32) :: c.drop 1)
  { idx := first + row * nb + k
    lane := if f.perLane then row else f.leader
    bit := c.bind (fun c => if inTensor q c then some (bitAddress q 8 c) else none)
    width := 8
    cell := none
    score := some (t.score * 128 + row * nb + k) }

/-- Every element and scale of a command. A `fly.cp` has one per 4-byte word of its length (log 23), a `fly.atm` one per
active lane; for both `bit` is the address in main memory where there is one. -/
def FlyCmd.elems (f : FlyCmd) (c : Company) : List Elem :=
  match f.record with
  | some r =>
    let t := (c.tile? f.tile).getD
      { score := 0xFF, readers := 0, state := .empty, claim := false, format := 0, cols := 0, rows := 0, capacity := 0, base := 0,
        claimShape := none, drainAge := 0 }
    let b0 := r.box.getD 0 1
    let n := f.rows r
    let main := if f.op == .scl then [] else
      (List.range n).flatMap (fun row => (List.range b0).map (fun j => f.boxElem t r row j))
    let scales :=
      match f.scaleRecord with
      | some q => if f.op == .pf then [] else
          (List.range n).flatMap (fun row => (List.range (b0 / 32)).map (fun k => f.scaleElem t r q main.length row k))
      | none => []
    main ++ scales
  | none =>
    if f.op == .cp then
      (List.range (f.len / 4)).map (fun i =>
        { idx := i, lane := f.leader, bit := if f.dstSpace = 0 then some (8 * (f.dst.toNat + 4 * i)) else none, width := 32,
          cell := none, score := none })
    else
      f.lanes.lanes.map (fun l =>
        { idx := l, lane := l, bit := some (8 * (f.addrs.getD l 0).toNat), width := 32,
          cell := if f.result == 0xFFFFFFFF then none else some (8 * (f.result.toNat + 4 * l)), score := none })

/-- The request an element belongs to: the 128-byte line of its virtual address in main memory (R239), for a copy that writes none
the line of its source, and for one that touches none 128 bytes of its length. -/
def FlyCmd.lineOf (f : FlyCmd) (e : Elem) : Nat :=
  match e.bit with
  | some b => b / 1024
  | none => if f.op == .cp then (if f.srcSpace = 0 then (f.src.toNat + 4 * e.idx) / 128 else e.idx / 32) else 0

/-- Whether a command writes main memory. -/
def FlyCmd.writes (f : FlyCmd) : Bool :=
  match f.op with
  | .out => true
  | .sct => true
  | .atm => true
  | .cp => f.dstSpace == 0
  | _ => false

/-- The kind of a command's access at `bit`. -/
def FlyCmd.access (f : FlyCmd) : Access := if f.op == .atm then .rmw else if f.writes then .write else .read

/-- The principal of an element (R231, R233, R236). -/
def FlyCmd.principalOf (f : FlyCmd) (e : Elem) : Word :=
  f.principals.getD (if f.perLane || f.op == .atm then e.lane else f.leader) 0

/-! ## Commands of a company -/

/-- A live command of the engine with the index of its chorus. -/
def Company.cmd? (c : Company) (k : Nat) : Option (Nat × FlyCmd) := c.engine.find? (fun e => e.2.uid == k && e.2.state != .done)

/-- Changes one command of the engine. -/
def Company.modCmd (c : Company) (k : Nat) (f : FlyCmd → FlyCmd) : Company :=
  { c with engine := updWhere (fun e => e.2.uid == k) (fun e => (e.1, f e.2)) c.engine }

/-- The commands of the same chorus that were handed over before it and are still live. -/
def Company.earlier (c : Company) (ch k : Nat) : List FlyCmd :=
  ((c.engine.takeWhile (fun e => e.2.uid != k)).filter (fun e => e.1 == ch && e.2.state != .done)).map (·.2)

/-! ## A run of the engine over some elements -/

/-- The work of one happening: the state, the company and the command as they stand, and what has come up. -/
structure FlyRun where
  s : State
  c : Company
  ch : Nat
  f : FlyCmd
  /-- Absent pages: element, stage, page and access. -/
  absent : List (Nat × Nat × PageRef × Access)
  /-- The address of a permanent fault; the element of a guarded write; poison that an atomic met. -/
  perm : Option Nat
  guard : Option Nat
  poison : Bool
  /-- Bytes written in main memory, the stage, the score and the cistern window, each with its mark of poison. -/
  memW : List (Nat × Bool)
  stageW : List (Nat × Bool)
  scoreW : List (Nat × Bool)
  winW : List (Nat × Bool)

/-- Marks of poison after some bytes were written: a granule that takes poisoned bytes is poisoned, one that is written
whole and clean is not (R348). -/
def poisonAfter (p : List Nat) (ws : List (Nat × Bool)) : List Nat :=
  let bad := ((ws.filter (·.2)).map (fun w => w.1 / 32)).eraseDups
  let whole (g : Nat) : Bool := (List.range 32).all (fun k => ws.any (fun w => w.1 == 32 * g + k && !w.2))
  let kept := p.filter (fun g => bad.contains g || !whole g)
  kept ++ bad.filter (fun g => !kept.contains g)

/-- Marks of poison of an SRAM after a command has delivered some bytes to it: a granule is clean once the command has delivered all of it,
and no poison into it (R348). `stained` are the granules into which it has, and `given` says which bytes it has delivered. -/
def poisonDelivered (p stained : List Nat) (given : Nat → Bool) (ws : List (Nat × Bool)) : List Nat :=
  let gs := (ws.map (fun w => w.1 / 32)).eraseDups
  let whole (g : Nat) : Bool := (List.range 32).all (fun k => given (32 * g + k))
  let kept := p.filter (fun g => stained.contains g || !(gs.contains g && whole g))
  kept ++ (stained.filter gs.contains).filter (fun g => !kept.contains g)

/-- The granules that take poisoned bytes. -/
def stainsOf (ws : List (Nat × Bool)) : List Nat := ((ws.filter (·.2)).map (fun w => w.1 / 32)).eraseDups

/-- A byte range with one mark. -/
def marked (a n : Nat) (bad : Bool) : List (Nat × Bool) := (List.range n).map (fun k => (a + k, bad))

/-- The element is done: its bit of the bitmap is set (R240). -/
def FlyRun.finish (r : FlyRun) (e : Elem) : FlyRun := { r with f := { r.f with todo := r.f.todo.filter (· != e.idx) } }

/-- Delivers a code to the stage or the score; scales beyond the allocation are dropped. -/
def FlyRun.deliver (r : FlyRun) (e : Elem) (code : Nat) (bad : Bool) : FlyRun :=
  match e.cell, e.score with
  | some a, _ =>
    { r with
      c := { r.c with stage := r.c.stage.writeBits a e.width code }
      stageW := r.stageW ++ marked (a / 8) ((a + e.width - 1) / 8 + 1 - a / 8) bad }
  | none, some a =>
    if a < r.c.playbill.scoreSlots * 128 then
      { r with c := { r.c with score := r.c.score.write a (BitVec.ofNat 8 code) }, scoreW := r.scoreW ++ marked a 1 bad }
    else r
  | none, none => r

/-- The code that the tile or the score holds for an element, and its mark of poison. -/
def FlyRun.source (r : FlyRun) (e : Elem) : Nat × Bool :=
  match e.cell, e.score with
  | some a, _ => (r.c.stage.readBits a e.width, poisoned r.c.stagePoison (a / 8) ((a + e.width - 1) / 8 + 1 - a / 8))
  | none, some a => ((r.c.score.read a).toNat, poisoned r.c.scorePoison a 1)
  | none, none => (0, false)

/-- An access of an element translated: the entries of its first and last byte. -/
inductive Look where
  | ok (e1 e2 : TlbEntry)
  | absent (stage : Nat) (page : PageRef)
  | bad
  deriving DecidableEq, Repr

/-- Translates the bytes from `va` to `vb`, which lie in at most two pages. -/
def State.look (s : State) (core ctx va vb : Nat) (acc : Access) : Look × State :=
  match s.translate core ctx va acc with
  | (.bad, s) => (.bad, s)
  | (.absent k p, s) => (.absent k p, s)
  | (.ok e, s) =>
    if va / 4096 = vb / 4096 then (.ok e e, s)
    else
      match s.translate core ctx vb acc with
      | (.bad, s) => (.bad, s)
      | (.absent k p, s) => (.absent k p, s)
      | (.ok e2, s) => (.ok e e2, s)

/-- The places of the bytes from `va` to `vb`. -/
def byteLocs (va vb : Nat) (e1 e2 : TlbEntry) : List Nat :=
  (rangeOf va vb).map (fun a => if a / 4096 = va / 4096 then e1.at_ a else e2.at_ a)
where
  /-- The numbers from `a` to `b`. -/
  rangeOf (a b : Nat) : List Nat := (List.range (b + 1 - a)).map (a + ·)

/-- The value of some bytes as a context reads them, and whether one is poisoned. -/
def State.readLocs (s : State) (ctx : Nat) (locs : List Nat) : List Byte × Bool × State :=
  locs.foldl (fun (r : List Byte × Bool × State) l =>
    let q := r.2.2.readBytes ctx l 1
    (r.1 ++ q.1, r.2.1 || poisoned r.2.2.memPoison l 1, q.2)) ([], false, s)

/-- A denied element (R258, R260): it counts, and its page and principal get a record. -/
def FlyRun.deny (r : FlyRun) (e : Elem) (va : Nat) (t : TlbEntry) : FlyRun :=
  let p := principalNo (r.f.principalOf e)
  let same (d : Denial) : Bool := d.page == t.va && d.principal == p
  let ds := if r.f.denials.any same then updWhere same (fun d => { d with count := d.count + 1 }) r.f.denials
    else r.f.denials ++
      [{ page := t.va, size := t.size, principal := p, addr := BitVec.ofNat 64 va, lane := e.lane, tag := t.tag, count := 1, vt := r.s.vtNs r.c.ctx }]
  { r with
    s := r.s.modContext r.c.ctx (fun c => { c with denyCnt := (c.denyCnt + 1) % 2 ^ 64 })
    f := { r.f with denied := true, denials := ds } }

/-! ### Peer memory (R375, R376, R379) -/

/-- An access to host memory is made for the context, with its function and PASID (R373, R375). -/
def FlyRun.hostNote (r : FlyRun) (phys n : Nat) (write : Bool) : FlyRun :=
  if isHost phys then
    match r.s.context? r.c.ctx with
    | some c => { r with s := { r.s with outputs := r.s.outputs ++ [.hostAccess c.fn c.pasid phys n write] } }
    | none => r
  else r

/-- Sends an access of an element to a peer: an invalid aperture is a permanent fault. -/
def FlyRun.remote (r : FlyRun) (e : Elem) (va phys : Nat) (t : TlbEntry) (op : LinkOp) : FlyRun :=
  let v := ((r.s.apertures.find? (fun a => a.1 == phys / 2 ^ 39 % 256)).map (·.2)).getD 0
  if v.getLsbD 63 then
    let dest : BitVec 12 := v.extractLsb' 0 12
    let isRead := match op with | .read _ => true | _ => false
    let id : BitVec 32 × State := if isRead then (BitVec.ofNat 32 r.s.uid, r.s.fresh.2) else r.s.nextIdent dest
    let p := r.f.principalOf e
    { r with
      s := id.2.transmit
        { dest := dest, ident := id.1, plainRead := isRead, retried := false, held := false, port := none, sentAt := 0,
          asker := .fly r.c.uid r.ch r.f.uid e.idx
          what := .access (v.extractLsb' 12 12) (BitVec.ofNat 64 (phys % 2 ^ 39)) (principalNo p) (p.getLsbD 31) t.tag t.g op
          stale := false }
      f := { r.f with remote := r.f.remote ++ [e.idx] } }
  else { r with perm := r.perm.orElse (fun _ => some va) }

/-! ### Elements -/

/-- Whether an element lies on two pages of which one is a peer's, which are then reached in turn. -/
def twoSided (va vb : Nat) (e1 e2 : TlbEntry) : Bool := va / 4096 != vb / 4096 && (isPeer (e1.phys va) || isPeer (e2.phys vb))

/-- The first byte, done before, of an element over two pages. -/
def FlyCmd.half? (f : FlyCmd) (e : Elem) : Option (Nat × Bool × Bool) := (f.halves.find? (fun h => h.1 == e.idx)).map (·.2)

/-- The first byte of an element over two pages is done. -/
def FlyRun.halfDone (r : FlyRun) (e : Elem) (v : Nat) (bad denied : Bool) : FlyRun :=
  { r with f := { r.f with halves := r.f.halves ++ [(e.idx, v, bad, denied)] } }

/-- One byte of an element over two pages, read: the first is kept, and the second completes the code, which is zero when one of them was
denied. -/
def FlyRun.takeByte (r : FlyRun) (e : Elem) (bit v : Nat) (bad denied : Bool) (k : FlyRun → Nat → Bool → FlyRun) : FlyRun :=
  match r.f.half? e with
  | none => r.halfDone e v bad denied
  | some (w, bad1, denied1) =>
    let r : FlyRun := { r with f := { r.f with halves := r.f.halves.filter (fun h => h.1 != e.idx) } }
    if denied || denied1 then k r 0 false else k r ((w + 256 * v) / 2 ^ (bit % 8) % 2 ^ e.width) (bad || bad1)

/-- Reads one byte of an element over two pages, under the entry of its page. -/
def FlyRun.readByte (r : FlyRun) (e : Elem) (bit va : Nat) (t : TlbEntry) (k : FlyRun → Nat → Bool → FlyRun) : FlyRun :=
  match r.s.readChecks r.c.core r.c.ctx (r.f.principalOf e) [(t, va)] with
  | (.absent p, s) => { r with s := s, absent := r.absent ++ [(e.idx, 2, p, .read)] }
  | (.denied t _, s) => ({ r with s := s }.deny e (bit / 8) t).takeByte e bit 0 false true k
  | (.granted, s) =>
    if isPeer (t.phys va) then { r with s := s }.remote e va (t.phys va) t (.read 1)
    else
      let q := s.readLocs r.c.ctx [t.at_ va]
      ({ r with s := q.2.2 }.hostNote (t.phys va) 1 false).takeByte e bit (ofBytesLE q.1) q.2.1 false k

/-- Reads an element over two pages of which one is a peer's: its first byte, and once that is there its second. -/
def FlyRun.readTwo (r : FlyRun) (e : Elem) (bit : Nat) (e1 e2 : TlbEntry) (k : FlyRun → Nat → Bool → FlyRun) : FlyRun :=
  let va := bit / 8
  let r := if (r.f.half? e).isNone then r.readByte e bit va e1 k else r
  if (r.f.half? e).isSome && r.perm.isNone then r.readByte e bit (va + 1) e2 k else r

/-- Reads an element's code through its translation, and gives it to `k` with its mark of poison; a denied element reads
as zero, and one of a peer's memory is asked for. -/
def FlyRun.readVia (r : FlyRun) (e : Elem) (bit : Nat) (k : FlyRun → Nat → Bool → FlyRun) : FlyRun :=
  let va := bit / 8
  let vb := (bit + e.width - 1) / 8
  match r.s.look r.c.core r.c.ctx va vb .read with
  | (.bad, s) => { r with s := s, perm := r.perm.orElse (fun _ => some va) }
  | (.absent g p, s) => { r with s := s, absent := r.absent ++ [(e.idx, g, p, .read)] }
  | (.ok e1 e2, s) =>
    if twoSided va vb e1 e2 then { r with s := s }.readTwo e bit e1 e2 k
    else
    match s.readChecks r.c.core r.c.ctx (r.f.principalOf e) ((e1, va) :: (if va / 128 = vb / 128 then [] else [(e2, vb)])) with
    | (.absent p, s) => { r with s := s, absent := r.absent ++ [(e.idx, 2, p, .read)] }
    | (.denied t _, s) => k ({ r with s := s }.deny e va t) 0 false
    | (.granted, s) =>
      if isPeer (e1.phys va) then { r with s := s }.remote e va (e1.phys va) e1 (.read (vb + 1 - va))
      else
        let q := s.readLocs r.c.ctx (byteLocs va vb e1 e2)
        k ({ r with s := q.2.2 }.hostNote (e1.phys va) (vb + 1 - va) false) (ofBytesLE q.1 / 2 ^ (bit % 8) % 2 ^ e.width) q.2.1

/-- Writes bits to bytes of the device's or the host's memory, each page under its entry. -/
def FlyRun.writeBits (r : FlyRun) (va vb sh width code : Nat) (e1 e2 : TlbEntry) (bad : Bool) : FlyRun :=
  let locs := byteLocs va vb e1 e2
  let q := r.s.readLocs r.c.ctx locs
  let old := ofBytesLE q.1
  let new := old % 2 ^ sh + code % 2 ^ width * 2 ^ sh + old / 2 ^ (sh + width) * 2 ^ (sh + width)
  let ws := locs.zip (bytesLE locs.length new)
  let first := ws.filter (fun w => w.1 / 4096 == e1.at_ va / 4096)
  let rest := ws.filter (fun w => w.1 / 4096 != e1.at_ va / 4096)
  { r with
    s := (q.2.2.storeAt r.c.ctx e1.tag e1.g first).storeAt r.c.ctx e2.tag e2.g rest
    memW := r.memW ++ locs.map (fun l => (l, bad)) }.hostNote (e1.phys va) (vb + 1 - va) true

/-- Writes the part of an element over two pages that lies on one of them: `cut` bits of the code come before it. -/
def FlyRun.writeByte (r : FlyRun) (e : Elem) (va sh cut code : Nat) (t : TlbEntry) (bad : Bool) (k : FlyRun → FlyRun) : FlyRun :=
  let width := Nat.min (8 - sh) (e.width - cut)
  if isPeer (t.phys va) then r.remote e va (t.phys va) t (.element sh width (code / 2 ^ cut % 2 ^ width) bad)
  else k (r.writeBits va va sh width (code / 2 ^ cut) t t bad)

/-- Writes an element over two pages of which one is a peer's: its first byte, and once that is done its second. -/
def FlyRun.writeTwo (r : FlyRun) (e : Elem) (bit code : Nat) (bad : Bool) (e1 e2 : TlbEntry) : FlyRun :=
  let va := bit / 8
  let r := if (r.f.half? e).isNone then r.writeByte e va (bit % 8) 0 code e1 bad (fun r => r.halfDone e 0 false false) else r
  if (r.f.half? e).isSome && r.perm.isNone then
    r.writeByte e (va + 1) 0 (8 - bit % 8) code e2 bad (fun r =>
      { r with f := { r.f with halves := r.f.halves.filter (fun h => h.1 != e.idx) } }.finish e)
  else r

/-- Writes an element's code through its translation: a guarded page needs principal 0 with the owner flag (R258). -/
def FlyRun.writeVia (r : FlyRun) (e : Elem) (bit code : Nat) (bad : Bool) : FlyRun :=
  let va := bit / 8
  let vb := (bit + e.width - 1) / 8
  match r.s.look r.c.core r.c.ctx va vb .write with
  | (.bad, s) => { r with s := s, perm := r.perm.orElse (fun _ => some va) }
  | (.absent g p, s) => { r with s := s, absent := r.absent ++ [(e.idx, g, p, .write)] }
  | (.ok e1 e2, s) =>
    if (e1.g || e2.g) && !ownsGuarded (r.f.principalOf e) then { r with s := s, guard := r.guard.orElse (fun _ => some e.idx) }
    else if twoSided va vb e1 e2 then { r with s := s }.writeTwo e bit code bad e1 e2
    else if isPeer (e1.phys va) then
      { r with s := s }.remote e va (e1.phys va) e1 (.element (bit % 8) e.width code bad)
    else ({ r with s := s }.writeBits va vb (bit % 8) e.width code e1 e2 bad).finish e

/-- The check of the read of an atomic on a line that keeps another tag or G than its page's (R261, log 93). -/
def State.atomicCheck (s : State) (core ctx : Nat) (p : Word) (e : TlbEntry) (loc : Nat) : Granted × State :=
  if (s.keptTag e loc).isSome then s.readCheck core ctx p e loc else (.bit true, s)

/-- The word of an atomic at a place of the device's or the host's memory: the old value is delivered, and poison is noted. -/
def FlyRun.atomicAt (r : FlyRun) (e : Elem) (va : Nat) (e1 : TlbEntry) : FlyRun :=
  let loc := e1.at_ va
  let b := r.f.operands.getD e.lane 0
  let x := r.f.expecteds.getD e.lane 0
  if poisoned r.s.memPoison loc 4 then { r with poison := true }
  else
    let q := r.s.readBytes r.c.ctx loc 4
    let old := BitVec.ofNat 32 (ofBytesLE q.1)
    let t := q.2.storeAt r.c.ctx e1.tag e1.g ((List.range 4).zip (bytesLE 4 (atomNew r.f.aop old b x).toNat) |>.map (fun w => (loc + w.1, w.2)))
    (({ r with s := t, memW := r.memW ++ marked loc 4 false }.hostNote (e1.phys va) 4 true).deliver e old.toNat false).finish e

/-- One lane of a `fly.atm` (R237): a poisoned word stops the chorus. -/
def FlyRun.atomic (r : FlyRun) (e : Elem) (bit : Nat) : FlyRun :=
  let va := bit / 8
  match r.s.look r.c.core r.c.ctx va (va + 3) .rmw with
  | (.bad, s) => { r with s := s, perm := r.perm.orElse (fun _ => some va) }
  | (.absent g p, s) => { r with s := s, absent := r.absent ++ [(e.idx, g, p, .rmw)] }
  | (.ok e1 _, s) =>
    let b := r.f.operands.getD e.lane 0
    let x := r.f.expecteds.getD e.lane 0
    if e1.g && !ownsGuarded (r.f.principalOf e) then { r with s := s, guard := r.guard.orElse (fun _ => some e.idx) }
    else if isPeer (e1.phys va) then { r with s := s }.remote e va (e1.phys va) e1 (.atomic r.f.aop b x)
    else
      match s.atomicCheck r.c.core r.c.ctx (r.f.principalOf e) e1 (e1.at_ va) with
      | (.absent p, s) => { r with s := s, absent := r.absent ++ [(e.idx, 2, p, .rmw)] }
      | (.bit false, s) => (({ r with s := s }.deny e va e1).deliver e 0 false).finish e
      | (.bit true, s) => { r with s := s }.atomicAt e va e1

/-- Bytes of the run's cistern window. -/
def FlyRun.window (r : FlyRun) : Memory := (r.s.window? r.c).getD []

/-- Takes the source word of an element of a copy into the snapshot, once (R236). -/
def FlyRun.copyRead (r : FlyRun) (e : Elem) : FlyRun :=
  let take (r : FlyRun) (v : Nat) (bad : Bool) : FlyRun :=
    { r with f := { r.f with snapshot := updAt r.f.snapshot e.idx (fun _ => some (BitVec.ofNat 32 v, bad)) } }
  let a := r.f.src.toNat + 4 * e.idx
  match r.f.snapshot.getD e.idx none with
  | some _ => r
  | none =>
    match r.f.srcSpace with
    | 0 => r.readVia e (8 * a) take
    | 1 => take r (r.window.readLE a 4) (poisoned (r.s.windowMarks r.c) a 4)
    | _ => take r (r.c.stage.readLE a 4) (poisoned r.c.stagePoison a 4)

/-- Writes the word of an element of a copy when it has been read. -/
def FlyRun.copyWrite (r : FlyRun) (e : Elem) : FlyRun :=
  let a := r.f.dst.toNat + 4 * e.idx
  match r.f.snapshot.getD e.idx none with
  | none => r
  | some (w, bad) =>
    match r.f.dstSpace with
    | 0 => r.writeVia e (8 * a) w.toNat bad
    | 1 =>
      { r with s := r.s.setWindow r.c (r.window.writeWord a w) (r.s.windowMarks r.c), winW := r.winW ++ marked a 4 bad }.finish e
    | _ => { r with c := { r.c with stage := r.c.stage.writeWord a w }, stageW := r.stageW ++ marked a 4 bad }.finish e

/-- A line of a prefetch is brought in; what cannot be is skipped (R238). -/
def FlyRun.prefetch (r : FlyRun) (e : Elem) (bit : Nat) : FlyRun :=
  match r.s.look r.c.core r.c.ctx (bit / 8) (bit / 8) .read with
  | (.ok e1 _, s) =>
    let loc := e1.at_ (bit / 8)
    { r with s := if isHbm loc && !(s.lineOf loc).any (fun (l : LineTag) => l.cached) then s.touchLine loc r.c.ctx e1.tag e1.g false else s }.finish e
  | (_, s) => { r with s := s }.finish e

/-- One element of a command: nothing more is done once a permanent fault or a guarded write has come up. -/
def FlyRun.elem (r : FlyRun) (e : Elem) : FlyRun :=
  if r.perm.isSome || r.guard.isSome || r.f.remote.contains e.idx then r
  else if r.f.op == .cp then r.copyWrite e
  else
    match e.bit with
    | none => r.finish e
    | some bit =>
      match r.f.op with
      | .atm => r.atomic e bit
      | .pf => r.prefetch e bit
      | .out => let v := r.source e; r.writeVia e bit v.1 v.2
      | .sct => let v := r.source e; r.writeVia e bit v.1 v.2
      | _ => r.readVia e bit (fun r v bad => (r.deliver e v bad).finish e)

/-- An element outside the tensor (R230, R233): a read delivers zero and a scale 0x7F, a write skips it. The scales of an
inactive lane of a gather are free values (log 5). -/
def FlyRun.outside (r : FlyRun) (e : Elem) : FlyRun :=
  if r.f.writes || r.f.op == .pf || r.f.op == .mc then r.finish e
  else if e.score.isSome then
    if r.f.perLane && !r.f.lanes.has e.lane then
      let v := r.s.freeValue
      ({ r with s := v.2 }.deliver e (v.1.toNat % 256) false).finish e
    else (r.deliver e 0x7F false).finish e
  else (r.deliver e 0 false).finish e

/-- The first element whose page is guarded against the command's write (R232, R234, R236, R237). -/
def FlyRun.guarded (r : FlyRun) (es : List Elem) : Option Nat :=
  if r.f.writes then
    (es.find? (fun e => e.bit.any (fun b =>
      !ownsGuarded (r.f.principalOf e) &&
        (match (r.s.look r.c.core r.c.ctx (b / 8) ((b + e.width - 1) / 8) r.f.access).1 with
         | .ok e1 e2 => e1.g || e2.g
         | _ => false)))).map (·.idx)
  else none

/-- The engine begins a command: the guarded check, then what lies outside the tensor. -/
def FlyRun.begin (r : FlyRun) (es : List Elem) : FlyRun :=
  if r.f.begun then r
  else
    let copy := r.f.op == .cp
    let f := { r.f with begun := true, todo := es.map (fun e => e.idx), snapshot := if copy then es.map (fun _ => none) else [] }
    let r : FlyRun := { r with f := f }
    match r.guarded es with
    | some k => { r with guard := some k }
    | none => if copy then r else (es.filter (fun e => e.bit.isNone)).foldl (fun r e => r.outside e) r

/-- What a copy has still to read is read before it writes anything more, so that it reads no byte that it has written (R236). -/
def FlyRun.copySource (r : FlyRun) : FlyRun :=
  if r.f.op == .cp then
    ((r.f.elems r.c).filter (fun e => r.f.todo.contains e.idx && !r.f.remote.contains e.idx)).foldl (fun r e =>
      if r.perm.isSome then r else r.copyRead e) r
  else r

/-- Runs the elements still to do among some. -/
def FlyRun.over (r : FlyRun) (es : List Elem) : FlyRun :=
  (es.filter (fun e => r.f.todo.contains e.idx)).foldl (fun r e => r.elem e) r.copySource

/-! ## The end of a run -/

/-- The run as it begins. -/
def flyStart (s : State) (c : Company) (ch : Nat) (f : FlyCmd) : FlyRun :=
  { s := s, c := c, ch := ch, f := f, absent := [], perm := none, guard := none, poison := false, memW := [], stageW := [], scoreW := [], winW := [] }

/-- The bytes of an SRAM that an element of a command is delivered to: of the stage (2), the window (1) or the score (3), the first and the
last. -/
def FlyCmd.delivered (f : FlyCmd) (space : Nat) (e : Elem) : Option (Nat × Nat) :=
  if f.op == .cp then (if f.dstSpace = space then some (f.dst.toNat + 4 * e.idx, f.dst.toNat + 4 * e.idx + 3) else none)
  else if space = 2 then e.cell.map (fun b => (b / 8, (b + e.width - 1) / 8))
  else if space = 3 then e.score.map (fun a => (a, a))
  else none

/-- Whether the command has delivered all that it delivers to a byte, and something of it. -/
def FlyRun.given (r : FlyRun) (space a : Nat) : Bool :=
  let es := (r.f.elems r.c).filter (fun e => (r.f.delivered space e).any (fun d => decide (d.1 ≤ a) && decide (a ≤ d.2)))
  r.f.begun && !es.isEmpty && es.all (fun e => !r.f.todo.contains e.idx)

/-- The state with the run's company, command and marks of poison. -/
def FlyRun.store (r : FlyRun) : State :=
  let f := { r.f with
    stained := (r.f.stained ++ stainsOf (r.stageW ++ r.winW)).eraseDups, stainedScore := (r.f.stainedScore ++ stainsOf r.scoreW).eraseDups }
  let c := { r.c with
    stagePoison := poisonDelivered r.c.stagePoison f.stained (r.given 2) r.stageW
    scorePoison := poisonDelivered r.c.scorePoison f.stainedScore (r.given 3) r.scoreW }
  let s := { r.s with memPoison := poisonAfter r.s.memPoison r.memW }
  let s := if r.winW.isEmpty then s else s.setWindow c ((s.window? c).getD []) (poisonDelivered (s.windowMarks c) f.stained (r.given 1) r.winW)
  s.setCompany (c.modCmd r.f.uid (fun _ => f))

/-- The end of a command (R242): its reader and tags, its target tile, its event. -/
def Company.endCmd (c : Company) (ch : Nat) (f : FlyCmd) (status : Nat) : Company :=
  let c := c.modCmd f.uid (fun f => { f with state := .done })
  let c := { c with engine := c.engine.filter (fun e => e.2.uid != f.uid) }
  let c := if f.reading then c.unreadTile f.tile else c
  let c := if f.op == .inn || f.op == .gth then (if status = 3 then c.unfill f.tile else c.fillDone f.tile) else c
  c.modChorus ch (fun h => let h := h.untag f.tags; if f.ev then h.postEvent status else h)

/-- A command ended by a trap of R241: the trap comes first among those of its chorus. -/
def Company.failCmd (c : Company) (ch : Nat) (f : FlyCmd) (cause : Nat) (tval : Word) : Company :=
  (c.asyncTrap ch { cause := cause, epc := f.epc, tval := tval, scheduler := true, split := 0 }).endCmd ch f 3

/-- Puts an absent page in its place by its element. -/
def putAbsent (a : Nat × Nat × PageRef × Access) : List (Nat × Nat × PageRef × Access) → List (Nat × Nat × PageRef × Access)
  | [] => [a]
  | b :: r => if a.1 ≤ b.1 then a :: b :: r else b :: putAbsent a r

/-- The requests for the absent pages of a run, in ascending order of their lowest element (R254). -/
def FlyRun.request (r : FlyRun) (s : State) : State :=
  (r.absent.foldr putAbsent []).foldl (fun s a =>
    s.pageRequest r.c.ctx a.2.1 a.2.2.1 a.2.2.2 (.fly r.c.uid r.f.uid)) s

/-- Writes the deny records of a command in turn; what is left waits for a page (R260). -/
def denyLoop (s : State) (ctx major : Nat) : List Denial → List Denial × Option (Nat × PageRef) × State
  | [] => ([], none, s)
  | d :: r =>
    match s.denyWrite ctx d major with
    | (.over_, s) => denyLoop s ctx major r
    | (.absent k p, s) => (d :: r, some (k, p), s)

/-- Whether the count of a denial may still rise: an element of its principal that touches its page is still to do. -/
def FlyCmd.growing (f : FlyCmd) (es : List Elem) (d : Denial) : Bool :=
  es.any (fun e => f.todo.contains e.idx && principalNo (f.principalOf e) == d.principal &&
    (f.op == .cp || e.bit.any (fun b => decide (d.page < (b + e.width + 7) / 8) && decide (b / 8 < d.page + d.size))))

/-- The records of the denials that are final are written (R260). One whose write lacks a page waits for the command's end. -/
def State.denyFlush (s : State) (u k : Nat) : State :=
  match (s.company? u).bind (fun c => (c.cmd? k).map (fun p => (c, p.2))) with
  | none => s
  | some (c, f) =>
    let es := f.elems c
    let due := f.denials.filter (fun d => !f.growing es d)
    if due.isEmpty then s
    else
      let q := denyLoop s c.ctx (f.word.toNat / 2) due
      q.2.2.modCompany u (fun c => c.modCmd k (fun f => { f with denials := q.1 ++ f.denials.filter (f.growing es) }))

/-- A command ends with a trap of R241, once its deny records are written (R260). -/
def State.endFailed (s : State) (u k cause : Nat) (tval : Word) : State :=
  match (s.company? u).bind (fun c => (c.cmd? k).map (fun p => (c, p))) with
  | none => s
  | some (c, ch, f) =>
    match denyLoop s c.ctx (f.word.toNat / 2) f.denials with
    | (rest, some (g, p), s) =>
      (s.modCompany u (fun c => c.modCmd k (fun f => { f with denials := rest, failed := some (cause, tval) }))).pageRequest c.ctx g p .write (.fly u k)
    | (_, none, s) => (s.modCompany u (fun c => c.failCmd ch f cause tval)).settleCompany u

/-- The reader of a command that sends its tile to memory is gone once its last stage read is done (R168, R232, R234). -/
def Company.sourceRead (c : Company) (k : Nat) : Company :=
  match c.cmd? k with
  | none => c
  | some (_, f) =>
    if (f.op == .out || f.op == .sct) && f.begun && f.reading && f.todo.all f.remote.contains
    then (c.unreadTile f.tile).modCmd k (fun f => { f with reading := false }) else c

/-- The state after a run: a permanent fault or a guarded write ends the command (R241), poison under an atomic halts the
chorus (R237), and absent pages save the company once everything else of the command is done (R240). -/
def FlyRun.conclude (r : FlyRun) (es : List Elem) : State :=
  let r := if r.absent.isEmpty then r else r.over es
  let s := (r.store.modCompany r.c.uid (fun c => c.sourceRead r.f.uid)).denyFlush r.c.uid r.f.uid
  let stop (cause : Nat) (tval : Word) : State := s.endFailed r.c.uid r.f.uid cause tval
  match r.perm, r.guard with
  | some va, _ => stop 0x0C (faultWord va)
  | none, some k => stop 0x13 (BitVec.ofNat 32 k)
  | none, none =>
    if r.poison then
      let s := s.modCompany r.c.uid (fun c => match c.cmd? r.f.uid with | some (_, f) => c.endCmd r.ch f 3 | none => c)
      s.haltFor r.c.uid r.ch 0x10 r.f.epc 0xFFFFFFFF
    else if r.absent.isEmpty then s.settleCompany r.c.uid
    else (r.request s).saveForFault r.c.uid

/-! ## Order among commands (R243) -/

/-- Whether a command writes the stage or the score. -/
def FlyCmd.fills (f : FlyCmd) : Bool := f.op == .inn || f.op == .gth || f.op == .scl || f.op == .atm

/-- The spaces of touches beyond main memory, the cistern and the stage: the score, main memory by the virtual address of a page that is
absent, and the windows of the members of a multicast group. -/
def scoreSpace : Nat := 3
def absentSpace : Nat := 4
def groupSpace (g : BitVec 16) : Nat := 8 + g.toNat

/-- The entry under which a core finds an address of a context: one that its TLBs hold, or the tables'. -/
def State.mappedOn (s : State) (core ctx va : Nat) : Option TlbEntry :=
  match (s.translate core ctx va .read).1 with
  | .ok e => some e
  | _ => s.mapped ctx va

/-- The bytes of main memory from `va` to `vb`, on one page, that an access touches: at their places whatever the access may do there, since
a page that does not permit it yet may soon; on an absent page at their virtual addresses (R243, R244). -/
def State.touchPage (s : State) (c : Company) (acc : Access) (va vb : Nat) : List (Nat × Nat × Nat × Bool) :=
  match s.mappedOn c.core c.ctx va with
  | some e => (byteLocs.rangeOf va vb).map (fun a => (0, e.at_ a, 1, acc.writes))
  | none => [(absentSpace, va, vb + 1 - va, acc.writes)]

/-- The bytes of main memory from `va` to `vb` that an access touches, on at most two pages. -/
def State.touchBytes (s : State) (c : Company) (acc : Access) (va vb : Nat) : List (Nat × Nat × Nat × Bool) :=
  let next := vb / 4096 * 4096
  if va / 4096 = vb / 4096 then s.touchPage c acc va vb else s.touchPage c acc va (next - 1) ++ s.touchPage c acc next vb

/-- Bytes that an element touches, as they are placed: space, first byte, count and whether it writes. -/
def State.touches (s : State) (c : Company) (f : FlyCmd) (e : Elem) : List (Nat × Nat × Nat × Bool) :=
  let memory (bit : Nat) (acc : Access) : List (Nat × Nat × Nat × Bool) :=
    if f.op == .mc then [(groupSpace f.group, bit / 8, (bit + e.width - 1) / 8 + 1 - bit / 8, true)]
    else s.touchBytes c acc (bit / 8) ((bit + e.width - 1) / 8)
  if f.op == .cp then
    (if f.srcSpace = 0 then memory (8 * (f.src.toNat + 4 * e.idx)) .read else [(f.srcSpace, f.src.toNat + 4 * e.idx, 4, false)]) ++
      (if f.dstSpace = 0 then memory (8 * (f.dst.toNat + 4 * e.idx)) .write else [(f.dstSpace, f.dst.toNat + 4 * e.idx, 4, true)])
  else
    (e.bit.map (fun b => memory b f.access)).getD [] ++
      (match e.cell with
       | some a => [(2, a / 8, (a + e.width - 1) / 8 + 1 - a / 8, f.fills)]
       | none => (e.score.map (fun a => (scoreSpace, a, 1, f.fills))).toList)

/-- Whether two touches meet, one of them writing. -/
def touchMeets (a b : Nat × Nat × Nat × Bool) : Bool :=
  a.1 == b.1 && (a.2.2.2 || b.2.2.2) && decide (a.2.1 < b.2.1 + b.2.2.1) && decide (b.2.1 < a.2.1 + a.2.2.1)

/-- The elements of a command that are not done. -/
def FlyCmd.left (f : FlyCmd) (c : Company) : List Elem :=
  if f.failed.isSome then [] else (f.elems c).filter (fun e => !f.begun || f.todo.contains e.idx || f.remote.contains e.idx)

/-- Whether an element touches a page with SC; a copy does with its source too (R279). A page that is absent counts as `absent` says: it
may turn out to have SC. -/
def State.touchesSc (s : State) (c : Company) (f : FlyCmd) (absent : Bool) (e : Elem) : Bool :=
  let on (va : Nat) : Bool := match s.mappedOn c.core c.ctx va with | some e => e.sc | none => absent
  (f.op == .cp && f.srcSpace == 0 && on (f.src.toNat + 4 * e.idx)) ||
    (f.op != .mc && e.bit.any (fun b => on (b / 8) || on ((b + e.width - 1) / 8)))

/-- The acknowledgement record that a multicast is to write in the stage (R268, R382). -/
def FlyCmd.ackTouch (f : FlyCmd) : List (Nat × Nat × Nat × Bool) := if f.op == .mc then [(2, f.ackAddr, 64, true)] else []

/-- Whether earlier commands of the chorus hold some elements of a command: a byte in common, or SC pages in both. -/
def State.heldBack (s : State) (c : Company) (ch : Nat) (f : FlyCmd) (es : List Elem) : Bool :=
  let mine := es.flatMap (fun e => s.touches c f e) ++ f.ackTouch
  let sc := es.any (fun e => s.touchesSc c f false e)
  (c.earlier ch f.uid).any (fun g =>
    ((g.left c).flatMap (fun e => s.touches c g e) ++ g.ackTouch).any (fun t => mine.any (touchMeets t)) ||
      (sc && (g.elems c).any (fun e => s.touchesSc c g true e)))

/-! ## Multicast (R382, R383) -/

/-- The element writes that a `fly.mc` sends: bit offset in the window, width and code. -/
def FlyRun.multicast (r : FlyRun) (es : List Elem) : List (Nat × Nat × Nat) :=
  es.filterMap (fun e => e.bit.map (fun b => (b, e.width, (r.source e).1)))

/-- The acknowledgement record as a number. -/
def ackRecord (g : BitVec 16) (a : AggregateAck) : Nat :=
  let entry (k : Nat) : Nat := match (a.negatives.take 12)[k]? with | some n => (n.1 % 16 * 4096 + n.2 % 4096) * 2 ^ (128 + 32 * k) | none => 0
  total ((List.range 12).map entry) + a.negatives.length * 2 ^ 96 + a.positive * 2 ^ 64 + a.members * 2 ^ 32 + g.toNat

/-- Request identifiers for the members of a group but this device, one for each (R382). -/
def State.memberIds (s : State) : List (BitVec 12) → List (BitVec 12 × BitVec 32) × State
  | [] => ([], s)
  | d :: rest =>
    if d == s.deviceId then s.memberIds rest
    else
      let i := s.nextIdent d
      let r := i.2.memberIds rest
      ((d, i.1) :: r.1, r.2)

/-- Sends a multicast: every stage read is done, and the command waits for its acknowledgement. -/
def FlyRun.send (r : FlyRun) (es : List Elem) : State :=
  let p := r.f.principalOf { idx := 0, lane := r.f.leader, bit := none, width := 0, cell := none, score := none }
  let bad := es.any (fun e => e.bit.isSome && (r.source e).2)
  let f := { r.f with begun := true, todo := [], reading := false }
  let c := (r.c.unreadTile r.f.tile).modCmd r.f.uid (fun _ => f)
  let s := r.s.setCompany c
  let q := { s with free := s.free + 1 }.memberIds (Config.members s.free r.f.group).eraseDups
  let first := q.1.headD (s.deviceId, BitVec.ofNat 32 s.uid)
  q.2.fresh.2.transmit
    { dest := first.1, ident := first.2, plainRead := false, retried := false, held := false, port := none, sentAt := 0,
      asker := .fly r.c.uid r.ch r.f.uid 0, what := .multicast r.f.group (principalNo p) (p.getLsbD 31) bad (r.multicast es) q.1, stale := false }

/-! ## The events -/

/-- Whether a command may write its target: a claimed tile is written only once it is filling (R169). -/
def Company.targetOpen (c : Company) (f : FlyCmd) : Bool :=
  !(f.op == .inn || f.op == .gth) || (c.tile? f.tile).any (fun t => t.state == .filling)

/-- The pages that some elements of a command need and that no TLB of its core serves: address and access. -/
def State.missing (s : State) (c : Company) (f : FlyCmd) (es : List Elem) : List (Nat × Access) :=
  let k := s.core c.core
  let hit (a : Nat × Access) : Bool :=
    ((tlbFind k.tlb c.ctx a.1).orElse (fun _ => tlbFind (s.cluster (clusterOf c.core)).l2 c.ctx a.1)).any (fun e => e.serves a.2)
  let want (e : Elem) : List (Nat × Access) :=
    (if f.op == .cp && f.srcSpace == 0 then [(f.src.toNat + 4 * e.idx, Access.read)] else []) ++
      (match e.bit with
       | some b => if f.op == .mc then [] else [(b / 8, f.access), ((b + e.width - 1) / 8, f.access)]
       | none => [])
  (es.flatMap want).filter (fun a => !hit a)

/-- The page that a walk for an address will find, by its first byte; a page that is absent counts as found so (R239). -/
def State.pageFound (s : State) (ctx va : Nat) (acc : Access) : Nat × Nat :=
  match (s.translateFront ctx va acc).1 with
  | .ok e => (0, e.va)
  | .absent k p => (k, p.base)
  | .bad => (3, va)

/-- Begins a walk for a page, unless one is under way for it or no walker of the die is free (R239, R251). -/
def State.beginWalk (s : State) (c : Company) (f : FlyCmd) (a : Nat × Access) : State :=
  if s.walks.any (fun w => w.ctx == c.ctx && w.core == c.core && w.access == a.2.code &&
      s.pageFound c.ctx w.va.toNat a.2 == s.pageFound c.ctx a.1 a.2) ||
    decide (walkerCount ≤ (s.walks.filter (fun w => dieOfCore w.core == dieOfCore c.core)).length) then s
  else
    let u := s.fresh
    { u.2 with walks := s.walks ++
        [{ uid := u.1, ctx := c.ctx, core := c.core, va := BitVec.ofNat 64 a.1, access := a.2.code, who := .fly c.uid f.uid, stale := false }] }

/-- `fly_line_complete` (R239). A line request completes: its elements are checked and written. Pages that no TLB serves
are walked for first (R251). -/
def execFlyLineComplete (s : State) : Out :=
  match s.actor? s.arg.a with
  | none => .next s
  | some c =>
    match c.cmd? s.arg.b with
    | none => .next s
    | some (ch, f) =>
      let es := f.elems c
      let line := es.filter (fun e => f.lineOf e == s.arg.c && (!f.begun || f.todo.contains e.idx))
      if f.state != .handed || f.failed.isSome || !c.targetOpen f || s.heldBack c ch f (if f.begun then line else es) then .next s
      else if f.op == .mc then (if f.begun then .next s else .next ((flyStart s c ch f).send es))
      else if !(s.missing c f line).isEmpty then .next ((s.missing c f line).foldl (fun s a => s.beginWalk c f a) s)
      else .next ((((flyStart s c ch f).begin es).over line).conclude es)

/-- An access of its code. -/
def accessOf (n : Nat) : Access :=
  match n with
  | 0 => .read
  | 1 => .write
  | 2 => .fetch
  | _ => .rmw

/-- What a fault found by a walk does to the command that waits for it: all of the command that translates is done, and
the rest records its bitmap (R240). A command that an earlier one holds back takes it later (R243). -/
def State.walkFault (s : State) (w : Walk) : State :=
  match w.who with
  | .fly u k =>
    match (s.company? u).bind (fun c => (c.cmd? k).map (fun p => (c, p))) with
    | some (c, ch, f) =>
      let es := f.elems c
      if f.state == .handed && f.failed.isNone && s.acts c then (((flyStart s c ch f).begin es).over es).conclude es else s
    | none => s
  | _ => s

/-- Whether earlier commands hold back the command that a walk is for. -/
def State.walkHeld (s : State) (w : Walk) : Bool :=
  match w.who with
  | .fly u k =>
    match (s.company? u).bind (fun c => (c.cmd? k).map (fun p => (c, p))) with
    | some (c, ch, f) => s.heldBack c ch f (f.elems c)
    | none => false
  | _ => false

/-- `page_walk_complete` (R251). A walk ends: its result enters the TLBs, or its fault is raised. The result of a walk that
an invalidation found under way enters none (R253). -/
def execPageWalkComplete (s : State) : Out :=
  match s.walks.find? (fun w => w.uid == s.arg.a) with
  | none => .next s
  | some w =>
    let gone : State := { s with walks := s.walks.filter (fun v => v.uid != w.uid) }
    if w.stale then .next gone
    else
      match gone.translate w.core w.ctx w.va.toNat (accessOf w.access) with
      | (.ok _, t) => .next t
      | (_, t) => if s.walkHeld w then .next s else .next (t.walkFault w)

/-- Whether nothing of a command is left to do. -/
def FlyCmd.isOver (f : FlyCmd) : Bool := f.begun && f.todo.isEmpty && f.remote.isEmpty && (f.op != .mc || f.ack.isSome)

/-- The acknowledgement record in the stage. -/
def Company.writeAck (c : Company) (f : FlyCmd) : Company :=
  match f.ack with
  | some a => { c with stage := c.stage.writeLE f.ackAddr 64 (ackRecord f.group a), stagePoison := poisonClear c.stagePoison f.ackAddr 64 }
  | none => c

/-- The status that a command completes with (R242, R382). -/
def FlyCmd.endStatus (f : FlyCmd) : Nat :=
  if f.denied || f.ack.any (fun a => !a.negatives.isEmpty) then 1 else 0

/-- `fly_command_complete` (R241, R242). A command completes, or ends with its trap, once its deny records are written; a command
without elements completes at once. -/
def execFlyCommandComplete (s : State) : Out :=
  match s.actor? s.arg.a with
  | none => .next s
  | some c =>
    match c.cmd? s.arg.b with
    | none => .next s
    | some (ch, f) =>
      let empty := (f.elems c).isEmpty && f.op != .mc && !f.begun && !s.heldBack c ch f []
      if f.state == .handed && f.failed.isSome then
        .next (match f.failed with | some (cause, tval) => s.endFailed c.uid f.uid cause tval | none => s)
      else if f.state == .handed && c.targetOpen f && (f.isOver || empty) then
        match denyLoop s c.ctx (f.word.toNat / 2) f.denials with
        | (rest, some (k, p), s) =>
          .next ((s.modCompany c.uid (fun c => c.modCmd f.uid (fun f => { f with denials := rest }))).pageRequest c.ctx k p .write (.fly c.uid f.uid))
        | (_, none, s) =>
          .next ((s.modCompany c.uid (fun c => (c.writeAck f).endCmd ch f f.endStatus)).settleCompany c.uid)
      else .next s

end Sys2Proof.Machine
end

