-- ==== Sys2Proof/Machine/Place.lean ====
section
/-!
DEFINITION. Placement: the resources of a core and a cluster, admission of troupes, the state of a new company, and the
restore of a company (R11 to R13, R146, R161, R166, R188, R190, R210 to R214, R221, R223, R312, R317, R346).
-/
namespace Sys2Proof.Machine

/-! ## The green room (R342) -/

/-- The longest bitmap of a fly command: one bit for each word of a copy of 16 MiB (R236, R240). -/
def bitmapRoom : Nat := 524288

/-- Bytes of the context header at the start of a green room. -/
def greenHeader : Nat := 128

/-- The frame of a company: the longest image of it (R342 to R345). The frame of a troupe's first company has room for the run's
window on its die. -/
def Playbill.frameSize (p : Playbill) (window : Nat) : Nat :=
  128 + 16 * (9 + p.choruses) + 64 + 392 + p.choruses * (0x4C80 + 128 * p.ring) + p.stage + 16 * p.tiles.length + 4096 +
    (64 + total (p.pit.map (fun r => 1024 * r.capacity))) + 128 * p.scoreSlots + 32 * (1032 + bitmapRoom) + window

/-- The size of the frame of company `m` of a troupe of a run. -/
def Run.frameSize (r : Run) (m : Nat) : Nat := r.playbill.frameSize (if m = 0 then r.window else 0)

/-- The frames that companies of a context hold: address and size. -/
def State.framesHeld (s : State) (ctx : Nat) : List (Nat × Nat) :=
  (s.companies.filter (fun k => k.ctx == ctx && k.state != .complete)).map (fun k =>
    (k.frame, k.playbill.frameSize (if k.index = 0 then ((s.run? ctx k.run).map (·.window)).getD 0 else 0)))

/-- Whether two ranges of bytes meet. -/
def rangesMeet (a b : Nat × Nat) : Bool := decide (a.1 < b.1 + b.2) && decide (b.1 < a.1 + a.2)

/-- Room for a frame in a green room from `lo` to `hi` beside the frames held: at its start or after one of them. -/
def frameAt (held : List (Nat × Nat)) (lo hi size : Nat) : Option Nat :=
  (lo :: held.map (fun f => f.1 + f.2)).find? (fun a => decide (lo ≤ a) && decide (a + size ≤ hi) && !held.any (rangesMeet (a, size)))

/-- Frames of some sizes, one after the other. -/
def framesAt (held : List (Nat × Nat)) (lo hi : Nat) : List Nat → Option (List Nat)
  | [] => some []
  | n :: r => (frameAt held lo hi n).bind (fun a => (framesAt ((a, n) :: held) lo hi r).map (a :: ·))

/-- Frames for companies of a context, of some sizes. -/
def State.reserve (s : State) (ctx : Nat) (sizes : List Nat) : Option (List Nat) :=
  (s.context? ctx).bind (fun c => framesAt (s.framesHeld ctx) (c.green + greenHeader) (c.green + c.greenSize) sizes)

/-! ## Resources of a core (R11, R146, R161, R166, R188, R190) -/

/-- What a core offers. -/
def coreSlots : Nat := 96
def coreRows : Nat := 6144
def coreStage : Nat := 786432
def coreTiles : Nat := 256
def coreScore : Nat := 255

/-- Register rows of a company of a playbill: 16 house rows and the ring for each chorus. -/
def Playbill.rows (p : Playbill) : Nat := p.choruses * (16 + p.ring)

/-- Whether two block ranges overlap. -/
def overlaps (a n b m : Nat) : Bool := n != 0 && m != 0 && decide (a < b + m) && decide (b < a + n)

/-- Whether the pit maps of two playbills overlap. -/
def pitClash (p q : Playbill) : Bool :=
  p.pit.any (fun r => q.pit.any (fun t => overlaps r.base r.capacity t.base t.capacity))

/-- The companies that hold chorus slots and rows of a core, and those that hold its stage, tiles, pit and score: a
company saved for a fault keeps room until it is restored; of a company of a spread group, the slots and rows serve meanwhile other
companies that are ready, but not an admission (R213). -/
def State.slotHolders (s : State) (core : Nat) (newcomer : Bool) : List Company :=
  s.companies.filter (fun k => k.core == core && (k.state == .running || (k.state == .faultSaved && (newcomer || !k.keepsCore))))
def State.stageHolders (s : State) (core : Nat) : List Company :=
  s.companies.filter (fun k => k.core == core && (k.state == .running || k.state == .faultSaved))

/-- A first score slot for a playbill among those that hold slots of a core: the one it names, else the lowest that fits. -/
def scoreSlot (held : List Company) (p : Playbill) : Option Nat :=
  let free (a : Nat) : Bool :=
    decide (a + p.scoreSlots ≤ coreScore) && held.all (fun k => !overlaps a p.scoreSlots (k.playbill.scoreBase.getD 0) k.playbill.scoreSlots)
  match p.scoreBase with
  | some a => if free a then some a else none
  | none => (List.range (coreScore + 1)).find? free

/-- Whether a core has room for a company of a playbill. -/
def State.coreRoom (s : State) (core : Nat) (p : Playbill) (newcomer : Bool) : Bool :=
  let hs := s.slotHolders core newcomer
  let st := s.stageHolders core
  !(s.core core).outOfService &&
    decide (total (hs.map (fun k => k.playbill.choruses)) + p.choruses ≤ coreSlots) &&
    decide (total (hs.map (fun k => k.playbill.rows)) + p.rows ≤ coreRows) &&
    decide (total (st.map (fun k => k.playbill.stage)) + p.stage ≤ coreStage) &&
    decide (total (st.map (fun k => k.playbill.tiles.length)) + p.tiles.length ≤ coreTiles) &&
    st.all (fun k => !pitClash p k.playbill) && (scoreSlot st p).isSome

/-- Ranges of score slots of a playbill that can be taken one after the other beside those held. -/
def scoreRanges (p : Playbill) : Nat → List (Nat × Nat) → Nat
  | 0, _ => 0
  | n + 1, held =>
    match (List.range (coreScore + 1)).find? (fun a => decide (a + p.scoreSlots ≤ coreScore) && held.all (fun h => !overlaps a p.scoreSlots h.1 h.2)) with
    | some a => 1 + scoreRanges p n ((a, p.scoreSlots) :: held)
    | none => 0

/-- How many companies of a playbill a core has room for: none unless it has room for one. -/
def State.coreCapacity (s : State) (core : Nat) (p : Playbill) : Nat :=
  if !s.coreRoom core p true then 0
  else
    let hs := s.slotHolders core true
    let st := s.stageHolders core
    let left (all held each : Nat) : Nat := if each = 0 then coreSlots else (all - held) / each
    let linear := (List.foldl Nat.min (left coreSlots (total (hs.map (fun k => k.playbill.choruses))) p.choruses)
      [left coreRows (total (hs.map (fun k => k.playbill.rows))) p.rows, left coreStage (total (st.map (fun k => k.playbill.stage))) p.stage,
       left coreTiles (total (st.map (fun k => k.playbill.tiles.length))) p.tiles.length])
    let alone := p.pit.any (fun r => r.capacity != 0) || (p.scoreBase.isSome && p.scoreSlots != 0)
    if alone then 1
    else if p.scoreSlots = 0 then linear
    else Nat.min linear (scoreRanges p coreSlots (st.map (fun k => (k.playbill.scoreBase.getD 0, k.playbill.scoreSlots))))

/-! ## Chorus slots (R146) -/

/-- Slots of a bay. -/
def baySlots (bay : Nat) : List Nat := (List.range 24).map (24 * bay + ·)

/-- The lowest free slot of the bay with the most free slots, ties to the lower bay. -/
def nextSlot (used : List Nat) : Nat :=
  let free (b : Nat) : List Nat := (baySlots b).filter (fun x => !used.contains x)
  let best := (List.range 4).foldl (fun b k => if (free b).length < (free k).length then k else b) 0
  (free best).headD 0

/-- Slots for `n` choruses in turn. -/
def takeSlots (n : Nat) (used : List Nat) : List Nat :=
  match n with
  | 0 => []
  | n + 1 => let x := nextSlot used; x :: takeSlots n (used ++ [x])

/-- Slots that the running companies of a core use. -/
def State.usedSlots (s : State) (core : Nat) : List Nat :=
  (s.companies.filter (fun k => k.core == core && k.state == .running)).flatMap (fun k => k.choruses.map (·.slot))

/-- Gives the choruses of a company their slots on a core. -/
def Company.seat (c : Company) (core : Nat) (slots : List Nat) : Company :=
  { c with
    core := core
    choruses := (c.choruses.zip slots).map (fun p => { p.1 with slot := p.2, readyAge := 0, bandWait := 0, issued := false, refused := false }) }

/-! ## A new company (R13, R19, R168, R180, R184, R188, R312) -/

/-- The split that a chorus starts with. -/
def Split.root (m : Mask) (p : Playbill) : Split :=
  { members := m, xm := m, wb := 0, depth := 0, frame := Nat.min 48 p.ring, pc := BitVec.ofNat 32 p.entry, joinPc := noJoin, fmt := p.fmt.setWidth 16,
    mem := 0, state := .running, wait := .none, spilled := false, place := 0, owed := false, issues := 0 }

/-- A chorus at company start (R13). -/
def Chorus.start (i : Nat) (p : Playbill) (lanes : Nat) (pli : List (BitVec 5)) (well : BitVec 64) (troupe company : Nat) : Chorus :=
  let m := lowLanes lanes
  let row (v : Nat) : Lanes := Lanes.ofFn (fun l => if l < lanes then BitVec.ofNat 32 v else 0)
  { index := i, populated := m, exited := 0, pli := pli
    house := [Lanes.zero, row i, row p.paramOffset, row troupe, row company] ++ List.replicate 11 Lanes.zero
    ring := List.replicate p.ring Lanes.zero, low := 0, high := p.ring, top := p.ring
    splits := if m == 0 then [] else [Split.root m p], joins := []
    cues := List.replicate 8 .unresolved, latches := noLatches, chain := none, wellp := 0, wellBase := well, inflight := []
    slots := List.replicate 8 { length := 0, space := 0, base := 0 }, counters := List.replicate 8 (0, 0)
    phases := List.replicate 8 false, timers := List.replicate 4 none, pending := 0, queue := [], queuePoison := [], collectives := 0, events := 0
    cause := 0, epc := 0, tval := 0, fm := 0, handler := false, cycHi := 0, vtHi := 0, msgvt := 0, msgvtHi := 0, stageHi := 0
    traps := [], pump := none, requests := [], failed := [], served := none, slot := 0, readyAge := 0, bandWait := 0, issued := false, refused := false, fetching := false, memWait := 0
    halted := none, ended := false, swept := false, poison := [], upset := Lanes.zero }

/-- The well of a chorus (R312). -/
def Run.wellOf (r : Run) (t m c : Nat) : BitVec 64 :=
  r.wells + BitVec.ofNat 64 (((t * r.playbill.companies + m) * r.playbill.choruses + c) * r.playbill.wellSize)

/-- A company at its start. -/
def Company.start (uid : Nat) (r : Run) (t m core : Nat) (score frame : Nat) : Company :=
  let p := { r.playbill with scoreBase := some score }
  { uid := uid, ctx := r.ctx, run := r.id, troupe := t, index := m, core := core, state := .running, faulted := false, saving := false, cyc := 0
    playbill := p, code := r.code, stage := Memory.writeBytes [] p.paramOffset r.params, stagePoison := []
    tiles := p.tiles, handles := List.replicate 64 none
    barriers := List.replicate 16 { phase := 0, arrived := [], target := 0 }, abandoned := false, pit := p.pit, acc := [], accPoison := [], score := []
    scorePoison := [], principals := r.principals
    choruses := (List.range p.choruses).map (fun c =>
      Chorus.start c p r.lanes ((r.pliMap.drop (32 * c)).take 32) (r.wellOf t m c) t m)
    engine := [], ops := [], mxUpset := [], keepsCore := decide (m / 4 * 4 + 4 ≤ p.companies), firstHalt := none, frame := frame }

/-! ## Clusters for a troupe (R210 to R213) -/

/-- The core of a square at position `p` of a spread group, in a cluster. -/
def squareCore (cluster square p : Nat) : Nat := 8 * cluster + p / 2 * 4 + 2 * square + p % 2

/-- The squares that the spread groups of a troupe may take, in order of preference. -/
def squareChoices (groups : Nat) : List (List Nat) :=
  match groups with
  | 0 => [[]]
  | 1 => [[0], [1]]
  | _ => [[0, 1]]

/-- A core put in its place among others: more room first, and the lower number among equals. -/
def putCore (room : Nat → Nat) (k : Nat) : List Nat → List Nat
  | [] => [k]
  | m :: r => if room m < room k || (room m == room k && decide (k < m)) then k :: m :: r else m :: putCore room k r

/-- Free cores of a cluster for the companies beyond the spread groups: those with the most room, so that no order of cores keeps a
troupe out that fits (R317, log 24). -/
def looseCores (room : Nat → Nat) (free : List Nat) (n : Nat) : Option (List Nat) :=
  if n ≤ free.length then some ((free.foldr (putCore room) []).take n) else none

/-- Cores for the companies of a troupe, in order of their indices, given for how many companies each core has room. -/
def coresFor (cluster companies : Nat) (room : Nat → Nat) : Option (List Nat) :=
  (squareChoices (companies / 4)).findSome? (fun sq =>
    let grouped := sq.flatMap (fun q => (List.range 4).map (squareCore cluster q))
    if grouped.all (fun k => decide (0 < room k)) then
      (looseCores room (((List.range 8).map (8 * cluster + ·)).filter (fun k => decide (0 < room k) && !grouped.contains k)) (companies % 4)).map (grouped ++ ·)
    else none)

/-- Whether a cluster serves a context: it holds it, is available, its die is in service, and it has power. -/
def State.clusterServes (s : State) (cluster ctx : Nat) : Bool :=
  let c := s.cluster cluster
  c.owner == some ctx && c.available && c.power == .on && !(s.die (dieOfCluster cluster)).outOfService

/-- Bytes of the context's quota on a die that no window holds (R223). -/
def State.quotaLeft (s : State) (ctx die : Nat) : Nat :=
  let q := ((s.context? ctx).bind (fun c => c.quotas[die]?)).getD 0
  q - total ((s.runs.filter (fun r => r.ctx == ctx && r.windows.any (fun w => w.1 == die))).map (·.window))

/-- Whether a run has its window on a die, or can be granted it. -/
def State.windowOk (s : State) (r : Run) (die : Nat) : Bool :=
  r.window == 0 || r.windows.any (fun w => w.1 == die) || decide (r.window ≤ s.quotaLeft r.ctx die)

/-- The cores on which a cluster would take the next troupe of a run. -/
def State.fit (s : State) (r : Run) (cluster : Nat) : Option (List Nat) :=
  if s.clusterServes cluster r.ctx && s.windowOk r (dieOfCluster cluster)
  then coresFor cluster r.playbill.companies (fun k => s.coreCapacity k r.playbill)
  else none

/-- The window of a run on a die, granted when it has none there; it reads zero (R223). -/
def State.grantWindow (s : State) (r : Run) (die : Nat) : State :=
  s.modRun r.ctx r.id (fun r =>
    if r.window == 0 || r.windows.any (fun w => w.1 == die) then r else { r with windows := r.windows ++ [(die, [])] })

/-- The banks in which a company has rows are awake as it takes its place: the device has just written them (R13, R157, log 22). -/
def State.wakeRows (s : State) (c : Company) : State :=
  let bs := (s.rowsOn c.core).filter (fun r => r.1 == c.uid)
  let mine (b : Nat) : Bool := bs.any (fun p => decide (p.2.2 < 128 * b + 128) && decide (128 * b < p.2.2 + 16 + p.2.1.ring.length))
  let k := s.core c.core
  s.setCore { k with drowsy := k.drowsy.filter (fun b => !mine b), waking := k.waking.filter (fun w => !mine w.1) }

/-- A company takes its place on a core: its score slots and its chorus slots. A core that was idle has gone on with its
cycles, so the company finds a band already set (R150). -/
def State.settleOn (s : State) (c : Company) : State :=
  let c := c.seat c.core (takeSlots c.choruses.length (s.usedSlots c.core))
  let s := s.setCore (if s.coreRuns c.core then s.core c.core else (s.core c.core).idleTo s.now (s.pointOf c.core))
  let s := if s.companies.any (fun k => k.uid == c.uid) then s.setCompany c else { s with companies := s.companies ++ [c] }
  s.wakeRows c

/-- Places one company of a troupe: its index, its core and its frame. -/
def State.placeCompany (s : State) (r : Run) (t : Nat) (mk : Nat × Nat × Nat) : State :=
  let u := s.fresh
  let slot := (scoreSlot (u.2.stageHolders mk.2.1) r.playbill).getD 0
  u.2.settleOn (Company.start u.1 r t mk.1 mk.2.1 slot mk.2.2)

/-- Numbers the elements of a list from 0. -/
def indexed {α : Type} (l : List α) : List (Nat × α) := numberFrom 0 l
where
  /-- Numbers from `k`. -/
  numberFrom (k : Nat) : List α → List (Nat × α)
    | [] => []
    | a :: r => (k, a) :: numberFrom (k + 1) r

/-- Frees the windows of a run on the dies where no troupe of it is resident, once none remains to be placed (R223). -/
def State.freeWindows (s : State) (ctx run : Nat) : State :=
  match s.run? ctx run with
  | none => s
  | some r =>
    if r.nextTroupe < r.troupes then s
    else
      let held (die : Nat) : Bool := s.troupes.any (fun t => t.ctx == ctx && t.run == run && dieOfCluster t.cluster == die)
      s.modRun ctx run (fun r => { r with
        windows := r.windows.filter (fun w => held w.1), windowPoison := r.windowPoison.filter (fun w => held w.1) })

/-- Places the next troupe of a run on a cluster, once the frames of its companies are reserved (R342). -/
def State.placeTroupe (s : State) (ctx run cluster : Nat) : Option State :=
  match s.run? ctx run with
  | none => none
  | some r =>
    match s.fit r cluster, s.reserve ctx ((List.range r.playbill.companies).map r.frameSize) with
    | some cores, some frames =>
      let t := r.nextTroupe
      let s := s.grantWindow r (dieOfCluster cluster)
      let b : TroupeBarrier := { phase := 0, arrivals := [], arrived := [], counts := [], target := none }
      let tr : Troupe :=
        { ctx := ctx, run := run, index := t, cluster := cluster, barriers := List.replicate 4 b, abandoned := false }
      let s := { s with troupes := s.troupes ++ [tr] }
      let s := s.modRun ctx run (fun r => { r with nextTroupe := t + 1, placedAt := r.placedAt.orElse (fun _ => some (s.vtTicks ctx)) })
      some (((indexed (cores.zip frames)).foldl (fun s mk => s.placeCompany r t mk) s).freeWindows ctx run)
    | _, _ => none

/-! ## Admission (R317) -/

/-- The runs of a context that still have troupes to place, in the order of admission. -/
def State.waitingRuns (s : State) (ctx : Nat) : List Run :=
  let rs := s.runs.filter (fun r => r.ctx == ctx && decide (r.nextTroupe < r.troupes) && r.ending.isNone)
  (List.range 4).flatMap (fun k => rs.filter (fun r => r.prio == 3 - k))

/-- Places every remaining troupe of a concurrent run, each on the lowest cluster that fits. -/
def placeAll (fuel : Nat) (s : State) (ctx run : Nat) : Option State :=
  match s.run? ctx run with
  | none => none
  | some r =>
    if r.troupes ≤ r.nextTroupe then some s
    else
      match fuel with
      | 0 => none
      | n + 1 => (clusterIds.findSome? (fun k => s.placeTroupe ctx run k)).bind (fun s => placeAll n s ctx run)

/-- What placing a run on a cluster gives: a concurrent run is placed whole, another one troupe. -/
def State.placement (s : State) (r : Run) (cluster : Nat) : Option State :=
  if r.cls == 0 then placeAll (Nat.min r.troupes 36865) s r.ctx r.id
  else s.placeTroupe r.ctx r.id cluster

/-- Whether a run has its turn: every run before it in the order neither fits anywhere nor holds the others back. -/
def State.mayPlace (s : State) (r : Run) : Bool :=
  ((s.waitingRuns r.ctx).takeWhile (fun q => q.id != r.id)).all (fun q =>
    !q.holding && clusterIds.all (fun k => (s.placement q k).isNone))

/-- `troupe_place` (R212, R317). The box office places the next troupe of a run, or a concurrent run whole. -/
def execTroupePlace (s : State) : Out :=
  match s.run? s.arg.a s.arg.b with
  | none => .next s
  | some r =>
    if (s.context? r.ctx).any (fun c => c.onStage && !c.leaves) && r.ending.isNone && r.killed.isNone && decide (r.nextTroupe < r.troupes) && s.mayPlace r then
      match s.placement r s.arg.c with
      | some t => .next t
      | none => .next s
    else .next s

/-- Ticks of `vt` after which an unplaced run holds later ones back: 1 ms. -/
def holdTicks : Nat := 1000000 * ticksPerNs

/-- `admission_order_hold` (R317). A run that has waited 1 ms of `vt` holds later runs back until it is placed. -/
def execAdmissionOrderHold (s : State) : Out :=
  match s.run? s.arg.a s.arg.b with
  | none => .next s
  | some r =>
    if decide (r.nextTroupe < r.troupes) && decide (r.accepted + holdTicks ≤ s.vtTicks r.ctx)
    then .next (s.modRun r.ctx r.id (fun r => { r with holding := true })) else .next s

/-! ## Restore (R213, R275, R337, R346) -/

/-- A chorus as a restore leaves it: its commands are tagged again under phase 0. -/
def Chorus.retag (h : Chorus) : Chorus :=
  let fp (f : FlyCmd) : List Span := f.footprint.map (fun p => { space := p.1, base := p.2.1, len := p.2.2 })
  h.queue.foldl (fun g q =>
    match q with
    | .fly f =>
      let t := g.tagsFor (fp f)
      { g.tag t with queue := g.queue.map (fun r => match r with | .fly e => if e.uid == f.uid then .fly { e with tags := t } else .fly e | r => r) }
    | _ => g) h

/-- Tags the recorded commands of the engine again, and hands them back to it. -/
def Company.retagEngine (c : Company) : Company :=
  c.engine.foldl (fun c e =>
    match c.chorus? e.1 with
    | none => c
    | some h =>
      let t := h.tagsFor (e.2.footprint.map (fun p => { space := p.1, base := p.2.1, len := p.2.2 }))
      (c.setChorus (h.tag t)).modCmd e.2.uid (fun f => { f with tags := t, state := if f.state == .recorded then .handed else f.state })) c

/-- A well access that a fault stopped is performed again (R138). -/
def Chorus.again (h : Chorus) : Chorus :=
  { h with splits := updWhere (fun (p : Split) => p.wait == .fault) (fun p => { p with wait := .none, state := SplitState.ready }) h.splits }

/-- The playbill of a company as its run has it: one that takes any score slots names none (R306). -/
def State.asked (s : State) (c : Company) : Playbill :=
  { c.playbill with scoreBase := (s.run? c.ctx c.run).bind (·.playbill.scoreBase) }

/-- The first score slot that a company gets back on a core: its old one where that is free, else as its playbill asks. -/
def State.slotAgain (s : State) (c : Company) (core : Nat) : Option Nat :=
  let held := (s.stageHolders core).filter (fun k => k.uid != c.uid)
  (scoreSlot held c.playbill).orElse (fun _ => scoreSlot held (s.asked c))

/-- A company restored on a core of which it gets score slots from `slot` on runs again: its waits that ended meanwhile end now
(R337). -/
def State.runAgain (s : State) (c : Company) (core slot : Nat) : State :=
  let c := { c with
    state := .running, faulted := false, core := core
    playbill := { c.playbill with scoreBase := some slot }
    choruses := c.choruses.map (fun (h : Chorus) => h.again.retag) }
  let c := c.retagEngine
  let s := s.settleOn c
  (s.setCompany { (s.company? c.uid).getD c with choruses := ((s.company? c.uid).getD c).choruses.map Chorus.choose }).settleCompany c.uid

/-- Restores a company on a core that has room for it. -/
def State.resumeCompany (s : State) (u core : Nat) : State :=
  match s.company? u with
  | none => s
  | some c => match s.slotAgain c core with | some slot => s.runAgain c core slot | none => s

/-- Whether a core may take a company back (R213): a company of a spread group only the core it left, any other a core of
its cluster with room and no other company of its troupe. -/
def State.mayRestore (s : State) (c : Company) (core : Nat) : Bool :=
  let t := { s with companies := s.companies.filter (fun k => k.uid != c.uid) }
  (if c.keepsCore then core == c.core else clusterOf core == clusterOf c.core) && t.coreRoom core (s.asked c) false &&
    t.companies.all (fun k => !(k.core == core && k.ctx == c.ctx && k.run == c.run && k.troupe == c.troupe && k.state != .complete))

end Sys2Proof.Machine
end

