-- ==== Sys2Proof/Machine/Seal.lean ====
section
/-!
DEFINITION. The seal of a save image (R343): AES-CMAC of NIST SP 800-38B over its bytes. Blocks are lists of 16 bytes, first byte first.
-/
namespace Sys2Proof.Machine

/-! ## AES -/

/-- The substitution table of AES, 32 entries to a number, the first in its lowest byte. -/
def sboxRows : List Nat :=
  [0xC072A49CAFA2D4ADF04759FA7DC982CA76ABD7FE2B670130C56F6BF27B777C63,
   0x75B227EBE28012079A059618C323C7041531D871F1E5A534CCF73F362693FDB7,
   0xCF584C4A39BECB6A5BB1FC20ED00D153842FE329B3D63B52A05A6E1B1A2C8309,
   0xD2F3FF1021DAB6BCF5389D928F40A351A89F3C507F02F94585334D43FBAAEFD0,
   0xDB0B5EDE14B8EE4688902A22DC4F816073195D643D7EA7C41744975FEC130CCD,
   0x08AE7A65EAF4566CA94ED58D6D37C8E779E4959162ACD3C25C2406490A3A32E0,
   0x9E1DC186B95735610EF6034866B53E708A8BBD4B1F74DDE8C6B4A61C2E2578BA,
   0x16BB54B00F2D99416842E6BF0D89A18CDF2855CEE9871E9B948ED9691198F8E1]

/-- The substitution of a byte, and its product with x. -/
def subByte (b : Byte) : Byte := BitVec.ofNat 8 (sboxRows.getD (b.toNat / 32) 0 / 2 ^ (8 * (b.toNat % 32)))
def xtime (b : Byte) : Byte := (b <<< 1) ^^^ (if b.getLsbD 7 then 0x1B else 0)

/-- Two blocks combined bit by bit. -/
def xorBytes (a b : List Byte) : List Byte := a.zipWith (· ^^^ ·) b

/-- A column of a block is mixed. -/
def mixColumn : List Byte → List Byte
  | [a, b, c, d] =>
    let m (p q r t : Byte) : Byte := xtime p ^^^ xtime q ^^^ q ^^^ r ^^^ t
    [m a b c d, m b c d a, m c d a b, m d a b c]
  | l => l

/-- The four columns of a block. -/
def columns (b : List Byte) : List (List Byte) := (List.range 4).map (fun c => (b.drop (4 * c)).take 4)

/-- Every byte of a block is substituted, and its rows are shifted. -/
def subShift (b : List Byte) : List Byte := (List.range 16).map (fun k => subByte (b.getD ((k + 4 * (k % 4)) % 16) 0))

/-- The word of the key schedule that follows others, the newest first; `n` are the words of the key, `i` its number and `rc` the round
constant. -/
def nextWord (n i : Nat) (rc : Byte) (ws : List (List Byte)) : List Byte :=
  let last := ws.headD []
  let t :=
    if i % n = 0 then xorBytes ((last.drop 1 ++ last.take 1).map subByte) [rc, 0, 0, 0]
    else if 6 < n ∧ i % n = 4 then last.map subByte
    else last
  xorBytes (ws.getD (n - 1) []) t

/-- The words of the key schedule after `k` more. -/
def schedule (n : Nat) : Nat → Nat → Byte → List (List Byte) → List (List Byte)
  | 0, _, _, ws => ws
  | k + 1, i, rc, ws => schedule n k (i + 1) (if i % n = 0 then xtime rc else rc) (nextWord n i rc ws :: ws)

/-- The round keys of a key. -/
def roundKeys (key : List Byte) : List (List Byte) :=
  let n := key.length / 4
  let first := (List.range n).map (fun k => (key.drop (4 * k)).take 4)
  let ws := (schedule n (3 * n + 28) n 1 first.reverse).reverse
  (List.range (n + 7)).map (fun r => ((ws.drop (4 * r)).take 4).flatten)

/-- The rounds of a block under the keys that are left. -/
def aesRounds : List (List Byte) → List Byte → List Byte
  | [], b => b
  | [k], b => xorBytes (subShift b) k
  | k :: r, b => aesRounds r (xorBytes ((columns (subShift b)).flatMap mixColumn) k)

/-- AES of a block under the round keys of a key. -/
def aes (ks : List (List Byte)) (b : List Byte) : List Byte :=
  match ks with
  | [] => b
  | k :: r => aesRounds r (xorBytes b k)

/-! ## CMAC -/

/-- A block with its first byte as the most significant, doubled in the field of 128 bits. -/
def doubled (b : List Byte) : List Byte :=
  let n := b.foldl (fun n x => 256 * n + x.toNat) 0
  let m := (2 * n) % 2 ^ 128 ^^^ (if 2 ^ 127 ≤ n then 0x87 else 0)
  (List.range 16).map (fun k => BitVec.ofNat 8 (m / 2 ^ (8 * (15 - k))))

/-- The chain of a message whose last block is masked: with the first subkey where it is whole, else padded and with the second. -/
def cmacChain (ks : List (List Byte)) (k1 k2 : List Byte) : Nat → List Byte → List Byte → List Byte
  | 0, c, _ => c
  | n + 1, c, m =>
    if 16 < m.length then cmacChain ks k1 k2 n (aes ks (xorBytes c (m.take 16))) (m.drop 16)
    else if m.length = 16 then aes ks (xorBytes c (xorBytes m k1))
    else aes ks (xorBytes c (xorBytes (m ++ 0x80 :: List.replicate (15 - m.length) 0) k2))

/-- AES-CMAC of a message under a key. -/
def cmac (key m : List Byte) : List Byte :=
  let ks := roundKeys key
  let zero := List.replicate 16 0
  let k1 := doubled (aes ks zero)
  cmacChain ks k1 (doubled k1) (m.length / 16 + 1) zero m

end Sys2Proof.Machine
end

