-- ==== Sys2Proof/Machine/Images.lean ====
section
/-!
DEFINITION. Save images: what an image records, its bytes, and the green room that holds it (R17, R125, R168, R175, R188, R273,
R340 to R345, R410). Sections follow the directory without gaps (log 12).
-/
namespace Sys2Proof.Machine

/-- A company as an image records it: elements that await a peer are to be done again, a multicast is to be sent again. -/
def Company.asImage (c : Company) : Company :=
  let c := c.asSaved
  let again (f : FlyCmd) : FlyCmd :=
    if f.op == .mc && f.begun && f.ack.isNone then { f with begun := false, reading := true }
    else { f with remote := [], halves := [], reading := f.reading || ((f.op == .out || f.op == .sct) && !f.remote.isEmpty) }
  let resent := c.engine.filter (fun e => !e.2.reading && (again e.2).reading)
  let c := resent.foldl (fun c e => c.readTile e.2.tile) c
  { c with
    engine := c.engine.map (fun e => (e.1, again e.2))
    state := if c.state == .complete then .complete else .preempted
    faulted := false, saving := false }

/-! ## The parts of a section. What the spec lays out no further the model lays out (log 12). -/

/-- The status row (R125). -/
def Chorus.statusWord (h : Chorus) (l : Nat) : Nat :=
  let frame := ((h.splits.find? (fun p => p.members.has l)).map (·.frame)).getD 0
  64 * (frame % 64) + (if h.exited.has l then 32 else 0) + (h.pli.getD l 0).toNat

/-- A shape record (R175); dimensions beyond the rank are as the device counts them. -/
def Record.image (r : Record) : List Byte :=
  let list (n : Nat) (l : List Nat) (d k : Nat) : List Byte := (List.range k).flatMap (fun j => bytesLE n (l.getD (j + d) 0))
  bytesLE 8 r.base.toNat ++ list 4 r.extents 0 5 ++ list 4 r.strides 1 4 ++ list 2 r.box 0 5 ++
    bytesLE 1 r.format.toNat ++ bytesLE 1 r.rank

/-- A binding of the handle table: the record with its flags, its tile and its scale handle (R175); zeros when there is none. -/
def bindingImage : Option Record → List Byte
  | some r =>
    bytesLE 64 (ofBytesLE r.image + 2 ^ 448 * ((if r.overlap then 1 else 0) + (if r.scaled then 2 else 0) + 256 * r.tile + 2 ^ 16 * r.scaleHandle +
      (if r.noscale then 2 ^ 23 else 0)))
  | none => bytesLE 64 0

/-- The image of a tile-table entry (R168). -/
def Tile.image (t : Tile) : List Byte :=
  let state := match t.state with | .empty => 0 | .filling => 1 | .ready => 2 | .draining => 3
  bytesLE 4 (t.base / 16) ++ bytesLE 4 (t.capacity / 16) ++ bytesLE 2 t.rows ++ bytesLE 2 t.cols ++
    bytesLE 1 (t.format.toNat + (if t.claim then 32 else 0) + 64 * state) ++ bytesLE 1 t.readers ++ bytesLE 1 t.score ++ bytesLE 1 0

/-- A region record (R188). -/
def Region.image (r : Region) : List Byte :=
  bytesLE 4 (r.base + 256 * r.capacity + 65536 * (r.rows + 16 * r.cols + (if r.shaped then 512 else 0)))

/-- A range slot (R273). -/
def RangeSlot.image (r : RangeSlot) : List Byte := bytesLE 6 r.base.toNat ++ bytesLE 2 0 ++ bytesLE 4 r.space.toNat ++ bytesLE 4 r.length.toNat

/-- A timer (R345). -/
def timerImage : Option Nat → List Byte
  | none => bytesLE 8 0
  | some t => bytesLE 8 (2 ^ 63 + t / ticksPerNs % 2 ^ 63)

/-- A join-format entry (R345). -/
def JoinFmt.image (j : JoinFmt) : List Byte := bytesLE 4 j.joinPc.toNat ++ bytesLE 4 j.wb ++ bytesLE 2 j.depth ++ bytesLE 2 (0x8000 + j.fmt.toNat)

/-- The first `n` images of a list, and zeros for the entries that are missing. -/
def table {α : Type} (n size : Nat) (f : α → List Byte) (l : List α) : List Byte :=
  (List.range n).flatMap (fun k => match l[k]? with | some a => f a | none => bytesLE size 0)

/-- Some bytes filled up with zeros. -/
def padded (n : Nat) (bs : List Byte) : List Byte := bs ++ List.replicate (n - bs.length) 0

/-- An integer as 32 bits. -/
def intWord (i : Int) : List Byte := bytesLE 4 (BitVec.ofInt 32 i).toNat

/-- The captured operands of a fly command: its uniform operands, and per lane its origin, or its address, operand and expected value
(R227, R233, R236, R237, R382). -/
def FlyCmd.operandImage (f : FlyCmd) : List Byte :=
  let lane (l : Nat) : List Byte :=
    if f.op == .atm then bytesLE 8 (f.addrs.getD l 0).toNat ++ bytesLE 4 (f.operands.getD l 0).toNat ++ bytesLE 4 (f.expecteds.getD l 0).toNat
    else (List.range 5).flatMap (fun d => intWord ((f.origins.getD l []).getD d 0))
  bytesLE 8 f.src.toNat ++ bytesLE 8 f.dst.toNat ++ bytesLE 4 f.len ++ bytesLE 4 f.result.toNat ++ bytesLE 4 f.ackAddr ++
    bytesLE 2 f.group.toNat ++ bytesLE 1 (f.srcSpace + 4 * f.dstSpace) ++ bytesLE 1 (f.aop.toNat + 16 * f.order.toNat) ++ laneIds.flatMap lane

/-- A queued or handed-over fly command: word, address, active lanes and leader, binding, scale binding, principals, operands. -/
def FlyCmd.image (f : FlyCmd) : List Byte :=
  bytesLE 4 f.word.toNat ++ bytesLE 4 f.epc.toNat ++ bytesLE 4 f.lanes.toNat ++ bytesLE 4 f.leader ++ bindingImage f.record ++
    bindingImage f.scaleRecord ++ laneIds.flatMap (fun l => bytesLE 4 (f.principals.getD l 0).toNat) ++ f.operandImage

/-- An entry of the engine queue (R345). -/
def QueueEntry.image : QueueEntry → List Byte
  | .fly f => padded 1024 f.image
  | .mx m => padded 1024 (bytesLE 4 m.word.toNat ++ bytesLE 4 m.epc.toNat ++ bytesLE 4 m.op ++ bytesLE 4 m.fmt.toNat ++ bytesLE 4 m.shape.toNat)
  | .sput _ w epc b l d => padded 1024 (bytesLE 4 w.toNat ++ bytesLE 4 epc.toNat ++ bytesLE 4 l.toNat ++ bytesLE 4 b ++ rowBytes d)

/-- Some flags as a bitmap, bit 0 of the first byte first. -/
def bitmap (bs : List Bool) : List Byte :=
  (List.range (ceilDiv bs.length 8)).map (fun k =>
    BitVec.ofNat 8 (total ((List.range 8).map (fun j => if bs.getD (8 * k + j) false then 2 ^ j else 0))))

/-- A recorded command with its bitmap, in which the bit of an element or scale that is done is set (R240): chorus, length of the
bitmap, command, bitmap. -/
def Company.recordedImage (c : Company) (e : Nat × FlyCmd) : List Byte :=
  let es := e.2.elems c
  bytesLE 4 e.1 ++ bytesLE 4 (ceilDiv es.length 8) ++ padded 1024 e.2.image ++ bitmap (es.map (fun x => e.2.begun && !e.2.todo.contains x.idx))

/-- The matrix operation under way with its next k and its reservations (R344). -/
def MxOp.image (o : MxOp) : List Byte :=
  padded 64 (bytesLE 4 o.word.toNat ++ bytesLE 4 o.number ++ bytesLE 4 o.next ++ bytesLE 4 o.fmt.toNat ++ bytesLE 4 o.shape.toNat ++
    bytesLE 1 o.ensemble ++ bytesLE 1 o.region ++ bytesLE 1 o.tileA ++ bytesLE 1 o.tileB ++ bytesLE 1 o.reserved.length ++
    o.reserved.flatMap (fun t => bytesLE 1 t))

/-- A troupe barrier (R214). -/
def TroupeBarrier.image (b : TroupeBarrier) (abandoned : Bool) : List Byte :=
  bytesLE 4 b.phase.toNat ++ bytesLE 4 (total (b.arrived.eraseDups.map (2 ^ ·))) ++ bytesLE 4 (b.target.getD 0) ++
    bytesLE 4 ((if abandoned then 1 else 0) + (if b.target.isSome then 2 else 0))

/-- The code of a cue (R20). -/
def Cue.code : Cue → Nat
  | .unresolved => 0
  | .isFalse => 2
  | .isTrue => 3

/-! ## The sections (R344) -/

/-- A section of an image: type, troupe, company and bytes. -/
structure Section where
  type : Nat
  troupe : Nat
  company : Nat
  data : List Byte

/-- A chorus section (R345). -/
def Chorus.image (h : Chorus) : List Byte :=
  bytesLE 4 (h.index + (if h.handler then 2 ^ 31 else 0)) ++ bytesLE 4 h.wellp.toNat ++
    bytesLE 4 h.cause.toNat ++ bytesLE 4 h.epc.toNat ++ bytesLE 4 h.tval.toNat ++ bytesLE 4 h.fm.toNat ++
    bytesLE 4 h.events.toNat ++ bytesLE 4 h.collectives ++ bytesLE 4 (3 + total ((List.range 7).map (fun k => (h.cues.getD (k + 1) .unresolved).code * 4 ^ (k + 1)))) ++
    bytesLE 4 h.pending.toNat ++ bytesLE 4 h.low ++ bytesLE 4 h.high ++ bytesLE 4 h.top ++ bytesLE 4 h.ring.length ++ bytesLE 8 0 ++
    table 4 8 timerImage h.timers ++ table 8 16 RangeSlot.image h.slots ++ bytesLE 32 0 ++
    table 16 32 Split.image (h.splits.filter (fun p => !p.spilled)) ++
    laneIds.flatMap (fun l => bytesLE 4 (h.statusWord l)) ++
    (List.range 15).flatMap (fun n => rowBytes (h.row 16 (n + 1))) ++
    table 32 12 JoinFmt.image h.joins ++
    table 16 1024 QueueEntry.image h.queue ++
    (List.range (h.high - h.low)).flatMap (fun k => rowBytes (h.row (h.low + k) 16))

/-- The sections of a company. -/
def Company.sections (c : Company) : List Section :=
  let sec (type : Nat) (data : List Byte) : Section := { type := type, troupe := c.troupe, company := c.index, data := data }
  let mask (l : List Nat) : Nat := total (l.eraseDups.map (2 ^ ·))
  let block (r : Region) : List Byte :=
    (List.range (256 * r.capacity)).flatMap (fun k =>
      bytesLE 4 (accRead c.acc (256 * r.base + k)).toNat)
  [sec 2 (bytesLE 8 c.cyc ++ c.principals.flatMap (fun p => bytesLE 4 p.toNat) ++
     c.barriers.flatMap (fun b => bytesLE 4 b.phase.toNat ++ bytesLE 4 (mask b.arrived) ++ bytesLE 4 b.target) ++
     table 1 64 MxOp.image (c.ops.filter (fun o => o.started && !o.finished)))] ++
  c.choruses.map (fun h => sec 3 h.image) ++
  [sec 4 (c.stage.readBytes 0 c.playbill.stage), sec 5 (c.tiles.flatMap Tile.image),
   sec 6 ((List.range 64).flatMap (fun k => bindingImage ((c.handles[k]?).getD none))),
   sec 7 (table 16 4 Region.image c.pit ++ c.pit.flatMap block), sec 8 (c.score.readBytes 0 (128 * c.playbill.scoreSlots)),
   sec 9 (c.engine.flatMap c.recordedImage)]

/-- The sections of an image, in the order of its directory. -/
def Image.sections (im : Image) : List Section :=
  let troupe (t : Troupe) : Section :=
    { type := 1, troupe := t.index % 2 ^ 32, company := 0
      data := t.barriers.flatMap (fun b => b.image t.abandoned) }
  let window (w : Nat × Memory) : Section := { type := 10, troupe := 0, company := w.1, data := w.2.readBytes 0 im.runState.window }
  im.troupes.map troupe ++ im.companies.flatMap Company.sections ++ im.runState.windows.map window

/-! ## The image (R343) -/

/-- The directory: an entry for each section, with its offset from the start of the image. -/
def directory : Nat → List Section → List Byte
  | _, [] => []
  | at_, e :: r => bytesLE 4 e.type ++ bytesLE 4 e.troupe ++ bytesLE 4 e.company ++ bytesLE 4 at_ ++ directory (at_ + e.data.length) r

/-- The bytes after the header. -/
def Image.body (im : Image) : List Byte :=
  let l := im.sections
  directory (128 + 16 * l.length) l ++ l.flatMap (·.data)

/-- The length of the whole image. -/
def Image.length (im : Image) : Nat := 128 + im.body.length

/-- The image's header. -/
def Image.header (im : Image) : List Byte :=
  let r := im.runState
  bytesLE 4 0x4C455356 ++ bytesLE 2 1 ++ bytesLE 2 im.kind ++ bytesLE 4 im.ctx ++ bytesLE 4 im.run ++ bytesLE 8 im.length ++ bytesLE 8 im.vt ++
    bytesLE 8 r.tag.toNat ++ bytesLE 1 (r.cls + 4 * r.prio) ++ bytesLE 3 0 ++ bytesLE 4 im.sections.length ++ bytesLE 8 r.troupes ++
    bytesLE 8 r.nextTroupe ++ bytesLE 16 im.mac.toNat ++ bytesLE 48 0

/-- The bytes of an image. -/
def Image.bytes (im : Image) : List Byte := im.header ++ im.body

/-- An image under its seal (R343). -/
def Image.sealed (im : Image) : Image := { im with mac := BitVec.ofNat 128 (ofBytesLE (cmac (Config.sealingKey im.ctx) { im with mac := 0 }.bytes)) }

/-- An image of some companies and troupes of a run under a fresh number. -/
def State.imageFor (s : State) (r : Run) (kind : Nat) (cs : List Company) (ts : List Troupe) : Image × State :=
  let u := s.fresh
  (Image.sealed { mac := 0, number := u.1, kind := kind, ctx := r.ctx, run := r.id, vt := s.vtNs r.ctx, runState := r
                  companies := cs.map Company.asImage, troupes := ts }, u.2)

/-- The image of a whole run, as a checkpoint holds it. -/
def State.imageOf (s : State) (r : Run) (kind : Nat) : Image × State :=
  s.imageFor r kind (s.companies.filter (fun k => k.ctx == r.ctx && k.run == r.id)) (s.troupes.filter (fun t => t.ctx == r.ctx && t.run == r.id))

/-- The image that 128 bytes name, if a context may resume it: the header is one that the device sealed (R318, R343). -/
def State.imageAt (s : State) (ctx length : Nat) (bs : List Byte) : Option Image :=
  s.images.find? (fun im => im.ctx == ctx && im.length == length && im.header == bs)

/-! ## The green room (R342, R410) -/

/-- Bytes stored in the green room of a context from a physical address on, under swizzle mode 0 and the key of the context. -/
def State.greenWrite (s : State) (ctx pa : Nat) (bs : List Byte) : State :=
  ((pieces (bs.length / 4096 + 2) pa bs.length).foldl (fun (r : State × List Byte) p =>
    let loc := place 0 p.1
    let data := r.2.take p.2
    let t := (linesOf loc p.2).foldl (fun t k => t.fillLine ctx k) r.1
    let t : State := { t with mem := t.mem.writeBlock loc data, memPoison := poisonClear t.memPoison loc p.2 }
    (t.touchLines loc p.2 ctx 0 false true, r.2.drop p.2)) (s, bs)).1

/-- Bytes read in the green room of a context. -/
def State.greenRead (s : State) (ctx pa n : Nat) : List Byte × State :=
  (pieces (n / 4096 + 2) pa n).foldl (fun (r : List Byte × State) p =>
    let q := r.2.readBytes ctx (place 0 p.1) p.2
    (r.1 ++ q.1, q.2.touchLines (place 0 p.1) p.2 ctx 0 false false)) ([], s)

/-- What the image of a company in its frame holds beside it: at a save of the context, its troupe when it is the first company of
that, and the run's window on its die when it is the first there; for a fault, neither. -/
def State.frameParts (s : State) (c : Company) (r : Run) (kind : Nat) : Run × List Troupe :=
  let first (p : Company → Bool) : Bool := (s.companies.find? (fun k => k.ctx == c.ctx && k.run == c.run && p k)).any (fun k => k.uid == c.uid)
  if kind = 3 then ({ r with windows := [] }, [])
  else ({ r with windows := if first (fun k => dieOfCore k.core == dieOfCore c.core) then r.windows.filter (fun w => w.1 == dieOfCore c.core) else [] },
    if first (fun k => k.troupe == c.troupe) then s.troupes.filter (fun t => t.ctx == c.ctx && t.run == c.run && t.index == c.troupe) else [])

/-- Writes the image of a company to its frame. -/
def State.writeFrame (s : State) (kind : Nat) (c : Company) : State :=
  match s.run? c.ctx c.run with
  | none => s
  | some r =>
    let parts := s.frameParts c r kind
    let p := s.imageFor parts.1 kind [c] parts.2
    p.2.greenWrite c.ctx c.frame p.1.bytes

/-- Writes the images of the companies of a context that are not complete, and the context header: its id and its `vt` (log 12). -/
def State.writeGreen (s : State) (ctx kind : Nat) (which : Company → Bool) : State :=
  match s.context? ctx with
  | none => s
  | some c =>
    let t := (s.companies.filter (fun k => k.ctx == ctx && k.state != .complete && which k)).foldl (fun t k => t.writeFrame kind k) s
    if c.greenSize < greenHeader then t else t.greenWrite ctx c.green (padded greenHeader (bytesLE 8 ctx ++ bytesLE 8 (s.vtNs ctx)))

/-- Reads the image of a company back from its frame: its header, then as many bytes as that names. No program reaches the room, so
the bytes are those that were written, which the saved company stands for (log 12). -/
def State.readFrame (s : State) (c : Company) : State :=
  let r := s.greenRead c.ctx c.frame 128
  let n := ofBytesLE ((r.1.drop 0x10).take 8)
  if n ≤ c.playbill.frameSize (if c.index = 0 then ((s.run? c.ctx c.run).map (·.window)).getD 0 else 0)
  then (r.2.greenRead c.ctx (c.frame + 128) (n - 128)).2 else r.2

end Sys2Proof.Machine
end

