-- ==== Sys2Proof/Machine/Runs.lean ====
section
/-!
DEFINITION. Event records, the completion and the end of companies and runs, save images, and the deadlines of choruses
(R179, R223, R305, R314, R318 to R320, R330 to R338, R342 to R350).
-/
namespace Sys2Proof.Machine

/-! ## Event records (R319, R320) -/

/-- MSI-X vectors of a function (R373). -/
def vectors (fn : Nat) : Nat := if fn = 0 then 2048 else 64

/-- Raises an MSI-X vector of a function; a number beyond its table raises nothing (R255). -/
def State.interrupt (s : State) (fn vec : Nat) : State :=
  if vec < vectors fn then s.modFunc fn (fun f => { f with msix := vec :: f.msix }) else s

/-- An event record as a number. -/
def recordNumber (r : EventRecord) (vt : Nat) : Nat :=
  vt % 2 ^ 64 * 2 ^ 192 + r.tag.toNat * 2 ^ 128 + r.fm.toNat * 2 ^ 96 + r.troupe % 2 ^ 32 * 2 ^ 64 + r.run % 2 ^ 32 * 2 ^ 32 +
    r.company % 256 * 2 ^ 16 + r.status % 256 * 2 ^ 8 + r.queue % 16 * 16 + r.kind % 16

/-- A record that the device owes a context; one whose function is reset gets none (R305). -/
def State.owe (s : State) (ctx : Nat) (r : EventRecord) : State :=
  s.modContext ctx (fun c => if c.leaving == some .reset then c else { c with records := c.records ++ [r] })

/-- The record of a run. -/
def Run.record (r : Run) (kind status : Nat) : EventRecord :=
  { tag := r.tag, fm := 0, troupe := 0, run := r.id, company := 0, status := status, queue := r.queue, kind := kind }

/-- The record of a packet error (R316). -/
def errorRecord (queue code : Nat) : EventRecord :=
  { tag := 0, fm := 0, troupe := 0, run := 0, company := 0, status := code, queue := queue, kind := 3 }

/-- The vector of CTX_EVCTL is raised when notify is armed, which is then cleared. -/
def State.notify (s : State) (c : Context) : State :=
  if c.evCtl.getLsbD 8 then
    (s.modContext c.id (fun c => { c with evCtl := c.evCtl &&& ~~~0x100#64 })).interrupt c.fn (bits c.evCtl.toNat 26 16)
  else s

/-! ## The end of troupes and runs (R179, R212, R223, R314) -/

/-- A troupe all of whose companies are complete leaves its cluster. -/
def State.endTroupe (s : State) (ctx run troupe : Nat) : State :=
  let mine (k : Company) : Bool := k.ctx == ctx && k.run == run && k.troupe == troupe
  if s.companies.all (fun k => !mine k || k.state == .complete) then
    let s := { s with
      companies := s.companies.filter (fun k => !mine k)
      troupes := s.troupes.filter (fun t => !(t.ctx == ctx && t.run == run && t.index == troupe)) }
    (s.modRun ctx run (fun r => { r with doneTroupes := r.doneTroupes + 1 })).freeWindows ctx run
  else s

/-- Whether nothing of a company is left to do: every chorus has ended or halted, and its accesses, commands and
operations have completed. -/
def Company.isOver (c : Company) : Bool :=
  c.choruses.all (fun h => (h.ended || h.halted.isSome) && h.queue.isEmpty && h.inflight.isEmpty) && c.engine.isEmpty && c.ops.isEmpty

/-- The `fm` of a company: every lane of it that was switched off (R27). -/
def Company.fm (c : Company) : Mask := c.choruses.foldl (fun m h => m ||| h.fm) 0

/-- The report of a company; one that has nothing to report owes none (R319). -/
def Company.report (c : Company) (r : Run) : Option EventRecord :=
  if c.fm == 0 && c.firstHalt.isNone then none
  else some { tag := r.tag, fm := c.fm, troupe := c.troupe, run := c.run, company := c.index,
              status := (c.firstHalt.map (·.cause)).getD 0, queue := r.queue, kind := 2 }

/-- A company with nothing left to do completes: its core is free, and its troupe goes on without it. -/
def State.completeCompany (s : State) (u : Nat) : State :=
  match s.actor? u with
  | none => s
  | some c =>
    if c.isOver then
      let s := match (s.run? c.ctx c.run).bind c.report with | some e => s.owe c.ctx e | none => s
      let s := s.setCompany { c with state := .complete }
      let s := (s.recheckTroupe c.ctx c.run c.troupe).settleTroupe c.ctx c.run c.troupe
      s.endTroupe c.ctx c.run c.troupe
    else s

/-- `company_complete` (R179, R213, R214). -/
def execCompanyComplete (s : State) : Out := .next (s.completeCompany s.arg.a)

/-- No page request has the companies of a run as waiters any more. -/
def State.dropWaiters (s : State) (gone : Nat → Bool) : State :=
  let out : Waiter → Bool
    | .fly co _ => gone co
    | .pump co _ => gone co
    | .lane co _ => gone co
    | _ => false
  { s with
    requests := s.requests.map (fun q => { q with waiters := q.waiters.filter (fun w => !out w) })
    walks := s.walks.filter (fun w => !out w.who) }

/-- The arithmetic cycles that the arrays of some companies have spent on steps under way are charged as these end (R154, R219). -/
def State.chargeSteps (s : State) (mine : Company → Bool) : State :=
  (s.companies.filter (fun k => mine k && k.state == .running)).foldl (fun s k =>
    (k.ops.filter (fun o => o.isProduct && o.onArray)).foldl (fun s o => s.chargeOp k o s.now) s) s

/-- The companies and troupes of a run leave the device, and its windows are freed. -/
def State.clearRun (s : State) (ctx run : Nat) : State :=
  let mine (k : Company) : Bool := k.ctx == ctx && k.run == run
  let gone := (s.companies.filter mine).map (·.uid)
  let s := (s.chargeSteps mine).dropWaiters gone.contains
  let s := { s with
    companies := s.companies.filter (fun k => !mine k)
    troupes := s.troupes.filter (fun t => !(t.ctx == ctx && t.run == run)) }
  s.modRun ctx run (fun r => { r with windows := [], windowPoison := [] })

/-- A run ends before its completion, with a record of a kind and a status. -/
def State.finishRun (s : State) (r : Run) (kind status : Nat) : State :=
  ((s.clearRun r.ctx r.id).modRun r.ctx r.id (fun r => { r with ending := some (kind, status), killed := none })).owe r.ctx (r.record kind status)

/-- Whether companies of a run have lane accesses in flight, for which a kill waits (R24). -/
def State.inFlightOf (s : State) (r : Run) : Bool :=
  s.companies.any (fun k => k.ctx == r.ctx && k.run == r.id && k.choruses.any (fun h => !h.inflight.isEmpty))

/-- Whether every company of a run that is on a core stands at its stopping points (R340). -/
def State.runStopped (s : State) (r : Run) : Bool :=
  s.companies.all (fun k => k.ctx != r.ctx || k.run != r.id || k.state != .running || s.stoppable k)

/-- Whether a run may end before its completion: none of its accesses is in flight (R24), and its units stand at their stopping points
(R340, R350) or do nothing, since their context is stopped. -/
def State.mayEndRun (s : State) (r : Run) : Bool :=
  !s.inFlightOf r && (s.runStopped r || !(s.context? r.ctx).any (fun c => c.running s.curtain))

/-- Ends a run before its completion with a record of a kind and a status (R305, R338, R350, R352), as soon as it may end. -/
def State.endRun (s : State) (ctx run kind status : Nat) : State :=
  match s.run? ctx run with
  | none => s
  | some r =>
    if r.ending.isSome || r.killed.isSome then s
    else if s.mayEndRun r then s.finishRun r kind status
    else s.modRun ctx run (fun r => { r with killed := some (kind, status) })

/-- A run whose power is gone ends at once, with what it is doing (R364, R372). -/
def State.cutRun (s : State) (r : Run) (kind status : Nat) : State :=
  if r.ending.isSome then s else let e := r.killed.getD (kind, status); s.finishRun r e.1 e.2

/-- A run that has completed, or that is to end early and may, owes its record. -/
def State.completeRun (s : State) (ctx run : Nat) : State :=
  match s.run? ctx run with
  | none => s
  | some r =>
    let owed := (s.context? r.ctx).any (fun c => c.records.any (fun e => e.run == r.id && e.kind == 2))
    if r.ending.isSome then s
    else
      match r.killed with
      | some (kind, status) => if s.mayEndRun r then s.finishRun r kind status else s
      | none =>
        if r.doneTroupes == r.troupes && !owed then
          (s.modRun r.ctx r.id (fun r => { r with ending := some (1, 0), windows := [], windowPoison := [] })).owe r.ctx (r.record 1 0)
        else s

/-- `run_complete` (R24, R314). Every troupe has completed and no report is owed: the run owes its record. A run that is to end early
ends once no access of it is in flight. -/
def execRunComplete (s : State) : Out := .next (s.completeRun s.arg.a s.arg.b)

/-! ## Checkpoints (R342) -/

/-- Copies a checkpoint image to memory that its context names: a recoverable fault holds the copy up, a permanent one ends it. -/
def State.copyImage (s : State) (im : Image) (at_ : BitVec 64) : State :=
  let others (s : State) : State := { s with copies := s.copies.filter (fun c => c.1.number != im.number) }
  match s.frontWrite im.ctx at_.toNat im.bytes with
  | (.done, t) =>
    { others t with images := t.images ++ [im] }.modRun im.ctx im.run (fun q => { q with checkpoint := some (at_, im.length) })
  | (.absent k page, _) =>
    let t := s.pageRequest im.ctx k page .write (.copy im.number)
    { t with copies := if t.copies.any (fun c => c.1.number == im.number) then t.copies else t.copies ++ [(im, at_)] }
  | (.bad, t) => others t

/-- `checkpoint` (R340, R342). A checkpoint image of a run is written to memory that the context names, once its companies have
stopped for it; the run goes on. -/
def execCheckpoint (s : State) : Out :=
  match s.copies.find? (fun c => c.1.ctx == s.arg.a && c.1.number == s.arg.c) with
  | some c => .next (s.copyImage c.1 c.2)
  | none =>
    match s.run? s.arg.a s.arg.b with
    | none => .next s
    | some r =>
      let at_ := r.snapAt.getD s.arg.v
      if r.ending.isSome then .next s
      else if s.runStopped r then
        let p := (s.modRun r.ctx r.id (fun q => { q with snapAt := none })).imageOf { r with snapAt := none } 2
        .next (p.2.copyImage p.1 at_)
      else .next (s.modRun r.ctx r.id (fun q => { q with snapAt := some at_ }))

/-! ## Placing what was saved (R213, R318, R341) -/

/-- Cores for the companies of a saved troupe that are not complete, by their indices, given for how many companies each core has
room. -/
def coresAgain (cluster companies : Nat) (live : List Nat) (room : Nat → Nat) : Option (List (Nat × Nat)) :=
  (squareChoices (companies / 4)).findSome? (fun sq =>
    let spot (m : Nat) : Option Nat := (sq[m / 4]?).map (fun q => squareCore cluster q (m % 4))
    let grouped := live.filterMap (fun m => (spot m).map (fun k => (m, k)))
    let loose := live.filter (fun m => (spot m).isNone)
    let free := ((List.range 8).map (8 * cluster + ·)).filter (fun k => decide (0 < room k) && !grouped.any (fun g => g.2 == k))
    if grouped.all (fun g => decide (0 < room g.2)) then (looseCores room free loose.length).map (fun ks => grouped ++ loose.zip ks) else none)

/-- Windows put aside are kept under numbers from here on until they have a die again. -/
def asideDie : Nat := 100

/-- Renames the die of a run's window. -/
def Run.moveWindow (r : Run) (a b : Nat) : Run :=
  { r with
    windows := r.windows.map (fun w => if w.1 == a then (b, w.2) else w)
    windowPoison := r.windowPoison.map (fun w => if w.1 == a then (b, w.2) else w) }

/-- Puts the windows of a run aside. -/
def Run.setAside (r : Run) : Run :=
  { r with
    windows := r.windows.map (fun w => (w.1 + asideDie, w.2))
    windowPoison := r.windowPoison.map (fun w => (w.1 + asideDie, w.2)) }

/-- Where windows of runs have gone: run, die of the image and die now. -/
abbrev DieMap := List (Nat × Nat × Nat)

/-- Whether the window that a run had on a die may stand on another now. -/
def State.windowFits (s : State) (r : Run) (m : DieMap) (old new : Nat) : Bool :=
  r.window == 0 ||
    (match m.find? (fun e => e.1 == r.id && e.2.1 == old) with
     | some e => e.2.2 == new
     | none => !m.any (fun e => e.1 == r.id && e.2.2 == new) && decide (r.window ≤ s.quotaLeft r.ctx new))

/-- A saved company on its core: one that still waits for pages stays saved. -/
def State.seatAgain (s : State) (u core : Nat) : State :=
  match s.company? u with
  | none => s
  | some c => if c.faulted then s.setCompany { c with state := .faultSaved, core := core } else s.resumeCompany u core

/-- Places a saved troupe on a cluster. -/
def State.seatTroupe (s : State) (m : DieMap) (r : Run) (t : Troupe) (cluster : Nat) : Option (State × DieMap) :=
  let old := dieOfCluster t.cluster
  let new := dieOfCluster cluster
  let mine := s.companies.filter (fun k => k.ctx == t.ctx && k.run == t.run && k.troupe == t.index && k.state != .complete)
  if s.clusterServes cluster t.ctx && s.windowFits r m old new then
    (coresAgain cluster r.playbill.companies (mine.map (·.index)) (fun k => s.coreCapacity k r.playbill)).map (fun cs =>
      let s := s.modTroupe t.ctx t.run t.index (fun t => { t with cluster := cluster })
      let s := s.modRun r.ctx r.id (fun r => r.moveWindow (old + asideDie) new)
      let m := if m.any (fun e => e.1 == r.id && e.2.1 == old) then m else m ++ [(r.id, old, new)]
      (cs.foldl (fun s p =>
        match mine.find? (fun k => k.index == p.1) with
        | some k => s.seatAgain k.uid p.2
        | none => s) s, m))
  else none

/-- Places saved troupes in turn, each on its own cluster when it can, else on the lowest that takes it. -/
def seatAll (s : State) (m : DieMap) : List Troupe → Option (State × DieMap)
  | [] => some (s, m)
  | t :: rest =>
    match s.run? t.ctx t.run with
    | none => seatAll s m rest
    | some r =>
      match (t.cluster :: clusterIds).findSome? (fun k => s.seatTroupe m r t k) with
      | some p => seatAll p.1 p.2 rest
      | none => none

/-- Dies of the windows that are still aside, with their runs. -/
def State.asideWindows (s : State) (ctx : Nat) : List (Nat × Nat) :=
  (s.runs.filter (fun r => r.ctx == ctx)).flatMap (fun r => (r.windows.filter (fun w => decide (asideDie ≤ w.1))).map (fun w => (r.id, w.1 - asideDie)))

/-- Windows without a troupe go to their own die when they can, else to the lowest die that takes them. -/
def seatWindows (s : State) (m : DieMap) (ctx : Nat) : List (Nat × Nat) → Option State
  | [] => some s
  | w :: rest =>
    match s.run? ctx w.1 with
    | none => seatWindows s m ctx rest
    | some r =>
      match (w.2 :: List.range 8).find? (fun d => s.windowFits r m w.2 d) with
      | some d => seatWindows (s.modRun ctx r.id (fun r => r.moveWindow (w.2 + asideDie) d)) (m ++ [(r.id, w.2, d)]) ctx rest
      | none => none

/-- Places every saved troupe of some runs of a context. -/
def State.seatRuns (s : State) (ctx : Nat) (which : Run → Bool) : Option State :=
  let s := { s with runs := updWhere (fun r => r.ctx == ctx && which r) Run.setAside s.runs }
  let ts := s.troupes.filter (fun t => t.ctx == ctx && (s.run? ctx t.run).any which)
  (seatAll s [] ts).bind (fun p => seatWindows p.1 p.2 ctx (p.1.asideWindows ctx))

/-- The device with an image's run as a run of its own, its companies saved (R318). -/
def State.loadImage (s : State) (im : Image) (queue : Nat) (tag : BitVec 64) : Nat × State :=
  let id := ((s.context? im.ctx).map (fun c => c.lastRun + 1)).getD 1
  let vt := s.vtTicks im.ctx
  let r := { im.runState with
    id := id, tag := tag, queue := queue, accepted := vt, holding := false, placedAt := if im.troupes.isEmpty then none else some vt
    prio := Nat.min im.runState.prio (((s.context? im.ctx).map (·.prio.toNat)).getD 0)
    codeAt := s.codePlaces im.ctx im.runState.playbill, codeSince := [], ending := none, killed := none, checkpoint := none, snapAt := none
    resumed := true }
  let s := s.modContext im.ctx (fun c => { c with lastRun := id, queues := updAt c.queues queue (fun q => { q with open_ := q.open_ ++ [id] }) })
  let s := { s with
    runs := s.runs ++ [r]
    troupes := s.troupes ++ im.troupes.map (fun t => { t with run := id }) }
  (id, im.companies.foldl (fun s c =>
    let u := s.fresh
    { u.2 with companies := u.2.companies ++ [{ c with uid := u.1, run := id }] }) s)

/-- The companies of a run that comes from an image get frames (R342). -/
def State.frameAll (s : State) (ctx run : Nat) : Option State :=
  let mine := s.companies.filter (fun k => k.ctx == ctx && k.run == run && k.state != .complete)
  let window := ((s.run? ctx run).map (·.window)).getD 0
  let others : State := { s with companies := s.companies.filter (fun k => !(k.ctx == ctx && k.run == run)) }
  (others.reserve ctx (mine.map (fun k => k.playbill.frameSize (if k.index = 0 then window else 0)))).map (fun fs =>
    (mine.zip fs).foldl (fun s p => s.modCompany p.1.uid (fun k => { k with frame := p.2 })) s)

/-- What a RESUME of an image gives, and the run's id: its troupes are placed at once. -/
def State.resumeImage (s : State) (im : Image) (queue : Nat) (tag : BitVec 64) : Option (State × Nat) :=
  let p := s.loadImage im queue tag
  ((p.2.frameAll im.ctx p.1).bind (fun t => t.seatRuns im.ctx (fun r => r.id == p.1))).map (fun t =>
    (t.owe im.ctx { tag := tag, fm := 0, troupe := 0, run := p.1, company := 0, status := 0, queue := queue, kind := 4 }, p.1))

/-! ## Records written, and the default policy (R319, R350) -/

/-- The default policy after a report of a halt: the run is ended with the cause of its first halt, and an error of the
hardware has its last checkpoint submitted again. -/
def State.rollback (s : State) (ctx run : Nat) : State :=
  match s.run? ctx run with
  | none => s
  | some r =>
    let cause := (r.firstHalt.map (·.cause)).getD 0
    let t := s.endRun ctx run 6 cause
    if r.ending.isNone && r.killed.isNone && (cause == 0x0F || cause == 0x10) then
      match r.checkpoint with
      | some (at_, n) => t.modContext ctx (fun c => { c with rollbacks := c.rollbacks ++ [{ run := r.id, image := at_, length := n, tag := r.tag, queue := r.queue }] })
      | none => t
    else t

/-- A run whose record is written is over, and the packet that started it completes (R314). -/
def State.forgetRun (s : State) (ctx run : Nat) : State :=
  let s := { s with runs := s.runs.filter (fun r => !(r.ctx == ctx && r.id == run)) }
  s.modContext ctx (fun c => { c with queues := c.queues.map (fun q => { q with open_ := q.open_.filter (· != run) }) })

/-- What follows once a record has been written or dropped. -/
def State.recordOver (s : State) (ctx : Nat) (r : EventRecord) : State :=
  let s := s.modContext ctx (fun c => { c with records := c.records.drop 1 })
  if r.kind = 2 then (if r.status = 0 then s else s.rollback ctx r.run)
  else if r.kind = 1 || r.kind = 5 || r.kind = 6 then s.forgetRun ctx r.run
  else s

/-- The log2 of a ring's record count in its control register. -/
def ringLog (v : BitVec 64) : Nat := v.toNat % 32

/-- Whether the write of the next record of a context waits for a page. -/
def State.recordWaits (s : State) (ctx : Nat) : Bool := s.requests.any (fun q => q.waiters.contains (.record ctx))

/-- A record that cannot be written is dropped and counted (R313). -/
def State.recordLost (s : State) (ctx : Nat) (r : EventRecord) : State :=
  (s.modContext ctx (fun c => { c with evLost := (c.evLost + 1) % 2 ^ 64 })).recordOver ctx r

/-- The next record of a context is written once the ring has room. -/
def State.writeRecord (s : State) (ctx : Nat) : State :=
  match s.context? ctx with
  | none => s
  | some c =>
    match c.records with
    | [] => s
    | r :: _ =>
      if decide (2 ^ ringLog c.evCtl ≤ c.evWr - c.evRd) || s.recordWaits c.id then s
      else
        match s.frontWrite c.id (c.evBase.toNat + 32 * (c.evWr % 2 ^ ringLog c.evCtl)) (bytesLE 32 (recordNumber r (s.vtNs c.id))) with
        | (.done, t) => ((t.modContext c.id (fun c => { c with evWr := c.evWr + 1 })).recordOver c.id r).notify c
        | (.absent k p, t) => t.pageRequest c.id k p .write (.record c.id)
        | (.bad, t) => t.recordLost c.id r

/-- `event_record_write` (R319). -/
def execEventRecordWrite (s : State) : Out := .next (s.writeRecord s.arg.a)

/-- Every record that a context is owed is written, as far as the ring and its pages let it. -/
def State.writeRecords (s : State) (ctx : Nat) : State :=
  (((s.context? ctx).map (·.records)).getD []).foldl (fun s _ => s.writeRecord ctx) s

/-- What has completed as its context is pre-empted: companies and runs complete, and their records are written (R324). -/
def State.completions (s : State) (ctx : Nat) : State :=
  let s := ((s.companies.filter (fun k => k.ctx == ctx)).foldl (fun s k => s.completeCompany k.uid) s).writeRecords ctx
  ((s.runs.filter (fun r => r.ctx == ctx)).foldl (fun s r => s.completeRun ctx r.id) s).writeRecords ctx

/-! ## Deadlines (R330, R333 to R335) -/

/-- A timer's deadline passes: its pending bit is set and it disarms. -/
def Chorus.fireTimer (h : Chorus) (k : Nat) : Chorus :=
  { h with timers := updAt h.timers k (fun _ => none), pending := h.pending ||| (1#7 <<< k) }

/-- The armed timers of a chorus whose deadlines have passed. -/
def Chorus.dueTimers (h : Chorus) (vt : Nat) : List Nat :=
  (List.range 4).filter (fun k => match h.timers.getD k none with | some d => decide (d ≤ vt) | none => false)

/-- The split's wait ends with a value in its destination. -/
def Chorus.endWait (h : Chorus) (p : Split) (vd : BitVec 6) (v : Word) : Chorus :=
  (h.wake p p.wait (.done vd v)).choose

/-- What a passed deadline does to a split that waits under `wev` or `wtm`: a selected event wins (R334, R337). -/
def Chorus.passDeadline (h : Chorus) (p : Split) (vt : Nat) : Chorus :=
  match p.wait with
  | .wev m d vd =>
    if d ≤ vt then
      if h.pending &&& m != 0 then h.endWait p vd (zext (h.pending &&& m)) else h.endWait p vd 0x80000000
    else h
  | .wtm d vd => if d ≤ vt then h.endWait p vd 0 else h
  | _ => h

/-- `timer_expiry` (R333). -/
def execTimerExpiry (s : State) : Out :=
  onChorus s s.arg.a s.arg.b (fun c h =>
    if (h.dueTimers (s.deadlineVt c)).contains s.arg.c then (s.setCompany (c.setChorus (h.fireTimer s.arg.c))).settleCompany c.uid else s)

/-- `wev_deadline` (R334). The deadline of a `wev` passes without a selected event. -/
def execWevDeadline (s : State) : Out :=
  onChorus s s.arg.a s.arg.b (fun c h =>
    match h.splitOf s.arg.v with
    | some p => (match p.wait with | .wev _ _ _ => s.setCompany (c.setChorus (h.passDeadline p (s.deadlineVt c))) | _ => s)
    | none => s)

/-- `wtm_deadline` (R335). -/
def execWtmDeadline (s : State) : Out :=
  onChorus s s.arg.a s.arg.b (fun c h =>
    match h.splitOf s.arg.v with
    | some p => (match p.wait with | .wtm _ _ => s.setCompany (c.setChorus (h.passDeadline p (s.deadlineVt c))) | _ => s)
    | none => s)

/-- Every deadline of a chorus that `vt` has reached passes: timers, then waits, then timed joins (R337). -/
def Chorus.passAll (h : Chorus) (vt : Nat) : Chorus :=
  if h.halted.isSome || h.ended then h
  else
    let h := (h.dueTimers vt).foldl (fun h k => h.fireTimer k) h
    let h := h.splits.foldl (fun h p => match h.splits.find? (fun q => q.members == p.members) with | some q => h.passDeadline q vt | none => h) h
    h.splits.foldl (fun h p =>
      match h.splits.find? (fun q => q.members == p.members) with
      | some q => (match q.wait with | .joinT d _ => if d ≤ vt then (h.mergeSet q 0xFFFFFFFF).reconverge else h | _ => h)
      | none => h) h

/-! ## Pre-emption and restore (R315, R340, R341) -/

/-- A company is saved for a fault, once its units have stopped: the deadlines that have come pass, and what they end is latched
(R337), and its image goes to its frame (R346). -/
def State.save (s : State) (u : Nat) : State :=
  match s.company? u with
  | none => s
  | some c =>
    if c.saving && c.state == .running && s.stoppable c then
      let c : Company := { c with choruses := c.choruses.map (fun (h : Chorus) => h.passAll (s.vtTicks c.ctx)) }
      let c : Company := { c.asSaved with state := .faultSaved, faulted := true, saving := false }
      (s.setCompany c).writeFrame 3 c
    else s

/-- A company is saved with its context; one that a fault was to save is saved for both (R346). -/
def Company.preempt (c : Company) : Company :=
  if c.state == .running then { c.asSaved with state := .preempted, faulted := c.saving, saving := false }
  else if c.state == .faultSaved then { c with state := .preempted, faulted := true }
  else c

/-- Ticks of the break-even hold of a free cluster (R362). -/
def holdTime : Nat := 20000 * ticksPerNs

/-- A cluster that another context is to hold: its record, its draw and its L2 TLB hold nothing of the one before (R211, R219). -/
def Cluster.handOver (k : Cluster) (ctx : Nat) : Cluster :=
  { k with record := 0, draw := 0, nearLimit := false, overLimit := false, l2 := k.l2.filter (fun e => e.ctx == ctx) }

/-- A cluster becomes free: a powered one begins its hold, and one that wakes will have it (R362). -/
def Cluster.free (k : Cluster) (now : Nat) : Cluster :=
  let k : Cluster := { k with owner := none }
  match k.power with
  | .on | .hold _ => { k with power := .hold (now + holdTime) }
  | .gated => k
  | .queued | .ramp _ | .settle _ => { k with freed := some (now + holdTime) }

/-- Clusters become free. -/
def State.freeClusters (s : State) (p : Cluster → Bool) : State :=
  { s with clusters := updWhere p (fun (k : Cluster) => k.free s.now) s.clusters }

/-- The stage time at which the last unit of a context stops: the latest end of a core cycle under way (R341). -/
def State.lastEdge (s : State) (ctx : Nat) : Nat :=
  ((s.companies.filter (fun k => k.ctx == ctx)).map (fun k => (s.core k.core).at_)).foldl Nat.max s.now

/-- Messages of a context's board become visible: bit 5 is pending in every live chorus of the context (R332). -/
def State.showMessages (s : State) (ctx : Nat) (p : BoardEntry → Bool) : State :=
  if (s.context? ctx).any (fun c => c.board.any p) then
    let s := s.modContext ctx (fun c => { c with board := updWhere p (fun e => { e with visible := true }) c.board })
    let f (h : Chorus) : Chorus := if h.halted.isSome || h.ended then h else { h with pending := h.pending ||| 0x20#7 }
    { s with companies := updWhere (fun (k : Company) => k.ctx == ctx) (fun k => { k with choruses := k.choruses.map f }) s.companies }
  else s

/-- The waits of a context whose ends have come end (R337). -/
def State.settleContext (s : State) (ctx : Nat) : State :=
  (s.companies.filter (fun k => k.ctx == ctx)).foldl (fun s k => s.settleCompany k.uid) s

/-- The clock of a context stops with its last unit (R328): what the deadlines and the stamps up to `vt` bring is latched (R337). -/
def State.stopVt (s : State) (ctx : Nat) : State :=
  match s.context? ctx with
  | none => s
  | some c =>
    if c.running s.curtain then
      let t := s.lastEdge ctx
      let vt := c.vt + (t - s.now)
      let latch (k : Company) : Company := if k.ctx == ctx then { k with choruses := k.choruses.map (fun h => h.passAll vt) } else k
      let s := s.showMessages ctx (fun e => !e.visible && !e.taken && decide (e.stampTicks ≤ vt))
      State.modContext { s with companies := s.companies.map latch } ctx (fun c => { c with vt := vt, stopAt := t })
    else s

/-- The clock of a context goes on: an event that arrives at this stage time is stamped with the `vt` of the stop, and what was latched in
the stop takes effect before the next instruction (R337). -/
def State.enterVt (s : State) (ctx : Nat) : State :=
  (s.settleContext ctx).modContext ctx (fun c => { c with
    board := updWhere (fun e => !e.visible && e.arrivedAt == s.now)
      (fun e => { e with stampTicks := c.vt, msg := { e.msg with stamp := BitVec.ofNat 64 (c.vt / ticksPerNs) } }) c.board
    responses := updWhere (fun r => r.arrivedAt == s.now) (fun r => { r with stampTicks := c.vt }) c.responses })

/-- The context leaves the stage when its last unit stops, and its owed replies note it (R386). The partition of a context that was
resident is freed (R211, R303). -/
def State.offStage (s : State) (ctx : Nat) : State :=
  let s := (s.stopVt ctx).freeClusters (fun k => k.owner == some ctx)
  s.modContext ctx (fun c => { c with
    partition := []
    state := if c.state == .resident then .saved else c.state, onStage := false, sliceOver := false
    board := c.board.map (fun e => { e with wasOff := true }) })

/-- Walks of commands that are all recorded end without effect. -/
def State.dropWalks (s : State) (ctx : Nat) : State :=
  { s with walks := s.walks.filter (fun w => !(w.ctx == ctx && s.companies.all (fun k => k.ctx != ctx || k.state != .running))) }

/-- Stops what can be stopped of a context, and takes it off the stage once all of it is; then its images are written (R341). -/
def State.preempt (s : State) (c : Context) : State :=
  let s := s.modContext c.id (fun c => { c with sliceOver := true })
  let stop (k : Company) : Company := if k.ctx == c.id && s.stoppable k then k.preempt else k
  let s := { s with companies := s.companies.map stop }
  let s := s.dropWalks c.id
  if s.companies.all (fun k => k.ctx != c.id || k.state == .preempted || k.state == .complete)
  then (s.offStage c.id).writeGreen c.id 1 (fun _ => true) else s

/-- `preemption_request` (R324, R341). What has completed counts first; every other company of the context stops at its stopping points,
and the context is off stage when the last has stopped. -/
def execPreemptionRequest (s : State) : Out :=
  match s.context? s.arg.a with
  | none => .next s
  | some c => if c.onStage && c.state == .resident && !s.curtain then .next ((s.completions c.id).preempt c) else .next s

/-- `slice_expiry` (R315). The slice of a context is over: nothing more of it issues, and it is pre-empted. -/
def execSliceExpiry (s : State) : Out :=
  match s.context? s.arg.a with
  | none => .next s
  | some c =>
    if c.onStage && c.state == .resident && !s.curtain
    then .next (s.modContext c.id (fun c => { c with sliceOver := true })) else .next s

/-- Whether cistern quotas of a context fit beside those of the resident ones on every die (R221). -/
def State.quotasFit (s : State) (ctx : Nat) (qs : List Nat) : Bool :=
  (List.range 8).all (fun d =>
    decide (total ((s.contexts.filter (fun c => c.id != ctx && c.state == .resident)).map (fun c => c.quotas.getD d 0)) + qs.getD d 0 ≤ (s.die d).cistern))

/-- Whether a saved context may go on stage: it has a partition whose clusters are awake, quotas that fit, and a loaded key slot. -/
def State.mayEnter (s : State) (c : Context) : Bool :=
  c.state == .saved && !c.leaves && !c.partition.isEmpty && s.quotasFit c.id c.quotas && s.pcieUp && !s.curtain && !s.tripped &&
    c.partition.all (fun k => (s.cluster k).owner == some c.id && (s.cluster k).power == .on) &&
    s.keySlots.any (fun k => k.1 == c.keySlot && k.2 == c.id)

/-- `context_restore` (R341). The images are read back, every company is placed again, and the slice begins. -/
def execContextRestore (s : State) : Out :=
  match s.context? s.arg.a with
  | none => .next s
  | some c =>
    if s.mayEnter c then
      match s.seatRuns c.id (fun _ => true) with
      | some t =>
        let t := ((s.companies.filter (fun k => k.ctx == c.id && k.state != .complete)).foldl (fun t k => t.readFrame k) t)
        .next ((t.enterVt c.id).modContext c.id (fun c => { c with state := .resident, onStage := true }))
      | none => .next s
    else .next s

/-- `company_fault_restore` (R346). A company saved for a fault is read back from its frame and restored once its requests are
answered. -/
def execCompanyFaultRestore (s : State) : Out :=
  match s.company? s.arg.a with
  | none => .next s
  | some c =>
    if c.state == .faultSaved && !s.awaitsPage c.uid && (s.context? c.ctx).any (fun x => x.running s.curtain) && s.mayRestore c s.arg.b
    then .next ((s.readFrame c).resumeCompany c.uid s.arg.b) else .next s

/-! ## The watchdog (R338) -/

/-- `watchdog_expiry` (R338). The run is saved to the green room and ended, once its companies stand at their stopping points. -/
def execWatchdogExpiry (s : State) : Out :=
  match s.run? s.arg.a s.arg.b with
  | none => .next s
  | some r =>
    if s.watchdogDue r && s.runStopped r then
      let p := s.imageOf r 4
      let t := p.2.writeGreen r.ctx 4 (fun k => k.run == r.id)
      .next ({ t with images := t.images ++ [p.1] }.endRun r.ctx r.id 5 0)
    else .next s

end Sys2Proof.Machine
end

