-- ==== Sys2Proof/Machine/System.lean ====
section
/-!
DEFINITION. Special registers, `fmt`, timers and waits, `qkick`, `evt`, the firmware instructions, and messages (R25, R90
to R93, R321 to R323, R326, R331 to R335, R387 to R390).
-/
namespace Sys2Proof.Machine

/-! ## Special registers (R25, R90 to R93) -/

/-- The cue codes in the format of `cues` (R20). -/
def Chorus.cueWord (h : Chorus) : Word :=
  BitVec.ofNat 32 (total ((List.range 8).map (fun k => h.cueCode k * 4 ^ k)))

/-- The value that lane `l` reads from a special register. -/
def State.special (s : State) (x : Site) (r : Nat) (l : Nat) : Word :=
  let nat (n : Nat) : Word := BitVec.ofNat 32 n
  match r with
  | 0x000 => nat l
  | 0x001 => nat x.ch.index
  | 0x002 => nat x.co.index
  | 0x003 => nat x.co.troupe
  | 0x004 => nat x.co.run
  | 0x008 => x.sp.xm
  | 0x009 => zext x.sp.fmt
  | 0x00A => zext (x.ch.pli.getD l 0)
  | 0x00B => x.ch.fm
  | 0x010 => nat x.sp.wb
  | 0x011 => nat x.ch.ring.length
  | 0x012 => x.ch.wellp
  | 0x013 => nat x.sp.depth
  | 0x018 => nat x.co.cyc
  | 0x019 => x.ch.cycHi
  | 0x01A => nat (s.vtOf x)
  | 0x01B => x.ch.vtHi
  | 0x01C => lo32 x.ch.msgvt
  | 0x01D => x.ch.msgvtHi
  | 0x020 => x.ch.cause
  | 0x021 => x.ch.epc
  | 0x022 => x.ch.tval
  | 0x028 => x.ch.cueWord
  | 0x030 => nat (s.core x.co.core).band
  | 0x031 => nat (s.cluster (clusterOf x.co.core)).draw
  | _ => 0

/-- The high half that the read of a low half latches. -/
def State.latchHigh (s : State) (x : Site) (r : Nat) : Chorus :=
  match r with
  | 0x018 => { x.ch with cycHi := BitVec.ofNat 32 (x.co.cyc / 2 ^ 32) }
  | 0x01A => { x.ch with vtHi := BitVec.ofNat 32 (s.vtOf x / 2 ^ 32) }
  | 0x01C => { x.ch with msgvtHi := hi32 x.ch.msgvt }
  | _ => x.ch

/-- `mfs` (R91). Reads a special register in each active lane. -/
def execMfs (r : BitVec 14) (d : BitVec 6) (s : State) : Out :=
  issue (.mfs r d) s (fun x =>
    if x.idle then .next (s.retire (.mfs r d) x x)
    else .next (s.retire (.mfs r d) x ({ x with ch := s.latchHigh x r.toNat }.write d.toNat (s.special x r.toNat))))

/-- The site after `u` is written to a special register; `none` is the misaligned trap of `wellp`. -/
def Site.setSpecial (x : Site) (r : Nat) (u : Word) : Option Site :=
  match r with
  | 0x008 => some { x with sp := { x.sp with xm := u &&& x.sp.members } }
  | 0x009 => some { x with sp := { x.sp with fmt := (u.extractLsb' 0 12).setWidth 16 } }
  | 0x00B => some { x with ch := { x.ch with fm := x.ch.fm &&& u } }
  | 0x012 =>
    if u.toNat % 4 != 0 || decide (x.co.playbill.localSize < u.toNat) then none
    else some { x with ch := { x.ch with wellp := u } }
  | 0x020 => some { x with ch := { x.ch with cause := u } }
  | 0x021 => some { x with ch := { x.ch with epc := u } }
  | 0x022 => some { x with ch := { x.ch with tval := u } }
  | _ => some x

/-- `mts` (R92). Writes a special register from the leader. -/
def execMts (r : BitVec 14) (v : BitVec 6) (s : State) : Out :=
  issue (.mts r v) s (fun x =>
    if x.idle && r != 0x008 then .next (s.retire (.mts r v) x x)
    else
      match x.setSpecial r.toNat (x.uniform v.toNat) with
      | none => .next (s.fail (.mts r v) x 0x0E (laneWord x.leaderOrMember))
      | some y => .next (s.retire (.mts r v) x y))

/-- `fmt` (R93). Writes an immediate to the split's `fmt`, whatever the active set. -/
def execFmt (i : BitVec 12) (s : State) : Out :=
  issue (.fmt i) s (fun x => .next (s.retire (.fmt i) x { x with sp := { x.sp with fmt := i.setWidth 16 } }))

/-! ## Timers and waits (R331 to R335) -/

/-- A chorus with timer `k` set to a deadline, or disarmed; its pending bit is cleared. -/
def Chorus.setTimer (h : Chorus) (k : Nat) (t : Option Nat) : Chorus :=
  { h with timers := updAt h.timers k (fun _ => t), pending := h.pending &&& ~~~(1#7 <<< k) }

/-- The deadline of a delta in ns from now (R327). -/
def State.deadline (s : State) (x : Site) (delta : Word) : Nat := (s.vtOf x + delta.toNat) * ticksPerNs

/-- `tmr_set` (R333). Arms a timer with a delta of virtual time. -/
def execTmrSet (b : BitVec 6) (a : BitVec 6) (s : State) : Out :=
  issue (.tmrSet b a) s (fun x =>
    let k := (x.uniform a.toNat).toNat
    if 4 ≤ k then .next (s.fail (.tmrSet b a) x 0x01 (encode (.tmrSet b a)).word)
    else .next (s.retire (.tmrSet b a) x { x with ch := x.ch.setTimer k (some (s.deadline x (x.uniform b.toNat))) }))

/-- `tmr_clr` (R333). Disarms a timer. -/
def execTmrClr (a : BitVec 6) (s : State) : Out :=
  issue (.tmrClr a) s (fun x =>
    let k := (x.uniform a.toNat).toNat
    if 4 ≤ k then .next (s.fail (.tmrClr a) x 0x01 (encode (.tmrClr a)).word)
    else .next (s.retire (.tmrClr a) x { x with ch := x.ch.setTimer k none }))

/-- `wev` (R334). Waits for selected pending events with a deadline. -/
def execWev (b : BitVec 6) (a : BitVec 6) (d : BitVec 6) (s : State) : Out :=
  issue (.wev b a d) s (fun x =>
    let m := (x.uniform a.toNat).extractLsb' 0 7
    let delta := x.uniform b.toNat
    if x.ch.pending &&& m == 0 && delta == 0 then
      .next (s.retire (.wev b a d) x (x.write d.toNat (fun _ => 0x80000000)))
    else .next (s.retireWait (.wev b a d) x x (.wev m (s.deadline x delta) d) .waitEvent))

/-- `wtm` (R335). Waits for a 64-bit virtual-time deadline. -/
def execWtm (a : BitVec 6) (d : BitVec 6) (s : State) : Out :=
  issue (.wtm a d) s (fun x =>
    let t := (x.uniformPair a.toNat).toNat * ticksPerNs
    if t ≤ s.vtTicks x.co.ctx then .next (s.retire (.wtm a d) x (x.write d.toNat (fun _ => 0)))
    else .next (s.retireWait (.wtm a d) x x (.wtm t d) .waitEvent))

/-! ## qkick, evt and the firmware instructions (R310, R321 to R323, R326) -/

/-- A kick proposes a write index, and the prompter reads a slot that it waits for again; a disabled queue ignores it
(R310, R324). -/
def Queue.kick (q : Queue) (k : Nat) : Queue := if q.ctl.getLsbD 0 then { q with w := Nat.max q.w k, reread := none } else q

/-- A kick of a queue of a context. -/
def State.kick (s : State) (ctx q k : Nat) : State :=
  s.modContext ctx (fun c => { c with queues := updAt c.queues q (fun x => x.kick k) })

/-- `qkick` (R321). Kicks a command queue of the chorus's own context. -/
def execQkick (b : BitVec 6) (a : BitVec 6) (s : State) : Out :=
  issue (.qkick b a) s (fun x =>
    if x.idle then .next (s.retire (.qkick b a) x x)
    else
      let q := (x.uniform b.toNat).toNat
      if 16 ≤ q then .next (s.fail (.qkick b a) x 0x01 (encode (.qkick b a)).word)
      else .next ((s.kick x.co.ctx q (x.uniformPair a.toNat).toNat).retire (.qkick b a) x x))

/-- `evt` (R322). Writes the completion-event counter to vd. -/
def execEvt (d : BitVec 6) (s : State) : Out :=
  issue (.evt d) s (fun x => .next (s.retire (.evt d) x (x.write d.toNat (fun _ => x.ch.events))))

/-- `plset` (R323). Sets a cluster's current limit from the next window boundary, firmware only. -/
def execPlset (c : BitVec 3) (d : BitVec 6) (s : State) : Out :=
  issue (.plset c d) s (fun x =>
    if x.idle then .next (s.retire (.plset c d) x x)
    else
      let n := 6 * dieOfCore x.co.core + c.toNat
      let t := s.modCluster n (fun k => { k with newLimit := some (x.uniform d.toNat).toNat })
      .next (t.retire (.plset c d) x x))

/-- `rdstg` (R326). Reads stage time, firmware only; the low half latches the high half whatever the active set. -/
def execRdstg (i : BitVec 14) (d : BitVec 6) (s : State) : Out :=
  issue (.rdstg i d) s (fun x =>
    let ns := s.now / ticksPerNs
    if i == 0 then
      .next (s.retire (.rdstg i d) x
        ({ x with ch := { x.ch with stageHi := BitVec.ofNat 32 (ns / 2 ^ 32) } }.write d.toNat (fun _ => BitVec.ofNat 32 ns)))
    else .next (s.retire (.rdstg i d) x (x.write d.toNat (fun _ => x.ch.stageHi))))

/-! ## Messages (R387 to R390) -/

/-- Whether the control and length words of `msg.send` are well formed (R388). -/
def sendLegal (control len : Word) : Bool :=
  decide (control.toNat < 2 ^ 20) && decide (bits control.toNat 19 17 ≤ 1) && decide (len.toNat ≤ 128) && len.toNat % 4 == 0

/-- The message that `msg.send` sends. -/
def Site.outgoing (x : Site) (dev : BitVec 12) (dest control replyTo : Word) (ident : BitVec 32) (payload : List Byte) : Message :=
  let kind : BitVec 4 := BitVec.ofNat 4 (bits control.toNat 19 17)
  { destDev := dest.extractLsb' 0 12, destCtx := dest.extractLsb' 12 12, stamp := 0, ident := ident,
    replyTo := if kind == kindReply then replyTo else 0, patience := control.extractLsb' 0 16, ext := 0, srcDev := dev,
    srcCtx := BitVec.ofNat 12 x.co.ctx, channel := dest.extractLsb' 24 8, length := BitVec.ofNat 8 payload.length, kind := kind,
    dilation := control.getLsbD 16, payload := payload }

/-- The site of a split of a chorus. -/
def State.siteOf (s : State) (r : ChorusRef) (m : Mask) : Option Site :=
  (s.company? r.co).bind (fun c => (c.chorus? r.ch).bind (fun h =>
    if h.halted.isSome || h.ended then none else (h.splits.find? (fun p => p.members == m)).map (fun p => { co := c, ch := h, sp := p })))

/-- The wait of a split for the call board ends with an outcome. -/
def State.endBoard (s : State) (x : Site) (vd : BitVec 6) (v : Word) : State :=
  (s.putChorus { x with ch := x.ch.wake x.sp x.sp.wait (.done vd v) }).settleCompany x.co.uid

/-- The payload of a message has been read from the stage: the message leaves, and its request identifier is written (R388). -/
def State.boardSend (s : State) (x : Site) (dest control replyTo : Word) (addr len : Nat) (pc : Word) (vd : BitVec 6) : State :=
  if poisoned x.co.stagePoison addr len then s.takeTrap x 0x10 pc (laneWord x.leaderOrMember) true
  else
    let r := s.nextIdent (dest.extractLsb' 0 12)
    let m := x.outgoing s.deviceId dest control replyTo r.1 (x.co.stage.readBytes addr len)
    let t := if m.kind == kindReply then r.2.modContext x.co.ctx (fun c => c.endOwed m.destDev replyTo) else r.2
    (t.sendMessage m (.message x.co.ctx x.co.uid x.ch.index pc)).endBoard x vd r.1

/-- `msg_send` (R388). The split waits for the call board, which sends the message and returns its request identifier. -/
def execMsgSend (b : BitVec 6) (a : BitVec 6) (d : BitVec 6) (s : State) : Out :=
  issue (.msgSend b a d) s (fun x =>
    if x.idle then .next (s.retire (.msgSend b a d) x x)
    else
      let dest := x.uniform a.toNat
      let control := x.uniform (a.toNat + 1)
      let replyTo := x.uniform (a.toNat + 2)
      let addr := (x.uniform b.toNat).toNat
      let len := x.uniform (b.toNat + 1)
      let lead := laneWord x.leaderOrMember
      if !sendLegal control len then .next (s.fail (.msgSend b a d) x 0x01 (encode (.msgSend b a d)).word)
      else if addr % 4 != 0 then .next (s.fail (.msgSend b a d) x 0x0E lead)
      else if x.co.playbill.stage < addr + len.toNat then .next (s.fail (.msgSend b a d) x 0x0D lead)
      else .next (s.retireWait (.msgSend b a d) x x (.board (.send dest control replyTo addr len.toNat x.sp.pc) d) .waitMemory))

/-- Bits 63:32 of a message's header, as `msg.recv` and `msg.peek` write them. -/
def messageStatus (m : Message) : Word := BitVec.ofNat 32 (messageHeader m / 2 ^ 32)

/-- The message taken next by a context. -/
def State.firstMessage (s : State) (ctx : Nat) : Option BoardEntry := (s.context? ctx).bind (fun c => nextMessage c.board)

/-- A taken message leaves the board, or stays as an owed reply (R384). -/
def Context.take (c : Context) (e : BoardEntry) : Context :=
  let board := updWhere (fun d => d.order == e.order && !d.taken) (fun d => { d with taken := true }) c.board
  { c with board := board.filter (fun d => !d.taken || d.owed) }

/-- The message that the call board gives a split goes to the stage, its stamp to `msgvt`, and its status is written; with none visible
nothing is taken (R389). -/
def State.boardRecv (s : State) (x : Site) (addr : Nat) (vd : BitVec 6) : State :=
  match s.firstMessage x.co.ctx with
  | none => s.endBoard x vd 0xFFFFFFFF
  | some e =>
    let bytes := bytesLE 32 (messageHeader e.msg) ++ e.msg.payload
    let co := { x.co with stage := x.co.stage.writeBytes addr bytes, stagePoison := poisonClear x.co.stagePoison addr bytes.length }
    (s.modContext x.co.ctx (fun c => c.take e)).endBoard { x with co := co, ch := { x.ch with msgvt := e.msg.stamp } } vd (messageStatus e.msg)

/-- The call board answers a split that waits for it (R393). -/
def State.boardAnswer (s : State) (r : ChorusRef) (m : Mask) : State :=
  match s.siteOf r m with
  | none => s
  | some x =>
    match x.sp.wait with
    | .board (.send dest control replyTo addr len pc) vd => s.boardSend x dest control replyTo addr len pc vd
    | .board (.recv addr _) vd => s.boardRecv x addr vd
    | _ => s

/-- `msg_recv` (R389). The split waits for the call board, which puts the visible message of lowest stamp into the stage. -/
def execMsgRecv (a : BitVec 6) (d : BitVec 6) (s : State) : Out :=
  issue (.msgRecv a d) s (fun x =>
    if x.idle then .next (s.retire (.msgRecv a d) x x)
    else
      let addr := (x.uniform a.toNat).toNat
      let lead := laneWord x.leaderOrMember
      if addr % 16 != 0 then .next (s.fail (.msgRecv a d) x 0x0E lead)
      else if x.co.playbill.stage < addr + 160 then .next (s.fail (.msgRecv a d) x 0x0D lead)
      else .next (s.retireWait (.msgRecv a d) x x (.board (.recv addr x.sp.pc) d) .waitMemory))

/-- `msg_peek` (R389). Reports the message that would be taken next. -/
def execMsgPeek (d : BitVec 6) (s : State) : Out :=
  issue (.msgPeek d) s (fun x =>
    let v := match s.firstMessage x.co.ctx with | some e => messageStatus e.msg | none => 0xFFFFFFFF
    .next (s.retire (.msgPeek d) x (x.write d.toNat (fun _ => v))))

/-- `msg_hold` (R390). Extends an owed reply by HOLD, or ends it by BUSY. -/
def execMsgHold (b : BitVec 6) (a : BitVec 6) (d : BitVec 6) (s : State) : Out :=
  issue (.msgHold b a d) s (fun x =>
    if x.idle then .next (s.retire (.msgHold b a d) x x)
    else
      let ident := x.uniform a.toNat
      let src := (x.uniform (a.toNat + 1)).extractLsb' 0 12
      match (s.context? x.co.ctx).bind (fun c => c.owedEntry? src ident) with
      | none => .next (s.retire (.msgHold b a d) x (x.write d.toNat (fun _ => 0xFFFFFFFF)))
      | some e =>
        let r := s.answerOwed x.co.ctx e ((x.uniform b.toNat).extractLsb' 0 16) (.message x.co.ctx x.co.uid x.ch.index x.sp.pc)
        .next (r.2.retire (.msgHold b a d) x (x.write d.toNat (fun _ => if r.1 then 0 else 1))))

end Sys2Proof.Machine
end

