-- ==== Sys2Proof/Machine/Front.lean ====
section
/-!
DEFINITION. The prompters and the box office: queues, kicks, packets, and the acceptance of runs (R257, R259, R304, R306 to
R318, R321, R324).
-/
namespace Sys2Proof.Machine

/-! ## Memory for a packet (R313, R348) -/

/-- What a packet gets from memory: the bytes, a stall until a page request is answered, or error 0x04. -/
inductive Asked where
  | data (bs : List Byte)
  | stall
  | refuse
  deriving DecidableEq, Repr

/-- Changes a queue of a context. -/
def State.modQueue (s : State) (ctx q : Nat) (f : Queue → Queue) : State :=
  s.modContext ctx (fun c => { c with queues := updAt c.queues q f })

/-- A queue of a context. -/
def State.queue? (s : State) (ctx q : Nat) : Option Queue := (s.context? ctx).bind (fun c => c.queues[q]?)

/-- A page that a packet lacks: it is asked for, unless its request has failed already, which refuses the packet. -/
def State.lackPage (s : State) (ctx q stage : Nat) (page : PageRef) (acc : Access) : Asked × State :=
  if (s.queue? ctx q).any (fun x => x.failed == some (stage, page.base)) then (.refuse, s.modQueue ctx q (fun x => { x with failed := none }))
  else (.stall, s.pageRequest ctx stage page acc (.front ctx q))

/-- The places of a range that a packet accesses, and whether it may. -/
def State.askPlaces (s : State) (ctx q va n : Nat) (acc : Access) : Option (List Piece) × Asked × State :=
  match s.reach ctx va n acc with
  | (.bad, s) => (none, .refuse, s)
  | (.absent k p, s) => let r := s.lackPage ctx q k p acc; (none, r.1, r.2)
  | (.ok ps, s) => (some ps, .data [], s)

/-- Reads bytes for a packet; poisoned ones refuse it. -/
def State.ask (s : State) (ctx q va n : Nat) (acc : Access) : Asked × State :=
  match s.askPlaces ctx q va n acc with
  | (none, a, s) => (a, s)
  | (some ps, _, s) =>
    if s.piecesPoisoned ps then (.refuse, s) else let r := s.readPieces ctx ps; (.data r.1, r.2)

/-- A little-endian field of some bytes. -/
def field (bs : List Byte) (off n : Nat) : Nat := ofBytesLE ((bs.drop off).take n)

/-! ## The prompter (R308 to R310) -/

/-- Fields of QCTL (R304). -/
def Queue.enabled (q : Queue) : Bool := q.ctl.getLsbD 0
def Queue.size (q : Queue) : Nat := 2 ^ bits q.ctl.toNat 5 1
def Queue.mayGrant (q : Queue) : Bool := q.ctl.getLsbD 8
def Queue.space (q : Queue) : Nat := bits q.ctl.toNat 10 9

/-- Whether a queue waits for the answer to a page request. -/
def State.queueStalled (s : State) (ctx q : Nat) : Bool :=
  s.requests.any (fun r => r.waiters.contains (.front ctx q) || r.waiters.contains (.mirror ctx q))

/-- Whether the queues of a context are served: it is on stage and its slice goes on (R310, R315). -/
def State.served (s : State) (c : Context) : Bool := c.running s.curtain && c.state == .resident && !c.sliceOver && !c.leaves

/-- Whether the prompter may go on with a packet of a queue that has started. -/
def State.goesOn (s : State) (c : Context) (k : Nat) (q : Queue) : Bool := s.served c && !q.mirrorOwed && !s.queueStalled c.id k

/-- Whether a refused packet of a queue still owes its error record: it has not completed, and the next does not start (R314, R319). -/
def Context.owesError (c : Context) (k : Nat) : Bool := c.records.any (fun r => r.kind == 3 && r.queue == k)

/-- Whether the prompter may start a packet of a queue: it is enabled and not stopped, and no error record of it is owed. -/
def State.prompts (s : State) (c : Context) (k : Nat) (q : Queue) : Bool := s.goesOn c k q && q.enabled && !q.stopped && !c.owesError k

/-- What the prompter finds at the head of a queue. -/
inductive Head where
  /-- The slot, or a continuation, is not published. -/
  | mismatch
  | stall
  /-- A slot cannot be read; so many are passed. -/
  | refuse (n : Nat)
  /-- A malformed packet of a type. -/
  | stop (type : Nat)
  /-- A packet: its type, its slots and their bytes. -/
  | packet (type n : Nat) (body : List Byte)
  deriving DecidableEq, Repr

/-- Reads the header of slot `i`, and once its seq has matched the rest (R353). -/
def State.readHeader (s : State) (ctx k : Nat) (q : Queue) (i : Nat) : Asked × State :=
  s.ask ctx k (q.base.toNat + i % q.size * 64) 8 .read
def State.readRest (s : State) (ctx k : Nat) (q : Queue) (i : Nat) : Asked × State :=
  s.ask ctx k (q.base.toNat + i % q.size * 64 + 8) 56 .read

/-- Reads the continuation slots of a packet from slot `i` on. -/
def readConts (s : State) (ctx k : Nat) (q : Queue) (type n : Nat) (body : List Byte) (i left : Nat) : Head × State :=
  match left with
  | 0 => (.packet type n body, s)
  | m + 1 =>
    if q.w ≤ i then (.mismatch, s)
    else
      match s.readHeader ctx k q i with
      | (.stall, s) => (.stall, s)
      | (.refuse, s) => (.refuse n, s)
      | (.data h, s) =>
        if field h 4 4 != i % 2 ^ 32 then (.mismatch, s)
        else if field h 0 4 != 0 then (.stop type, s)
        else
          match s.readRest ctx k q i with
          | (.stall, s) => (.stall, s)
          | (.refuse, s) => (.refuse n, s)
          | (.data b, s) => readConts s ctx k q type n (body ++ h ++ b) (i + 1) m

/-- The fields that must be zero in the first slot of a packet type: first byte and the byte after the last (R313). -/
def zeroFields (type : Nat) : List (Nat × Nat) :=
  match type with
  | 2 => [(0x18, 0x38)]
  | 3 => [(0x14, 0x18)]
  | 4 => [(0x20, 0x40)]
  | 5 => [(0x14, 0x18), (0x29, 0x30)]
  | 6 => [(0x28, 0x40)]
  | 7 => [(0x08, 0x40)]
  | 8 => [(0x0A, 0x0C), (0x14, 0x18)]
  | _ => []

/-- Reads the packet at the read index of a queue. -/
def State.head (s : State) (ctx k : Nat) (q : Queue) : Head × State :=
  match s.readHeader ctx k q q.rd with
  | (.stall, s) => (.stall, s)
  | (.refuse, s) => (.refuse 1, s)
  | (.data h, s) =>
    let type := field h 0 1
    let n := field h 1 1 % 16 + 1
    if field h 4 4 != q.rd % 2 ^ 32 then (.mismatch, s)
    else if field h 0 4 / 2 ^ 12 != 0 || decide (6 < n) || type == 0 || decide (8 < type) then (.stop type, s)
    else
      match s.readRest ctx k q q.rd with
      | (.stall, s) => (.stall, s)
      | (.refuse, s) => (.refuse n, s)
      | (.data b, s) =>
        if (zeroFields type).any (fun z => field (h ++ b) z.1 (z.2 - z.1) != 0) then (.stop type, s)
        else readConts s ctx k q type n (h ++ b) (q.rd + 1) (n - 1)

/-! ## The mirror (R304, R310, R313) -/

/-- Writes the read index to the mirror word. A recoverable fault holds it up; a permanent one drops it. -/
def State.writeMirror (s : State) (ctx k : Nat) : State :=
  match s.queue? ctx k with
  | none => s
  | some q =>
    if q.space = 0 then
      match s.frontWrite ctx (q.mirror.toNat % 2 ^ 48) (bytesLE 8 (q.rd % 2 ^ 64)) with
      | (.done, s) => s.modQueue ctx k (fun q => { q with mirrorOwed := false })
      | (.bad, s) => s.modQueue ctx k (fun q => { q with mirrorOwed := false })
      | (.absent g p, s) => (s.modQueue ctx k (fun q => { q with mirrorOwed := true })).pageRequest ctx g p .write (.mirror ctx k)
    else
      let die := bits q.ctl.toNat 14 12
      let off := q.mirror.toNat % 2 ^ 48
      (s.modQueue ctx k (fun q => { q with mirrorOwed := false })).modRun ctx (q.ctl.toNat / 2 ^ 32) (fun r =>
        if r.windows.any (fun w => w.1 == die) && decide (off + 8 ≤ r.window) then
          { r with
            windows := updWhere (fun w => w.1 == die) (fun w => (die, w.2.writeLE off 8 (q.rd % 2 ^ 64))) r.windows
            windowPoison := r.windowPoison.filter (fun p => !(p.1 == die && (wholeGranules off 8).contains p.2)) }
        else r)

/-! ## How a packet goes on -/

/-- How the evaluation of a packet ends. -/
inductive PacketEnd where
  | started (s : State)
  /-- It waits for a page, or may not start yet. -/
  | later (s : State)
  | refused (s : State) (code : Nat)
  | stopped (s : State)

/-- 1 µs of stage time. -/
def microsecond : Nat := 1000 * ticksPerNs

/-- The queue moves past the packet's slots, and its mirror is written. -/
def State.pass (s : State) (ctx k n : Nat) : State := (s.modQueue ctx k (fun q => { q with rd := q.rd + n })).writeMirror ctx k

/-- The queue stops with error 0x01. -/
def State.stopQueue (s : State) (ctx k : Nat) : State :=
  (s.modQueue ctx k (fun q => { q with stopped := true, code := 1, stopIndex := q.rd })).owe ctx (errorRecord k 1)

/-- The state after the evaluation of a packet of `n` slots (R310, R316). -/
def PacketEnd.state (ctx k n : Nat) : PacketEnd → State
  | .started s => s.pass ctx k n
  | .later s => s
  | .refused s code => (s.owe ctx (errorRecord k code)).pass ctx k n
  | .stopped s => s.stopQueue ctx k

/-- The packet event of one type: it happens when the packet at the head of the queue is of that type. -/
def packetEvent (type : Nat) (run : State → Context → Nat → Queue → Nat → List Byte → PacketEnd) (s : State) : Out :=
  match s.context? s.arg.a with
  | none => .next s
  | some c =>
    match c.queues[s.arg.b]? with
    | none => .next s
    | some q =>
      if s.prompts c s.arg.b q && q.hold == .none && q.reread.isNone && decide (q.rd < q.w) then
        match s.head c.id s.arg.b q with
        | (.packet t n b, u) => if t = type then .next ((run u c s.arg.b q n b).state c.id s.arg.b n) else .next s
        | (.stop t, u) => if t = type then .next (u.stopQueue c.id s.arg.b) else .next s
        | _ => .next s
      else .next s

/-- `prompter_reread` (R310). The prompter reads a slot that is not published, or whose page is absent; 1 µs after a seq
mismatch it reads the slot again. -/
def execPrompterReread (s : State) : Out :=
  match s.context? s.arg.a with
  | none => .next s
  | some c =>
    match c.queues[s.arg.b]? with
    | none => .next s
    | some q =>
      if s.prompts c s.arg.b q && q.hold == .none && decide (q.rd < q.w) && q.reread.all (fun t => decide (t ≤ s.now)) then
        match s.head c.id s.arg.b q with
        | (.mismatch, u) => .next (u.modQueue c.id s.arg.b (fun q => { q with reread := some (s.now + microsecond) }))
        | (.stall, u) => .next u
        | _ => .next (s.modQueue c.id s.arg.b (fun q => { q with reread := none }))
      else .next s

/-- `cont` (R313, R316). A continuation or a type without meaning as the first slot of a packet stops the queue with error
0x01; a slot that cannot be read is refused with error 0x04. -/
def execCont (s : State) : Out :=
  match s.context? s.arg.a with
  | none => .next s
  | some c =>
    match c.queues[s.arg.b]? with
    | none => .next s
    | some q =>
      if s.prompts c s.arg.b q && q.hold == .none && q.reread.isNone && decide (q.rd < q.w) then
        match s.head c.id s.arg.b q with
        | (.stop t, u) => if t = 0 || 8 < t then .next (u.stopQueue c.id s.arg.b) else .next s
        | (.refuse n, u) => .next ((PacketEnd.refused u 4).state c.id s.arg.b n)
        | _ => .next s
      else .next s

/-! ## LAUNCH (R306, R307, R311, R312, R317) -/

/-- The fields of a LAUNCH that its slot holds. -/
structure LaunchSlot where
  playbill : Nat
  troupes : Nat
  params : Nat
  paramLen : Nat
  window : Nat
  lanes : Nat
  cls : Nat
  map : Nat
  wells : Nat
  tag : Nat
  deriving DecidableEq, Repr

/-- The LAUNCH in a slot. -/
def launchSlot (b : List Byte) : LaunchSlot :=
  { playbill := field b 0x08 8, troupes := field b 0x10 8, params := field b 0x18 8, paramLen := field b 0x20 4, window := field b 0x24 2,
    lanes := field b 0x26 1, cls := field b 0x27 1, map := field b 0x28 8, wells := field b 0x30 8, tag := field b 0x38 8 }

/-- The limits of the slot's fields (R311). -/
def LaunchSlot.legal (l : LaunchSlot) : Bool :=
  l.playbill % 256 == 0 && decide (1 ≤ l.troupes) && decide (l.troupes ≤ 2 ^ 40) && l.paramLen % 16 == 0 && decide (l.paramLen ≤ 65536) &&
    decide (l.window ≤ 1536) && decide (1 ≤ l.lanes) && decide (l.lanes ≤ 32) && l.cls % 4 != 3 && decide (l.cls < 16) && l.wells % 128 == 0

/-- No two ranges of a list, as first number and count, overlap. -/
def disjoint : List (Nat × Nat) → Bool
  | [] => true
  | a :: r => r.all (fun b => !overlaps a.1 a.2 b.1 b.2) && disjoint r

/-- The pit map of a playbill's bytes, and its pool extents as byte offset and words. -/
def pitOf (p : List Byte) : List Region :=
  (List.range 16).map (fun k => { shaped := false, cols := 0, rows := 0, capacity := field p (0x41 + 2 * k) 1, base := field p (0x40 + 2 * k) 1 })
def poolsOf (p : List Byte) : List (Nat × Nat) :=
  (List.range (Nat.min (field p 0x2B 1) 8)).map (fun k => (field p (0x60 + 8 * k) 4, field p (0x64 + 8 * k) 4))

/-- The playbill of 256 bytes, without its tiles. -/
def playbillOf (p : List Byte) : Playbill :=
  { codeBase := BitVec.ofNat 64 (field p 0 8), codeLength := field p 8 4, entry := field p 0x0C 4
    handler := if field p 0x10 4 = 0xFFFFFFFF then none else some (field p 0x10 4)
    paramOffset := field p 0x14 4, wellSize := field p 0x18 4, localSize := field p 0x1C 4, fmt := BitVec.ofNat 12 (field p 0x20 2)
    ring := 16 * field p 0x24 1, choruses := field p 0x25 1, ensemble := field p 0x26 1, companies := field p 0x27 1, stage := 4096 * field p 0x28 1
    scoreSlots := field p 0x29 1, scoreBase := if field p 0x2A 1 = 0xFF then none else some (field p 0x2A 1), pools := poolsOf p, tiles := []
    pit := pitOf p }

/-- The limits of a playbill with `n` tiles (R47, R131, R188, R306). -/
def playbillLegal (p : List Byte) (l : LaunchSlot) : Bool :=
  let b := playbillOf p
  decide (b.codeBase.toNat < 2 ^ 48) && b.codeBase.toNat % 256 == 0 && b.codeLength % 4 == 0 && decide (b.codeLength ≤ 2 ^ 26) &&
    b.entry % 2 == 0 && decide (b.entry < b.codeLength) && b.handler.all (fun h => h % 2 == 0) && b.paramOffset % 16 == 0 &&
    b.wellSize % 128 == 0 && b.localSize % 128 == 0 && decide (0x200 + b.localSize + 128 * b.ring ≤ b.wellSize) &&
    decide (field p 0x20 2 < 4096) && decide (field p 0x22 2 ≤ 256) && decide (2 ≤ field p 0x24 1) && decide (field p 0x24 1 ≤ 15) &&
    decide (1 ≤ b.choruses) && decide (b.choruses ≤ 32) && [1, 2, 4, 8].contains b.ensemble && b.choruses % Nat.max b.ensemble 1 == 0 &&
    decide (1 ≤ b.companies) && decide (b.companies ≤ 8) && decide (1 ≤ field p 0x28 1) && decide (field p 0x28 1 ≤ 192) &&
    b.scoreBase.all (fun a => decide (a + b.scoreSlots ≤ 255)) && decide (field p 0x2B 1 ≤ 8) && field p 0x2C 4 == 0 && field p 0x38 8 == 0 &&
    field p 0xA0 96 == 0 && field p 0x30 8 % 16 == 0 &&
    b.pit.all (fun r => decide (r.capacity ≤ 240) && (r.capacity == 0 || decide (r.base + r.capacity ≤ 256))) &&
    disjoint (b.pit.map (fun r => (r.base, r.capacity))) &&
    b.pools.all (fun e => e.1 % 4 == 0 && decide (1 ≤ e.2) && decide (e.2 ≤ 16383) && decide (e.1 + 4 * e.2 ≤ b.codeLength)) &&
    disjoint (b.pools.map (fun e => (e.1, 4 * e.2))) && decide (b.paramOffset + l.paramLen ≤ b.stage)

/-- A tile-map entry (R307), as a number. -/
def tileOf (v : Nat) : Tile :=
  { score := bits v 103 96, readers := 0, state := .empty, claim := false, format := BitVec.ofNat 4 (bits v 83 80), cols := bits v 79 64,
    rows := bits v 63 48, capacity := 16 * bits v 47 32, base := 16 * bits v 15 0, claimShape := none, drainAge := 0 }

/-- The limits of a tile-map entry (R166, R307). -/
def tileLegal (b : Playbill) (v : Nat) : Bool :=
  let t := tileOf v
  bits v 127 104 == 0 && bits v 95 84 == 0 && bits v 31 16 == 0 && formatBits t.format != 0 && t.cols != 0 && t.rows != 0 &&
    decide (t.extent ≤ t.capacity) && decide (t.base + t.capacity ≤ b.stage) && (t.score == 0xFF || decide (t.score < b.scoreSlots))

/-- The numbers of consecutive fields of `n` bytes. -/
def chunks (n count : Nat) (bs : List Byte) : List Nat := (List.range count).map (fun k => field bs (n * k) n)

/-- The device as it would be with nothing but a run on the context's partition, whatever the room for frames (R317). -/
def State.emptied (s : State) (ctx : Nat) : State :=
  { s with
    companies := s.companies.filter (fun k => k.ctx != ctx)
    troupes := s.troupes.filter (fun t => t.ctx != ctx)
    runs := s.runs.filter (fun r => r.ctx != ctx)
    contexts := updWhere (fun c => c.id == ctx) (fun c => { c with greenSize := 2 ^ 64 }) s.contexts }

/-- Whether a run can be placed on the empty partition: one troupe of it, or for a concurrent run every one. -/
def State.placeable (s : State) (r : Run) : Bool :=
  let e := s.emptied r.ctx
  let e := { e with runs := e.runs ++ [r] }
  clusterIds.any (fun k => (e.placement r k).isSome)

/-- Runs that a context may hold at once (R314). -/
def runLimit : Nat := 256
def State.runsHeld (s : State) (ctx : Nat) : Nat := (s.runs.filter (fun r => r.ctx == ctx)).length

/-- The run that a LAUNCH submits (R312). -/
def launchRun (s : State) (c : Context) (k : Nat) (l : LaunchSlot) (b : Playbill) (code : List Byte) (params map : List Byte) : Run :=
  { ctx := c.id, id := c.lastRun + 1, tag := BitVec.ofNat 64 l.tag, queue := k, cls := l.cls % 4, prio := Nat.min (l.cls / 4) c.prio.toNat
    troupes := l.troupes, nextTroupe := 0, doneTroupes := 0, playbill := b, code := Memory.writeBytes [] 0 code
    codeAt := s.codePlaces c.id b, codeSince := [], params := params
    window := 65536 * l.window, lanes := l.lanes, wells := BitVec.ofNat 64 l.wells
    principals := (List.range 32).map (fun i => BitVec.ofNat 32 (field map (4 * i) 4))
    pliMap := (List.range (32 * b.choruses)).map (fun i => BitVec.ofNat 5 (field map (128 + i) 1))
    accepted := s.vtTicks c.id, holding := false, placedAt := none, windows := [], windowPoison := [], firstHalt := none, ending := none, killed := none
    resumed := false, checkpoint := none, snapAt := none }

/-- The box office accepts a run: the context's next run id is its own, and its packet is open (R312, R314). -/
def State.accept (s : State) (r : Run) (k : Nat) : State :=
  let s := { s with runs := s.runs ++ [r] }
  s.modContext r.ctx (fun c => { c with lastRun := r.id, queues := updAt c.queues k (fun q => { q with open_ := q.open_ ++ [r.id] }) })

/-- A populated lane's `pli` byte with a bit above 4 (R312). -/
def pliBad (map : List Byte) (choruses lanes : Nat) : Bool :=
  (List.range choruses).any (fun c => (List.range lanes).any (fun l => decide (32 ≤ field map (128 + 32 * c + l) 1)))

/-- Reads several ranges for a packet in turn: first address, length and kind of access each. -/
def askAll (s : State) (ctx q : Nat) (done : List (List Byte)) : List (Nat × Nat × Access) → Asked × List (List Byte) × State
  | [] => (.data [], done, s)
  | (va, n, acc) :: rest =>
    if n = 0 then askAll s ctx q (done ++ [[]]) rest
    else
      match s.ask ctx q va n acc with
      | (.data b, s) => askAll s ctx q (done ++ [b]) rest
      | (a, s) => (a, done, s)

/-- The rest of a LAUNCH once its playbill is read. -/
def launchWith (s : State) (c : Context) (k : Nat) (l : LaunchSlot) (p : List Byte) : PacketEnd :=
  let b := playbillOf p
  let n := field p 0x22 2
  match askAll s c.id k [] [(field p 0x30 8, 16 * n, .read), (b.codeBase.toNat, b.codeLength, .fetch), (l.params, l.paramLen, .read),
      (l.map, if l.map = 0 then 0 else 128 + 32 * b.choruses, .read)] with
  | (.stall, _, s) => .later s
  | (.refuse, _, s) => .refused s 4
  | (.data _, got, s) =>
    let tiles := chunks 16 n (got.getD 0 [])
    let b := { b with tiles := tiles.map tileOf }
    if !tiles.all (tileLegal b) || !disjoint (b.tiles.map (fun t => (t.base, t.capacity))) || pliBad (got.getD 3 []) b.choruses l.lanes then
      .refused s 2
    else
      let r := launchRun s c k l b (got.getD 1 []) (got.getD 2 []) (got.getD 3 [])
      if s.placeable r then .started (s.accept r k) else .refused s 3

/-- `launch` (R311). A LAUNCH packet submits a run to the box office. -/
def execLaunch (s : State) : Out :=
  packetEvent 1 (fun s c k _ _ body =>
    let l := launchSlot body
    if runLimit ≤ s.runsHeld c.id then .later s
    else if !l.legal then .refused s 2
    else
      match s.ask c.id k l.playbill 256 .read with
      | (.stall, s) => .later s
      | (.refuse, s) => .refused s 4
      | (.data p, s) => if playbillLegal p l then launchWith s c k l p else .refused s 2) s

/-- Whether an image fits the context's partition under its recorded class (R317, R318): the troupes that it records as placed, and of
those still to be placed every one of a concurrent run, else one. -/
def State.imageFits (s : State) (im : Image) : Bool :=
  let e := s.emptied im.ctx
  match e.resumeImage im 0 0 with
  | none => false
  | some (t, id) =>
    match t.run? im.ctx id with
    | none => false
    | some r =>
      if r.troupes ≤ r.nextTroupe then true
      else if r.cls == 0 then (placeAll (Nat.min (r.troupes - r.nextTroupe + 1) 36865) t r.ctx r.id).isSome
      else s.placeable { r with windows := [], windowPoison := [] }

/-- A RESUME of the image at an address: it is byte for byte one that the device sealed, and it fits (R318). -/
def resumeFrom (s : State) (c : Context) (q queue addr length : Nat) (tag : BitVec 64) : PacketEnd :=
  if runLimit ≤ s.runsHeld c.id then .later s
  else
    match s.ask c.id q addr 128 .read with
    | (.stall, s) => .later s
    | (.refuse, s) => .refused s 4
    | (.data h, s) =>
      match s.imageAt c.id length h with
      | none => .refused s 5
      | some im =>
        match s.ask c.id q addr im.length .read with
        | (.stall, s) => .later s
        | (.refuse, s) => .refused s 4
        | (.data b, s) =>
          if b != im.bytes || !s.imageFits im then .refused s 5
          else
            match s.resumeImage im queue tag with
            | some t => .started t.1
            | none => .later s

/-- The number under which the scheduler submits a checkpoint, beside the context's queues 0 to 15 (R350). -/
def schedulerQueue : Nat := 16

/-- The scheduler's RESUME of a checkpoint, once the run that it is of has ended (R350). -/
def State.resubmit (s : State) (c : Context) (b : Rollback) : State :=
  let passed (s : State) : State := s.modContext c.id (fun c => { c with rollbacks := c.rollbacks.drop 1 })
  match resumeFrom s c schedulerQueue b.queue b.image.toNat b.length b.tag with
  | .started t => passed t
  | .later t => t
  | .refused t code => passed (t.owe c.id (errorRecord b.queue code))
  | .stopped t => t

/-- `resume` (R318, R350). A RESUME packet restores a run from an image; under the scheduler's own number, it is the RESUME of a
rollback. -/
def execResume (s : State) : Out :=
  if s.arg.b = schedulerQueue then
    match s.context? s.arg.a with
    | none => .next s
    | some c =>
      match c.rollbacks.head? with
      | some b =>
        if s.served c && !s.queueStalled c.id schedulerQueue && (s.run? c.id b.run).all (fun r => r.ending.isSome) then .next (s.resubmit c b) else .next s
      | none => .next s
  else
    packetEvent 2 (fun s c k _ _ body =>
      resumeFrom s c k k (field body 0x08 8) (field body 0x10 8) (BitVec.ofNat 64 (field body 0x38 8))) s

/-! ## WRITE, SIGNAL and WRITE_SIGNAL (R313) -/

/-- The data of a packet whose first slot holds data from `first` on and whose continuations hold 56 bytes each. -/
def packetData (body : List Byte) (first n len : Nat) : List Byte :=
  (((body.drop first).take (64 - first)) ++ (List.range (n - 1)).flatMap (fun j => (body.drop (64 * (j + 1) + 8)).take 56)).take len

/-- Slots that data of a length needs. -/
def slotsFor (first len : Nat) : Nat := 1 + ceilDiv (len - (64 - first)) 56

/-- A 64-bit store or add at the places of a signal's word. -/
def State.signalAt (s : State) (ctx : Nat) (ps : List Piece) (op v : Nat) : State :=
  let old := s.readPieces ctx ps
  let new := if op = 0 then v else (ofBytesLE old.1 + v) % 2 ^ 64
  (if op = 0 then s else old.2).writePieces ctx ps (bytesLE 8 new)

/-- `write` (R313). -/
def execWrite (s : State) : Out :=
  packetEvent 3 (fun s c k _ n body =>
    let len := field body 0x10 4
    if len = 0 || 256 < len then .refused s 7
    else if n < slotsFor 0x18 len then .stopped s
    else
      match s.askPlaces c.id k (field body 0x08 8) len .write with
      | (some ps, _, s) => .started (s.writePieces c.id ps (packetData body 0x18 n len))
      | (none, .stall, s) => .later s
      | (none, _, s) => .refused s 4) s

/-- The access of a signal: a store writes its word, an add reads and writes it. -/
def signalAccess (op : Nat) : Access := if op = 0 then .write else .rmw

/-- `signal` (R313, R348). One indivisible 64-bit store or add; an add that reads poison is refused. -/
def execSignal (s : State) : Out :=
  packetEvent 4 (fun s c k _ _ body =>
    let addr := field body 0x08 8
    let op := field body 0x18 8
    if addr % 8 != 0 || 1 < op then .refused s 7
    else
      match s.askPlaces c.id k addr 8 (signalAccess op) with
      | (some ps, _, s) => if op != 0 && s.piecesPoisoned ps then .refused s 4 else .started (s.signalAt c.id ps op (field body 0x10 8))
      | (none, .stall, s) => .later s
      | (none, _, s) => .refused s 4) s

/-- `write_signal` (R313). WRITE, then SIGNAL after its data is performed; both are translated first. -/
def execWriteSignal (s : State) : Out :=
  packetEvent 5 (fun s c k _ n body =>
    let len := field body 0x10 4
    let addr := field body 0x18 8
    let op := field body 0x28 1
    if len = 0 || 256 < len || addr % 8 != 0 || 1 < op then .refused s 7
    else if n < slotsFor 0x30 len then .stopped s
    else
      match s.askPlaces c.id k (field body 0x08 8) len .write with
      | (none, .stall, s) => .later s
      | (none, _, s) => .refused s 4
      | (some ps, _, s) =>
        match s.askPlaces c.id k addr 8 (signalAccess op) with
        | (none, .stall, s) => .later s
        | (none, _, s) => .refused s 4
        | (some qs, _, s) =>
          let t := s.writePieces c.id ps (packetData body 0x30 n len)
          if op != 0 && t.piecesPoisoned qs then .refused s 4 else .started (t.signalAt c.id qs op (field body 0x20 8))) s

/-! ## WAIT and FENCE (R313 to R315) -/

/-- The comparison of a WAIT. -/
def waitHolds (w value mask cond : Nat) : Bool :=
  let v := (BitVec.ofNat 64 w &&& BitVec.ofNat 64 mask).toNat
  match cond with
  | 0 => v == value
  | 1 => v != value
  | 2 => decide (value ≤ v)
  | _ => decide (v < value)

/-- `wait` (R313). Holds the queue until the word compares true. -/
def execWait (s : State) : Out :=
  packetEvent 6 (fun s c k _ _ body =>
    let addr := field body 0x08 8
    let cond := field body 0x20 8
    if addr % 8 != 0 || 3 < cond then .refused s 7
    else
      match s.ask c.id k addr 8 .read with
      | (.stall, s) => .later s
      | (.refuse, s) => .refused s 4
      | (.data b, s) =>
        let value := field body 0x10 8
        let mask := field body 0x18 8
        if waitHolds (ofBytesLE b) value mask cond then .started s
        else .started (s.modQueue c.id k (fun q => { q with hold := .wait addr value mask cond (s.now + microsecond) }))) s

/-- `wait_reevaluate` (R313). A WAIT reads its word again, after a write to its line or 1 µs. -/
def execWaitReevaluate (s : State) : Out :=
  match s.context? s.arg.a with
  | none => .next s
  | some c =>
    match c.queues[s.arg.b]? with
    | none => .next s
    | some q =>
      match q.hold with
      | .wait addr value mask cond _ =>
        if !s.goesOn c s.arg.b q then .next s
        else
          match s.ask c.id s.arg.b addr 8 .read with
          | (.stall, u) => .next u
          | (.refuse, u) => .next ((u.modQueue c.id s.arg.b (fun q => { q with hold := .none })).owe c.id (errorRecord s.arg.b 4))
          | (.data b, u) =>
            let h := if waitHolds (ofBytesLE b) value mask cond then Hold.none else Hold.wait addr value mask cond (s.now + microsecond)
            .next (u.modQueue c.id s.arg.b (fun q => { q with hold := h }))
      | _ => .next s

/-- Whether every earlier packet of a queue has completed: no run of it is open, and no error record of it is owed. -/
def Context.queueClear (c : Context) (k : Nat) : Bool :=
  (c.queues[k]?).all (fun q => q.open_.isEmpty) && !c.owesError k

/-- `fence` (R313). Holds the queue until every earlier packet has completed. -/
def execFence (s : State) : Out :=
  match (s.context? s.arg.a).bind (fun c => (c.queues[s.arg.b]?).map (fun q => (c, q))) with
  | some (c, q) =>
    if q.hold == .fence then
      (if s.goesOn c s.arg.b q && c.queueClear s.arg.b then .next (s.modQueue c.id s.arg.b (fun q => { q with hold := .none })) else .next s)
    else packetEvent 7 (fun s c k _ _ _ =>
      if c.queueClear k then .started s else .started (s.modQueue c.id k (fun q => { q with hold := .fence }))) s
  | none => .next s

/-! ## GRANT (R257, R259, R313) -/

/-- Removes entries from every core's grant cache. -/
def State.dropGrants (s : State) (p : Grant → Bool) : State :=
  { s with cores := s.cores.map (fun (c : Core) => { c with grants := c.grants.filter (fun g => !p g) }) }

/-- The places of a range at the policy base, which no stage-1 table translates. -/
def policyPlaces (s : State) (c : Context) (q : Nat) (done : List Piece) : List (Nat × Nat) → Option (List Piece) × Asked × State
  | [] => (some done, .data [], s)
  | p :: rest =>
    if c.fn = 0 then
      if isHbm p.1 then policyPlaces s c q (done ++ [{ loc := place 0 p.1, len := p.2, tag := 0 }]) rest else (none, .refuse, s)
    else
      match s.throughStage2 c.fn p.1 .write with
      | (.bad, s) => (none, .refuse, s)
      | (.absent g, s) => let r := s.lackPage c.id q 2 g .write; (none, r.1, r.2)
      | (.ok e, s) =>
        if isHbm e.pa then policyPlaces s c q (done ++ [{ loc := place e.swizzle.toNat e.pa, len := p.2, tag := 0 }]) rest
        else (none, .refuse, s)

/-- `grant` (R259). Writes bytes of a grant bitmap and removes the principal's entries from every core's grant cache. -/
def execGrant (s : State) : Out :=
  packetEvent 8 (fun s c k q n body =>
    let p := field body 0x08 2
    let off := field body 0x0C 4
    let len := field body 0x10 4
    if !q.mayGrant || c.pcount ≤ p then .refused s 6
    else if off % 8 != 0 || len % 8 != 0 || len < 8 || 256 < len || 8192 < off + len then .refused s 7
    else if n < slotsFor 0x18 len then .stopped s
    else
      let base := c.policy.toNat + 8192 * p + off
      match policyPlaces s c k [] (pieces (len / 4096 + 2) base len) with
      | (none, .stall, s) => .later s
      | (none, _, s) => .refused s 4
      | (some ps, _, s) =>
        .started ((s.writePieces c.id ps (packetData body 0x18 n len)).dropGrants (fun g => g.ctx == c.id && g.principal.toNat == p))) s

/-! ## Queue registers (R304, R305, R308, R310) -/

/-- The context on a page of a function. -/
def State.page? (s : State) (fn page : Nat) : Option Context :=
  s.contexts.find? (fun c => c.id != 0 && c.fn == fn && c.page == page && decide (c.state ≠ .free) && c.leaving != some .reset)

/-- An event on a queue of a context page. -/
def onQueue (s : State) (k : Context → Queue → State) : Out :=
  match s.page? s.arg.a s.arg.b with
  | none => .next s
  | some c => match c.queues[s.arg.c]? with | some q => .next (k c q) | none => .next s

/-- No request has the mirror of a queue as its waiter any more. -/
def State.dropMirror (s : State) (ctx k : Nat) : State :=
  { s with requests := s.requests.map (fun r => { r with waiters := r.waiters.filter (· != .mirror ctx k) }) }

/-- The bits of QCTL that a write stores; the policy bit only from the physical function. -/
def qctlMask (fn : Nat) : BitVec 64 := if fn = 0 then 0xFFFFFFFF0000773F#64 else 0xFFFFFFFF0000763F#64

/-- Whether the fields of QCTL let the queue be enabled. -/
def qctlLegal (v : BitVec 64) : Bool := decide (4 ≤ bits v.toNat 5 1) && decide (bits v.toNat 5 1 ≤ 16) && decide (bits v.toNat 10 9 ≤ 1)

/-- `queue_enable` (R304). A write of QCTL with bit 0 set: it enables a disabled queue, whose indices and mirror become 0,
or stores the fields with bit 0 clear when they refuse it. -/
def execQueueEnable (s : State) : Out :=
  onQueue s (fun c q =>
    if q.enabled || !s.arg.v.getLsbD 0 then s
    else
      let v := s.arg.v &&& qctlMask c.fn
      if qctlLegal v then
        (s.modQueue c.id s.arg.c (fun q => { q with
          ctl := v, w := 0, rd := 0, reread := none, failed := none, mirrorOwed := false })).dropMirror c.id s.arg.c |>.writeMirror c.id s.arg.c
      else s.modQueue c.id s.arg.c (fun q => { q with ctl := v &&& ~~~1#64 }))

/-- `queue_disable` (R304). A write of QCTL with bit 0 clear: it disables an enabled queue, and stores the fields of a
disabled one. -/
def execQueueDisable (s : State) : Out :=
  onQueue s (fun c q =>
    if s.arg.v.getLsbD 0 then s
    else if q.enabled then s.modQueue c.id s.arg.c (fun q => { q with ctl := q.ctl &&& ~~~1#64 })
    else s.modQueue c.id s.arg.c (fun q => { q with ctl := s.arg.v &&& qctlMask c.fn }))

/-- `kick` (R310). A KICK write proposes a write index. -/
def execKick (s : State) : Out := onQueue s (fun c _ => s.kick c.id s.arg.c s.arg.v.toNat)

/-- `qrestart_reread` (R308). Clears stopped, and the slot is read again. -/
def execQrestartReread (s : State) : Out :=
  onQueue s (fun c q => if q.stopped then s.modQueue c.id s.arg.c (fun q => { q with stopped := false }) else s)

/-- `qrestart_skip` (R308). Clears stopped and skips one slot. -/
def execQrestartSkip (s : State) : Out :=
  onQueue s (fun c q => if q.stopped then (s.modQueue c.id s.arg.c (fun q => { q with stopped := false })).pass c.id s.arg.c 1 else s)

end Sys2Proof.Machine
end

