-- ==== Sys2Proof/Machine/Contexts.lean ====
section
/-!
DEFINITION. Contexts: their life, their registers, partitions, and the registers of BAR0 without behaviour of their own
(R253, R255, R303 to R305, R319, R320, R338, R374, R376, R384).
-/
namespace Sys2Proof.Machine

/-! ## The life of a context (R305) -/

/-- Context ids that no context has. -/
def State.freeIds (s : State) : List Nat :=
  ((List.range 4095).map (· + 1)).filter (fun i => !s.contexts.any (fun c => c.id == i))

/-- Whether a function appears on PCIe (R365, R373). -/
def State.enabledFn (s : State) (fn : Nat) : Bool := (s.func? fn).any (·.enabled)

/-- Whether a range may be a green room: in HBM4, on lines of its own, and apart from those of other contexts. -/
def State.greenLegal (s : State) (base size : Nat) : Bool :=
  base % 128 == 0 && decide (greenHeader ≤ size) && decide (base + size ≤ 2 ^ 39) && s.contexts.all (fun c => !rangesMeet (base, size) (c.green, c.greenSize))

/-- `ctx_create` (R305, R342). A free page of a function gets a context, whose id and PASID firmware chooses (log 5), and for which it
pins a green room; without one the command has no effect. -/
def execCtxCreate (s : State) : Out :=
  if s.enabledFn s.arg.a && decide (s.arg.b < 256) && (s.page? s.arg.a s.arg.b).isNone && s.greenLegal s.arg.v.toNat s.arg.c then
    match s.freeIds with
    | [] => .next s
    | ids =>
      let v := s.freeValue
      let id := ids.getD (v.1.toNat % ids.length) 1
      let c := { Context.init id s.arg.a s.arg.b with pasid := v.1.extractLsb' 32 20, stopAt := s.now, green := s.arg.v.toNat, greenSize := s.arg.c }
      .next { v.2 with contexts := v.2.contexts ++ [c] }
  else .next s

/-- An event on the context of a page of a function. -/
def onPage (s : State) (k : Context → State) : Out :=
  match s.page? s.arg.a s.arg.b with
  | none => .next s
  | some c => .next (k c)

/-- Whether a log2 of a record count is one that a ring may have (R304). -/
def logLegal (v : BitVec 64) : Bool := decide (4 ≤ ringLog v) && decide (ringLog v ≤ 16)

/-- `ctx_start` (R305). A created context with an event ring becomes saved. -/
def execCtxStart (s : State) : Out :=
  onPage s (fun c => if c.state == .created && logLegal c.evCtl then s.modContext c.id (fun c => { c with state := .saved }) else s)

/-- A context is gone: its images, key slot, partition, requests and cached translations go with it. Lines under its key
belong to no context any more. -/
def State.removeContext (s : State) (ctx : Nat) : State :=
  let u := s.fresh
  let dead : Waiter → Bool
    | .front c _ => c == ctx
    | .mirror c _ => c == ctx
    | .record c => c == ctx
    | .fly co _ => s.companies.any (fun k => k.uid == co && k.ctx == ctx)
    | .pump co _ => s.companies.any (fun k => k.uid == co && k.ctx == ctx)
    | .lane co _ => s.companies.any (fun k => k.uid == co && k.ctx == ctx)
    | .copy n => s.copies.any (fun c => c.1.number == n && c.1.ctx == ctx)
    | .ring _ => false
  let core (k : Core) : Core := { k with tlb := k.tlb.filter (fun e => e.ctx != ctx), grants := k.grants.filter (fun g => g.ctx != ctx) }
  let cluster (k : Cluster) : Cluster := { k with l2 := k.l2.filter (fun e => e.ctx != ctx) }
  let s := s.chargeSteps (fun k => k.ctx == ctx)
  { (u.2.freeClusters (fun k => k.owner == some ctx)) with
    contexts := s.contexts.filter (fun c => c.id != ctx)
    runs := s.runs.filter (fun r => r.ctx != ctx)
    troupes := s.troupes.filter (fun t => t.ctx != ctx)
    companies := s.companies.filter (fun k => k.ctx != ctx)
    images := s.images.filter (fun im => im.ctx != ctx)
    copies := s.copies.filter (fun c => c.1.ctx != ctx)
    keySlots := s.keySlots.filter (fun k => k.2 != ctx || k.1 == 0)
    imported := s.imported.filter (fun n => s.keySlots.any (fun k => k.1 == n && k.2 != ctx))
    lines := updWhere (fun l => l.key == some ctx) (fun l => { l with cached := false, key := some (4096 + u.1) }) s.lines
    requests := s.requests.map (fun q => { q with waiters := q.waiters.filter (fun w => !dead w) })
    walks := s.walks.filter (fun w => w.ctx != ctx)
    cores := s.cores.map core
    clusters := (s.freeClusters (fun k => k.owner == some ctx)).clusters.map cluster }

/-- Whether something of a context that is on its way out is still to complete: an access in flight, or the stop of a run that is to end
early (R24, R350). -/
def State.lingers (s : State) (ctx : Nat) : Bool :=
  s.runs.any (fun r => r.ctx == ctx && r.ending.isNone && (r.killed.isSome || s.inFlightOf r))

/-- A context halts: it leaves the stage and its clusters, and runs nothing more. -/
def State.haltNow (s : State) (ctx : Nat) : State :=
  let s := match s.context? ctx with | some c => if c.onStage then s.offStage ctx else s | none => s
  (s.freeClusters (fun k => k.owner == some ctx)).modContext ctx (fun c =>
    if c.state == .resident || c.state == .saved then { c with state := .halted, partition := [], leaving := none } else { c with leaving := none })

/-- A context that ends is gone; that of firmware, which no one creates, begins anew (R303, R365). -/
def State.resetContext (s : State) (ctx : Nat) : State :=
  let s := s.removeContext ctx
  if ctx = 0 then { s with contexts := Context.firmware :: s.contexts } else s

/-- A context on its way out goes once nothing of it lingers: one that halts does so, one whose function was reset is gone, and one that is
destroyed leaves the stage. -/
def State.depart (s : State) (ctx : Nat) : State :=
  match s.context? ctx with
  | none => s
  | some c =>
    if s.lingers ctx then s
    else
      match c.leaving with
      | some .halt => s.haltNow ctx
      | some .reset => s.resetContext ctx
      | none => if c.destroying && c.onStage then s.offStage ctx else s

/-- `ctx_destroy` (R305). Every run ends with a record of kind 6 and status 0, and the context leaves the stage. -/
def execCtxDestroy (s : State) : Out :=
  onPage s (fun c =>
    if c.destroying then s
    else
      let t := (s.runs.filter (fun r => r.ctx == c.id)).foldl (fun s r => s.endRun c.id r.id 6 0) s
      (t.modContext c.id (fun c => { c with destroying := true })).depart c.id)

/-- `ctx_destroy_complete` (R24, R305). A context on its way out goes once nothing of it lingers, and one that is destroyed is free once
every run of it has its record. -/
def execCtxDestroyComplete (s : State) : Out :=
  let s := s.depart s.arg.a
  match s.context? s.arg.a with
  | none => .next s
  | some c =>
    if c.destroying && !c.onStage && c.records.isEmpty && s.runs.all (fun r => r.ctx != c.id) then .next (s.removeContext c.id) else .next s

/-- Quotas of a context on the dies of a partition, each in units of 64 KiB, of which an operand holds 11 bits for each die (R221). -/
def quotasFor (ks : List Nat) (units : Nat) : List Nat :=
  (List.range 8).map (fun d => if ks.any (fun k => dieOfCluster k == d) then 65536 * (units / 2048 ^ d % 2048) else 0)

/-- `partition_assign` (R221, R303, R305). The scheduler gives a saved context a partition of clusters that are free or its
own, a key slot and cistern quotas; context 0 has slot 0. -/
def execPartitionAssign (s : State) : Out :=
  match s.arg.x, s.context? s.arg.a with
  | .ids ks, some c =>
    let usable (k : Nat) : Bool :=
      decide (k < 48) && ((s.cluster k).owner.isNone || (s.cluster k).owner == some c.id) && (s.cluster k).available &&
        !(s.die (dieOfCluster k)).outOfService
    if c.state == .saved && !c.leaves && !ks.isEmpty && ks.all usable && decide (s.arg.b < 1024) && (c.id == 0) == (s.arg.b == 0) &&
        s.quotasFit c.id (quotasFor ks s.arg.c) then
      let s := s.freeClusters (fun k => k.owner == some c.id && !ks.contains k.num)
      let s := { s with clusters := updWhere (fun (k : Cluster) => ks.contains k.num) (fun k => if k.owner == some c.id then k else { k.handOver c.id with owner := some c.id, freed := none }) s.clusters }
      .next (s.modContext c.id (fun d => { d with partition := ks, keySlot := s.arg.b, quotas := quotasFor ks s.arg.c }))
    else .next s
  | _, _ => .next s

/-! ## Registers with behaviour of their own -/

/-- `ctx_policy_write` (R305). A new policy base; the context's entries leave every grant cache. -/
def execCtxPolicyWrite (s : State) : Out :=
  onPage s (fun c => (s.modContext c.id (fun c => { c with policy := s.arg.v })).dropGrants (fun g => g.ctx == c.id))

/-- `ctx_pcount_write` (R305). A new principal count, at most 4,096; the context's entries leave every grant cache. -/
def execCtxPcountWrite (s : State) : Out :=
  onPage s (fun c =>
    let p := s.arg.v.toNat % 8192
    if 4096 < p then s else (s.modContext c.id (fun c => { c with pcount := p })).dropGrants (fun g => g.ctx == c.id))

/-- The bits of CTX_EVCTL that a write in state created stores. -/
def evctlMask : BitVec 64 := 0x07FF011F#64

/-- `ctx_evctl_write` (R305, R320). In state created it stores the register when its log2 is legal; in any other it changes
bit 8 alone. Arming notify while records stand unread raises the vector at once. -/
def execCtxEvctlWrite (s : State) : Out :=
  onPage s (fun c =>
    let v := if c.state == .created then s.arg.v &&& evctlMask else (c.evCtl &&& ~~~0x100#64) ||| (s.arg.v &&& 0x100#64)
    if c.state == .created && !logLegal s.arg.v then s
    else
      let t := s.modContext c.id (fun c => { c with evCtl := v })
      if c.evWr != c.evRd then t.notify { c with evCtl := v } else t)

/-- `ctx_evrd_write` (R319). The event ring's read index moves. -/
def execCtxEvrdWrite (s : State) : Out := onPage s (fun c => s.modContext c.id (fun c => { c with evRd := s.arg.v.toNat }))

/-- `ctx_wdog_write` (R338). A new watchdog limit, which applies from the next µs of `vt`. -/
def execCtxWdogWrite (s : State) : Out :=
  onPage s (fun c =>
    s.modContext c.id (fun c => { c with wdog := s.arg.v.setWidth 32, wdogOld := c.limit, wdogFrom := (c.vt / microsecond + 1) * microsecond }))

/-! ## Reads of BAR0 (R253, R255, R304, R305, R308, R374, R376, R378, R384) -/

/-- The code of a context's state. -/
def CtxState.code : CtxState → Nat
  | .free => 0
  | .created => 1
  | .resident => 2
  | .saved => 3
  | .halted => 4

/-- The permit of a channel, 0 where none was written. -/
def Context.permit (c : Context) (ch : Nat) : BitVec 64 := ((c.permits.find? (fun e => e.1 == ch)).map (·.2)).getD 0

/-- What a register of a context page reads as (R304, R305, R327, R338, R384). -/
def Context.readReg (c : Context) (off : Nat) : BitVec 64 :=
  let n (v : Nat) : BitVec 64 := BitVec.ofNat 64 v
  if 0x800 ≤ off then c.permit ((off - 0x800) / 8)
  else if 0x300 ≤ off then 0
  else if 0x100 ≤ off then
    match c.queues[(off - 0x100) / 32]? with
    | some q => if off % 32 = 0 then q.base else if off % 32 = 8 then q.ctl else if off % 32 = 16 then q.mirror else 0
    | none => 0
  else
    match off with
    | 0x000 => n c.state.code
    | 0x008 => c.root
    | 0x010 => c.policy
    | 0x018 => n c.pcount
    | 0x020 => c.prio.setWidth 64
    | 0x028 => c.evBase
    | 0x030 => c.evCtl
    | 0x038 => n c.evWr
    | 0x040 => n c.evRd
    | 0x048 => c.denyBase
    | 0x050 => c.denyCtl
    | 0x058 => n c.denyWr
    | 0x060 => n c.denyRd
    | 0x068 => n c.denyCnt
    | 0x070 => n c.denyOvf
    | 0x078 => c.wdog.setWidth 64
    | 0x080 => n (c.vt / ticksPerNs)
    | 0x090 => n c.id
    | 0x098 => n c.evLost
    | 0x0A0 => n c.noticeLost
    | _ => 0

/-- What a register of a queue page reads as (R308). -/
def Queue.readReg (q : Queue) (off : Nat) : BitVec 64 :=
  match off with
  | 0x008 => BitVec.ofNat 64 q.rd
  | 0x010 => BitVec.ofNat 64 ((if q.stopped then 1 else 0) + 2 ^ 8 * (q.code % 256) + 2 ^ 32 * (q.stopIndex % 2 ^ 32))
  | _ => 0

/-- What a register of a ring at an offset from its first reads as (R255); the reply register is written alone. -/
def Ring.readReg (r : Ring) (off : Nat) : BitVec 64 :=
  match off with
  | 0x00 => r.base
  | 0x08 => r.wr
  | 0x10 => r.rd
  | _ => 0

/-- What a translation page reads as (R253, R255); the stage-2 ring is the physical function's. -/
def Func.readReg (f : Func) (off : Nat) : BitVec 64 :=
  if off = 0x000 then f.xlinvAddr
  else if off = 0x008 then f.xlinvCtl
  else if 0x100 ≤ off ∧ off < 0x120 then f.ring1.readReg (off - 0x100)
  else if 0x120 ≤ off ∧ off < 0x140 then (if f.num = 0 then f.ring2.readReg (off - 0x120) else 0)
  else if off = 0x140 then f.ring1.vec
  else if off = 0x148 then (if f.num = 0 then f.ring2.vec else 0)
  else 0

/-- LP_STATE of a port (R378): its state, its live lanes and the virtual channels that are stopped. -/
def Port.stateWord (p : Port) : BitVec 64 := BitVec.ofNat 64 (p.state % 8 + 2 ^ 8 * (p.lanes % 16) + 2 ^ 16 * p.xoff.toNat)

/-- What a register of a link port reads as (R378). -/
def Port.readReg (p : Port) (off : Nat) : BitVec 64 :=
  match off with
  | 0x00 => p.stateWord
  | 0x08 => p.peer
  | 0x10 => BitVec.ofNat 64 p.crc
  | 0x18 => BitVec.ofNat 64 p.fec
  | 0x20 => BitVec.ofNat 64 p.replay
  | 0x28 => p.errBeat
  | _ => 0

/-- What the permit page of the physical function reads as. -/
def State.readPermitPage (s : State) (off : Nat) : BitVec 64 :=
  if off = 0 then s.permitSel
  else if 0x800 ≤ off then
    let fn := s.permitSel.toNat % 128
    match s.page? fn (bits s.permitSel.toNat 15 8) with
    | some c => if fn != 0 && s.enabledFn fn then c.permit ((off - 0x800) / 8) else 0
    | none => 0
  else 0

/-- What the page of a link port reads as at an offset (R378): the route table window is the device's. -/
def State.readPort (s : State) (p : Port) (off : Nat) : BitVec 64 := if off = 0x30 then Config.routeWindow s.routes p.num else p.readReg off

/-- What 8 bytes of BAR0 of a function at an offset read as (R374); in recovery there is the recovery page alone (R367). Reading changes
nothing. -/
def State.readBar (s : State) (fn off : Nat) : BitVec 64 :=
  if off % 8 != 0 || !s.enabledFn fn then 0
  else if s.recovery.isSome then s.recovery.elim 0 (fun r => if off < 0x1000 then Config.recoveryPage r.1 r.2 off else 0)
  else if off < 0x1000 then ((s.func? fn).map (fun f => f.readReg off)).getD 0
  else if off < 0x2000 then (if fn = 0 then ((s.ports[(off - 0x1000) / 64]?).map (fun p => s.readPort p (off % 64))).getD 0 else 0)
  else if 0x20000 ≤ off ∧ off < 0x20800 then
    (if fn = 0 then ((s.apertures.find? (fun a => a.1 == (off - 0x20000) / 8)).map (·.2)).getD 0 else 0)
  else if 0x30000 ≤ off ∧ off < 0x31000 then (if fn = 0 then s.readPermitPage (off - 0x30000) else 0)
  else if 0x100000 ≤ off ∧ off < 0x200000 then ((s.page? fn ((off - 0x100000) / 0x1000)).map (fun c => c.readReg (off % 0x1000))).getD 0
  else if 0x1000000 ≤ off ∧ off < 0x2000000 then
    (((s.page? fn ((off - 0x1000000) / 0x10000)).bind (fun c => c.queues[(off - 0x1000000) / 0x1000 % 16]?)).map (fun q => q.readReg (off % 0x1000))).getD 0
  else if 0x2000000 ≤ off ∧ off < 0x2080000 ∧ fn = 0 ∧ 0x2001000 ≤ off then
    match s.func? ((off - 0x2000000) / 0x1000) with
    | some f =>
      if 0x120 ≤ off % 0x1000 ∧ off % 0x1000 < 0x140 then f.ring2.readReg (off % 0x1000 - 0x120)
      else if off % 0x1000 = 0x148 then f.ring2.vec else 0
    | none => 0
  else 0

/-! ## Registers without behaviour of their own (R253, R255, R304, R305, R374, R376, R384) -/

/-- A write of a queue's base or mirror register, taken while the queue is disabled. -/
def Context.writeQueueReg (c : Context) (off : Nat) (v : BitVec 64) : Context :=
  let k := (off - 0x100) / 32
  let f (q : Queue) : Queue :=
    if q.enabled then q
    else if off % 32 = 0 then { q with base := v }
    else if off % 32 = 16 then { q with mirror := v &&& 0xFFFFFFFFFFFF#64 }
    else q
  { c with queues := updAt c.queues k f }

/-- The permit of a channel. -/
def Context.writePermit (c : Context) (ch : Nat) (v : BitVec 64) : Context :=
  let p := v &&& 0xFFFFFFFF#64
  let rest := c.permits.filter (fun e => e.1 != ch)
  { c with permits := if p == 0 then rest else rest ++ [(ch, p)] }

/-- A write to a context page at an offset. -/
def Context.writeReg (c : Context) (off : Nat) (v : BitVec 64) : Context :=
  if off = 0x008 then (if c.state == .created then { c with root := v } else c)
  else if off = 0x020 then { c with prio := v.setWidth 2 }
  else if off = 0x028 then (if c.state == .created then { c with evBase := v } else c)
  else if off = 0x048 then (if c.state == .created then { c with denyBase := v } else c)
  else if off = 0x050 then (if c.state == .created && logLegal v then { c with denyCtl := v &&& 0x1F#64 } else c)
  else if off = 0x060 then { c with denyRd := v.toNat }
  else if 0x100 ≤ off ∧ off < 0x300 then c.writeQueueReg off v
  else if 0x800 ≤ off ∧ off % 8 = 0 ∧ c.fn = 0 then c.writePermit ((off - 0x800) / 8) v
  else c

/-- A write to a translation page: the invalidation address and the vectors of the rings. -/
def State.writeXlate (s : State) (fn off : Nat) (v : BitVec 64) : State :=
  s.modFunc fn (fun f =>
    if off = 0x000 then { f with xlinvAddr := v }
    else if off = 0x140 then { f with ring1 := { f.ring1 with vec := v &&& 0x7FF#64 } }
    else if off = 0x148 ∧ fn = 0 then { f with ring2 := { f.ring2 with vec := v &&& 0x7FF#64 } }
    else f)

/-- A write to the permit page of the physical function. -/
def State.writePermitPage (s : State) (off : Nat) (v : BitVec 64) : State :=
  if off = 0 then { s with permitSel := v &&& 0xFF7F#64 }
  else if 0x800 ≤ off ∧ off % 8 = 0 then
    let fn := s.permitSel.toNat % 128
    match s.page? fn (bits s.permitSel.toNat 15 8) with
    | some c => if fn != 0 && s.enabledFn fn then s.modContext c.id (fun c => c.writePermit ((off - 0x800) / 8) v) else s
    | none => s
  else s

/-- An aperture entry. -/
def State.writeAperture (s : State) (k : Nat) (v : BitVec 64) : State :=
  { s with apertures := s.apertures.filter (fun a => a.1 != k) ++ [(k, v)] }

/-- A write of 8 bytes to BAR0 of a function (R374). -/
def State.writeBar (s : State) (fn off : Nat) (v : BitVec 64) : State :=
  if off < 0x1000 then s.writeXlate fn off v
  else if 0x20000 ≤ off ∧ off < 0x20800 then (if fn = 0 ∧ off % 8 = 0 then s.writeAperture ((off - 0x20000) / 8) v else s)
  else if 0x30000 ≤ off ∧ off < 0x31000 then (if fn = 0 then s.writePermitPage (off - 0x30000) v else s)
  else if 0x100000 ≤ off ∧ off < 0x200000 then
    match s.page? fn ((off - 0x100000) / 0x1000) with
    | some c => s.modContext c.id (fun c => c.writeReg (off % 0x1000) v)
    | none => s
  else if 0x2000000 ≤ off ∧ off < 0x2080000 then
    (if fn = 0 ∧ off % 0x1000 = 0x148 ∧ 1 ≤ (off - 0x2000000) / 0x1000
     then s.modFunc ((off - 0x2000000) / 0x1000) (fun f => { f with ring2 := { f.ring2 with vec := v &&& 0x7FF#64 } }) else s)
  else s

/-- `register_write` (R304). A register that has no behaviour of its own takes what its rules let it take. -/
def execRegisterWrite (s : State) : Out :=
  if s.enabledFn s.arg.a then .next (s.writeBar s.arg.a s.arg.b s.arg.v) else .next s

end Sys2Proof.Machine
end

