-- ==== Sys2Proof/Machine/Integer.lean ====
section
/-!
DEFINITION. The integer and logic instructions, their immediate forms, and reads of the code image (R70 to R84).
-/
namespace Sys2Proof.Machine

/-- `add` (R70). Adds two sources modulo 2^32 in each active lane. -/
def execAdd (c : BitVec 1) (w : BitVec 1) (b : BitVec 7) (a : BitVec 7) (d : BitVec 6) (s : State) : Out :=
  binary (.add c w b a d) w d a b (· + ·) s

/-- `sub` (R70). Subtracts the second source from the first modulo 2^32. -/
def execSub (c : BitVec 1) (w : BitVec 1) (b : BitVec 7) (a : BitVec 7) (d : BitVec 6) (s : State) : Out :=
  binary (.sub c w b a d) w d a b (· - ·) s

/-- `adds` (R70). Adds two signed values, saturating to the INT32 range. -/
def execAdds (c : BitVec 1) (w : BitVec 1) (b : BitVec 7) (a : BitVec 7) (d : BitVec 6) (s : State) : Out :=
  binary (.adds c w b a d) w d a b addSat s

/-- `subs` (R70). Subtracts two signed values, saturating to the INT32 range. -/
def execSubs (c : BitVec 1) (w : BitVec 1) (b : BitVec 7) (a : BitVec 7) (d : BitVec 6) (s : State) : Out :=
  binary (.subs c w b a d) w d a b subSat s

/-- `mul` (R71). Gives the low 32 bits of the product. -/
def execMul (c : BitVec 1) (w : BitVec 1) (b : BitVec 7) (a : BitVec 7) (d : BitVec 6) (s : State) : Out :=
  binary (.mul c w b a d) w d a b (· * ·) s

/-- `mulhs` (R71). Gives the high 32 bits of the signed 64-bit product. -/
def execMulhs (c : BitVec 1) (w : BitVec 1) (b : BitVec 7) (a : BitVec 7) (d : BitVec 6) (s : State) : Out :=
  binary (.mulhs c w b a d) w d a b mulHighS s

/-- `mulhu` (R71). Gives the high 32 bits of the unsigned 64-bit product. -/
def execMulhu (c : BitVec 1) (w : BitVec 1) (b : BitVec 7) (a : BitVec 7) (d : BitVec 6) (s : State) : Out :=
  binary (.mulhu c w b a d) w d a b mulHighU s

/-- `mad` (R71). Adds the product to vd in place, modulo 2^32. -/
def execMad (c : BitVec 1) (w : BitVec 1) (b : BitVec 7) (a : BitVec 7) (d : BitVec 6) (s : State) : Out :=
  inPlace (.mad c w b a d) w d a b (fun a b d => d + a * b) s

/-- `min` (R72). Gives the signed minimum. -/
def execMin (c : BitVec 1) (w : BitVec 1) (b : BitVec 7) (a : BitVec 7) (d : BitVec 6) (s : State) : Out :=
  binary (.min c w b a d) w d a b minS s

/-- `max` (R72). Gives the signed maximum. -/
def execMax (c : BitVec 1) (w : BitVec 1) (b : BitVec 7) (a : BitVec 7) (d : BitVec 6) (s : State) : Out :=
  binary (.max c w b a d) w d a b maxS s

/-- `minu` (R72). Gives the unsigned minimum. -/
def execMinu (c : BitVec 1) (w : BitVec 1) (b : BitVec 7) (a : BitVec 7) (d : BitVec 6) (s : State) : Out :=
  binary (.minu c w b a d) w d a b minU s

/-- `maxu` (R72). Gives the unsigned maximum. -/
def execMaxu (c : BitVec 1) (w : BitVec 1) (b : BitVec 7) (a : BitVec 7) (d : BitVec 6) (s : State) : Out :=
  binary (.maxu c w b a d) w d a b maxU s

/-- `and` (R72). Gives the bitwise AND. -/
def execAnd (c : BitVec 1) (w : BitVec 1) (b : BitVec 7) (a : BitVec 7) (d : BitVec 6) (s : State) : Out :=
  binary (.and c w b a d) w d a b (· &&& ·) s

/-- `or` (R72). Gives the bitwise OR. -/
def execOr (c : BitVec 1) (w : BitVec 1) (b : BitVec 7) (a : BitVec 7) (d : BitVec 6) (s : State) : Out :=
  binary (.or c w b a d) w d a b (· ||| ·) s

/-- `xor` (R72). Gives the bitwise XOR. -/
def execXor (c : BitVec 1) (w : BitVec 1) (b : BitVec 7) (a : BitVec 7) (d : BitVec 6) (s : State) : Out :=
  binary (.xor c w b a d) w d a b (· ^^^ ·) s

/-- `andn` (R72). Gives a AND NOT b. -/
def execAndn (c : BitVec 1) (w : BitVec 1) (b : BitVec 7) (a : BitVec 7) (d : BitVec 6) (s : State) : Out :=
  binary (.andn c w b a d) w d a b (fun a b => a &&& ~~~b) s

/-- `shl` (R73). Shifts left by b mod 32. -/
def execShl (c : BitVec 1) (w : BitVec 1) (b : BitVec 7) (a : BitVec 7) (d : BitVec 6) (s : State) : Out :=
  binary (.shl c w b a d) w d a b shiftL s

/-- `shr` (R73). Shifts right logically by b mod 32. -/
def execShr (c : BitVec 1) (w : BitVec 1) (b : BitVec 7) (a : BitVec 7) (d : BitVec 6) (s : State) : Out :=
  binary (.shr c w b a d) w d a b shiftR s

/-- `sar` (R73). Shifts right arithmetically by b mod 32. -/
def execSar (c : BitVec 1) (w : BitVec 1) (b : BitVec 7) (a : BitVec 7) (d : BitVec 6) (s : State) : Out :=
  binary (.sar c w b a d) w d a b shiftA s

/-- `rot` (R73). Rotates left by b mod 32. -/
def execRot (c : BitVec 1) (w : BitVec 1) (b : BitVec 7) (a : BitVec 7) (d : BitVec 6) (s : State) : Out :=
  binary (.rot c w b a d) w d a b rotL s

/-- `cmpeq` (R74). Writes all ones when a equals b, else zero. -/
def execCmpeq (c : BitVec 1) (w : BitVec 1) (b : BitVec 7) (a : BitVec 7) (d : BitVec 6) (s : State) : Out :=
  binary (.cmpeq c w b a d) w d a b (fun a b => truth (a == b)) s

/-- `cmpne` (R74). Writes all ones when a differs from b. -/
def execCmpne (c : BitVec 1) (w : BitVec 1) (b : BitVec 7) (a : BitVec 7) (d : BitVec 6) (s : State) : Out :=
  binary (.cmpne c w b a d) w d a b (fun a b => truth (a != b)) s

/-- `cmplt` (R74). Signed less-than compare. -/
def execCmplt (c : BitVec 1) (w : BitVec 1) (b : BitVec 7) (a : BitVec 7) (d : BitVec 6) (s : State) : Out :=
  binary (.cmplt c w b a d) w d a b (fun a b => truth (lts a b)) s

/-- `cmple` (R74). Signed less-or-equal compare. -/
def execCmple (c : BitVec 1) (w : BitVec 1) (b : BitVec 7) (a : BitVec 7) (d : BitVec 6) (s : State) : Out :=
  binary (.cmple c w b a d) w d a b (fun a b => truth (les a b)) s

/-- `cmpltu` (R74). Unsigned less-than compare. -/
def execCmpltu (c : BitVec 1) (w : BitVec 1) (b : BitVec 7) (a : BitVec 7) (d : BitVec 6) (s : State) : Out :=
  binary (.cmpltu c w b a d) w d a b (fun a b => truth (decide (a.toNat < b.toNat))) s

/-- `cmpleu` (R74). Unsigned less-or-equal compare. -/
def execCmpleu (c : BitVec 1) (w : BitVec 1) (b : BitVec 7) (a : BitVec 7) (d : BitVec 6) (s : State) : Out :=
  binary (.cmpleu c w b a d) w d a b (fun a b => truth (decide (a.toNat ≤ b.toNat))) s

/-- `tst` (R74). Writes all ones when a AND b is nonzero. -/
def execTst (c : BitVec 1) (w : BitVec 1) (b : BitVec 7) (a : BitVec 7) (d : BitVec 6) (s : State) : Out :=
  binary (.tst c w b a d) w d a b (fun a b => truth (a &&& b != 0)) s

/-- `absd` (R75). Gives the exact absolute signed difference as an unsigned value. -/
def execAbsd (c : BitVec 1) (w : BitVec 1) (b : BitVec 7) (a : BitVec 7) (d : BitVec 6) (s : State) : Out :=
  binary (.absd c w b a d) w d a b absDiff s

/-- `sel` (R76). Selects a when old vd is nonzero, else b. -/
def execSel (c : BitVec 1) (w : BitVec 1) (b : BitVec 7) (a : BitVec 7) (d : BitVec 6) (s : State) : Out :=
  inPlace (.sel c w b a d) w d a b (fun a b d => if d != 0 then a else b) s

/-- `bfx` (R76). Extracts a bit field under a control word, optionally sign-extended. -/
def execBfx (c : BitVec 1) (w : BitVec 1) (b : BitVec 7) (a : BitVec 7) (d : BitVec 6) (s : State) : Out :=
  binary (.bfx c w b a d) w d a b bitFieldExtract s

/-- `bfi` (R76). Inserts a bit field of a into vd in place. -/
def execBfi (c : BitVec 1) (w : BitVec 1) (b : BitVec 7) (a : BitVec 7) (d : BitVec 6) (s : State) : Out :=
  inPlace (.bfi c w b a d) w d a b bitFieldInsert s

/-- `lea` (R76). Gives a plus four times b. -/
def execLea (c : BitVec 1) (w : BitVec 1) (b : BitVec 7) (a : BitVec 7) (d : BitVec 6) (s : State) : Out :=
  binary (.lea c w b a d) w d a b (fun a b => a + (b <<< 2)) s

/-- `popc` (R77). Counts set bits. -/
def execPopc (c : BitVec 1) (w : BitVec 1) (a : BitVec 7) (d : BitVec 6) (s : State) : Out :=
  unary (.popc c w a d) w d a popCount s

/-- `clz` (R77). Counts leading zero bits. -/
def execClz (c : BitVec 1) (w : BitVec 1) (a : BitVec 7) (d : BitVec 6) (s : State) : Out :=
  unary (.clz c w a d) w d a leadingZeros s

/-- `ctz` (R77). Counts trailing zero bits. -/
def execCtz (c : BitVec 1) (w : BitVec 1) (a : BitVec 7) (d : BitVec 6) (s : State) : Out :=
  unary (.ctz c w a d) w d a trailingZeros s

/-- `brev` (R77). Reverses the bit order. -/
def execBrev (c : BitVec 1) (w : BitVec 1) (a : BitVec 7) (d : BitVec 6) (s : State) : Out :=
  unary (.brev c w a d) w d a bitReverse s

/-- `divs` (R79). Signed division truncating towards zero with defined special cases. -/
def execDivs (c : BitVec 1) (w : BitVec 1) (b : BitVec 7) (a : BitVec 7) (d : BitVec 6) (s : State) : Out :=
  binary (.divs c w b a d) w d a b divS s

/-- `divu` (R79). Unsigned division with a defined result for zero divisor. -/
def execDivu (c : BitVec 1) (w : BitVec 1) (b : BitVec 7) (a : BitVec 7) (d : BitVec 6) (s : State) : Out :=
  binary (.divu c w b a d) w d a b divU s

/-- `rems` (R79). Signed remainder taking the sign of the dividend. -/
def execRems (c : BitVec 1) (w : BitVec 1) (b : BitVec 7) (a : BitVec 7) (d : BitVec 6) (s : State) : Out :=
  binary (.rems c w b a d) w d a b remS s

/-- `remu` (R79). Unsigned remainder. -/
def execRemu (c : BitVec 1) (w : BitVec 1) (b : BitVec 7) (a : BitVec 7) (d : BitVec 6) (s : State) : Out :=
  binary (.remu c w b a d) w d a b remU s

/-- `mov` (R77). Copies the source. -/
def execMov (c : BitVec 1) (w : BitVec 1) (a : BitVec 7) (d : BitVec 6) (s : State) : Out :=
  unary (.mov c w a d) w d a (fun a => a) s

/-- `zxb` (R77). Zero-extends the low byte. -/
def execZxb (c : BitVec 1) (w : BitVec 1) (a : BitVec 7) (d : BitVec 6) (s : State) : Out :=
  unary (.zxb c w a d) w d a (fun a => a &&& 0xFF) s

/-- `sxb` (R77). Sign-extends the low byte. -/
def execSxb (c : BitVec 1) (w : BitVec 1) (a : BitVec 7) (d : BitVec 6) (s : State) : Out :=
  unary (.sxb c w a d) w d a signByte s

/-- `sxh` (R77). Sign-extends the low halfword. -/
def execSxh (c : BitVec 1) (w : BitVec 1) (a : BitVec 7) (d : BitVec 6) (s : State) : Out :=
  unary (.sxh c w a d) w d a signHalf s

/-- `zxh` (R77). Zero-extends the low halfword. -/
def execZxh (c : BitVec 1) (w : BitVec 1) (a : BitVec 7) (d : BitVec 6) (s : State) : Out :=
  unary (.zxh c w a d) w d a (fun a => a &&& 0xFFFF) s

/-- `pack` (R78). Packs the low halves of a and b into one word. -/
def execPack (c : BitVec 1) (w : BitVec 1) (b : BitVec 7) (a : BitVec 7) (d : BitVec 6) (s : State) : Out :=
  binary (.pack c w b a d) w d a b packHalves s

/-- `bsw` (R77). Reverses the byte order. -/
def execBsw (c : BitVec 1) (w : BitVec 1) (a : BitVec 7) (d : BitVec 6) (s : State) : Out :=
  unary (.bsw c w a d) w d a byteSwap s

/-- `addi` (R80). Adds a sign-extended 9-bit immediate. -/
def execAddi (c : BitVec 1) (w : BitVec 1) (i : BitVec 9) (a : BitVec 7) (d : BitVec 6) (s : State) : Out :=
  immediate (.addi c w i a d) w d a (sext i) (· + ·) s

/-- `andi` (R80). ANDs with a sign-extended immediate. -/
def execAndi (c : BitVec 1) (w : BitVec 1) (i : BitVec 9) (a : BitVec 7) (d : BitVec 6) (s : State) : Out :=
  immediate (.andi c w i a d) w d a (sext i) (· &&& ·) s

/-- `ori` (R80). ORs with a sign-extended immediate. -/
def execOri (c : BitVec 1) (w : BitVec 1) (i : BitVec 9) (a : BitVec 7) (d : BitVec 6) (s : State) : Out :=
  immediate (.ori c w i a d) w d a (sext i) (· ||| ·) s

/-- `xori` (R80). XORs with a sign-extended immediate. -/
def execXori (c : BitVec 1) (w : BitVec 1) (i : BitVec 9) (a : BitVec 7) (d : BitVec 6) (s : State) : Out :=
  immediate (.xori c w i a d) w d a (sext i) (· ^^^ ·) s

/-- `shli` (R80). Shifts left by an immediate count. -/
def execShli (c : BitVec 1) (w : BitVec 1) (i : BitVec 5) (a : BitVec 7) (d : BitVec 6) (s : State) : Out :=
  immediate (.shli c w i a d) w d a (zext i) shiftL s

/-- `shri` (R80). Shifts right logically by an immediate count. -/
def execShri (c : BitVec 1) (w : BitVec 1) (i : BitVec 5) (a : BitVec 7) (d : BitVec 6) (s : State) : Out :=
  immediate (.shri c w i a d) w d a (zext i) shiftR s

/-- `sari` (R80). Shifts right arithmetically by an immediate count. -/
def execSari (c : BitVec 1) (w : BitVec 1) (i : BitVec 5) (a : BitVec 7) (d : BitVec 6) (s : State) : Out :=
  immediate (.sari c w i a d) w d a (zext i) shiftA s

/-- `cmpeqi` (R80). Compares for equality with an immediate. -/
def execCmpeqi (c : BitVec 1) (w : BitVec 1) (i : BitVec 9) (a : BitVec 7) (d : BitVec 6) (s : State) : Out :=
  immediate (.cmpeqi c w i a d) w d a (sext i) (fun a b => truth (a == b)) s

/-- `cmplti` (R80). Signed less-than compare with an immediate. -/
def execCmplti (c : BitVec 1) (w : BitVec 1) (i : BitVec 9) (a : BitVec 7) (d : BitVec 6) (s : State) : Out :=
  immediate (.cmplti c w i a d) w d a (sext i) (fun a b => truth (lts a b)) s

/-- `cmpltui` (R80). Unsigned less-than compare with the sign-extended immediate. -/
def execCmpltui (c : BitVec 1) (w : BitVec 1) (i : BitVec 9) (a : BitVec 7) (d : BitVec 6) (s : State) : Out :=
  immediate (.cmpltui c w i a d) w d a (sext i) (fun a b => truth (decide (a.toNat < b.toNat))) s

/-- `muli` (R80). Multiplies by an immediate, low 32 bits. -/
def execMuli (c : BitVec 1) (w : BitVec 1) (i : BitVec 9) (a : BitVec 7) (d : BitVec 6) (s : State) : Out :=
  immediate (.muli c w i a d) w d a (sext i) (· * ·) s

/-- A word of the code image (R82): a word outside it reads 0. -/
def Company.codeWord (c : Company) (a : Nat) : Word :=
  if a + 4 ≤ c.playbill.codeLength then c.code.readWord a else 0

/-- A read of a word of the code image through the instruction path (R84): its launch value, or where it has been written since one of
the values written, a free choice for the word. -/
def State.codeRead (s : State) (c : Company) (a : Nat) : Word :=
  let since := (((s.run? c.ctx c.run).map (·.codeSince)).getD []).filter (fun w => w.1 == a)
  let l := c.codeWord a :: since.map (·.2)
  l.getD (Config.freeCode s.free a % l.length) 0

/-- Word `n` of pool extent 0 (R83): 0 at or beyond its length, or without the extent. -/
def State.poolRead (s : State) (c : Company) (n : Nat) : Word :=
  match c.playbill.pools with
  | [] => 0
  | p :: _ => if n < p.2 then s.codeRead c (p.1 + 4 * n) else 0

/-- `ldp` (R83). Reads a word of parameter pool extent 0 per lane, or 0 out of range. -/
def execLdp (i : BitVec 9) (a : BitVec 6) (d : BitVec 6) (s : State) : Out :=
  laneOp (.ldp i a d) 0 d (fun x l => s.poolRead x.co (zext i + x.reg a.toNat l).toNat) s

/-- `movi` (R81). Writes a zero-extended 16-bit immediate. -/
def execMovi (c : BitVec 1) (w : BitVec 1) (i : BitVec 16) (d : BitVec 6) (s : State) : Out :=
  laneOp (.movi c w i d) w d (fun _ _ => zext i) s

/-- `movh` (R81). Writes a 16-bit immediate to the upper half of vd, keeping the lower half. -/
def execMovh (c : BitVec 1) (w : BitVec 1) (i : BitVec 16) (d : BitVec 6) (s : State) : Out :=
  laneOp (.movh c w i d) w d (fun x l => (x.reg d.toNat l &&& 0xFFFF) ||| (zext i <<< 16)) s

/-- `lit` (R82). Reads a code-image word PC-relative into vd. -/
def execLit (i : BitVec 16) (d : BitVec 6) (s : State) : Out :=
  laneOp (.lit i d) 0 d (fun x _ => s.codeRead x.co ((x.sp.pc &&& 0xFFFFFFFC).toNat + 4 * i.toNat)) s

end Sys2Proof.Machine
end

