-- ==== Sys2Proof/Machine/Control.lean ====
section
/-!
DEFINITION. Branches, joins, calls, frames, exit, traps and the return from a trap (R115 to R131, R139 to R141).
-/
namespace Sys2Proof.Machine

/-- The target of an offset in halfwords (R39). -/
def Site.target {n : Nat} (x : Site) (o : BitVec n) : Word := x.sp.pc + sext o * 2

/-- The address of the next instruction in order. -/
def Site.after (x : Site) (i : Instr) : Word := x.sp.pc + BitVec.ofNat 32 (encode i).length

/-! ## Branches (R116 to R120) -/

/-- Every active lane goes to an address of its own: the split jumps, or divides (R117). -/
def State.branch (s : State) (i : Instr) (x : Site) (next : Nat → Word) : State :=
  match groupByPc (x.active.lanes.map (fun l => (l, next l))) [] with
  | [] => s.retire i x x
  | [g] => s.retireAt i x x g.1
  | gs => s.retireSplit i x x (x.parts gs)

/-- `bz` (R116). Branches lanes whose vc is zero, dividing the split when lanes differ. -/
def execBz (o : BitVec 18) (c : BitVec 6) (s : State) : Out :=
  issue (.bz o c) s (fun x =>
    .next (s.branch (.bz o c) x (fun l => if x.reg c.toNat l == 0 then x.target o else x.after (.bz o c))))

/-- `bnz` (R116). Branches lanes whose vc is nonzero, dividing the split when lanes differ. -/
def execBnz (o : BitVec 18) (c : BitVec 6) (s : State) : Out :=
  issue (.bnz o c) s (fun x =>
    .next (s.branch (.bnz o c) x (fun l => if x.reg c.toNat l != 0 then x.target o else x.after (.bnz o c))))

/-- `j` (R118). Jumps the whole split. -/
def execJ (o : BitVec 24) (s : State) : Out :=
  issue (.j o) s (fun x => .next (s.retireAt (.j o) x x (x.target o)))

/-- The lowest odd target of the active lanes. -/
def oddTarget (ts : List Word) : Option Word :=
  ts.foldl (fun m t => if t.getLsbD 0 then (match m with | none => some t | some u => if t.toNat < u.toNat then some t else m) else m) none

/-- Where `brt` sends a lane that holds `v`: the words of the table are read as `lit` reads them (R84, R120). -/
def State.tableTarget (s : State) (x : Site) (o : BitVec 18) (c : BitVec 6) (v : Word) : Word :=
  let t := x.target o &&& 0xFFFFFFFC
  if v.toNat < (s.codeRead x.co t.toNat).toNat then t + s.codeRead x.co (t.toNat + 4 + 4 * v.toNat) else x.after (.brt o c)

/-- `brt` (R120). Per-lane jump through a PC-relative table in the code image. -/
def execBrt (o : BitVec 18) (c : BitVec 6) (s : State) : Out :=
  issue (.brt o c) s (fun x =>
    let to_ (l : Nat) : Word := s.tableTarget x o c (x.reg c.toNat l)
    match oddTarget (x.active.lanes.map to_) with
    | some t => .next (s.fail (.brt o c) x 0x0E t)
    | none => .next (s.branch (.brt o c) x to_))

/-! ## Joins (R119, R122, R123) -/

/-- The merge sets of the chorus are evaluated after a step of the site's split. -/
def Site.rejoin (x : Site) : Site := { x with ch := (x.ch.setSplit x.sp).reconverge }

/-- `jpt` (R119). Sets the running split's join PC. -/
def execJpt (o : BitVec 18) (s : State) : Out :=
  issue (.jpt o) s (fun x =>
    let y := x.next (.jpt o)
    .next ((s.putChorus { y with sp := { y.sp with joinPc := x.target o } }.rejoin).bill (.jpt o) x))

/-- The running split arrives at its join point. -/
def State.arrive (s : State) (i : Instr) (x : Site) (w : Wait) : State :=
  let y := x.next i
  (s.putChorus { y with sp := { y.sp with pc := x.sp.pc, state := .arrived, wait := w } }.rejoin).bill i x

/-- The end of a split's run that may end its chorus (R16, R179). -/
def State.afterJoin (s : State) (x : Site) : State := s.endChorus x.co.uid x.ch.index

/-- `rcv` (R122). Arrives at the split's join point and merges when the merge set is complete. -/
def execRcv (s : State) : Out :=
  issue .rcv s (fun x =>
    if x.sp.joinPc != x.sp.pc then .next (s.retire .rcv x x)
    else .next ((s.arrive .rcv x .join).afterJoin x))

/-- `rcv_t` (R123). Waits like rcv with a virtual-time bound and reports the outcome. -/
def execRcvT (a : BitVec 6) (d : BitVec 6) (s : State) : Out :=
  issue (.rcvT a d) s (fun x =>
    if x.sp.joinPc != x.sp.pc then .next (s.retire (.rcvT a d) x (x.write d.toNat (fun _ => 0)))
    else
      let deadline := (s.vtOf x + (x.uniform a.toNat).toNat) * ticksPerNs
      .next ((s.arrive (.rcvT a d) x (.joinT deadline d)).afterJoin x))

/-- The active lanes exit (R124). -/
def State.exitLanes (s : State) (i : Instr) (x : Site) : State :=
  if x.idle then s.retire i x x
  else (s.retire i x { x with ch := { x.ch with exited := x.ch.exited ||| x.active } }).afterExit x

/-- `exit` (R124). Marks every active lane exited. -/
def execExit (s : State) : Out := issue .exit s (fun x => .next (s.exitLanes .exit x))

/-! ## Calls and frames (R127 to R131) -/

/-- Rows of the frame area (R131). -/
def Site.frameRows (x : Site) : Nat := (x.co.playbill.wellSize - 0x200 - x.co.playbill.localSize) / 128

/-- What a call that slides the window by `n` meets first, with its `tval` (R131). -/
def Site.callTrap (x : Site) (n : Nat) : Option Word :=
  let f2 := x.sp.frame - n
  if n = 0 then none
  else if x.frameRows < x.sp.wb + n + f2 then some (BitVec.ofNat 32 x.frameRows)
  else if x.sp.depth = 65535 then some (BitVec.ofNat 32 (x.sp.wb + n - 1))
  else if x.ch.ring.length < f2 + 1 then some (BitVec.ofNat 32 (x.sp.wb + n - 1 + x.ch.ring.length))
  else none

/-- The link word of a call (R130). -/
def linkWord (n : Nat) (ret : Word) : Word := BitVec.ofNat 32 (n * 2 ^ 26) + (ret &&& 0x3FFFFFF)

/-- A split after a call of `n` to a target; a link whose row is not resident is still to be written (R127). -/
def Site.called (x : Site) (n : Nat) (ret : Word) (p : Split) (target : Word) : Split :=
  if n = 0 then { p with pc := target }
  else
    let f2 := x.sp.frame - n
    let wb := x.sp.wb + n
    let q := { p with pc := target, wb := wb, depth := x.sp.depth + 1, frame := f2 }
    if x.ch.resident (wb - 1, wb) then q else { q with wait := .link (wb - 1) (wb + f2) (linkWord n ret) }

/-- Writes the link of a call in the lanes of a mask, when its row is resident. -/
def Site.writeLink (x : Site) (n : Nat) (ret : Word) (m : Mask) : Site :=
  if n = 0 then x
  else if x.ch.resident (x.sp.wb + n - 1, x.sp.wb + n) then
    { x with ch := x.ch.setAbs (x.sp.wb + n - 1) m (linkWord n ret) }
  else x

/-- A split whose link still waits stalls. -/
def Site.awaitLink (x : Site) : Site :=
  match x.sp.wait with
  | .link a b w => x.await (.link a b w) .waitWindow
  | _ => { x with ch := x.ch.setSplit x.sp }

/-- `call` (R127). Calls a function, sliding the window by n rows and writing the link. -/
def execCall (o : BitVec 18) (n : BitVec 6) (s : State) : Out :=
  issue (.call o n) s (fun x =>
    match x.callTrap n.toNat with
    | some v => .next (s.fail (.call o n) x 0x07 v)
    | none =>
      let ret := x.after (.call o n)
      let y := (x.writeLink n.toNat ret x.live).next (.call o n)
      .next ((s.putChorus { y with sp := x.called n.toNat ret y.sp (x.target o) }.awaitLink).bill (.call o n) x))

/-- Every split of a chorus whose link still waits makes its request (R132). -/
def Chorus.requestLinks (h : Chorus) : Chorus :=
  let waits (p : Split) : Bool := match p.wait with | .link _ _ _ => true | _ => false
  { h with
    requests := h.requests ++ ((h.splits.filter (fun p => waits p && !h.requests.contains p.members)).map (·.members))
    splits := updWhere waits (fun p => { p with state := .waitWindow }) h.splits }

/-- `callr` (R128). Calls per-lane register targets, dividing the split on differing targets. -/
def execCallr (n : BitVec 7) (a : BitVec 6) (s : State) : Out :=
  issue (.callr n a) s (fun x =>
    if x.idle then .next (s.retire (.callr n a) x x)
    else
      match oddTarget (x.active.lanes.map (x.reg a.toNat)) with
      | some t => .next (s.fail (.callr n a) x 0x0E t)
      | none =>
        match x.callTrap n.toNat with
        | some v => .next (s.fail (.callr n a) x 0x07 v)
        | none =>
          let ret := x.after (.callr n a)
          let y := (x.writeLink n.toNat ret x.live).next (.callr n a)
          match groupByPc (x.active.lanes.map (fun l => (l, x.reg a.toNat l))) [] with
          | [g] => .next ((s.putChorus { y with sp := x.called n.toNat ret y.sp g.1 }.awaitLink).bill (.callr n a) x)
          | gs =>
            let ps := (x.parts gs).map (fun p => x.called n.toNat ret p p.pc)
            .next ((s.putChorus { y with ch := (y.replace ps).requestLinks.choose }).bill (.callr n a) x))

/-- The link of a member (R130). -/
def Site.link (x : Site) (l : Nat) : Word := x.ch.absRow (x.sp.wb - 1) l

/-- A link that only a write by another agent can leave (R130). -/
def Site.badLink (x : Site) (v : Word) : Bool :=
  v.toNat / 2 ^ 26 == 0 || decide (x.sp.wb < v.toNat / 2 ^ 26) || v.getLsbD 0

/-- A split after its return through a link (R130). -/
def Site.returned (x : Site) (p : Split) (v : Word) : Split :=
  let n := v.toNat / 2 ^ 26
  { p with
    pc := v &&& 0x3FFFFFF
    wb := p.wb - n
    depth := p.depth - 1
    frame := Nat.min (n + p.frame) (Nat.min 48 (x.ch.ring.length - (if p.depth - 1 = 0 then 0 else 1))) }

/-- `ret` (R130). Returns every non-exited member through its link, or exits at depth 0. -/
def execRet (s : State) : Out :=
  issue .ret s (fun x =>
    if x.sp.depth = 0 then .next (s.exitLanes .ret x)
    else
      match x.live.lanes.find? (fun l => x.ch.poison.contains (16 + (x.sp.wb - 1) % x.ch.ring.length, l / 8)) with
      | some l => .next (s.failHalt .ret x 0x10 (laneWord l))
      | none =>
        match x.live.lanes.find? (fun l => x.badLink (x.link l)) with
        | some l => .next (s.fail .ret x 0x0E (x.link l))
        | none =>
          match groupByPc (x.live.lanes.map (fun l => (l, x.link l))) [] with
          | [] => .next (s.retire .ret x x)
          | [g] =>
            let y := x.next .ret
            .next ((s.put { y with sp := x.returned y.sp g.1 }).bill .ret x)
          | gs =>
            .next (s.retireSplit .ret x x (gs.map (fun g =>
              x.returned { x.sp with members := g.2, xm := x.sp.xm &&& g.2, wait := .none } g.1))))

/-- `alloc` (R129). Sets the frame of the split to m rows. -/
def execAlloc (i : BitVec 14) (s : State) : Out :=
  issue (.alloc i) s (fun x =>
    let m := i.toNat
    let l := if x.sp.depth = 0 then 0 else 1
    if x.frameRows < x.sp.wb + m then .next (s.fail (.alloc i) x 0x07 (BitVec.ofNat 32 x.frameRows))
    else if x.ch.ring.length < m + l then .next (s.fail (.alloc i) x 0x07 (BitVec.ofNat 32 (x.sp.wb - l + x.ch.ring.length)))
    else
      let y := { x with sp := { x.sp with frame := m } }
      let r := y.sp.needed
      if y.ch.resident r then .next (s.retire (.alloc i) x y)
      else .next ((s.putChorus ((y.next (.alloc i)).await (.window r.1 r.2) .waitWindow)).bill (.alloc i) x))

/-! ## Traps (R139 to R141) -/

/-- `trap` (R139). Traps with cause 0x11. -/
def execTrap (i : BitVec 14) (s : State) : Out :=
  issue (.trap i) s (fun x => .next (s.fail (.trap i) x 0x11 (zext i)))

/-- `brk` (R139). Traps with cause 0x12. -/
def execBrk (i : BitVec 14) (s : State) : Out :=
  issue (.brk i) s (fun x => .next (s.fail (.brk i) x 0x12 (zext i)))

/-- `rtt` (R141). Returns from the trap handler to `epc`. -/
def execRtt (s : State) : Out :=
  issue .rtt s (fun x =>
    if !x.ch.handler then .next (s.fail .rtt x 0x01 (encode .rtt).word)
    else if x.ch.epc.getLsbD 0 then .next (s.fail .rtt x 0x0E x.ch.epc)
    else
      let y := (x.next .rtt).returnFromTrap
      .next ((s.put y).bill .rtt x))

/-- `nop` (R48, R139). No effect beyond its class. -/
def execNop (v : BitVec 20) (s : State) : Out := issue (.nop v) s (fun x => .next (s.retire (.nop v) x x))

/-- `pool` (R47, R139). Executing a pool header traps with pool entry, which `issue` finds. -/
def execPool (l : BitVec 14) (s : State) : Out := issue (.pool l) s (fun x => .next (s.fail (.pool l) x 0x04 0xFFFFFFFF))

/-- `undef` (R48). Traps with illegal encoding in every stepping, which `issue` finds. -/
def execUndef (v : BitVec 20) (s : State) : Out :=
  issue (.undef v) s (fun x => .next (s.fail (.undef v) x 0x01 (encode (.undef v)).word))

/-- `reserved_encoding` (R48). A word that is no instruction traps with illegal encoding, or with chain form for the ch
bit of a load-literal form (R44), which `issue` finds. -/
def execReservedEncoding (w : BitVec 32) (s : State) : Out :=
  issue (.reservedEncoding w) s (fun x => .next (s.fail (.reservedEncoding w) x 0x01 w))

end Sys2Proof.Machine
end

