-- ==== Sys2Proof/Machine/Exchange.lean ====
section
/-!
DEFINITION. Lane exchange: shuffles, votes, reductions, scan, rank and match (R85 to R89).
-/
namespace Sys2Proof.Machine

/-- The value of a source in lane `j` when that lane is active, else the lane's own (R85). -/
def Site.fromLane (x : Site) (a : BitVec 7) (l : Nat) (j : Option Nat) : Word :=
  match j with
  | some k => if x.active.has k then x.src a k else x.src a l
  | none => x.src a l

/-- The uniform count of a shuffle, bits 4:0 of the leader's value (R86). -/
def Site.shuffleCount (x : Site) (b : BitVec 7) : Nat := (x.uniformSrc b).toNat % 32

/-- The mask of active lanes that hold the same value as lane `l` (R89). -/
def Site.sameValue (x : Site) (a : BitVec 7) (l : Nat) : Mask := maskOf (fun j => x.active.has j && x.src a j == x.src a l)

/-- `shfl` (R86). Reads a from a per-lane source lane. -/
def execShfl (c : BitVec 1) (w : BitVec 1) (b : BitVec 7) (a : BitVec 7) (d : BitVec 6) (s : State) : Out :=
  laneOp (.shfl c w b a d) w d (fun x l => x.fromLane a l (some ((x.src b l).toNat % 32))) s

/-- `shup` (R86). Reads a from lane l minus a uniform n. -/
def execShup (c : BitVec 1) (w : BitVec 1) (b : BitVec 7) (a : BitVec 7) (d : BitVec 6) (s : State) : Out :=
  laneOp (.shup c w b a d) w d (fun x l => x.fromLane a l (if x.shuffleCount b ≤ l then some (l - x.shuffleCount b) else none)) s

/-- `shdn` (R86). Reads a from lane l plus a uniform n. -/
def execShdn (c : BitVec 1) (w : BitVec 1) (b : BitVec 7) (a : BitVec 7) (d : BitVec 6) (s : State) : Out :=
  laneOp (.shdn c w b a d) w d (fun x l => x.fromLane a l (some (l + x.shuffleCount b))) s

/-- `shxor` (R86). Reads a from lane l XOR a uniform n. -/
def execShxor (c : BitVec 1) (w : BitVec 1) (b : BitVec 7) (a : BitVec 7) (d : BitVec 6) (s : State) : Out :=
  laneOp (.shxor c w b a d) w d (fun x l => x.fromLane a l (some (l ^^^ x.shuffleCount b))) s

/-- `vany` (R87). Broadcasts whether any active lane has a nonzero value. -/
def execVany (c : BitVec 1) (w : BitVec 1) (a : BitVec 7) (d : BitVec 6) (s : State) : Out :=
  across (.vany c w a d) w d (fun x => truth ((x.activeValues a).any (· != 0))) s

/-- `vall` (R87). Broadcasts whether every active lane has a nonzero value. -/
def execVall (c : BitVec 1) (w : BitVec 1) (a : BitVec 7) (d : BitVec 6) (s : State) : Out :=
  across (.vall c w a d) w d (fun x => truth ((x.activeValues a).all (· != 0))) s

/-- `ballot` (R87). Broadcasts the mask of active lanes with a nonzero value. -/
def execBallot (c : BitVec 1) (w : BitVec 1) (a : BitVec 7) (d : BitVec 6) (s : State) : Out :=
  across (.ballot c w a d) w d (fun x => maskOf (fun l => x.active.has l && x.src a l != 0)) s

/-- `leader` (R87). Broadcasts the leader lane's value. -/
def execLeader (c : BitVec 1) (w : BitVec 1) (a : BitVec 7) (d : BitVec 6) (s : State) : Out :=
  across (.leader c w a d) w d (fun x => x.uniformSrc a) s

/-- `redadd` (R88). Broadcasts the sum over active lanes. -/
def execRedadd (c : BitVec 1) (w : BitVec 1) (a : BitVec 7) (d : BitVec 6) (s : State) : Out :=
  across (.redadd c w a d) w d (fun x => (x.activeValues a).foldl (· + ·) 0) s

/-- `redmin` (R88). Broadcasts the signed minimum over active lanes. -/
def execRedmin (c : BitVec 1) (w : BitVec 1) (a : BitVec 7) (d : BitVec 6) (s : State) : Out :=
  across (.redmin c w a d) w d (fun x => (x.activeValues a).foldl minS 0x7FFFFFFF) s

/-- `redmax` (R88). Broadcasts the signed maximum over active lanes. -/
def execRedmax (c : BitVec 1) (w : BitVec 1) (a : BitVec 7) (d : BitVec 6) (s : State) : Out :=
  across (.redmax c w a d) w d (fun x => (x.activeValues a).foldl maxS 0x80000000) s

/-- `redminu` (R88). Broadcasts the unsigned minimum over active lanes. -/
def execRedminu (c : BitVec 1) (w : BitVec 1) (a : BitVec 7) (d : BitVec 6) (s : State) : Out :=
  across (.redminu c w a d) w d (fun x => (x.activeValues a).foldl minU 0xFFFFFFFF) s

/-- `scan` (R89). Gives each lane the inclusive prefix sum over active lanes. -/
def execScan (c : BitVec 1) (w : BitVec 1) (a : BitVec 7) (d : BitVec 6) (s : State) : Out :=
  laneOp (.scan c w a d) w d (fun x l => ((x.active.lanes.filter (· ≤ l)).map (x.src a)).foldl (· + ·) 0) s

/-- `rank` (R89). Counts lower active lanes holding the same value. -/
def execRank (c : BitVec 1) (w : BitVec 1) (a : BitVec 7) (d : BitVec 6) (s : State) : Out :=
  laneOp (.rank c w a d) w d (fun x l => BitVec.ofNat 32 (popcount (x.sameValue a l &&& lowLanes l))) s

/-- `match` (R89). Gives the mask of active lanes holding the same value. -/
def execMatchLanes (c : BitVec 1) (w : BitVec 1) (a : BitVec 7) (d : BitVec 6) (s : State) : Out :=
  laneOp (.matchLanes c w a d) w d (fun x l => x.sameValue a l) s

end Sys2Proof.Machine
end

