-- ==== Sys2Proof/Machine/Requests.lean ====
section
/-!
DEFINITION. Page requests and their answers, invalidation, and the host's accesses to memory (R135, R138, R240, R241, R253 to
R256, R259, R263, R313).
-/
namespace Sys2Proof.Machine

/-! ## Page-request rings (R255) -/

/-- Entries of a ring. -/
def ringSize : Nat := 32

/-- The ring of a stage of a function. -/
def Func.ring (f : Func) (stage : Nat) : Ring := if stage = 1 then f.ring1 else f.ring2
def Func.setRing (f : Func) (stage : Nat) (r : Ring) : Func := if stage = 1 then { f with ring1 := r } else { f with ring2 := r }

/-- Tags that are not outstanding in a ring. -/
def State.freeTags (s : State) (fn stage : Nat) : List Nat :=
  (List.range 32).filter (fun t => !s.requests.any (fun q => q.fn == fn && q.stage == stage && q.tag == some t))

/-- Whether two requests are the same. -/
def PageReq.same (q r : PageReq) : Bool := q.fn == r.fn && q.stage == r.stage && q.page == r.page

/-- Changes one request. -/
def State.modRequest (s : State) (q : PageReq) (f : PageReq → PageReq) : State := { s with requests := updWhere q.same f s.requests }

/-- The request of a ring whose entry is to be written next. -/
def State.nextRequest (s : State) (fn stage : Nat) : Option PageReq :=
  s.requests.find? (fun q => q.fn == fn && q.stage == stage && q.tag.isNone && !q.blocked)

/-- A ring entry as a number. -/
def requestEntry (q : PageReq) (tag idx : Nat) : Nat :=
  q.ctx % 4096 * 2 ^ 192 + q.pasid.toNat * 2 ^ 172 + q.fn % 128 * 2 ^ 160 + idx % 2 ^ 32 * 2 ^ 128 + q.addr % 2 ^ 64 / 4096 * 4096 + q.access % 4 * 64 +
    (if q.stage = 2 then 32 else 0) + tag

/-- Where an entry of a ring goes. -/
inductive EntryPlace where
  | at_ (loc : Nat)
  | absent (page : PageRef)
  | bad
  deriving DecidableEq, Repr

/-- The place of an address of a ring: physical, or for the stage-1 ring of a virtual function guest-physical. -/
def State.ringPlace (s : State) (fn stage a : Nat) : EntryPlace × State :=
  if fn = 0 || stage = 2 then (if isHbm a || isHost a then .at_ (place 0 a) else .bad, s)
  else
    match s.throughStage2 fn a .write with
    | (.bad, s) => (.bad, s)
    | (.absent g, s) => (.absent g, s)
    | (.ok e, s) => (if isHbm e.pa || isHost e.pa then .at_ (place e.swizzle.toNat e.pa) else .bad, s)

/-- A request for a page that a ring of a virtual function lies on. -/
def State.ringRequest (s : State) (fn : Nat) (page : PageRef) (q : PageReq) : State :=
  let same (r : PageReq) : Bool := r.fn == fn && r.stage == 2 && r.page == page.base
  if s.requests.any same then
    { s with requests := updWhere same (fun r => { r with waiters := if r.waiters.contains (.ring fn) then r.waiters else r.waiters ++ [.ring fn] }) s.requests }
  else
    { s with requests := s.requests ++
        [{ fn := fn, stage := 2, page := page.base, addr := page.addr, ctx := q.ctx, pasid := q.pasid, access := Access.write.code, tag := none, blocked := false, waiters := [.ring fn] }] }

/-- Bytes that the device stores for no context: in HBM4 whole granules lose their mark of poison. -/
def State.putBytes (s : State) (loc : Nat) (bs : List Byte) : State :=
  ({ s with mem := s.mem.writeBytes loc bs, memPoison := poisonClear s.memPoison loc bs.length } : State).noteCode (wordsOf loc bs.length)

/-- Writes the entry of a request under a free tag; which tag is open (log 5). -/
def State.writeRequest (s : State) (f : Func) (q : PageReq) (loc : Nat) (tags : List Nat) : State :=
  let v := s.freeValue
  let tag := tags.getD (v.1.toNat % tags.length) 0
  let r := f.ring q.stage
  let t := v.2.putBytes loc (bytesLE 32 (requestEntry q tag r.wr.toNat))
  let t := t.modFunc f.num (fun f => f.setRing q.stage { r with wr := r.wr + 1 })
  let t := t.modRequest q (fun q => { q with tag := some tag })
  t.interrupt (if q.stage = 1 then f.num else 0) (r.vec.toNat % 2048)

/-- Whether the entries of a ring wait for its own page. -/
def State.ringWaits (s : State) (fn stage : Nat) : Bool := stage == 1 && s.requests.any (fun q => q.waiters.contains (.ring fn))

/-- `page_request_write` (R255). The next request of a ring is written to it. -/
def execPageRequestWrite (s : State) : Out :=
  match s.func? s.arg.a, s.nextRequest s.arg.a s.arg.b with
  | some f, some q =>
    let r := f.ring q.stage
    let tags := s.freeTags f.num q.stage
    if tags.isEmpty || decide (ringSize ≤ (r.wr - r.rd).toNat) || s.ringWaits f.num q.stage then .next s
    else
      match s.ringPlace f.num q.stage (r.base.toNat / 1024 * 1024 + 32 * (r.wr.toNat % ringSize)) with
      | (.at_ loc, t) => .next (t.writeRequest f q loc tags)
      | (.absent p, t) => .next (t.ringRequest f.num p q)
      | (.bad, t) => .next (t.modRequest q (fun q => { q with blocked := true }))
  | _, _ => .next s

/-- Whether a stage names a ring. -/
def hasRing (stage : Nat) : Bool := stage == 1 || stage == 2

/-- `prq_rd_write` (R255). The driver moves the read index of a ring. -/
def execPrqRdWrite (s : State) : Out :=
  .next (s.modFunc s.arg.a (fun f => if f.enabled && hasRing s.arg.b then f.setRing s.arg.b { f.ring s.arg.b with rd := s.arg.v } else f))

/-- `prq_base_write` (R255). A new base of a ring; entries that could not be written are tried again. -/
def execPrqBaseWrite (s : State) : Out :=
  if (s.func? s.arg.a).any (fun f => f.enabled && hasRing s.arg.b) then
    let t := s.modFunc s.arg.a (fun f => f.setRing s.arg.b { f.ring s.arg.b with base := s.arg.v &&& ~~~0x3FF#64 })
    .next { t with requests := updWhere (fun q => q.fn == s.arg.a && q.stage == s.arg.b) (fun q => { q with blocked := false }) t.requests }
  else .next s

/-! ## Answers (R256) -/

/-- The first address that a command still needs and that a failed request was for, else its first one. -/
def State.lackedVa (s : State) (c : Company) (f : FlyCmd) (stage page : Nat) : Nat :=
  let es := (f.elems c).filter (fun e => !f.begun || f.todo.contains e.idx)
  let want (e : Elem) : List (Nat × Access) :=
    (if f.op == .cp && f.srcSpace == 0 then [(f.src.toNat + 4 * e.idx, Access.read)] else []) ++
      (match e.bit with | some b => [(b / 8, f.access), ((b + e.width - 1) / 8, f.access)] | none => [])
  let as := es.flatMap want
  let hit (a : Nat × Access) : Bool := match (s.translate c.core c.ctx a.1 a.2).1 with | .absent k p => k == stage && p.base == page | _ => false
  ((as.find? hit).orElse (fun _ => as.head?)).elim page (·.1)

/-- A fly command whose page request failed takes the permanent fault, unless only its deny records waited: the next one is
dropped (R241, R260). -/
def State.failFly (s : State) (u k stage page : Nat) : State :=
  match (s.company? u).bind (fun c => (c.cmd? k).map (fun p => (c, p))) with
  | none => s
  | some (c, _, f) =>
    if f.isOver || f.failed.isSome then (s.modCompany u (fun c => c.modCmd k (fun f => { f with denials := f.denials.drop 1 }))).denyDrop c.ctx
    else s.endFailed u k 0x0C (faultWord (s.lackedVa c f stage page))

/-- The pump's access whose page request failed (R135): the spill or the refill of a split's entry (R17, R136), or the row that it was
transferring. -/
def State.failPump (s : State) (q : PageReq) (u ch : Nat) : State :=
  match (s.company? u).bind (fun c => (c.chorus? ch).map (fun h => (c, h))) with
  | none => s
  | some (c, h) =>
    let lacks (va : Nat) (acc : Access) : Bool :=
      match (s.translate c.core c.ctx va acc).1 with | .absent k p => k == q.stage && p.base == q.page | _ => false
    let entry (p : Split) : Bool := p.spilled && lacks (placeAddress h p) (if p.owed then .write else .read)
    match h.splits.find? entry with
    | some p => s.pumpStop c h p 0x0C (faultWord (placeAddress h p))
    | none =>
      match h.pump.bind (fun m => (m.spill ++ m.fill).head?), h.splits.find? (·.spilled) with
      | some row, _ => s.pumpFail c h 0x0C (faultWord (rowAddress c h row))
      | none, some p => s.pumpStop c h p 0x0C (faultWord (placeAddress h p))
      | none, none => s

/-- The splits of a chorus whose well access waits for a page: its request has failed, and each meets a permanent fault (R138, R256). -/
def Chorus.noteFailed (h : Chorus) (stage page : Nat) : Chorus :=
  { h with failed := h.failed ++ (h.splits.filter (fun p => p.wait == .fault)).map (fun p => (p.members, stage, page)) }

/-- What a failed request does to one of its waiters. -/
def State.failWaiter (s : State) (q : PageReq) (w : Waiter) : State :=
  match w with
  | .fly u k => s.failFly u k q.stage q.page
  | .pump u ch => s.failPump q u ch
  | .lane u ch => s.modChorus u ch (fun h => h.noteFailed q.stage q.page)
  | .front ctx k =>
    if k = schedulerQueue then
      match (s.context? ctx).bind (fun c => c.rollbacks.head?) with
      | some b => (s.modContext ctx (fun c => { c with rollbacks := c.rollbacks.drop 1 })).owe ctx (errorRecord b.queue 4)
      | none => s
    else s.modQueue ctx k (fun x => { x with failed := some (q.stage, q.page) })
  | .mirror ctx k => s.modQueue ctx k (fun x => { x with mirrorOwed := false })
  | .record ctx =>
    match (s.context? ctx).bind (fun c => c.records.head?) with
    | some r => s.recordLost ctx r
    | none => s
  | .copy n => { s with copies := s.copies.filter (fun c => c.1.number != n) }
  | .ring fn => { s with requests := updWhere (fun r => r.fn == fn && r.stage == 1 && r.tag.isNone) (fun r => { r with blocked := true }) s.requests }

/-- What a retry does to a waiter that does not walk again by itself. -/
def State.retryWaiter (s : State) (w : Waiter) : State :=
  match w with
  | .mirror ctx k => s.writeMirror ctx k
  | _ => s

/-- `prq_reply` (R256). A driver answers a tag: 0 lets every waiting access walk again, 1 fails them all; any other answer
is ignored. -/
def execPrqReply (s : State) : Out :=
  let tag := s.arg.v.toNat % 32
  let result := bits s.arg.v.toNat 9 8
  match s.requests.find? (fun q => q.fn == s.arg.a && q.stage == s.arg.b && q.tag == some tag) with
  | none => .next s
  | some q =>
    let t := { s with requests := s.requests.filter (fun r => !q.same r) }
    if result = 0 then .next (q.waiters.foldl (fun t w => t.retryWaiter w) t)
    else if result = 1 then .next (q.waiters.foldl (fun t w => t.failWaiter q w) t)
    else .next s

/-! ## Invalidation (R253) -/

def busyBit : BitVec 64 := 0x8000000000000000#64
def badKindBit : BitVec 64 := 0x4000000000000000#64

/-- The fields of XLINV_CTL that a write stores: kind, function and context. -/
def xlinvFields : BitVec 64 := 0x0FFF000F#64

/-- The kind of an invalidation, and the virtual function that kind 3 names. -/
def xlinvKind (v : BitVec 64) : Nat := v.toNat % 16
def xlinvVf (v : BitVec 64) : Nat := bits v.toNat 22 16

/-- Whether a kind is one that a function may ask for. -/
def State.xlinvLegal (s : State) (fn : Nat) (v : BitVec 64) : Bool :=
  decide (xlinvKind v ≤ 2) || (xlinvKind v == 3 && fn == 0 && xlinvVf v != 0 && s.enabledFn (xlinvVf v))

/-- Removes entries from every TLB and every page-walk cache. -/
def State.dropTlb (s : State) (p : TlbEntry → Bool) (q : TableEntry → Bool) : State :=
  { s with
    dies := s.dies.map (fun (d : Die) => { d with pwc := d.pwc.filter (fun e => !q e) })
    cores := s.cores.map (fun (c : Core) => { c with tlb := c.tlb.filter (fun e => !p e) })
    clusters := s.clusters.map (fun (k : Cluster) => { k with l2 := k.l2.filter (fun e => !p e) }) }

/-- Whether an access to a peer is one of the engine for a context of a function. -/
def State.flyOf (s : State) (target : Nat) (o : Outstanding) : Bool :=
  match o.asker with
  | .fly u _ _ _ => (s.company? u).any (fun c => (s.roots c.ctx).1 == target)
  | _ => false

/-- An invalidation begins: the matching entries go, the results of the function's walks in flight will not be kept, and it waits
for the accesses to peers that the engine has under way for the function. -/
def State.invalidate (s : State) (f : Func) (v : BitVec 64) (target : Nat) (p : TlbEntry → Bool) (q : TableEntry → Bool) : State :=
  let t := s.dropTlb (fun e => e.fn == target && p e) (fun e => e.fn == target && q e)
  let t := { t with
    walks := updWhere (fun (w : Walk) => (s.roots w.ctx).1 == target) (fun w => { w with stale := true }) t.walks
    sent := updWhere (s.flyOf target) (fun o => { o with stale := true }) t.sent }
  t.modFunc f.num (fun f => { f with xlinvCtl := (v &&& xlinvFields) ||| busyBit })

/-- A write of XLINV_CTL of one kind; it is ignored while busy is set. -/
def xlinv (kind : Nat) (target : Func → Nat) (p : Func → TlbEntry → Bool) (q : Func → TableEntry → Bool) (s : State) : Out :=
  match s.func? s.arg.a with
  | none => .next s
  | some f =>
    if f.enabled && !f.xlinvCtl.getLsbD 63 && xlinvKind s.arg.v == kind && s.xlinvLegal f.num s.arg.v
    then .next (s.invalidate f s.arg.v (target f) (p f) (q f)) else .next s

/-- `xlinv_function` (R253). -/
def execXlinvFunction (s : State) : Out := xlinv 0 (·.num) (fun _ _ => true) (fun _ _ => true) s

/-- `xlinv_page` (R253). -/
def execXlinvPage (s : State) : Out :=
  let a (f : Func) : Nat := f.xlinvAddr.toNat % 2 ^ 48 / 4096 * 4096
  xlinv 1 (·.num) (fun f e => e.va / e.span == a f / e.span)
    (fun f e => e.stage == 1 && decide (e.first ≤ a f) && decide (a f < e.first + e.size)) s

/-- `xlinv_context` (R253). -/
def execXlinvContext (s : State) : Out := xlinv 2 (·.num) (fun _ e => e.ctx == bits s.arg.v.toNat 27 16) (fun _ e => e.ctx == bits s.arg.v.toNat 27 16) s

/-- `xlinv_stage2_page` (R253). Every entry of the named virtual function goes, which holds those of the page (log 27). -/
def execXlinvStage2Page (s : State) : Out := xlinv 3 (fun _ => xlinvVf s.arg.v) (fun _ _ => true) (fun _ _ => true) s

/-- `xlinv_invalid_kind` (R253). A kind that is not allowed completes at once and sets bit 62. -/
def execXlinvInvalidKind (s : State) : Out :=
  match s.func? s.arg.a with
  | none => .next s
  | some f =>
    if f.enabled && !f.xlinvCtl.getLsbD 63 && !s.xlinvLegal f.num s.arg.v
    then .next (s.modFunc f.num (fun f => { f with xlinvCtl := (s.arg.v &&& xlinvFields) ||| badKindBit })) else .next s

/-- `xlinv_complete` (R253). The walks and the accesses in flight at the start have ended, and busy clears. -/
def execXlinvComplete (s : State) : Out :=
  match s.func? s.arg.a with
  | none => .next s
  | some f =>
    let target := if xlinvKind f.xlinvCtl = 3 then xlinvVf f.xlinvCtl else f.num
    if f.xlinvCtl.getLsbD 63 && !s.walks.any (fun w => w.stale && (s.roots w.ctx).1 == target) &&
      !s.sent.any (fun o => o.stale && s.flyOf target o)
    then .next (s.modFunc f.num (fun f => { f with xlinvCtl := f.xlinvCtl &&& ~~~busyBit })) else .next s

/-! ## Grant caches and the host (R259, R263) -/

/-- `grant_cache_eviction` (R259). A core's grant cache loses an entry. -/
def execGrantCacheEviction (s : State) : Out :=
  let c := s.core s.arg.a
  let hit (g : Grant) : Bool := g.ctx == s.arg.b && g.principal.toNat == s.arg.c && g.tag.toNat == s.arg.d
  if c.grants.any hit then .next (s.setCore { c with grants := c.grants.filter (fun g => !hit g) }) else .next s

/-- The places of bytes from a physical address on, each under the swizzle mode of the access. -/
def hostPlaces (h : HostAccess) (n : Nat) : List Nat := (List.range n).map (fun k => place h.swizzle.toNat (h.pa + k))

/-- An access of the host passes through the reservoir (R222): a line that it fills or writes keeps the tag and G of its request, which no
rule gives (log 96), and the key that it has. -/
def State.hostLine (s : State) (write : Bool) (line : Nat) : State :=
  let old := s.lineOf (128 * line)
  let v := s.freeValue
  let new : LineTag :=
    match (if write then none else old.filter (·.cached)) with
    | some l => l
    | none => { line := line, cached := true, tag := v.1.extractLsb' 0 16, g := v.1.getLsbD 16, key := old.bind (·.key) }
  { v.2 with lines := evictLines (line / stackLines) (s.die (line / stackLines)).reservoir (new :: s.lines.filter (fun u => u.line != line)) }

/-- The lines of HBM4 under some places are brought in for the host. -/
def State.hostLines (s : State) (write : Bool) (locs : List Nat) : State :=
  (((locs.filter isHbm).map (· / 128)).eraseDups).foldl (fun s l => s.hostLine write l) s

/-- `host_memory_access` (R222, R263). The host reads or writes memory. -/
def execHostMemoryAccess (s : State) : Out :=
  match s.arg.x with
  | .host h =>
    if s.pcieUp && decide (h.pa < 2 ^ 47) then
      if h.write then
        let ws := (hostPlaces h h.data.length).zip h.data
        let t : State := { s with
          mem := ws.foldl (fun m w => m.write w.1 w.2) s.mem
          memPoison := poisonAfter s.memPoison (ws.map (fun w => (w.1, false))) }
        .next ((t.noteCode (ws.map (fun w => w.1 / 4 * 4)).eraseDups).hostLines true (ws.map (·.1)))
      else
        let t := s.hostLines false (hostPlaces h h.length)
        .next { t with outputs := s.outputs ++ [.hostRead ((hostPlaces h h.length).map s.mem.read)] }
    else .next s
  | _ => .next s

end Sys2Proof.Machine
end

