-- ==== Sys2Proof/Machine/Fabric.lean ====
section
/-!
DEFINITION. The fabric: the call board, link transactions and their retry memo, ports, and multicast (R261, R336, R348, R376 to
R386, R391).
-/
namespace Sys2Proof.Machine

/-! ## The end of a transaction (R379) -/

/-- The company whose waits the end of a transaction may end. -/
def Asker.company? : Asker → Option Nat
  | .fly co _ _ _ => some co
  | .message _ co _ _ => some co
  | .notice => none

/-- A transaction is answered: it is no longer outstanding, and held ones may go out. -/
def State.answered (s : State) (o : Outstanding) : State :=
  let t := { s with sent := s.sent.filter (fun p => !p.same o) }.releaseHeld
  match o.asker.company? with
  | some u => t.settleCompany u
  | none => t

/-- Halts a chorus for a lost outcome or poison: cause 0x10, `tval` all ones (R237, R379). -/
def State.haltLost (s : State) (u ch : Nat) (epc : Word) : State := s.haltFor u ch 0x10 epc 0xFFFFFFFF

/-- What a peer sends under the curtain waits for its release (R371). -/
def State.await (s : State) (i : Instr) : State := { s with waiting := s.waiting ++ [.event i s.arg] }

/-- The outcome of a transaction is lost: the chorus that issued it halts (R379). -/
def State.lost (s : State) (o : Outstanding) : State :=
  match o.asker with
  | .fly u ch k _ =>
    match (s.company? u).bind (fun c => c.cmd? k) with
    | some (_, f) => (s.modCompany u (fun c => c.endCmd ch f 3)).haltLost u ch f.epc
    | none => s
  | .message _ u ch epc => s.haltLost u ch epc
  | .notice => s

/-! ## Answers of peers (R376, R379, R391) -/

/-- The address that an element's transaction was for. -/
def FlyRun.remoteVa (r : FlyRun) (e : Elem) (op : LinkOp) : Nat :=
  match op with
  | .read _ => if r.f.op == .cp then r.f.src.toNat + 4 * e.idx else (e.bit.getD 0) / 8
  | _ => (e.bit.getD 0) / 8

/-- What a peer answers, put where the element's own access would have put it: a denied read gives zero and status 1, a
negative answer is a permanent fault, and a poisoned word stops an atomic. -/
def FlyRun.answer (r : FlyRun) (e : Elem) (op : LinkOp) (a : LinkResponse) : FlyRun :=
  let denied := a.status == .denied
  if a.status == .negative then { r with perm := r.perm.orElse (fun _ => some (r.remoteVa e op)) }
  else
    let r : FlyRun := { r with f := { r.f with denied := r.f.denied || denied } }
    let bad := a.poisoned && !denied
    let bit := e.bit.getD 0
    match op with
    | .read n =>
      if r.f.op != .cp && decide (n < (bit + e.width - 1) / 8 + 1 - bit / 8) then
        r.takeByte e bit (ofBytesLE a.data) bad denied (fun r v bad => (r.deliver e v bad).finish e)
      else
      let bit := if r.f.op == .cp then 0 else bit % 8
      let code := if denied then 0 else ofBytesLE a.data / 2 ^ bit % 2 ^ e.width
      if r.f.op == .cp then
        { r with f := { r.f with snapshot := updAt r.f.snapshot e.idx (fun _ => some (BitVec.ofNat 32 code, bad)) } }.copyWrite e
      else (r.deliver e code bad).finish e
    | .atomic _ _ _ => if bad then { r with poison := true } else (r.deliver e (if denied then 0 else ofBytesLE a.data) false).finish e
    | .element _ w _ _ =>
      if w < e.width && (r.f.half? e).isNone then r.halfDone e 0 false false
      else { r with f := { r.f with halves := r.f.halves.filter (fun h => h.1 != e.idx) } }.finish e
    | _ => r.finish e

/-- Delivers an answer to the command that awaits it. -/
def State.deliver (s : State) (o : Outstanding) (a : LinkResponse) : State :=
  match o.asker, o.what with
  | .fly u ch k x, .access _ _ _ _ _ _ op =>
    match (s.company? u).bind (fun c => (c.cmd? k).map (fun p => (c, p.2))) with
    | some (c, f) =>
      let es := f.elems c
      match es.find? (fun e => e.idx == x) with
      | some e => ((flyStart s c ch { f with remote := f.remote.filter (· != x) }).answer e op a).conclude []
      | none => s
    | none => s
  | _, _ => s

/-- The context whose command a transaction is of. -/
def State.contextOf (s : State) (o : Outstanding) : Option Context :=
  match o.asker with
  | .fly u _ _ _ => (s.company? u).bind (fun c => s.context? c.ctx)
  | _ => none

/-- The stamp of an event that arrives for a context now: its `vt`, which while it is stopped counts on from the stop
(R336). -/
def State.stampFor (s : State) (c : Context) : Nat := if c.running s.curtain then c.vt else c.vt + (s.now - c.stopAt)

/-- The aggregate acknowledgement of a multicast reaches its command (R382). -/
def State.acknowledge (s : State) (k : AggregateAck) : State :=
  s.modCompany k.co (fun c => c.modCmd k.cmd (fun f => if f.op == .mc && f.begun then { f with ack := some k } else f))

/-- What an answer does: an indeterminate one loses the outcome (R379), and any other is delivered. -/
def State.settleAnswer (s : State) (o : Outstanding) (a : LinkResponse) (ack : Option AggregateAck) : State :=
  if a.status == .indeterminate then s.lost o
  else match ack with | some k => s.acknowledge k | none => s.deliver o a

/-- An answer comes: for a fly command of a stopped context it is stamped and waits (R336). -/
def State.takeAnswer (s : State) (o : Outstanding) (a : LinkResponse) (ack : Option AggregateAck) : State :=
  match (s.contextOf o).filter (fun c => !c.running s.curtain) with
  | some c =>
    let u := s.fresh
    (u.2.modContext c.id (fun c => { c with
      responses := c.responses ++ [{ resp := a, ack := ack, answers := o, stampTicks := s.stampFor c, arrivedAt := s.now, order := u.1 }] })).answered o
  | none => (s.answered o).settleAnswer o a ack

/-- An answer without data. -/
def Outstanding.reply (o : Outstanding) (st : LinkStatus) : LinkResponse :=
  { dest := o.dest, ident := o.ident, read := o.plainRead, status := st, data := [], poisoned := false, tag := 0, guarded := false }

/-- `link_response_arrival` (R379). -/
def execLinkResponseArrival (s : State) : Out :=
  match s.arg.x with
  | .response a =>
    match s.sent.find? (fun o => o.dest == a.dest && o.ident == a.ident && o.plainRead == a.read && o.port.isSome) with
    | some o => .next (s.takeAnswer o a none)
    | none => .next s
  | _ => .next s

/-- Ticks after which the outcome of a transaction without an answer is lost: 900 µs. -/
def answerLimit : Nat := 900 * microsecond

/-- `link_response_timeout` (R379). -/
def execLinkResponseTimeout (s : State) : Out :=
  match s.sent.find? (fun o => o.dest.toNat == s.arg.a && o.ident == s.arg.v.setWidth 32 && o.plainRead == (s.arg.b == 1)) with
  | some o =>
    if o.sentAt + answerLimit ≤ s.now
    then .next (s.takeAnswer o (o.reply .indeterminate) none)
    else .next s
  | none => .next s

/-- The multicast that an aggregate acknowledgement answers. -/
def State.multicastOf (s : State) (k : AggregateAck) : Option Outstanding :=
  s.sent.find? (fun o =>
    match o.asker, o.what with
    | .fly u _ n _, .multicast _ _ _ _ _ _ => u == k.co && n == k.cmd && o.port.isSome
    | _, _ => false)

/-- `aggregate_ack_arrival` (R382, R383). The final aggregate acknowledgement of a multicast arrives. -/
def execAggregateAckArrival (s : State) : Out :=
  match s.arg.x with
  | .ack k =>
    match s.multicastOf k with
    | some o => .next (s.takeAnswer o (o.reply .ok) (some k))
    | none => .next s
  | _ => .next s

/-! ## The retry memo (R379) -/

/-- Identifiers that a target remembers for each source, and for how long: 1 ms. -/
def memoSize : Nat := 4096
def memoTime : Nat := 1000 * microsecond

/-- The memo of an identifier. -/
def State.memo? (s : State) (src : BitVec 12) (ident : BitVec 32) : Option Memo := s.memos.find? (fun m => m.src == src && m.ident == ident)

/-- A new memo entry; the source's oldest goes when it has more than 4,096. -/
def State.addMemo (s : State) (m : Memo) : State :=
  let mine := s.memos.filter (fun e => e.src == m.src)
  let old := if mine.length < memoSize then s.memos else
    match mine.head? with
    | some e => s.memos.filter (fun f => !(f.src == e.src && f.ident == e.ident))
    | none => s.memos
  { s with memos := old ++ [m] }

/-- `memo_entry_expiry` (R379). -/
def execMemoEntryExpiry (s : State) : Out :=
  let hit (m : Memo) : Bool := m.src.toNat == s.arg.a && m.ident == s.arg.v.setWidth 32 && decide (m.at_ + memoTime ≤ s.now)
  .next { s with memos := s.memos.filter (fun m => !hit m) }

/-- The answer that a memo holds. -/
def Memo.answer (m : Memo) : Answer :=
  { dest := m.src, ident := m.ident, status := m.status, data := m.data, poisoned := m.poisoned, tag := m.tag, guarded := m.guarded }

/-- Answers from the memo, or with INDETERMINATE for a retry that it does not hold; else applies the transaction, remembers
its outcome and answers. The answer carries the tag and G of the request (R261). -/
def State.memoized (s : State) (src : BitVec 12) (ident : BitVec 32) (retry : Bool) (tag : BitVec 16) (guarded : Bool)
    (apply : State → LinkStatus × List Byte × Bool × State) : State :=
  match s.memo? src ident with
  | some m => s.sendAnswer m.answer
  | none =>
    let memo (st : LinkStatus) (data : List Byte) (bad : Bool) : Memo :=
      { src := src, ident := ident, status := st, data := data, poisoned := bad, tag := tag, guarded := guarded, at_ := s.now }
    if retry then s.sendAnswer (memo .indeterminate [] false).answer
    else
      match apply s with
      | (st, data, bad, t) => (t.addMemo (memo st data bad)).sendAnswer (memo st data bad).answer

/-! ## Requests of peers (R261, R376) -/

/-- The places of a peer's access in a context, page by page with the entry of each; none is a negative answer. -/
def State.peerPlace (s : State) (r : LinkRequest) (va n : Nat) (acc : Access) : Option (List (TlbEntry × List Nat)) × State :=
  let next := va / 4096 * 4096 + 4096
  match s.translateFront r.ctx va acc with
  | (.ok e, s) =>
    if va + n ≤ next then (if isPeer (e.phys va) then none else some [(e, byteLocs va (va + n - 1) e e)], s)
    else
      match s.translateFront r.ctx next acc with
      | (.ok f, s) =>
        (if isPeer (e.phys va) || isPeer (f.phys next) then none
         else some [(e, byteLocs va (next - 1) e e), (f, byteLocs next (va + n - 1) f f)], s)
      | (_, s) => (none, s)
  | (_, s) => (none, s)

/-- The lines that places lie on. -/
def linesAt (locs : List Nat) : List Nat := (locs.map (· / 128)).eraseDups

/-- Whether every tag is granted to a principal by the bitmaps of a context; a page of the bitmap that is absent is a
negative answer. -/
def State.peerGranted (s : State) (ctx : Nat) (p : BitVec 12) : List (BitVec 16) → Option Bool × State
  | [] => (some true, s)
  | t :: rest =>
    if ((s.context? ctx).map (·.pcount)).getD 0 ≤ p.toNat then (some false, s)
    else
      match s.policyByte ctx p t with
      | (.bit true, s) => s.peerGranted ctx p rest
      | (.bit false, s) => (some false, s)
      | (.absent _, s) => (none, s)

/-- The check of a peer's read: the tags of its pages, of the request and of its lines, when one of them is guarded. -/
def State.peerCheck (s : State) (r : LinkRequest) (ps : List (TlbEntry × List Nat)) : Option Bool × State :=
  let kept := ps.flatMap (fun p => (linesAt p.2).filterMap (fun k => s.keptTag p.1 (128 * k)))
  let guarded := ps.any (·.1.g) || r.guarded || kept.any (·.g)
  let tags := (ps.map (·.1.tag) ++ r.tag :: kept.map (·.tag)).eraseDups
  if guarded then s.peerGranted r.ctx r.principal tags else (some true, s)

/-- Whether a peer may write a guarded page. -/
def peerOwns (r : LinkRequest) : Bool := r.owner && r.principal == 0

/-- A denied access of a peer counts in the context (R376). -/
def State.peerDenied (s : State) (ctx : Nat) : State := s.modContext ctx (fun c => { c with denyCnt := (c.denyCnt + 1) % 2 ^ 64 })

/-- Reads bytes for a peer. -/
def State.peerRead (s : State) (r : LinkRequest) (n : Nat) : LinkStatus × List Byte × Bool × State :=
  match s.peerPlace r r.addr.toNat n .read with
  | (none, s) => (.negative, [], false, s)
  | (some ps, s) =>
    match s.peerCheck r ps with
    | (none, s) => (.negative, [], false, s)
    | (some false, s) =>
      (.denied, List.replicate n 0, false, s.peerDenied r.ctx)
    | (some true, s) =>
      let q := s.readLocs r.ctx (ps.flatMap (·.2))
      (.ok, q.1, q.2.1, ps.foldl (fun s p => (linesAt p.2).foldl (fun s k => s.touchLines (128 * k) 1 r.ctx r.tag r.guarded false) s) q.2.2)

/-- Stores bytes for a peer: their lines take the tag and G of the request (R261). -/
def State.storeLocs (s : State) (ctx : Nat) (tag : BitVec 16) (g : Bool) (ws : List (Nat × Byte)) (bad : Bool) : State :=
  let t := s.storeAt ctx tag g ws
  { t with memPoison := poisonAfter t.memPoison (ws.map (fun w => (w.1, bad))) }

/-- Stores bytes page by page; `tg` gives the tag and G of the request for the entry of each page. -/
def State.storePages (s : State) (ctx : Nat) (tg : TlbEntry → BitVec 16 × Bool) (bad : Bool) : List (TlbEntry × List Nat) → List Byte → State
  | [], _ => s
  | p :: rest, bs => (s.storeLocs ctx (tg p.1).1 (tg p.1).2 (p.2.zip bs) bad).storePages ctx tg bad rest (bs.drop p.2.length)

/-- The tag and G with which a request of a peer arrives. -/
def requestMark (r : LinkRequest) (_ : TlbEntry) : BitVec 16 × Bool := (r.tag, r.guarded)

/-- Writes bytes for a peer: a guarded page needs principal 0 with the owner flag, or the answer is negative. -/
def State.peerWrite (s : State) (r : LinkRequest) (tg : TlbEntry → BitVec 16 × Bool) (n : Nat) (bytes : List Byte → List Byte) (bad : Bool) :
    LinkStatus × List Byte × Bool × State :=
  match s.peerPlace r r.addr.toNat n .write with
  | (none, s) => (.negative, [], false, s)
  | (some ps, s) =>
    if ps.any (·.1.g) && !peerOwns r then (.negative, [], false, s)
    else
      let q := s.readLocs r.ctx (ps.flatMap (·.2))
      (.ok, [], false, q.2.2.storePages r.ctx tg bad ps (bytes q.1))

/-- The check of the read of a peer's atomic, where a line keeps another tag or G than its page or the request (R261, log 93). -/
def State.peerAtomicCheck (s : State) (r : LinkRequest) (ps : List (TlbEntry × List Nat)) : Option Bool × State :=
  if ps.any (fun p => (linesAt p.2).any (fun k => (s.keptTag p.1 (128 * k)).isSome)) then s.peerCheck r ps else (some true, s)

/-- The word of a peer's atomic: the old value is its answer. -/
def State.peerSwap (s : State) (r : LinkRequest) (ps : List (TlbEntry × List Nat)) (aop : BitVec 4) (b x : Word) :
    LinkStatus × List Byte × Bool × State :=
  let q := s.readLocs r.ctx (ps.flatMap (·.2))
  if q.2.1 then (.ok, q.1, true, q.2.2)
  else
    let old := BitVec.ofNat 32 (ofBytesLE q.1)
    (.ok, q.1, false, q.2.2.storePages r.ctx (requestMark r) false ps (bytesLE 4 (atomNew aop old b x).toNat))

/-- An atomic of a peer. -/
def State.peerAtomic (s : State) (r : LinkRequest) (aop : BitVec 4) (b x : Word) : LinkStatus × List Byte × Bool × State :=
  match s.peerPlace r r.addr.toNat 4 .rmw with
  | (none, s) => (.negative, [], false, s)
  | (some ps, s) =>
    if ps.any (·.1.g) && !peerOwns r then (.negative, [], false, s)
    else
      match s.peerAtomicCheck r ps with
      | (none, s) => (.negative, [], false, s)
      | (some false, s) => (.denied, List.replicate 4 0, false, s.peerDenied r.ctx)
      | (some true, s) => s.peerSwap r ps aop b x

/-- An element of `width` bits put `sh` bits above the first bit of some bytes. -/
def putBits (sh width code : Nat) (old : List Byte) : List Byte :=
  let v := ofBytesLE old
  bytesLE old.length (v % 2 ^ sh + code % 2 ^ width * 2 ^ sh + v / 2 ^ (sh + width) * 2 ^ (sh + width))

/-- Applies a peer's transaction to a context. -/
def State.applyRequest (s : State) (r : LinkRequest) : LinkStatus × List Byte × Bool × State :=
  if (s.context? r.ctx).isNone then (.negative, [], false, s)
  else
    match r.op with
    | .read n => s.peerRead r n
    | .write d bad => s.peerWrite r (requestMark r) d.length (fun _ => d) bad
    | .element sh w code bad => s.peerWrite r (requestMark r) (ceilDiv (sh + w) 8) (putBits sh w code) bad
    | .atomic aop b x => s.peerAtomic r aop b x

/-- Whether a transaction is a read, which carries no identifier. -/
def isPeerRead (r : LinkRequest) : Bool := match r.op with | .read _ => true | _ => false

/-- `link_request_arrival` (R379). A transaction of a peer is applied once, or answered from the memo. -/
def execLinkRequestArrival (s : State) : Out :=
  match s.arg.x with
  | .request r =>
    if s.curtain then .next (s.await .linkRequestArrival)
    else if isPeerRead r then
      let a := s.applyRequest r
      .next (a.2.2.2.sendAnswer
        { dest := r.src, ident := r.ident, status := a.1, data := a.2.1, poisoned := a.2.2.1, tag := r.tag, guarded := r.guarded })
    else .next (s.memoized r.src r.ident r.retry r.tag r.guarded (fun s => s.applyRequest r))
  | _ => .next s

/-! ## The call board (R384 to R386) -/

/-- Entries of a call board. -/
def boardSize : Nat := 64

/-- Whether a channel's permit accepts a source. -/
def Context.permits? (c : Context) (m : Message) : Bool :=
  let p := ((c.permits.find? (fun e => e.1 == m.channel.toNat)).map (·.2)).getD 0
  p.getLsbD 31 && (p.getLsbD 30 || p.extractLsb' 0 12 == m.srcDev) && (p.getLsbD 29 || p.extractLsb' 12 12 == m.srcCtx)

/-- Whether a message is a notice. -/
def isNotice (m : Message) : Bool := m.kind == kindHold || m.kind == kindBusy || m.kind == kindRefused

/-- A message on the board, stamped (R336), with the reply that it makes owed (R386). -/
def State.board (s : State) (c : Context) (m : Message) : State :=
  let u := s.fresh
  let st := s.stampFor c
  let e : BoardEntry :=
    { msg := { m with stamp := BitVec.ofNat 64 (st / ticksPerNs) }, taken := false, visible := false, order := u.1, stampTicks := st, arrivedAt := s.now
      owed := m.patience != 0, deadline := s.now + m.patience.toNat * microsecond, holds := 0, wasOff := !c.onStage, passed := false }
  u.2.modContext c.id (fun c => { c with board := c.board ++ [e] })

/-- What becomes of a message: accepted, dropped, or answered by a notice. -/
def State.receive (s : State) (m : Message) : State :=
  match s.context? m.destCtx.toNat with
  | none => if isNotice m then s else s.notice m kindRefused 0 m.destCtx .notice
  | some c =>
    if isNotice m then
      if c.board.length < boardSize then s.board c m else s.modContext c.id (fun c => { c with noticeLost := (c.noticeLost + 1) % 2 ^ 64 })
    else if !c.permits? m then s.notice m kindRefused 0 m.destCtx .notice
    else if c.board.length < boardSize then s.board c m
    else s.notice m kindBusy 0 m.destCtx .notice

/-- `message_arrival` (R384). A message of this device ends its own transaction; one of another is handled under the memo. -/
def execMessageArrival (s : State) : Out :=
  match s.arg.x with
  | .message m =>
    if m.srcDev == s.deviceId then
      match s.sent.find? (fun o => o.dest == m.destDev && o.ident == m.ident && !o.plainRead) with
      | some o => .next ((s.receive m).answered o)
      | none => .next (s.receive m)
    else if s.curtain then .next (s.await .messageArrival)
    else .next (s.memoized m.srcDev m.ident (s.arg.a == 1) 0 false (fun s => (.ok, [], false, s.receive m)))
  | _ => .next s

/-- The invisible outside event of the lowest stamp, ties in arrival order: its stamp, its order and whether it is a
message. -/
def Context.nextOutside (c : Context) : Option (Nat × Nat × Bool) :=
  let evs := (c.board.filter (fun e => !e.visible && !e.taken)).map (fun e => (e.stampTicks, e.order, true)) ++
    c.responses.map (fun r => (r.stampTicks, r.order, false))
  evs.foldl (fun b e =>
    match b with
    | none => some e
    | some d => if e.1 < d.1 || (e.1 == d.1 && e.2.1 < d.2.1) then some e else b) none

/-- A message becomes visible, and the waits for it end (R332). -/
def State.showMessage (s : State) (ctx order : Nat) : State := (s.showMessages ctx (fun e => e.order == order)).settleContext ctx

/-- `outside_event_visible` (R336). `vt` has reached the stamp of the next outside event. -/
def execOutsideEventVisible (s : State) : Out :=
  match s.context? s.arg.a with
  | none => .next s
  | some c =>
    match c.nextOutside with
    | none => .next s
    | some (st, order, msg) =>
      if !c.running s.curtain || decide (c.vt < st) then .next s
      else if msg then .next (s.showMessage c.id order)
      else
        match c.responses.find? (fun r => r.order == order) with
        | some r => .next ((s.modContext c.id (fun c => { c with responses := c.responses.filter (fun q => q.order != order) })).settleAnswer r.answers r.resp r.ack)
        | none => .next s

/-- The action point of an owed reply: 4 µs before its deadline, or its arrival (R386). -/
def actionPoint (e : BoardEntry) : Nat :=
  let lead := 4 * microsecond
  if e.msg.patience.toNat ≤ 4 && e.holds == 0 then e.deadline - e.msg.patience.toNat * microsecond else e.deadline - lead

/-- Whether the action point of an owed reply has come. -/
def State.boardDue (s : State) (e : BoardEntry) : Bool := e.owed && decide (actionPoint e ≤ s.now) && decide (s.now < e.deadline)

/-- Whether the board is to act on an owed reply then: its context has been off stage since the arrival, or is stopped at the point. -/
def State.boardActs (s : State) (c : Context) (e : BoardEntry) : Bool := e.wasOff || (!e.passed && !c.running s.curtain)

/-- The action point of an owed reply passes without an act: the board acts later only when the context goes off stage. -/
def Context.passPoint (c : Context) (e : BoardEntry) : Context :=
  { c with board := updWhere (fun d => d.order == e.order) (fun d => { d with passed := true }) c.board }

/-- `call_board_action_point` (R386). The board sends HOLD with the original patience, or BUSY. -/
def execCallBoardActionPoint (s : State) : Out :=
  match s.context? s.arg.a with
  | none => .next s
  | some c =>
    match c.owedEntry? (BitVec.ofNat 12 s.arg.b) (s.arg.v.setWidth 32) with
    | none => .next s
    | some e =>
      if !s.boardDue e then .next s
      else if s.boardActs c e then .next (s.answerOwed c.id e e.msg.patience .notice).2
      else .next (s.modContext c.id (fun c => c.passPoint e))

/-! ## Ports (R377, R378, R380) -/

/-- Changes a port. -/
def State.modPort (s : State) (n : Nat) (f : Port → Port) : State := { s with ports := updWhere (fun p => p.num == n) f s.ports }

/-- A port. -/
def State.port? (s : State) (n : Nat) : Option Port := s.ports.find? (fun p => p.num == n)

/-- A count that saturates. -/
def sat64 (n : Nat) : Nat := Nat.min (n + 1) (2 ^ 64 - 1)

/-- A flit of the replay buffer goes out again. -/
def State.replayFlit (s : State) (n : Nat) (seq : BitVec 12) : State :=
  match ((s.port? n).bind (fun p => p.buffer.find? (fun b => b.1 == seq))).bind (fun b => s.outputs[b.2]?) with
  | some o => { s with outputs := s.outputs ++ [o] }
  | none => s

/-- `link_flit_replay` (R377, R378). A flit fails its CRC and is replayed. -/
def execLinkFlitReplay (s : State) : Out :=
  .next ((s.replayFlit s.arg.a (BitVec.ofNat 12 s.arg.c)).modPort s.arg.a (fun p =>
    { p with
      crc := sat64 p.crc, replay := sat64 p.replay
      errBeat := BitVec.ofNat 64 (s.arg.d % 8 + s.arg.b % 4 * 2 ^ 8 + s.arg.c % 4096 * 2 ^ 32)
      row := if p.rowSeq == s.arg.c && p.row != 0 then p.row + 1 else 1, rowSeq := s.arg.c }))

/-- Replays of one flit in a row, and time without lock, after which a port fails. -/
def replayLimit : Nat := 8
def Port.broken (p : Port) (now : Nat) : Bool :=
  p.state != 4 && (decide (replayLimit ≤ p.row) || p.lockLost.any (fun t => decide (t + microsecond ≤ now)))

/-- Sends again what a failed port carried and nobody has answered (R380). -/
def State.resend (s : State) (n : Nat) : State :=
  (s.sent.filter (fun o => o.port == some n && decide (s.now < o.sentAt + answerLimit))).foldl (fun t o => t.emit o true) s

/-- `link_port_fail` (R377, R380). -/
def execLinkPortFail (s : State) : Out :=
  match s.port? s.arg.a with
  | none => .next s
  | some p => if p.broken s.now then .next ((s.modPort p.num (fun p => { p with state := 4, lanes := 0, buffer := [] })).resend p.num) else .next s

/-- `link_xoff` (R377). -/
def execLinkXoff (s : State) : Out :=
  .next (s.modPort s.arg.a (fun p => { p with xoff := p.xoff ||| (1#4 <<< (s.arg.b % 4)) }))

/-- `link_xon` (R377). -/
def execLinkXon (s : State) : Out :=
  .next (s.modPort s.arg.a (fun p => { p with xoff := p.xoff &&& ~~~(1#4 <<< (s.arg.b % 4)) })).releaseHeld

/-- The state of a port with some live lanes. -/
def laneState (n : Nat) : Nat := if n = 8 then 2 else 3

/-- Firmware's route table after a port has come up with a partner: a device is reached by it, a switch reaches every
destination (log 26). -/
def State.addRoute (s : State) (port : Nat) (peer : BitVec 64) : State :=
  let key := if peer.getLsbD 15 then switchRoute else peer.toNat % 4096
  let rest := (s.routes.map (fun r => (r.1, r.2.filter (· != port)))).filter (fun r => !r.2.isEmpty)
  { s with routes :=
      if rest.any (fun r => r.1 == key) then updWhere (fun r => r.1 == key) (fun r => (r.1, r.2 ++ [port])) rest else rest ++ [(key, [port])] }

/-- `link_training_complete` (R380). A port comes up, and held transactions may go out. -/
def execLinkTrainingComplete (s : State) : Out :=
  let n := s.arg.b
  match s.port? s.arg.a with
  | none => .next s
  | some p =>
    if (p.state == 2 || p.state == 3) || n == 0 || decide (8 < n) then .next s
    else
      let peer := s.arg.v &&& 0x8FFF#64
      let t := s.modPort p.num (fun p => { p with state := laneState n, lanes := n, xoff := 0, peer := peer, row := 0, lockLost := none, seq := 0, acked := 0, buffer := [] })
      .next (t.addRoute p.num peer).releaseHeld

/-- `link_lane_loss` (R378). Fewer live lanes: the port is degraded. -/
def execLinkLaneLoss (s : State) : Out :=
  .next (s.modPort s.arg.a (fun p =>
    if (p.state == 2 || p.state == 3) && s.arg.b != 0 && decide (s.arg.b < p.lanes) then { p with state := 3, lanes := s.arg.b } else p))

/-- `link_lock_loss` (R377). The receiver loses lock; after 1 µs without it the port fails. With 1 as its second operand the event stands
for the lock's return. -/
def execLinkLockLoss (s : State) : Out :=
  .next (s.modPort s.arg.a (fun p =>
    if s.arg.b = 1 then (if p.broken s.now then p else { p with lockLost := none })
    else if (p.state == 2 || p.state == 3) && p.lockLost.isNone then { p with lockLost := some s.now } else p))

/-- A port that is down or has failed begins to train (R378). -/
def Port.train (p : Port) : Port := if p.state = 2 ∨ p.state = 3 then p else { p with state := 1, lanes := 0 }

/-- The FEC of a port corrects some symbols (R378). -/
def Port.correct (p : Port) (n : Nat) : Port := { p with fec := Nat.min (p.fec + n) (2 ^ 64 - 1) }

/-- The partner of a port acknowledges flits up to a sequence, which leave the replay buffer (R377). -/
def Port.acknowledged (p : Port) (seq : BitVec 12) : Port :=
  { p with acked := seq, buffer := p.buffer.filter (fun b => decide (2048 ≤ (seq - b.1).toNat)) }

/-! ## Multicast (R381) -/

/-- Group entries of a device. -/
def groupLimit : Nat := 1024

/-- The entries of a group go; what reaches the member at the same time still finds them (R391). -/
def State.revoke (s : State) (group : BitVec 16) : State :=
  { s with
    groups := s.groups.filter (fun g => g.group != group)
    revoked := s.revoked.filter (fun r => r.2 == s.now) ++ (s.groups.filter (fun g => g.group == group)).map (fun g => (g, s.now)) }

/-- `multicast_group_entry_write` (R381). Firmware writes or removes a group entry, whose window begins at a page of 4 KiB. -/
def execMulticastGroupEntryWrite (s : State) : Out :=
  match s.arg.x with
  | .group e valid =>
    let t := s.revoke e.group
    if !valid then .next t
    else if t.groups.length < groupLimit && e.base.toNat % 4096 == 0 then .next { t with groups := t.groups ++ [e] }
    else .next s
  | _ => .next s

/-- The entry that a multicast write finds: one revoked at this time as it stood, else the one there is, for a context that exists. -/
def State.groupEntry? (s : State) (group : BitVec 16) : Option GroupEntry :=
  (((s.revoked.filter (fun r => r.2 == s.now)).map (·.1)) ++ s.groups).find? (fun g => g.group == group && (s.context? g.ctx).isSome)

/-- The bytes of one element of a multicast in a window: first address and count. -/
def mcastSpan (e : GroupEntry) (w : Nat × Nat × Nat) : Nat × Nat := (e.base.toNat + w.1 / 8, ceilDiv (w.1 % 8 + w.2.1) 8)

/-- The request of a member's own context that an element of a multicast is. -/
def mcastRequest (m : MulticastWrite) (e : GroupEntry) (w : Nat × Nat × Nat) : LinkRequest :=
  { src := m.src, ident := m.ident, retry := false, ctx := e.ctx, addr := BitVec.ofNat 64 (mcastSpan e w).1, op := .element (w.1 % 8) w.2.1 w.2.2 m.poisoned
    principal := m.principal, owner := m.owner, tag := 0, guarded := false }

/-- A member writes an element of a multicast, which no translation of the sender's gives a tag: its line takes those of the member's page. -/
def State.mcastWrite (s : State) (m : MulticastWrite) (e : GroupEntry) (w : Nat × Nat × Nat) : State :=
  (s.peerWrite (mcastRequest m e w) (fun p => (p.tag, p.g)) (mcastSpan e w).2 (putBits (w.1 % 8) w.2.1 w.2.2) m.poisoned).2.2.2

/-- Why a member cannot write an element: outside the window, or its page does not translate (reason 3), or is guarded (2). -/
def State.mcastFail (s : State) (m : MulticastWrite) (e : GroupEntry) (w : Nat × Nat × Nat) : Option Nat :=
  let sp := mcastSpan e w
  if e.length * 4096 < w.1 / 8 + sp.2 then some 3
  else
    match (s.peerPlace (mcastRequest m e w) sp.1 sp.2 .write).1 with
    | none => some 3
    | some ps => if ps.any (·.1.g) && !(m.owner && m.principal == 0) then some 2 else none

/-- The reason of a negative answer, the lowest that applies (log 26). -/
def State.mcastReason (s : State) (m : MulticastWrite) : Option Nat :=
  match s.groupEntry? m.group with
  | none => some 1
  | some e =>
    let fs := m.writes.filterMap (s.mcastFail m e)
    if fs.contains 2 then some 2 else if fs.contains 3 then some 3 else if m.poisoned then some 5 else none

/-- A member's part of a multicast write: it writes every element, or none. -/
def State.mcastApply (s : State) (m : MulticastWrite) : LinkStatus × List Byte × Bool × State :=
  match s.mcastReason m with
  | some k => (.negative, [BitVec.ofNat 8 k], false, s)
  | none =>
    match s.groupEntry? m.group with
    | none => (.negative, [1], false, s)
    | some e => (.ok, [], false, m.writes.foldl (fun s w => s.mcastWrite m e w) s)

/-- `multicast_write_arrival` (R381). A member applies a multicast write once and answers. -/
def execMulticastWriteArrival (s : State) : Out :=
  match s.arg.x with
  | .multicast m => if s.curtain then .next (s.await .multicastWriteArrival) else .next (s.memoized m.src m.ident (s.arg.a == 1) 0 false (fun s => s.mcastApply m))
  | _ => .next s

end Sys2Proof.Machine
end

