-- ==== Sys2Proof/Machine/Floats.lean ====
section
/-!
DEFINITION. The floating-point, conversion and packed lane instructions (R98 to R114).
-/
namespace Sys2Proof.Machine

/-- `fadd` (R98). FP32 add rounded RNE. -/
def execFadd (c : BitVec 1) (w : BitVec 1) (b : BitVec 7) (a : BitVec 7) (d : BitVec 6) (s : State) : Out :=
  binary (.fadd c w b a d) w d a b fAdd s

/-- `fsub` (R98). FP32 subtract rounded RNE. -/
def execFsub (c : BitVec 1) (w : BitVec 1) (b : BitVec 7) (a : BitVec 7) (d : BitVec 6) (s : State) : Out :=
  binary (.fsub c w b a d) w d a b fSub s

/-- `fmul` (R98). FP32 multiply rounded RNE. -/
def execFmul (c : BitVec 1) (w : BitVec 1) (b : BitVec 7) (a : BitVec 7) (d : BitVec 6) (s : State) : Out :=
  binary (.fmul c w b a d) w d a b fMul s

/-- `fdiv` (R98). FP32 divide rounded RNE. -/
def execFdiv (c : BitVec 1) (w : BitVec 1) (b : BitVec 7) (a : BitVec 7) (d : BitVec 6) (s : State) : Out :=
  binary (.fdiv c w b a d) w d a b fDiv s

/-- `fma` (R99). Fused a times b plus vd, one rounding. -/
def execFma (c : BitVec 1) (w : BitVec 1) (b : BitVec 7) (a : BitVec 7) (d : BitVec 6) (s : State) : Out :=
  inPlace (.fma c w b a d) w d a b (fFused false false) s

/-- `fms` (R99). Fused a times b minus vd, one rounding. -/
def execFms (c : BitVec 1) (w : BitVec 1) (b : BitVec 7) (a : BitVec 7) (d : BitVec 6) (s : State) : Out :=
  inPlace (.fms c w b a d) w d a b (fFused false true) s

/-- `fnma` (R99). Fused minus a times b plus vd. -/
def execFnma (c : BitVec 1) (w : BitVec 1) (b : BitVec 7) (a : BitVec 7) (d : BitVec 6) (s : State) : Out :=
  inPlace (.fnma c w b a d) w d a b (fFused true false) s

/-- `fnms` (R99). Fused minus a times b minus vd. -/
def execFnms (c : BitVec 1) (w : BitVec 1) (b : BitVec 7) (a : BitVec 7) (d : BitVec 6) (s : State) : Out :=
  inPlace (.fnms c w b a d) w d a b (fFused true true) s

/-- `fmin` (R100). IEEE minimum, NaN if either operand is NaN. -/
def execFmin (c : BitVec 1) (w : BitVec 1) (b : BitVec 7) (a : BitVec 7) (d : BitVec 6) (s : State) : Out :=
  binary (.fmin c w b a d) w d a b fminimum s

/-- `fmax` (R100). IEEE maximum, NaN if either operand is NaN. -/
def execFmax (c : BitVec 1) (w : BitVec 1) (b : BitVec 7) (a : BitVec 7) (d : BitVec 6) (s : State) : Out :=
  binary (.fmax c w b a d) w d a b fmaximum s

/-- `fminnum` (R100). IEEE minimumNumber, ignoring one NaN. -/
def execFminnum (c : BitVec 1) (w : BitVec 1) (b : BitVec 7) (a : BitVec 7) (d : BitVec 6) (s : State) : Out :=
  binary (.fminnum c w b a d) w d a b fminimumNumber s

/-- `fmaxnum` (R100). IEEE maximumNumber, ignoring one NaN. -/
def execFmaxnum (c : BitVec 1) (w : BitVec 1) (b : BitVec 7) (a : BitVec 7) (d : BitVec 6) (s : State) : Out :=
  binary (.fmaxnum c w b a d) w d a b fmaximumNumber s

/-- `fcmpeq` (R101). FP32 equality compare. -/
def execFcmpeq (c : BitVec 1) (w : BitVec 1) (b : BitVec 7) (a : BitVec 7) (d : BitVec 6) (s : State) : Out :=
  binary (.fcmpeq c w b a d) w d a b (fun a b => truth (feq a b)) s

/-- `fcmplt` (R101). FP32 less-than compare. -/
def execFcmplt (c : BitVec 1) (w : BitVec 1) (b : BitVec 7) (a : BitVec 7) (d : BitVec 6) (s : State) : Out :=
  binary (.fcmplt c w b a d) w d a b (fun a b => truth (flt a b)) s

/-- `fcmple` (R101). FP32 less-or-equal compare. -/
def execFcmple (c : BitVec 1) (w : BitVec 1) (b : BitVec 7) (a : BitVec 7) (d : BitVec 6) (s : State) : Out :=
  binary (.fcmple c w b a d) w d a b (fun a b => truth (fle a b)) s

/-- `fcmpun` (R101). True when either operand is NaN. -/
def execFcmpun (c : BitVec 1) (w : BitVec 1) (b : BitVec 7) (a : BitVec 7) (d : BitVec 6) (s : State) : Out :=
  binary (.fcmpun c w b a d) w d a b (fun a b => truth (fun_ a b)) s

/-- `frcp` (R102). Correctly rounded reciprocal. -/
def execFrcp (c : BitVec 1) (w : BitVec 1) (a : BitVec 7) (d : BitVec 6) (s : State) : Out :=
  unary (.frcp c w a d) w d a fRcp s

/-- `frsq` (R102). Correctly rounded reciprocal square root. -/
def execFrsq (c : BitVec 1) (w : BitVec 1) (a : BitVec 7) (d : BitVec 6) (s : State) : Out :=
  unary (.frsq c w a d) w d a fRsq s

/-- `fsqrt` (R102). Correctly rounded square root. -/
def execFsqrt (c : BitVec 1) (w : BitVec 1) (a : BitVec 7) (d : BitVec 6) (s : State) : Out :=
  unary (.fsqrt c w a d) w d a fSqrt s

/-- `fclass` (R103). Writes a one-hot class mask of the FP32 operand. -/
def execFclass (c : BitVec 1) (w : BitVec 1) (a : BitVec 7) (d : BitVec 6) (s : State) : Out :=
  unary (.fclass c w a d) w d a classMask s

/-- `fexp2` (R102). Correctly rounded 2^x. -/
def execFexp2 (c : BitVec 1) (w : BitVec 1) (a : BitVec 7) (d : BitVec 6) (s : State) : Out :=
  unary (.fexp2 c w a d) w d a exp2Code s

/-- `flog2` (R102). Correctly rounded log2 x. -/
def execFlog2 (c : BitVec 1) (w : BitVec 1) (a : BitVec 7) (d : BitVec 6) (s : State) : Out :=
  unary (.flog2 c w a d) w d a log2Code s

/-- `fsinpi` (R102). Correctly rounded sin(pi x). -/
def execFsinpi (c : BitVec 1) (w : BitVec 1) (a : BitVec 7) (d : BitVec 6) (s : State) : Out :=
  unary (.fsinpi c w a d) w d a sinpiCode s

/-- `fcospi` (R102). Correctly rounded cos(pi x). -/
def execFcospi (c : BitVec 1) (w : BitVec 1) (a : BitVec 7) (d : BitVec 6) (s : State) : Out :=
  unary (.fcospi c w a d) w d a cospiCode s

/-- `frnd` (R104). Rounds an FP32 value to an integral value in the mode of fn. -/
def execFrnd (c : BitVec 1) (w : BitVec 1) (m : BitVec 2) (a : BitVec 7) (d : BitVec 6) (s : State) : Out :=
  unary (.frnd c w m a d) w d a (fRound (Mode.ofCode m)) s

/-- `hadd2` (R105). Adds two packed FP16 pairs. -/
def execHadd2 (c : BitVec 1) (w : BitVec 1) (b : BitVec 7) (a : BitVec 7) (d : BitVec 6) (s : State) : Out :=
  binary (.hadd2 c w b a d) w d a b hAdd s

/-- `hmul2` (R105). Multiplies two packed FP16 pairs. -/
def execHmul2 (c : BitVec 1) (w : BitVec 1) (b : BitVec 7) (a : BitVec 7) (d : BitVec 6) (s : State) : Out :=
  binary (.hmul2 c w b a d) w d a b hMul s

/-- `hfma2` (R105). Fused multiply-add on packed FP16 pairs. -/
def execHfma2 (c : BitVec 1) (w : BitVec 1) (b : BitVec 7) (a : BitVec 7) (d : BitVec 6) (s : State) : Out :=
  inPlace (.hfma2 c w b a d) w d a b (hFma fp16) s

/-- `bfma2` (R105). Fused multiply-add on packed BF16 pairs. -/
def execBfma2 (c : BitVec 1) (w : BitVec 1) (b : BitVec 7) (a : BitVec 7) (d : BitVec 6) (s : State) : Out :=
  inPlace (.bfma2 c w b a d) w d a b (hFma bf16) s

/-- `cvt` (R107). Converts one value between formats under a conversion code and rounding mode. -/
def execCvt (c : BitVec 1) (w : BitVec 1) (m : BitVec 2) (k : BitVec 7) (a : BitVec 7) (d : BitVec 6) (s : State) : Out :=
  laneOp (.cvt c w m k a d) w d (fun x l => convert k (Mode.ofCode m) (fmtSat x.sp.fmt) (x.src a l)) s

/-- `cvtsr` (R108). Converts FP32 to a narrow target with stochastic rounding. -/
def execCvtsr (c : BitVec 1) (w : BitVec 1) (t : BitVec 2) (b : BitVec 7) (a : BitVec 7) (d : BitVec 6) (s : State) : Out :=
  laneOp (.cvtsr c w t b a d) w d (fun x l => convertSr t (fmtSat x.sp.fmt) (x.src a l) (x.src b l)) s

/-- `dp4` (R110). Accumulates a 4-pair packed dot product into vd. -/
def execDp4 (c : BitVec 1) (w : BitVec 1) (b : BitVec 7) (a : BitVec 7) (d : BitVec 6) (s : State) : Out :=
  laneOp (.dp4 c w b a d) w d (fun x l => dotProduct 4 8 x.sp.fmt (x.src a l) (x.src b l) (x.reg d.toNat l)) s

/-- `dp8` (R110). Accumulates an 8-pair 4-bit packed dot product. -/
def execDp8 (c : BitVec 1) (w : BitVec 1) (b : BitVec 7) (a : BitVec 7) (d : BitVec 6) (s : State) : Out :=
  laneOp (.dp8 c w b a d) w d (fun x l => dotProduct 8 4 x.sp.fmt (x.src a l) (x.src b l) (x.reg d.toNat l)) s

/-- `dp2` (R110). Accumulates a 2-pair 16-bit packed dot product. -/
def execDp2 (c : BitVec 1) (w : BitVec 1) (b : BitVec 7) (a : BitVec 7) (d : BitVec 6) (s : State) : Out :=
  laneOp (.dp2 c w b a d) w d (fun x l => dotProduct 2 16 x.sp.fmt (x.src a l) (x.src b l) (x.reg d.toNat l)) s

/-- `dp4u` (R110). Accumulates a 4-pair dot product with b taken from the leader. -/
def execDp4u (c : BitVec 1) (w : BitVec 1) (b : BitVec 7) (a : BitVec 7) (d : BitVec 6) (s : State) : Out :=
  laneOp (.dp4u c w b a d) w d (fun x l => dotProduct 4 8 x.sp.fmt (x.src a l) (x.uniformSrc b) (x.reg d.toNat l)) s

/-- `scl` (R111). Multiplies an FP32 value by an E8M0 scale. -/
def execScl (c : BitVec 1) (w : BitVec 1) (b : BitVec 7) (a : BitVec 7) (d : BitVec 6) (s : State) : Out :=
  binary (.scl c w b a d) w d a b scaleBy s

/-- `pk8` (R112). Converts two FP32 values to the A format and shifts them into vd. -/
def execPk8 (c : BitVec 1) (w : BitVec 1) (b : BitVec 7) (a : BitVec 7) (d : BitVec 6) (s : State) : Out :=
  laneOp (.pk8 c w b a d) w d (fun x l => packTwo x.sp.fmt (x.src a l) (x.src b l) (x.reg d.toNat l)) s

/-- `upk` (R113). Converts one packed element of the A format to FP32. -/
def execUpk (c : BitVec 1) (w : BitVec 1) (b : BitVec 7) (a : BitVec 7) (d : BitVec 6) (s : State) : Out :=
  laneOp (.upk c w b a d) w d (fun x l => unpackOne x.sp.fmt (x.src a l) (x.src b l)) s

/-- `mxs` (R114). Derives the shared E8M0 block scale over the active lanes. -/
def execMxs (c : BitVec 1) (w : BitVec 1) (a : BitVec 7) (d : BitVec 6) (s : State) : Out :=
  across (.mxs c w a d) w d (fun x => sharedScale (fmtA x.sp.fmt) (x.activeValues a)) s

end Sys2Proof.Machine
end

