-- ==== Sys2Proof/Machine/Power.lean ====
section
/-!
DEFINITION. Power, thermal control, reset, firmware, keys, the management port, the curtain, debugging, errors and broken
parts (R220, R221, R262, R325, R328, R329, R348, R351, R352, R360 to R372).
-/
namespace Sys2Proof.Machine

/-! ## Voltage and frequency (R360, R361, R364) -/

/-- The arithmetic clocks of some dies stop, each at its next edge: the cycle that an array is in ends, with those it needs beyond noted,
and so does the cycle of the current window. -/
def State.stopArrays (s : State) (p : Nat → Bool) : State :=
  let op (k : Company) (o : MxOp) : MxOp := { o with left := (o.due - s.vtTicks k.ctx) / s.arithTicks k.core }
  let edge (k : Cluster) : Cluster := { k with windowAt := ceilDiv k.windowAt (s.arithTicks (8 * k.num)) * s.arithTicks (8 * k.num) }
  { s with
    companies := updWhere (fun (k : Company) => p (dieOfCore k.core)) (fun k => { k with ops := k.ops.map (op k) }) s.companies
    clusters := updWhere (fun (k : Cluster) => p (dieOfCluster k.num)) edge s.clusters }

/-- They start again: a step under way has left the cycles that it had at the edge where its clock stood. -/
def State.startArrays (s : State) (p : Nat → Bool) : State :=
  let op (k : Company) (o : MxOp) : MxOp := if o.onArray then { o with due := s.vtTicks k.ctx + o.left * s.arithTicks k.core } else o
  { s with companies := updWhere (fun (k : Company) => p (dieOfCore k.core) && k.state == .running) (fun k => { k with ops := k.ops.map (op k) }) s.companies }

/-- The cycles of cores that have begun to issue end. -/
def State.endCycles (s : State) (p : Nat → Bool) : State :=
  ((s.cores.filter (fun k => p (dieOfCore k.num) && k.bay != 0)).map (·.num)).foldl (fun s k => s.endCycle k false) s

/-- The clocks of a die stop, each at its next edge. -/
def State.stopClocks (s : State) (die : Nat) : State := (s.endCycles (· == die)).stopArrays (· == die)

/-- A change of point begins: the clocks of the die stop; they start again within 2 µs. -/
def State.startChange (s : State) (die point : Nat) : State :=
  if (s.die die).changing.isSome then s.modDie die (fun d => { d with changing := d.changing.map (fun c => (point, c.2)) })
  else (s.stopClocks die).modDie die (fun d => { d with changing := some (point, s.now + 2 * microsecond) })

/-- `vf_point_change` (R361). -/
def execVfPointChange (s : State) : Out :=
  let d := s.die s.arg.a
  if d.powered && d.changing.isNone && decide (s.arg.a < 8) && decide (s.arg.b < 4) && d.point != s.arg.b
  then .next (s.startChange s.arg.a s.arg.b) else .next s

/-- The clocks of a die run again at a new point: what was under way goes on at the new lengths, the array's steps with the
cycles that they had left at the edge where the clock stood. -/
def State.endChange (s : State) (die : Nat) (point : Nat) : State :=
  let old := (s.die die).point
  let s := (s.modDie die (fun d => { d with point := point, changing := none })).startArrays (· == die)
  let scale (k : Cluster) : Cluster := { k with windowAt := k.windowAt * pointFactor point / pointFactor old }
  { s with clusters := updWhere (fun (k : Cluster) => dieOfCluster k.num == die) scale s.clusters }

/-- `vf_change_complete` (R361). -/
def execVfChangeComplete (s : State) : Out :=
  match (s.die s.arg.a).changing with
  | none => .next s
  | some (p, _) => .next (s.endChange s.arg.a p)

/-- The temperature that a die reports. -/
def State.heat (s : State) (die temp : Nat) : State := s.modDie die (fun d => { d with temp := temp })

/-- The point to which firmware steps a die at a temperature: one lower from 95 °C on, one higher below 90 °C. -/
def stepPoint (d : Die) (temp : Nat) : Option Nat :=
  if 95 ≤ temp then (if d.point < 3 then some (d.point + 1) else none)
  else if temp < 90 then (if 0 < d.point then some (d.point - 1) else none)
  else none

/-- `thermal_step` (R364). At most one step per millisecond. -/
def execThermalStep (s : State) : Out :=
  let d := s.die s.arg.a
  let t := s.heat s.arg.a s.arg.b
  let ready := d.powered && d.changing.isNone && d.lastStep.all (fun k => decide (k + 1000 * microsecond ≤ s.now))
  match (if ready then stepPoint d s.arg.b else none) with
  | some p => .next ((t.startChange s.arg.a p).modDie s.arg.a (fun d => { d with lastStep := some s.now }))
  | none => .next t

/-- `thermal_trip_105` (R364). The hardware moves the die to VF3, and the trip is reported. -/
def execThermalTrip105 (s : State) : Out :=
  let d := s.die s.arg.a
  if s.arg.b < 105 || 8 ≤ s.arg.a || !d.powered then .next s
  else
    let t := s.heat s.arg.a s.arg.b
    let t := if d.point == 3 && d.changing.isNone then t else t.startChange s.arg.a 3
    .next { t with thermalTrips := t.thermalTrips + 1, outputs := t.outputs ++ [.tripReport s.arg.a] }

/-! ## Contexts that halt whole (R305, R352, R364, R372) -/

/-- A context is to leave as it halts, unless it leaves otherwise already; it goes once nothing of it lingers. -/
def State.leave (s : State) (ctx : Nat) : State :=
  (s.modContext ctx (fun c => if c.leaving.isNone then { c with leaving := some .halt } else c)).depart ctx

/-- A context halts whole: every run of it ends with a record of kind 6 and status 0x10, and it runs nothing more, once no access of it is
in flight (R24). -/
def State.haltContext (s : State) (ctx : Nat) : State :=
  ((s.runs.filter (fun r => r.ctx == ctx)).foldl (fun s r => s.endRun ctx r.id 6 0x10) s).leave ctx

/-- Halts every context that satisfies `p`. -/
def State.haltContexts (s : State) (p : Context → Bool) : State :=
  ((s.contexts.filter p).map (·.id)).foldl (fun s i => s.haltContext i) s

/-- A context ends with what it is doing: its units have no power, or a scan has read them out (R364, R372). -/
def State.cutContext (s : State) (ctx : Nat) : State :=
  ((s.runs.filter (fun r => r.ctx == ctx)).foldl (fun s r => s.cutRun r 6 0x10) s).leave ctx

/-- Ends every context that satisfies `p` with what it is doing. -/
def State.cutContexts (s : State) (p : Context → Bool) : State :=
  ((s.contexts.filter p).map (·.id)).foldl (fun s i => s.cutContext i) s

/-- What a cluster that lost its power holds: nothing (R362). -/
def State.darken (s : State) (p : Nat → Bool) : State :=
  { s with
    clusters := updWhere (fun (k : Cluster) => p k.num) (fun k => { k with power := .gated, l2 := [] }) s.clusters
    cores := s.cores.filter (fun k => !p (clusterOf k.num) || k.outOfService) }

/-- `thermal_trip_115` (R364). Power is removed from every stage die, and every context ends. -/
def execThermalTrip115 (s : State) : Out :=
  if s.arg.b < 115 || s.tripped || 8 ≤ s.arg.a then .next s
  else
    let t := ((s.heat s.arg.a s.arg.b).cutContexts (fun _ => true)).darken (fun _ => true)
    .next { t with
      dies := t.dies.map (fun (d : Die) => { d with powered := false, changing := none, pwc := [] })
      companies := [], troupes := [], lines := t.lines.map (fun (l : LineTag) => { l with cached := false })
      tripped := true, thermalTrips := t.thermalTrips + 1 }

/-- Memory of the host alone: what the stacks hold after their ECC is initialised (R365). -/
def State.hostOnly (s : State) : Memory := s.mem.filter (fun c => decide (2 ^ 39 ≤ c.1))

/-- `thermal_trip_clear` (R364, R365). The stage dies leave cold reset: their stacks and SRAMs hold zero, and their clusters are
unpowered until they are woken. -/
def execThermalTripClear (s : State) : Out :=
  if s.tripped then
    .next { s with
      tripped := false, mem := s.hostOnly, memPoison := [], lines := []
      dies := s.dies.map (fun (d : Die) => { d with powered := true, point := 0, cistern := 48 * 1048576, lastStep := none }) }
  else .next s

/-! ## Clusters (R362, R363) -/

/-- `cluster_gate` (R362). The hold of a free cluster has ended: its power is removed. -/
def execClusterGate (s : State) : Out :=
  let c := s.cluster s.arg.a
  match c.power with
  | .hold t => if t ≤ s.now && c.owner.isNone then .next (s.darken (· == s.arg.a)) else .next s
  | _ => .next s

/-- Ticks of a ramp, and of reset and settle. -/
def rampTime : Nat := 2500 * ticksPerNs
def settleTime : Nat := 1000 * ticksPerNs

/-- Whether a cluster is on its ramp. -/
def Power.isRamp : Power → Bool
  | .ramp _ => true
  | _ => false

/-- Wakes of a die that are on their ramp. -/
def State.ramps (s : State) (die : Nat) : Nat := (s.clusters.filter (fun c => dieOfCluster c.num == die && c.power.isRamp)).length

/-- A cluster is asked to wake: in its hold it is usable at once; a gated one goes to its ramp, or waits for the arbiter; a hold that
began as it woke is over. -/
def State.wakeCluster (s : State) (n : Nat) : State :=
  let s := s.modCluster n (fun k => { k with freed := none })
  match (s.cluster n).power with
  | .hold _ => s.modCluster n (fun k => { k with power := .on })
  | .gated =>
    if s.ramps (dieOfCluster n) < 4 then s.modCluster n (fun k => { k with power := .ramp (s.now + rampTime) })
    else
      let u := s.fresh
      u.2.modCluster n (fun k => { k with power := .queued, wakeOrder := u.1 })
  | _ => s

/-- `cluster_wake_request` (R362, R363). -/
def execClusterWakeRequest (s : State) : Out :=
  if 48 ≤ s.arg.a || !(s.cluster s.arg.a).available || !(s.die (dieOfCluster s.arg.a)).powered then .next s
  else .next (s.wakeCluster s.arg.a)

/-- The request of a die that the arbiter serves next. -/
def State.nextWake (s : State) (die : Nat) : Option Cluster :=
  (s.clusters.filter (fun c => dieOfCluster c.num == die && c.power == .queued)).foldl (fun b c =>
    match b with
    | none => some c
    | some d => if c.wakeOrder < d.wakeOrder then some c else b) none

/-- A ramp that is over ends, and the next request goes to its own from that time on. -/
def State.endRamp (s : State) (n : Nat) : State :=
  match (s.cluster n).power with
  | .ramp t =>
    if t ≤ s.now then
      let u := s.modCluster n (fun k => { k with power := .settle (t + settleTime) })
      match u.nextWake (dieOfCluster n) with
      | some m => u.modCluster m.num (fun k => { k with power := .ramp (t + rampTime) })
      | none => u
    else s
  | _ => s

/-- `wake_ramp_end` (R363). -/
def execWakeRampEnd (s : State) : Out := .next (s.endRamp s.arg.a)

/-- A cluster that has settled is awake; one that became free as it woke is in the hold that began then. -/
def State.endWake (s : State) (n : Nat) : State :=
  match (s.cluster n).power with
  | .settle t =>
    if t ≤ s.now then s.modCluster n (fun k =>
      { k with power := (match k.freed with | some h => .hold h | none => .on), freed := none, windowAt := 0, record := 0 })
    else s
  | _ => s

/-- `cluster_wake_complete` (R362, R363). -/
def execClusterWakeComplete (s : State) : Out := .next (s.endWake s.arg.a)

/-! ## Reset (R365) -/

/-- `cold_reset` (R365). Everything loses its power but the always-on domain, and bring-up begins; host memory, the images that
bring-up will find and the fuses are not the device's to lose. -/
def execColdReset (s : State) : Out :=
  .next { State.reset with
    agenda := s.agenda, free := s.free, uid := s.uid, mem := s.mem, outputs := s.outputs, flash := s.flash, fuses := s.fuses
    firmware := [], managers := (List.range 8).map (fun n => { Manager.init n with mode := .m, pmp := false })
    dies := (List.range 8).map (fun n => { Die.init n with powered := false, cistern := 0 })
    clusters := clusterIds.map (fun k => { Cluster.init k with power := .gated })
    pcieUp := false, funcs := [], bootStep := 0 }

/-- Whether an image may be loaded (R367): both signatures verify, and its security version is at least the one in fuses. -/
def State.verified (s : State) (index : Nat) (im : FirmwareImage) : Bool :=
  im.ecdsa && im.lms && decide (((s.fuses.find? (fun f => f.1 == index)).map (·.2)).getD 0 ≤ im.version)

/-- A step of bring-up that loads an image. Where it does not verify the device stays in recovery: it reports the step and the image, and
PCIe shows the recovery page of the physical function. -/
def State.bootImage (s : State) (step index : Nat) (go : State → State) : State :=
  match s.flash.find? (fun f => f.1 == index && s.verified index f.2) with
  | some f => { go { s with firmware := s.firmware ++ [f] } with bootStep := step }
  | none => { s with recovery := some (step, index), outputs := s.outputs ++ [.recovery step index], pcieUp := true, funcs := [Func.init 0] }

/-- When a cluster's ramp or its settling ends. -/
def Cluster.wakeEnd (k : Cluster) : Option Nat :=
  match k.power with
  | .ramp t | .settle t => some t
  | _ => none

/-- Step 3 of bring-up: the dies are powered one at a time at VF3, each once the clusters of the one before it have come through its
arbiter (R363). -/
def State.bootPower (s : State) : State :=
  match s.clusters.find? (fun k => k.wakeEnd.any (fun t => decide (t ≤ s.now))) with
  | some k => if k.power.isRamp then s.endRamp k.num else s.endWake k.num
  | none =>
    match least (s.clusters.filterMap Cluster.wakeEnd), s.dies.find? (fun d => !d.powered) with
    | some t, _ => s.advance (t - s.now)
    | none, some d =>
      ((s.clusters.filter (fun k => dieOfCluster k.num == d.num)).map (·.num)).foldl (fun s k => s.wakeCluster k)
        (s.modDie d.num (fun d => { d with powered := true, point := 3 }))
    | none, none => { s with bootStep := 3 }

/-- The next step of bring-up (R365). Each begins when the one before it has succeeded. -/
def State.boot (s : State) : State :=
  match s.bootStep with
  | 0 => s.bootImage 1 2 (fun s => s)
  | 1 => s.bootImage 2 3 (fun s => { s with managers := s.managers.map (fun (m : Manager) => { m with mode := .s, pmp := true }) })
  | 2 => s.bootPower
  | 3 => { s with bootStep := 4, mem := s.hostOnly, memPoison := [] }
  | 4 => { s with bootStep := 5, now := 0, slew := 0 }
  | 5 => { s with bootStep := 6, pcieUp := true, funcs := [Func.init 0] }
  | 6 =>
    (List.range 8).foldl (fun s n => s.startChange n 0)
      { s with
        bootStep := 7
        dies := s.dies.map (fun (d : Die) => { d with cistern := 48 * 1048576 })
        clusters := s.clusters.map (fun (k : Cluster) => { k with power := .hold (s.now + holdTime), windowAt := 0 }) }
  | _ => s

/-- Whether an event reaches the device before its bring-up is complete, or in recovery: a reset, and requests to the management
port (R365, R367, R370). -/
def alwaysOn : Instr → Bool
  | .coldReset | .spdmRequest | .pldmRequest => true
  | _ => false

/-- The link is down: every context is to leave the stage. -/
def State.linkDown (s : State) : State :=
  { s with
    pcieUp := false
    contexts := updWhere (fun (c : Context) => c.onStage) (fun c => { c with sliceOver := true }) s.contexts }

/-- A function after the link has come back: the vectors of its rings are 0. -/
def Func.relink (f : Func) : Func :=
  { f with enabled := f.num == 0, ring1 := { f.ring1 with vec := 0 }, ring2 := { f.ring2 with vec := 0 } }

/-- `pcie_hot_reset` (R365). The link goes down and contexts leave the stage; happening again, it stands for the link's
return, with which the physical function appears and virtual functions wait to be enabled. -/
def execPcieHotReset (s : State) : Out :=
  if s.pcieUp then .next s.linkDown else .next { s with pcieUp := true, funcs := s.funcs.map Func.relink }

/-- A context whose function is reset ends with nothing saved and no record, once no access of it is in flight (R24, R305). -/
def State.endReset (s : State) (ctx : Nat) : State :=
  (s.modContext ctx (fun c => { c with leaving := some .reset, records := [], queues := List.replicate 16 Queue.init })).depart ctx

/-- A virtual function after its reset: the stage-2 ring, on a page of the physical function, stays, as does the root that function sets
(R254, R255). -/
def Func.resetVirtual (f : Func) : Func := { Func.init f.num with enabled := true, s2root := f.s2root, ring2 := f.ring2 }

/-- The physical function after its reset; the vectors of the stage-2 rings that it serves are 0 (R255). -/
def Func.resetPhysical (f : Func) : Func :=
  if f.num = 0 then { Func.init 0 with enabled := true, s2root := f.s2root } else { f with ring2 := { f.ring2 with vec := 0 } }

/-- `function_level_reset` (R255, R305, R365). Every context of the function ends; of the physical function, every context. -/
def execFunctionLevelReset (s : State) : Out :=
  if s.enabledFn s.arg.a then
    let t := ((s.contexts.filter (fun c => s.arg.a == 0 || (c.id != 0 && c.fn == s.arg.a))).map (·.id)).foldl (fun s i => s.endReset i) s
    let t := { t with requests := t.requests.filter (fun q => s.arg.a != 0 && q.fn != s.arg.a) }
    if s.arg.a = 0 then .next { t with funcs := t.funcs.map Func.resetPhysical } else .next (t.modFunc s.arg.a Func.resetVirtual)
  else .next s

/-- The root that the physical function sets for a virtual function: the one it names, else the one that stands there; of a new
function for which it names none the model says nothing (R254, log 33). -/
def State.rootFor (s : State) (n : Nat) : BitVec 64 × State :=
  let named := match s.arg.x with | .ids roots => roots[n - 1]? | _ => none
  match named, s.func? n with
  | some r, _ => (BitVec.ofNat 64 r &&& 0xFFFFFFFFF000#64, s)
  | none, some f => (f.s2root, s)
  | none, none => let v := s.freeValue; (v.1 &&& 0xFFFFFFFFF000#64, v.2)

/-- `virtual_function_enable` (R254, R365, R373). Virtual functions 1 to the count appear, with the roots of their stage-2 tables. -/
def execVirtualFunctionEnable (s : State) : Out :=
  if !s.pcieUp || 127 < s.arg.a then .next s
  else
    .next (((List.range s.arg.a).map (· + 1)).foldl (fun s n =>
      let r := s.rootFor n
      if (r.2.func? n).isSome then r.2.modFunc n (fun f => { f with enabled := true, s2root := r.1 })
      else { r.2 with funcs := r.2.funcs ++ [{ Func.init n with enabled := true, s2root := r.1 }] }) s)

/-! ## Firmware, keys and the management port (R262, R366 to R370) -/

/-- Tenants that may have a plug-in (R368). -/
def tenants : Nat := 112

/-- The measurement index of the plug-in image of a tenant. -/
def pluginIndex (tenant : Nat) : Nat := 0x10 + tenant

/-- `plugin_image_load` (R366, R367). An image that the monitor has verified replaces the default policy of its tenant. -/
def execPluginImageLoad (s : State) : Out :=
  match s.arg.x with
  | .image im =>
    if s.arg.a < tenants && s.verified (pluginIndex s.arg.a) im
    then .next { s with plugins := s.plugins.filter (fun p => p.tenant != s.arg.a) ++ [{ tenant := s.arg.a, image := im, stopped := false }] }
    else .next s
  | _ => .next s

/-- The plug-in of a tenant is stopped, and the default policy applies to the tenant until a new image is loaded. -/
def State.stopPlugin (s : State) (tenant : Nat) : State :=
  { s with
    plugins := updWhere (fun (p : Plugin) => p.tenant == tenant) (fun p => { p with stopped := true }) s.plugins
    managers := updWhere (fun (m : Manager) => m.call.any (fun c => c.1 == tenant)) (fun m => { m with mode := .s, call := none }) s.managers }

/-- Whether the default policy of the scheduler applies to a tenant: it has no plug-in, or it was stopped (R366). -/
def State.defaultPolicy (s : State) (tenant : Nat) : Bool := s.plugins.all (fun p => p.tenant != tenant || p.stopped)

/-- Whether a layer reaches the memory and the contexts of a tenant (R366): a plug-in only those of its own. -/
def Manager.reaches (m : Manager) (tenant : Nat) : Bool := m.mode != .u || m.call.any (fun c => c.1 == tenant)

/-- Whether the physical memory protection lets a core access some bytes: the monitor any, another layer those of a region of its own. -/
def Manager.mayAccess (m : Manager) (a n : Nat) : Bool :=
  m.mode == .m || m.regions.any (fun r => decide (r.base ≤ a) && decide (a + n ≤ r.base + r.size) &&
    (if m.mode == .u then r.tenant.any m.reaches else r.tenant.isNone))

/-- The stage time that a call of a plug-in may take: 50 µs (R366). -/
def pluginBudget : Nat := 50 * microsecond

/-- Changes a stage-manager core that is in a mode. -/
def State.modManager (s : State) (n : Nat) (p : FwMode → Bool) (f : Manager → Manager) : State :=
  { s with managers := updWhere (fun (m : Manager) => m.num == n && p m.mode) f s.managers }

/-- A trap of a stage-manager core: a plug-in that traps is stopped. -/
def State.fwTrap (s : State) (m : Manager) : State :=
  match m.call with
  | some c => s.stopPlugin c.1
  | none => s

/-- A step of a stage-manager core (R366). A plug-in that goes beyond its reach traps. -/
def State.fwStep (s : State) (n : Nat) (w : FwStep) : State :=
  match s.managers.find? (fun m => m.num == n) with
  | none => s
  | some m =>
    match w with
    | .call k => if s.defaultPolicy k then s else s.modManager n (· == .s) (fun m => { m with mode := .u, call := some (k, s.now) })
    | .ret => s.modManager n (· == .u) (fun m => { m with mode := .s, call := none })
    | .trap => s.fwTrap m
    | .protect l => s.modManager n (· == .m) (fun m => { m with pmp := true, regions := l })
    | .run pc x f c => s.modManager n (fun _ => true) (fun m => { m with pc := pc, x := x.take 31, f := f.take 32, fcsr := c })
    | .access a k => if m.mayAccess a k then s else s.fwTrap m
    | .weigh ctx v => if m.reaches (Config.tenantOf ctx) then s.modContext ctx (fun c => { c with weight := v }) else s.fwTrap m

/-- `plugin_budget_expiry` (R366). A plug-in whose call has taken more than 50 µs is stopped. -/
def execPluginBudgetExpiry (s : State) : Out :=
  if s.managers.any (fun m => m.call.any (fun c => c.1 == s.arg.a && decide (c.2 + pluginBudget < s.now))) then .next (s.stopPlugin s.arg.a)
  else .next s

/-- Whether a measurement has an index. -/
def measured (i : Nat) : Bool := (decide (1 ≤ i) && decide (i ≤ 5)) || (decide (0x10 ≤ i) && decide (i < 0x10 + tenants))

/-- A list of numbers as one number. -/
def pack : List Nat → Nat
  | [] => 0
  | a :: r => 2 ^ a * (2 * pack r + 1)

/-- What a measurement measures: the ROM, an image, the fuses, the debug state with the curtain count, or a plug-in image. -/
def State.measurand (s : State) (i : Nat) : Nat :=
  let image (o : Option FirmwareImage) : Nat := (o.map (fun f => f.digest + 1)).getD 0
  let v : Nat :=
    if i = 2 || i = 3 then image ((s.firmware.find? (fun f => f.1 == i)).map (·.2))
    else if i = 4 then pack (s.fuses.flatMap (fun f => [f.1, f.2]))
    else if i = 5 then 2 * s.curtainCount + (if s.debugState then 1 else 0)
    else if 0x10 ≤ i then image ((s.plugins.find? (fun p => pluginIndex p.tenant == i)).map (·.image))
    else 0
  256 * v + i

/-- `spdm_request` (R367, R368). The device answers with the measurement block asked for, signed; with 1 as its second operand the request
is for the identity certificate. -/
def execSpdmRequest (s : State) : Out :=
  if s.arg.b = 1 then .next { s with outputs := s.outputs ++ [.certificate Config.certificate Config.certificateEcdsa Config.certificateLms] }
  else if measured s.arg.a then
    let m := s.measurand s.arg.a
    .next { s with outputs := s.outputs ++ [.spdm s.arg.a (Config.measurement m) (Config.signature m)] }
  else .next s

/-- `key_slot_load` (R262, R369). The security root loads the key of a context into a free slot: one that it generates, or one that
arrives wrapped under an SPDM session key and unwraps. -/
def execKeySlotLoad (s : State) : Out :=
  if s.arg.a != 0 && decide (s.arg.a < 1024) && !s.keySlots.any (fun k => k.1 == s.arg.a || k.2 == s.arg.b) && s.arg.b != 0 && (s.context? s.arg.b).isSome
  then
    match s.arg.x with
    | .flag false => .next s
    | .flag true => .next { s with keySlots := s.keySlots ++ [(s.arg.a, s.arg.b)], imported := s.imported ++ [s.arg.a] }
    | _ => .next { s with keySlots := s.keySlots ++ [(s.arg.a, s.arg.b)] }
  else .next s

/-- Retires the key slot of a context: its lines are written back and under no key any more. Its sealing key is gone until the slot
is loaded again, when the root derives it anew (R369). -/
def State.retireKey (s : State) (ctx : Nat) : State :=
  let u := s.fresh
  { u.2 with
    keySlots := s.keySlots.filter (fun k => k.2 != ctx)
    imported := s.imported.filter (fun n => s.keySlots.any (fun k => k.1 == n && k.2 != ctx))
    lines := updWhere (fun l => l.key == some ctx) (fun l => { l with cached := false, key := some (4096 + u.1) }) s.lines }

/-- `key_slot_retire` (R262). A slot whose context is not resident is retired. -/
def execKeySlotRetire (s : State) : Out :=
  match s.keySlots.find? (fun k => k.1 == s.arg.a) with
  | some (slot, ctx) =>
    if slot != 0 && (s.context? ctx).all (fun c => c.state != .resident) then .next (s.retireKey ctx) else .next s
  | none => .next s

/-- The value of a sensor: 0 temperature, 1 power, 2 point, 3 corrected errors of a die and 4 uncorrectable ones, 5 trips, 6 corrected
errors of a stack. Units 0 to 7 are the stage dies, 8 is the FOH die and 9 the package (log 52). Power and the temperature of the FOH die are
free values (log 5). -/
def State.sensor (s : State) (sensor unit : Nat) : Nat × State :=
  let d := s.die unit
  let v := s.freeValue
  match sensor with
  | 0 => if unit < 8 then (d.temp, s) else (v.1.toNat, v.2)
  | 1 => (v.1.toNat, v.2)
  | 2 => (d.point, s)
  | 3 => (if unit < 8 then d.corrected else s.fohCorrected, s)
  | 4 => (if unit < 8 then d.uncorrectable else s.fohUncorrectable, s)
  | 5 => (s.thermalTrips, s)
  | _ => (d.stackCorrected, s)

/-- The units of a sensor (R370). -/
def sensorUnits : Nat → List Nat
  | 0 => List.range 9
  | 1 => List.range 10
  | 3 | 4 => List.range 9
  | 2 | 6 => List.range 8
  | 5 => [9]
  | _ => []

/-- `pldm_request` (R370). The management port reports a sensor. -/
def execPldmRequest (s : State) : Out :=
  if (sensorUnits s.arg.a).contains s.arg.b then
    let v := s.sensor s.arg.a s.arg.b
    .next { v.2 with outputs := v.2.outputs ++ [.pldm s.arg.a s.arg.b v.1] }
  else .next s

/-! ## The curtain, the catwalk and debuggers (R328, R329, R371, R372) -/

/-- Whether the clocks of a die run. -/
def State.ticking (s : State) (die : Nat) : Bool := (s.die die).changing.isNone

/-- `curtain_assert` (R371). Every clock stops at its next edge, and `vt` where the last of them has stopped: at the latest end of
the core cycles under way. -/
def execCurtainAssert (s : State) : Out :=
  if s.curtain then .next s
  else
    let a := s.stopArrays s.ticking
    let b := a.endCycles s.ticking
    let last := ((b.cores.filter (fun k => b.coreRuns k.num)).map (·.at_)).foldl Nat.max b.now
    let t := b.advance (last - b.now)
    .next { t.contexts.foldl (fun t c => t.stopVt c.id) t with
      clusters := a.clusters, curtain := true, curtainAt := s.now, curtainCount := s.curtainCount + 1 }

/-- `curtain_release` (R371). Every clock goes on, and what peers have sent meanwhile arrives; a release in the cycle of the assertion
is ignored. -/
def execCurtainRelease (s : State) : Out :=
  if s.curtain && decide (s.curtainAt + 14400 ≤ s.now) then
    let t := (s.contexts.filter (fun c => c.onStage && !c.debugHalted)).foldl (fun t c => t.enterVt c.id) s
    .next ({ t.startArrays s.ticking with curtain := false, agenda := s.waiting ++ t.agenda, waiting := [] } : State).releaseHeld
  else .next s

/-- `debug_token_accept` (R372). A token whose ECDSA and whose LMS signature verify (R367), as its first two operands say, retires every
key slot but 0 and halts every resident context. -/
def execDebugTokenAccept (s : State) : Out :=
  if s.arg.a = 1 ∧ s.arg.b = 1 then
    let t := s.haltContexts (fun c => c.state == .resident)
    let t := ((t.keySlots.filter (fun k => k.1 != 0)).map (·.2)).foldl (fun s i => s.retireKey i) t
    .next { t with debugOpen := true, debugState := true }
  else .next s

/-- `catwalk_read` (R372). Scan read-out under the curtain ends every context. -/
def execCatwalkRead (s : State) : Out :=
  if s.curtain && s.debugOpen then
    let t := s.cutContexts (fun c => c.state == .resident || c.state == .saved)
    .next { t with outputs := t.outputs ++ [.scan] }
  else .next s

/-- A debugger halts a context, or its step is over (R328, R329). -/
def State.debugStop (s : State) (ctx : Nat) : State :=
  (s.stopVt ctx).modContext ctx (fun d => { d with debugHalted := true, stepping := none, stepped := false })

/-- A halted context goes on, for a step or for good (R329). -/
def State.debugGo (s : State) (ctx : Nat) (step : Option (Nat × Nat × Mask)) : State :=
  (s.enterVt ctx).modContext ctx (fun d => { d with debugHalted := false, stepping := step, stepped := false })

/-- `debug_halt` (R328). -/
def execDebugHalt (s : State) : Out :=
  match s.context? s.arg.a with
  | none => .next s
  | some c =>
    if c.onStage && !c.debugHalted then .next (s.debugStop c.id) else .next s

/-- `debug_resume` (R329). -/
def execDebugResume (s : State) : Out :=
  match s.context? s.arg.a with
  | none => .next s
  | some c => .next (s.debugGo c.id none)

/-- `debug_step` (R329). A halted context runs for one instruction or chain of the running split of a chorus. -/
def execDebugStep (s : State) : Out :=
  match (s.company? s.arg.a).bind (fun c => (c.chorus? s.arg.b).map (fun h => (c, h))) with
  | none => .next s
  | some (c, h) =>
    match (s.context? c.ctx).filter (fun x => x.debugHalted && x.onStage), h.splits.find? (fun p => p.state == .running) with
    | some x, some p =>
      if h.isReady && !s.curtain then
        .next (s.debugGo x.id (some (c.uid, h.index, p.members)))
      else .next s
    | _, _ => .next s

/-- `context_migration` (R328, R329). A saved context leaves for another device with its `vt` and its images. -/
def execContextMigration (s : State) : Out :=
  match s.context? s.arg.a with
  | none => .next s
  | some c =>
    if c.state == .saved && !c.leaves && c.id != 0 then
      let m : Migrant :=
        { context := c, runs := s.runs.filter (fun r => r.ctx == c.id), troupes := s.troupes.filter (fun t => t.ctx == c.id)
          companies := s.companies.filter (fun k => k.ctx == c.id), next := s.uid }
      .next ({ s with outputs := s.outputs ++ [Output.migrated m] }.removeContext c.id)
    else .next s

/-- A context arrives from another device (R329): it is saved, with the `vt` at which it stopped there; a restore resumes it. Numbers that
the other device has given are made new ones of this. -/
def State.takeIn (s : State) (m : Migrant) : State :=
  if (s.context? m.context.id).isSome || m.context.id = 0 then s
  else
    { s with
      uid := s.uid + m.next
      contexts := s.contexts ++ [{ m.context with state := .saved, onStage := false, partition := [], stopAt := s.now }]
      runs := s.runs ++ m.runs.map (fun r => { r with ctx := m.context.id })
      troupes := s.troupes ++ m.troupes.map (fun t => { t with ctx := m.context.id })
      companies := s.companies ++ m.companies.map (fun k => { k with uid := s.uid + k.uid, ctx := m.context.id, state := if k.state == .complete then .complete else .preempted }) }

/-- `stage_time_correction` (R325). The error against the host's time, in nanoseconds, is to be slewed away. -/
def execStageTimeCorrection (s : State) : Out :=
  match s.arg.x with
  | .error e => .next { s with slew := e * ticksPerNs }
  | _ => .next s

/-! ## Errors (R220, R348, R352) -/

/-- An uncorrectable error of a die is counted. -/
def State.countError (s : State) (die : Nat) : State := s.modDie die (fun d => { d with uncorrectable := d.uncorrectable + 1 })

/-- A mark among others. -/
def addMark {α : Type} [BEq α] (p : List α) (g : α) : List α := if p.contains g then p else p ++ [g]

/-- The spread operation of a square of a cluster (R212) that has its data on the fabric, on the four cores of its group: one whose
step is under way loses them, and every member on the four cores halts (R220). At a boundary no operand is on the fabric. -/
def State.fabricError (s : State) (cluster square : Nat) : State :=
  let hit := (s.companies.filter (fun k => clusterOf k.core == cluster && k.core % 4 / 2 == square && s.acts k)).flatMap (fun k =>
    (k.ops.filter (fun o => o.kind == .spr && o.onArray)).map (fun o => (k, o)))
  hit.foldl (fun s p => (s.chargeOp p.1 p.2 s.now).breakStep p.1 p.2 0x10 0xFFFFFFFF) s

/-- `ecc_uncorrectable` (R348, R220, R352). An error marks its 32-byte granule poisoned; on the cluster fabric it poisons what
is carried; in an image under way it halts the context whole. -/
def execEccUncorrectable (s : State) : Out :=
  match s.arg.x with
  | .place (.hbm loc) => .next { (s.countError (loc / 2 ^ 36)) with memPoison := addMark s.memPoison (loc / 32) }
  | .place (.stage u a) =>
    match s.company? u with
    | some c => .next ((s.countError (dieOfCore c.core)).setCompany { c with stagePoison := addMark c.stagePoison (a / 32) })
    | none => .next s
  | .place (.score u a) =>
    match s.company? u with
    | some c => .next ((s.countError (dieOfCore c.core)).setCompany { c with scorePoison := addMark c.scorePoison (a / 32) })
    | none => .next s
  | .place (.cistern ctx run die a) =>
    .next ((s.countError die).modRun ctx run (fun r =>
      if r.windows.any (fun w => w.1 == die) then { r with windowPoison := addMark r.windowPoison (die, a / 32) } else r))
  | .place (.register u ch row g) =>
    match s.company? u with
    | some c => .next ((s.countError (dieOfCore c.core)).setCompany (c.modChorus ch (fun h => { h with poison := addMark h.poison (row, g) })))
    | none => .next s
  | .place (.clusterFabric k q) => .next ((s.countError (dieOfCluster k)).fabricError k q)
  | .place (.pit u g) =>
    match s.company? u with
    | some c => .next ((s.countError (dieOfCore c.core)).setCompany { c with accPoison := addMark c.accPoison g })
    | none => .next s
  | .place (.queue u ch k) =>
    match s.company? u with
    | some c => .next ((s.countError (dieOfCore c.core)).setCompany (c.modChorus ch (fun h => { h with queuePoison := addMark h.queuePoison (h.queueNo k) })))
    | none => .next s
  | .place (.image ctx loc) => .next ((s.countError (loc / 2 ^ 36)).haltContext ctx)
  | .place .foh => .next { s with fohUncorrectable := s.fohUncorrectable + 1 }
  | _ => .next s

/-! ## Broken parts (R220, R221, R351) -/

/-- Every context that holds a cluster which satisfies `p` is to be pre-empted. -/
def State.clearOut (s : State) (p : Nat → Bool) : State :=
  let holds (c : Context) : Bool := c.onStage && s.clusters.any (fun k => k.owner == some c.id && p k.num)
  { s with contexts := updWhere holds (fun c => { c with sliceOver := true }) s.contexts }

/-- `hub_fail` (R220). The cluster goes out of service, and its context is saved for placement elsewhere. -/
def execHubFail (s : State) : Out :=
  .next ((s.clearOut (· == s.arg.a)).modCluster s.arg.a (fun k => { k with available := false }))

/-- Directions of travel on the die NoC. -/
inductive Dir where
  | east | west | north | south
  deriving DecidableEq, Repr

/-- Whether the odd-even rule lets a packet in a column that travels one way go on another; it never turns back. -/
def turnOk (col : Nat) (a b : Dir) : Bool :=
  match a, b with
  | .east, .west => false
  | .west, .east => false
  | .north, .south => false
  | .south, .north => false
  | .east, .north => col % 2 == 1
  | .east, .south => col % 2 == 1
  | .north, .west => col % 2 == 0
  | .south, .west => col % 2 == 0
  | _, _ => true

/-- The router beside one, on the mesh of columns 0 to 8 and rows 0 to 5. -/
def neighbour (p : Nat × Nat) (d : Dir) : Option (Nat × Nat) :=
  match d with
  | .east => if p.1 < 8 then some (p.1 + 1, p.2) else none
  | .west => if 0 < p.1 then some (p.1 - 1, p.2) else none
  | .north => if 0 < p.2 then some (p.1, p.2 - 1) else none
  | .south => if p.2 < 5 then some (p.1, p.2 + 1) else none

def dirs : List Dir := [.east, .west, .north, .south]

/-- The routers that packets reach from others, with the way they travel. -/
def travel (live : Nat × Nat → Bool) (fuel : Nat) (seen : List ((Nat × Nat) × Dir)) : List ((Nat × Nat) × Dir) :=
  match fuel with
  | 0 => seen
  | n + 1 =>
    let next := seen.flatMap (fun x => dirs.filterMap (fun d =>
      if turnOk x.1.1 x.2 d then ((neighbour x.1 d).filter live).map (fun q => (q, d)) else none))
    let new := (next.filter (fun y => !seen.contains y)).eraseDups
    if new.isEmpty then seen else travel live n (seen ++ new)

/-- The 54 routers. -/
def routers : List (Nat × Nat) := (List.range 9).flatMap (fun c => (List.range 6).map (fun r => (c, r)))

/-- Whether every live router reaches every other. -/
def meshJoined (failed : List (Nat × Nat)) : Bool :=
  let live (p : Nat × Nat) : Bool := !failed.contains p
  let ps := routers.filter live
  ps.all (fun p =>
    let out := travel live 216 (dirs.filterMap (fun d => ((neighbour p d).filter live).map (fun q => (q, d))))
    ps.all (fun q => q == p || out.any (fun x => x.1 == q)))

/-- The core of a die that a router beside the hub column serves. -/
def routerCore (die col row : Nat) : Nat := 48 * die + 8 * row + (if col < 4 then col else col - 1)

/-- `router_fail` (R351). The contexts of the die are pre-empted; the router's core, or with a hub its cluster, goes out of
service; when the rest is not joined under the turn rule, the die does. -/
def execRouterFail (s : State) : Out :=
  let die := s.arg.a
  let p := (s.arg.b, s.arg.c)
  if 8 ≤ die || !routers.contains p then .next s
  else
    let s1 := s.clearOut (fun k => dieOfCluster k == die)
    let s2 := s1.modDie die (fun d =>
      let f := addMark d.failedRouters p
      { d with failedRouters := f, outOfService := d.outOfService || !meshJoined f })
    if p.1 = 4 then .next (s2.modCluster (6 * die + p.2) (fun k => { k with available := false }))
    else .next (s2.setCore { s2.core (routerCore die p.1 p.2) with outOfService := true })

/-- `cistern_size_change` (R221). Firmware changes the cistern size of a die that holds no window; the lines of its
reservoir are written back and invalidated. -/
def execCisternSizeChange (s : State) : Out :=
  let die := s.arg.a
  let mib := 1048576
  let resident (ctx : Nat) : Bool := (s.context? ctx).any (fun c => c.state == .resident)
  let quotas := total ((s.contexts.filter (fun c => c.state == .resident)).map (fun c => c.quotas.getD die 0))
  if decide (die < 8) && s.arg.b % (8 * mib) == 0 && decide (s.arg.b ≤ 96 * mib) && decide (quotas ≤ s.arg.b) &&
      s.runs.all (fun r => !resident r.ctx || r.windows.all (fun w => w.1 != die)) then
    let t := s.modDie die (fun d => { d with cistern := s.arg.b })
    .next { t with lines := updWhere (fun (l : LineTag) => l.line / 2 ^ 29 == die) (fun l => { l with cached := false }) t.lines }
  else .next s

end Sys2Proof.Machine
end

