-- ==== Sys2Proof/Machine/Short.lean ====
section
/-!
DEFINITION. The 16-bit two-address instructions (R29, R30).
-/
namespace Sys2Proof.Machine

/-- `mov_16` (R30). 16-bit form of mov. -/
def execMov16 (s' : BitVec 6) (d : BitVec 5) (s : State) : Out :=
  twoAddress (.mov16 s' d) d s' (fun _ b => b) s

/-- `add_16` (R30). 16-bit two-address add. -/
def execAdd16 (s' : BitVec 6) (d : BitVec 5) (s : State) : Out :=
  twoAddress (.add16 s' d) d s' (· + ·) s

/-- `sub_16` (R30). 16-bit two-address sub. -/
def execSub16 (s' : BitVec 6) (d : BitVec 5) (s : State) : Out :=
  twoAddress (.sub16 s' d) d s' (· - ·) s

/-- `and_16` (R30). 16-bit two-address and. -/
def execAnd16 (s' : BitVec 6) (d : BitVec 5) (s : State) : Out :=
  twoAddress (.and16 s' d) d s' (· &&& ·) s

/-- `or_16` (R30). 16-bit two-address or. -/
def execOr16 (s' : BitVec 6) (d : BitVec 5) (s : State) : Out :=
  twoAddress (.or16 s' d) d s' (· ||| ·) s

/-- `xor_16` (R30). 16-bit two-address xor. -/
def execXor16 (s' : BitVec 6) (d : BitVec 5) (s : State) : Out :=
  twoAddress (.xor16 s' d) d s' (· ^^^ ·) s

/-- `shl_16` (R30). 16-bit two-address shl. -/
def execShl16 (s' : BitVec 6) (d : BitVec 5) (s : State) : Out :=
  twoAddress (.shl16 s' d) d s' shiftL s

/-- `shr_16` (R30). 16-bit two-address shr. -/
def execShr16 (s' : BitVec 6) (d : BitVec 5) (s : State) : Out :=
  twoAddress (.shr16 s' d) d s' shiftR s

/-- `sar_16` (R30). 16-bit two-address sar. -/
def execSar16 (s' : BitVec 6) (d : BitVec 5) (s : State) : Out :=
  twoAddress (.sar16 s' d) d s' shiftA s

/-- `mul_16` (R30). 16-bit two-address mul. -/
def execMul16 (s' : BitVec 6) (d : BitVec 5) (s : State) : Out :=
  twoAddress (.mul16 s' d) d s' (· * ·) s

/-- `min_16` (R30). 16-bit two-address min. -/
def execMin16 (s' : BitVec 6) (d : BitVec 5) (s : State) : Out :=
  twoAddress (.min16 s' d) d s' minS s

/-- `max_16` (R30). 16-bit two-address max. -/
def execMax16 (s' : BitVec 6) (d : BitVec 5) (s : State) : Out :=
  twoAddress (.max16 s' d) d s' maxS s

/-- `fadd_16` (R30). 16-bit two-address fadd. -/
def execFadd16 (s' : BitVec 6) (d : BitVec 5) (s : State) : Out :=
  twoAddress (.fadd16 s' d) d s' fAdd s

/-- `fsub_16` (R30). 16-bit two-address fsub. -/
def execFsub16 (s' : BitVec 6) (d : BitVec 5) (s : State) : Out :=
  twoAddress (.fsub16 s' d) d s' fSub s

/-- `fmul_16` (R30). 16-bit two-address fmul. -/
def execFmul16 (s' : BitVec 6) (d : BitVec 5) (s : State) : Out :=
  twoAddress (.fmul16 s' d) d s' fMul s

/-- `addi_16` (R30). 16-bit addi with a signed 6-bit immediate. -/
def execAddi16 (i : BitVec 6) (d : BitVec 5) (s : State) : Out :=
  laneOp (.addi16 i d) 0 (d.setWidth 6) (fun x l => x.reg d.toNat l + sext i) s

end Sys2Proof.Machine
end

