-- ==== Sys2Proof/Machine/Dispatch.lean ====
section
/-!
DEFINITION. What each instruction and each event does: one arm per constructor, one direct call of its meaning.
-/
namespace Sys2Proof.Machine

def exec (i : Instr) (s : State) : Host.Outcome State Fault Refusal :=
  match i with
  | .add c w b a d => Sys2Proof.Machine.execAdd c w b a d s
  | .sub c w b a d => Sys2Proof.Machine.execSub c w b a d s
  | .adds c w b a d => Sys2Proof.Machine.execAdds c w b a d s
  | .subs c w b a d => Sys2Proof.Machine.execSubs c w b a d s
  | .mul c w b a d => Sys2Proof.Machine.execMul c w b a d s
  | .mulhs c w b a d => Sys2Proof.Machine.execMulhs c w b a d s
  | .mulhu c w b a d => Sys2Proof.Machine.execMulhu c w b a d s
  | .mad c w b a d => Sys2Proof.Machine.execMad c w b a d s
  | .min c w b a d => Sys2Proof.Machine.execMin c w b a d s
  | .max c w b a d => Sys2Proof.Machine.execMax c w b a d s
  | .minu c w b a d => Sys2Proof.Machine.execMinu c w b a d s
  | .maxu c w b a d => Sys2Proof.Machine.execMaxu c w b a d s
  | .and c w b a d => Sys2Proof.Machine.execAnd c w b a d s
  | .or c w b a d => Sys2Proof.Machine.execOr c w b a d s
  | .xor c w b a d => Sys2Proof.Machine.execXor c w b a d s
  | .andn c w b a d => Sys2Proof.Machine.execAndn c w b a d s
  | .shl c w b a d => Sys2Proof.Machine.execShl c w b a d s
  | .shr c w b a d => Sys2Proof.Machine.execShr c w b a d s
  | .sar c w b a d => Sys2Proof.Machine.execSar c w b a d s
  | .rot c w b a d => Sys2Proof.Machine.execRot c w b a d s
  | .cmpeq c w b a d => Sys2Proof.Machine.execCmpeq c w b a d s
  | .cmpne c w b a d => Sys2Proof.Machine.execCmpne c w b a d s
  | .cmplt c w b a d => Sys2Proof.Machine.execCmplt c w b a d s
  | .cmple c w b a d => Sys2Proof.Machine.execCmple c w b a d s
  | .cmpltu c w b a d => Sys2Proof.Machine.execCmpltu c w b a d s
  | .cmpleu c w b a d => Sys2Proof.Machine.execCmpleu c w b a d s
  | .tst c w b a d => Sys2Proof.Machine.execTst c w b a d s
  | .absd c w b a d => Sys2Proof.Machine.execAbsd c w b a d s
  | .sel c w b a d => Sys2Proof.Machine.execSel c w b a d s
  | .bfx c w b a d => Sys2Proof.Machine.execBfx c w b a d s
  | .bfi c w b a d => Sys2Proof.Machine.execBfi c w b a d s
  | .lea c w b a d => Sys2Proof.Machine.execLea c w b a d s
  | .popc c w a d => Sys2Proof.Machine.execPopc c w a d s
  | .clz c w a d => Sys2Proof.Machine.execClz c w a d s
  | .ctz c w a d => Sys2Proof.Machine.execCtz c w a d s
  | .brev c w a d => Sys2Proof.Machine.execBrev c w a d s
  | .divs c w b a d => Sys2Proof.Machine.execDivs c w b a d s
  | .divu c w b a d => Sys2Proof.Machine.execDivu c w b a d s
  | .rems c w b a d => Sys2Proof.Machine.execRems c w b a d s
  | .remu c w b a d => Sys2Proof.Machine.execRemu c w b a d s
  | .mov c w a d => Sys2Proof.Machine.execMov c w a d s
  | .zxb c w a d => Sys2Proof.Machine.execZxb c w a d s
  | .sxb c w a d => Sys2Proof.Machine.execSxb c w a d s
  | .sxh c w a d => Sys2Proof.Machine.execSxh c w a d s
  | .zxh c w a d => Sys2Proof.Machine.execZxh c w a d s
  | .pack c w b a d => Sys2Proof.Machine.execPack c w b a d s
  | .bsw c w a d => Sys2Proof.Machine.execBsw c w a d s
  | .addi c w imm a d => Sys2Proof.Machine.execAddi c w imm a d s
  | .andi c w imm a d => Sys2Proof.Machine.execAndi c w imm a d s
  | .ori c w imm a d => Sys2Proof.Machine.execOri c w imm a d s
  | .xori c w imm a d => Sys2Proof.Machine.execXori c w imm a d s
  | .shli c w imm a d => Sys2Proof.Machine.execShli c w imm a d s
  | .shri c w imm a d => Sys2Proof.Machine.execShri c w imm a d s
  | .sari c w imm a d => Sys2Proof.Machine.execSari c w imm a d s
  | .cmpeqi c w imm a d => Sys2Proof.Machine.execCmpeqi c w imm a d s
  | .cmplti c w imm a d => Sys2Proof.Machine.execCmplti c w imm a d s
  | .cmpltui c w imm a d => Sys2Proof.Machine.execCmpltui c w imm a d s
  | .muli c w imm a d => Sys2Proof.Machine.execMuli c w imm a d s
  | .ldp imm a d => Sys2Proof.Machine.execLdp imm a d s
  | .movi c w imm d => Sys2Proof.Machine.execMovi c w imm d s
  | .movh c w imm d => Sys2Proof.Machine.execMovh c w imm d s
  | .lit imm d => Sys2Proof.Machine.execLit imm d s
  | .shfl c w b a d => Sys2Proof.Machine.execShfl c w b a d s
  | .shup c w b a d => Sys2Proof.Machine.execShup c w b a d s
  | .shdn c w b a d => Sys2Proof.Machine.execShdn c w b a d s
  | .shxor c w b a d => Sys2Proof.Machine.execShxor c w b a d s
  | .vany c w a d => Sys2Proof.Machine.execVany c w a d s
  | .vall c w a d => Sys2Proof.Machine.execVall c w a d s
  | .ballot c w a d => Sys2Proof.Machine.execBallot c w a d s
  | .leader c w a d => Sys2Proof.Machine.execLeader c w a d s
  | .redadd c w a d => Sys2Proof.Machine.execRedadd c w a d s
  | .redmin c w a d => Sys2Proof.Machine.execRedmin c w a d s
  | .redmax c w a d => Sys2Proof.Machine.execRedmax c w a d s
  | .redminu c w a d => Sys2Proof.Machine.execRedminu c w a d s
  | .scan c w a d => Sys2Proof.Machine.execScan c w a d s
  | .rank c w a d => Sys2Proof.Machine.execRank c w a d s
  | .matchLanes c w a d => Sys2Proof.Machine.execMatchLanes c w a d s
  | .fadd c w b a d => Sys2Proof.Machine.execFadd c w b a d s
  | .fsub c w b a d => Sys2Proof.Machine.execFsub c w b a d s
  | .fmul c w b a d => Sys2Proof.Machine.execFmul c w b a d s
  | .fdiv c w b a d => Sys2Proof.Machine.execFdiv c w b a d s
  | .fma c w b a d => Sys2Proof.Machine.execFma c w b a d s
  | .fms c w b a d => Sys2Proof.Machine.execFms c w b a d s
  | .fnma c w b a d => Sys2Proof.Machine.execFnma c w b a d s
  | .fnms c w b a d => Sys2Proof.Machine.execFnms c w b a d s
  | .fmin c w b a d => Sys2Proof.Machine.execFmin c w b a d s
  | .fmax c w b a d => Sys2Proof.Machine.execFmax c w b a d s
  | .fminnum c w b a d => Sys2Proof.Machine.execFminnum c w b a d s
  | .fmaxnum c w b a d => Sys2Proof.Machine.execFmaxnum c w b a d s
  | .fcmpeq c w b a d => Sys2Proof.Machine.execFcmpeq c w b a d s
  | .fcmplt c w b a d => Sys2Proof.Machine.execFcmplt c w b a d s
  | .fcmple c w b a d => Sys2Proof.Machine.execFcmple c w b a d s
  | .fcmpun c w b a d => Sys2Proof.Machine.execFcmpun c w b a d s
  | .frcp c w a d => Sys2Proof.Machine.execFrcp c w a d s
  | .frsq c w a d => Sys2Proof.Machine.execFrsq c w a d s
  | .fsqrt c w a d => Sys2Proof.Machine.execFsqrt c w a d s
  | .fclass c w a d => Sys2Proof.Machine.execFclass c w a d s
  | .fexp2 c w a d => Sys2Proof.Machine.execFexp2 c w a d s
  | .flog2 c w a d => Sys2Proof.Machine.execFlog2 c w a d s
  | .fsinpi c w a d => Sys2Proof.Machine.execFsinpi c w a d s
  | .fcospi c w a d => Sys2Proof.Machine.execFcospi c w a d s
  | .frnd c w m a d => Sys2Proof.Machine.execFrnd c w m a d s
  | .hadd2 c w b a d => Sys2Proof.Machine.execHadd2 c w b a d s
  | .hmul2 c w b a d => Sys2Proof.Machine.execHmul2 c w b a d s
  | .hfma2 c w b a d => Sys2Proof.Machine.execHfma2 c w b a d s
  | .bfma2 c w b a d => Sys2Proof.Machine.execBfma2 c w b a d s
  | .cvt c w m k a d => Sys2Proof.Machine.execCvt c w m k a d s
  | .cvtsr c w t b a d => Sys2Proof.Machine.execCvtsr c w t b a d s
  | .dp4 c w b a d => Sys2Proof.Machine.execDp4 c w b a d s
  | .dp8 c w b a d => Sys2Proof.Machine.execDp8 c w b a d s
  | .dp2 c w b a d => Sys2Proof.Machine.execDp2 c w b a d s
  | .dp4u c w b a d => Sys2Proof.Machine.execDp4u c w b a d s
  | .scl c w b a d => Sys2Proof.Machine.execScl c w b a d s
  | .pk8 c w b a d => Sys2Proof.Machine.execPk8 c w b a d s
  | .upk c w b a d => Sys2Proof.Machine.execUpk c w b a d s
  | .mxs c w a d => Sys2Proof.Machine.execMxs c w a d s
  | .mov16 s0 d => Sys2Proof.Machine.execMov16 s0 d s
  | .add16 s0 d => Sys2Proof.Machine.execAdd16 s0 d s
  | .sub16 s0 d => Sys2Proof.Machine.execSub16 s0 d s
  | .and16 s0 d => Sys2Proof.Machine.execAnd16 s0 d s
  | .or16 s0 d => Sys2Proof.Machine.execOr16 s0 d s
  | .xor16 s0 d => Sys2Proof.Machine.execXor16 s0 d s
  | .shl16 s0 d => Sys2Proof.Machine.execShl16 s0 d s
  | .shr16 s0 d => Sys2Proof.Machine.execShr16 s0 d s
  | .sar16 s0 d => Sys2Proof.Machine.execSar16 s0 d s
  | .mul16 s0 d => Sys2Proof.Machine.execMul16 s0 d s
  | .min16 s0 d => Sys2Proof.Machine.execMin16 s0 d s
  | .max16 s0 d => Sys2Proof.Machine.execMax16 s0 d s
  | .fadd16 s0 d => Sys2Proof.Machine.execFadd16 s0 d s
  | .fsub16 s0 d => Sys2Proof.Machine.execFsub16 s0 d s
  | .fmul16 s0 d => Sys2Proof.Machine.execFmul16 s0 d s
  | .addi16 imm d => Sys2Proof.Machine.execAddi16 imm d s
  | .ldWl h o b d => Sys2Proof.Machine.execLdWl h o b d s
  | .stWl h o b s0 => Sys2Proof.Machine.execStWl h o b s0 s
  | .ldSb h o b d => Sys2Proof.Machine.execLdSb h o b d s
  | .ldSh h o b d => Sys2Proof.Machine.execLdSh h o b d s
  | .ldSw h o b d => Sys2Proof.Machine.execLdSw h o b d s
  | .ldSq h o b d => Sys2Proof.Machine.execLdSq h o b d s
  | .stSb h o b s0 => Sys2Proof.Machine.execStSb h o b s0 s
  | .stSh h o b s0 => Sys2Proof.Machine.execStSh h o b s0 s
  | .stSw h o b s0 => Sys2Proof.Machine.execStSw h o b s0 s
  | .stSq h o b s0 => Sys2Proof.Machine.execStSq h o b s0 s
  | .ldSa h o b d => Sys2Proof.Machine.execLdSa h o b d s
  | .stSr h o b s0 => Sys2Proof.Machine.execStSr h o b s0 s
  | .ldT k imm t d => Sys2Proof.Machine.execLdT k imm t d s
  | .stT k imm t s0 => Sys2Proof.Machine.execStT k imm t s0 s
  | .ldTq k imm t d => Sys2Proof.Machine.execLdTq k imm t d s
  | .stTq k imm t s0 => Sys2Proof.Machine.execStTq k imm t s0 s
  | .atomS q p r a d => Sys2Proof.Machine.execAtomS q p r a d s
  | .atomC q p r a d => Sys2Proof.Machine.execAtomC q p r a d s
  | .ldCw h o b d => Sys2Proof.Machine.execLdCw h o b d s
  | .stCw h o b s0 => Sys2Proof.Machine.execStCw h o b s0 s
  | .ldCq h o b d => Sys2Proof.Machine.execLdCq h o b d s
  | .stCq h o b s0 => Sys2Proof.Machine.execStCq h o b s0 s
  | .ldCa h o b d => Sys2Proof.Machine.execLdCa h o b d s
  | .stCr h o b s0 => Sys2Proof.Machine.execStCr h o b s0 s
  | .barC imm n d => Sys2Proof.Machine.execBarC imm n d s
  | .barT imm n d => Sys2Proof.Machine.execBarT imm n d s
  | .arvC b a d => Sys2Proof.Machine.execArvC b a d s
  | .awtC b a d => Sys2Proof.Machine.execAwtC b a d s
  | .arvT b a d => Sys2Proof.Machine.execArvT b a d s
  | .awtT b a d => Sys2Proof.Machine.execAwtT b a d s
  | .fenceR s0 k m => Sys2Proof.Machine.execFenceR s0 k m s
  | .fenceX s0 k t f => Sys2Proof.Machine.execFenceX s0 k t f s
  | .rngSet b a k => Sys2Proof.Machine.execRngSet b a k s
  | .rngSetH h k => Sys2Proof.Machine.execRngSetH h k s
  | .cueSet a k => Sys2Proof.Machine.execCueSet a k s
  | .cueClr k => Sys2Proof.Machine.execCueClr k s
  | .cueRd k d => Sys2Proof.Machine.execCueRd k d s
  | .tlRel t => Sys2Proof.Machine.execTlRel t s
  | .tlWait t => Sys2Proof.Machine.execTlWait t s
  | .tlSt t d => Sys2Proof.Machine.execTlSt t d s
  | .recBind h a d => Sys2Proof.Machine.execRecBind h a d s
  | .bz o c => Sys2Proof.Machine.execBz o c s
  | .bnz o c => Sys2Proof.Machine.execBnz o c s
  | .j o => Sys2Proof.Machine.execJ o s
  | .call o n => Sys2Proof.Machine.execCall o n s
  | .callr n a => Sys2Proof.Machine.execCallr n a s
  | .ret => Sys2Proof.Machine.execRet s
  | .jpt o => Sys2Proof.Machine.execJpt o s
  | .rcv => Sys2Proof.Machine.execRcv s
  | .rcvT a d => Sys2Proof.Machine.execRcvT a d s
  | .exit => Sys2Proof.Machine.execExit s
  | .alloc imm => Sys2Proof.Machine.execAlloc imm s
  | .brt o c => Sys2Proof.Machine.execBrt o c s
  | .trap imm => Sys2Proof.Machine.execTrap imm s
  | .rtt => Sys2Proof.Machine.execRtt s
  | .brk imm => Sys2Proof.Machine.execBrk imm s
  | .nop x => Sys2Proof.Machine.execNop x s
  | .pool l => Sys2Proof.Machine.execPool l s
  | .mfs r d => Sys2Proof.Machine.execMfs r d s
  | .mts r s0 => Sys2Proof.Machine.execMts r s0 s
  | .fmt imm => Sys2Proof.Machine.execFmt imm s
  | .tmrSet b a => Sys2Proof.Machine.execTmrSet b a s
  | .tmrClr a => Sys2Proof.Machine.execTmrClr a s
  | .wev b a d => Sys2Proof.Machine.execWev b a d s
  | .wtm a d => Sys2Proof.Machine.execWtm a d s
  | .qkick b a => Sys2Proof.Machine.execQkick b a s
  | .evt d => Sys2Proof.Machine.execEvt d s
  | .msgSend b a d => Sys2Proof.Machine.execMsgSend b a d s
  | .msgRecv a d => Sys2Proof.Machine.execMsgRecv a d s
  | .msgPeek d => Sys2Proof.Machine.execMsgPeek d s
  | .msgHold b a d => Sys2Proof.Machine.execMsgHold b a d s
  | .plset c d => Sys2Proof.Machine.execPlset c d s
  | .rdstg imm d => Sys2Proof.Machine.execRdstg imm d s
  | .undef x => Sys2Proof.Machine.execUndef x s
  | .reservedEncoding w => Sys2Proof.Machine.execReservedEncoding w s
  | .flyIn e b h t k => Sys2Proof.Machine.execFlyIn e b h t k s
  | .flyOut e b h t k => Sys2Proof.Machine.execFlyOut e b h t k s
  | .flyGth e b h t k => Sys2Proof.Machine.execFlyGth e b h t k s
  | .flySct e b h t k => Sys2Proof.Machine.execFlySct e b h t k s
  | .flyScl e b h t k => Sys2Proof.Machine.execFlyScl e b h t k s
  | .flyCp e b k => Sys2Proof.Machine.execFlyCp e b k s
  | .flyAtm e b p q k => Sys2Proof.Machine.execFlyAtm e b p q k s
  | .flyMc e b h t k => Sys2Proof.Machine.execFlyMc e b h t k s
  | .flyPf e b h k => Sys2Proof.Machine.execFlyPf e b h k s
  | .mxMma s0 r b a k => Sys2Proof.Machine.execMxMma s0 r b a k s
  | .mxSpr s0 r b a k => Sys2Proof.Machine.execMxSpr s0 r b a k s
  | .mxZero r s0 => Sys2Proof.Machine.execMxZero r s0 s
  | .mxPut t r => Sys2Proof.Machine.execMxPut t r s
  | .mxGet t r => Sys2Proof.Machine.execMxGet t r s
  | .mxSput s0 => Sys2Proof.Machine.execMxSput s0 s
  | .splitEntryRefill => Sys2Proof.Machine.execSplitEntryRefill s
  | .rcvTTimeout => Sys2Proof.Machine.execRcvTTimeout s
  | .splitReschedule => Sys2Proof.Machine.execSplitReschedule s
  | .laneAccessComplete => Sys2Proof.Machine.execLaneAccessComplete s
  | .pumpServeRequest => Sys2Proof.Machine.execPumpServeRequest s
  | .pumpRowTransferDone => Sys2Proof.Machine.execPumpRowTransferDone s
  | .bandWindow => Sys2Proof.Machine.execBandWindow s
  | .bandRaise => Sys2Proof.Machine.execBandRaise s
  | .currentWindowBoundary => Sys2Proof.Machine.execCurrentWindowBoundary s
  | .stallCycle => Sys2Proof.Machine.execStallCycle s
  | .bankDrowsy => Sys2Proof.Machine.execBankDrowsy s
  | .bankWake => Sys2Proof.Machine.execBankWake s
  | .tileDrainEnd => Sys2Proof.Machine.execTileDrainEnd s
  | .queueHeadDecide => Sys2Proof.Machine.execQueueHeadDecide s
  | .flyCommandHandover => Sys2Proof.Machine.execFlyCommandHandover s
  | .flyLineComplete => Sys2Proof.Machine.execFlyLineComplete s
  | .flyCommandComplete => Sys2Proof.Machine.execFlyCommandComplete s
  | .asyncTrapTaken => Sys2Proof.Machine.execAsyncTrapTaken s
  | .matrixOpStart => Sys2Proof.Machine.execMatrixOpStart s
  | .matrixKStep => Sys2Proof.Machine.execMatrixKStep s
  | .matrixOpComplete => Sys2Proof.Machine.execMatrixOpComplete s
  | .pageWalkComplete => Sys2Proof.Machine.execPageWalkComplete s
  | .pageRequestWrite => Sys2Proof.Machine.execPageRequestWrite s
  | .companyFaultRestore => Sys2Proof.Machine.execCompanyFaultRestore s
  | .prqReply => Sys2Proof.Machine.execPrqReply s
  | .prqRdWrite => Sys2Proof.Machine.execPrqRdWrite s
  | .prqBaseWrite => Sys2Proof.Machine.execPrqBaseWrite s
  | .xlinvFunction => Sys2Proof.Machine.execXlinvFunction s
  | .xlinvPage => Sys2Proof.Machine.execXlinvPage s
  | .xlinvContext => Sys2Proof.Machine.execXlinvContext s
  | .xlinvStage2Page => Sys2Proof.Machine.execXlinvStage2Page s
  | .xlinvInvalidKind => Sys2Proof.Machine.execXlinvInvalidKind s
  | .xlinvComplete => Sys2Proof.Machine.execXlinvComplete s
  | .ctxCreate => Sys2Proof.Machine.execCtxCreate s
  | .ctxStart => Sys2Proof.Machine.execCtxStart s
  | .ctxDestroy => Sys2Proof.Machine.execCtxDestroy s
  | .ctxDestroyComplete => Sys2Proof.Machine.execCtxDestroyComplete s
  | .ctxPolicyWrite => Sys2Proof.Machine.execCtxPolicyWrite s
  | .ctxPcountWrite => Sys2Proof.Machine.execCtxPcountWrite s
  | .ctxEvctlWrite => Sys2Proof.Machine.execCtxEvctlWrite s
  | .ctxEvrdWrite => Sys2Proof.Machine.execCtxEvrdWrite s
  | .ctxWdogWrite => Sys2Proof.Machine.execCtxWdogWrite s
  | .queueEnable => Sys2Proof.Machine.execQueueEnable s
  | .queueDisable => Sys2Proof.Machine.execQueueDisable s
  | .registerWrite => Sys2Proof.Machine.execRegisterWrite s
  | .kick => Sys2Proof.Machine.execKick s
  | .qrestartReread => Sys2Proof.Machine.execQrestartReread s
  | .qrestartSkip => Sys2Proof.Machine.execQrestartSkip s
  | .prompterReread => Sys2Proof.Machine.execPrompterReread s
  | .launch => Sys2Proof.Machine.execLaunch s
  | .resume => Sys2Proof.Machine.execResume s
  | .write => Sys2Proof.Machine.execWrite s
  | .signal => Sys2Proof.Machine.execSignal s
  | .writeSignal => Sys2Proof.Machine.execWriteSignal s
  | .wait => Sys2Proof.Machine.execWait s
  | .waitReevaluate => Sys2Proof.Machine.execWaitReevaluate s
  | .fence => Sys2Proof.Machine.execFence s
  | .grant => Sys2Proof.Machine.execGrant s
  | .cont => Sys2Proof.Machine.execCont s
  | .troupePlace => Sys2Proof.Machine.execTroupePlace s
  | .admissionOrderHold => Sys2Proof.Machine.execAdmissionOrderHold s
  | .companyComplete => Sys2Proof.Machine.execCompanyComplete s
  | .runComplete => Sys2Proof.Machine.execRunComplete s
  | .eventRecordWrite => Sys2Proof.Machine.execEventRecordWrite s
  | .preemptionRequest => Sys2Proof.Machine.execPreemptionRequest s
  | .contextRestore => Sys2Proof.Machine.execContextRestore s
  | .sliceExpiry => Sys2Proof.Machine.execSliceExpiry s
  | .watchdogExpiry => Sys2Proof.Machine.execWatchdogExpiry s
  | .timerExpiry => Sys2Proof.Machine.execTimerExpiry s
  | .wevDeadline => Sys2Proof.Machine.execWevDeadline s
  | .wtmDeadline => Sys2Proof.Machine.execWtmDeadline s
  | .stageTimeCorrection => Sys2Proof.Machine.execStageTimeCorrection s
  | .messageArrival => Sys2Proof.Machine.execMessageArrival s
  | .outsideEventVisible => Sys2Proof.Machine.execOutsideEventVisible s
  | .callBoardActionPoint => Sys2Proof.Machine.execCallBoardActionPoint s
  | .linkRequestArrival => Sys2Proof.Machine.execLinkRequestArrival s
  | .linkResponseArrival => Sys2Proof.Machine.execLinkResponseArrival s
  | .linkResponseTimeout => Sys2Proof.Machine.execLinkResponseTimeout s
  | .memoEntryExpiry => Sys2Proof.Machine.execMemoEntryExpiry s
  | .linkPortFail => Sys2Proof.Machine.execLinkPortFail s
  | .linkFlitReplay => Sys2Proof.Machine.execLinkFlitReplay s
  | .linkXoff => Sys2Proof.Machine.execLinkXoff s
  | .linkXon => Sys2Proof.Machine.execLinkXon s
  | .multicastWriteArrival => Sys2Proof.Machine.execMulticastWriteArrival s
  | .aggregateAckArrival => Sys2Proof.Machine.execAggregateAckArrival s
  | .vfPointChange => Sys2Proof.Machine.execVfPointChange s
  | .vfChangeComplete => Sys2Proof.Machine.execVfChangeComplete s
  | .clusterGate => Sys2Proof.Machine.execClusterGate s
  | .clusterWakeRequest => Sys2Proof.Machine.execClusterWakeRequest s
  | .wakeRampEnd => Sys2Proof.Machine.execWakeRampEnd s
  | .clusterWakeComplete => Sys2Proof.Machine.execClusterWakeComplete s
  | .thermalStep => Sys2Proof.Machine.execThermalStep s
  | .thermalTrip105 => Sys2Proof.Machine.execThermalTrip105 s
  | .thermalTrip115 => Sys2Proof.Machine.execThermalTrip115 s
  | .coldReset => Sys2Proof.Machine.execColdReset s
  | .pcieHotReset => Sys2Proof.Machine.execPcieHotReset s
  | .functionLevelReset => Sys2Proof.Machine.execFunctionLevelReset s
  | .pluginBudgetExpiry => Sys2Proof.Machine.execPluginBudgetExpiry s
  | .spdmRequest => Sys2Proof.Machine.execSpdmRequest s
  | .keySlotLoad => Sys2Proof.Machine.execKeySlotLoad s
  | .keySlotRetire => Sys2Proof.Machine.execKeySlotRetire s
  | .pldmRequest => Sys2Proof.Machine.execPldmRequest s
  | .curtainAssert => Sys2Proof.Machine.execCurtainAssert s
  | .curtainRelease => Sys2Proof.Machine.execCurtainRelease s
  | .debugTokenAccept => Sys2Proof.Machine.execDebugTokenAccept s
  | .catwalkRead => Sys2Proof.Machine.execCatwalkRead s
  | .debugStep => Sys2Proof.Machine.execDebugStep s
  | .eccUncorrectable => Sys2Proof.Machine.execEccUncorrectable s
  | .routerFail => Sys2Proof.Machine.execRouterFail s
  | .hubFail => Sys2Proof.Machine.execHubFail s
  | .cisternSizeChange => Sys2Proof.Machine.execCisternSizeChange s
  | .partitionAssign => Sys2Proof.Machine.execPartitionAssign s
  | .grantCacheEviction => Sys2Proof.Machine.execGrantCacheEviction s
  | .hostMemoryAccess => Sys2Proof.Machine.execHostMemoryAccess s
  | .linkTrainingComplete => Sys2Proof.Machine.execLinkTrainingComplete s
  | .linkLaneLoss => Sys2Proof.Machine.execLinkLaneLoss s
  | .linkLockLoss => Sys2Proof.Machine.execLinkLockLoss s
  | .debugHalt => Sys2Proof.Machine.execDebugHalt s
  | .debugResume => Sys2Proof.Machine.execDebugResume s
  | .contextMigration => Sys2Proof.Machine.execContextMigration s
  | .checkpoint => Sys2Proof.Machine.execCheckpoint s
  | .thermalTripClear => Sys2Proof.Machine.execThermalTripClear s
  | .virtualFunctionEnable => Sys2Proof.Machine.execVirtualFunctionEnable s
  | .multicastGroupEntryWrite => Sys2Proof.Machine.execMulticastGroupEntryWrite s
  | .pluginImageLoad => Sys2Proof.Machine.execPluginImageLoad s

end Sys2Proof.Machine
end

