-- ==== Sys2Proof/Machine/Schedule.lean ====
section
/-!
DEFINITION. What moves next when the agenda is empty, and how a turn is taken (R121, R149, R152, R156, R171, R409). An
event whose time has come happens first; one whose latency the spec leaves open (R409) happens at a moment that a free
value chooses; otherwise the core whose cycle began first lets its bays issue.
-/
namespace Sys2Proof.Machine

/-- An event that may happen, with its operands. -/
abbrev Happening := Instr × EventArg

/-- Operands of an event. -/
def argOf (a b c : Nat) (v : BitVec 64) : EventArg := { a := a, b := b, c := c, d := 0, v := v, x := .none }

/-- Whether an event would change anything. -/
def State.moves (s : State) (h : Happening) : Bool :=
  match exec h.1 { s with arg := h.2 } with
  | .next t => decide ({ t with arg := s.arg } ≠ s)
  | _ => false

/-! ## Events whose time is fixed -/

/-- The clusters' and the dies' own events (R155, R361 to R363), those of the fabric (R377, R379) and of firmware (R366). -/
def State.deviceDue (s : State) : List Happening :=
  clusterIds.flatMap (fun k =>
    [(.wakeRampEnd, argOf k 0 0 0), (.clusterWakeComplete, argOf k 0 0 0), (.clusterGate, argOf k 0 0 0), (.currentWindowBoundary, argOf k 0 0 0)]) ++
  (s.dies.filter (fun d => d.changing.any (fun c => decide (c.2 ≤ s.now + longestCycle)))).map (fun d => (.vfChangeComplete, argOf d.num 0 0 0)) ++
  s.ports.map (fun p => (.linkPortFail, argOf p.num 0 0 0)) ++
  s.sent.map (fun o => (.linkResponseTimeout, argOf o.dest.toNat (if o.plainRead then 1 else 0) 0 (o.ident.setWidth 64))) ++
  s.memos.map (fun m => (.memoEntryExpiry, argOf m.src.toNat 0 0 (m.ident.setWidth 64))) ++
  s.managers.filterMap (fun m => m.call.map (fun c => (.pluginBudgetExpiry, argOf c.1 0 0 0)))

/-- The cores that run. -/
def State.runningCores (s : State) : List Nat := (List.range 384).filter s.coreRuns

/-- Whether a core is still to run a cycle that begins now: its issues come before an action point of the call board at the same time, so
that a reply wins (R391). -/
def State.cycleAtNow (s : State) : Bool := s.runningCores.any (fun k => decide ((s.core k).at_ ≤ s.now))

/-- The events of contexts and runs (R179, R305, R314, R317, R336, R338, R341, R342, R386): what has completed comes before a stop
(R324). -/
def State.contextDue (s : State) : List Happening :=
  s.companies.map (fun k => (.companyComplete, argOf k.uid 0 0 0)) ++
  s.runs.map (fun r => (.runComplete, argOf r.ctx r.id 0 0)) ++
  (s.runs.filter (·.snapAt.isSome)).map (fun r => (.checkpoint, argOf r.ctx r.id 0 0)) ++
  s.runs.map (fun r => (.watchdogExpiry, argOf r.ctx r.id 0 0)) ++
  (s.contexts.filter (·.sliceOver)).map (fun c => (.preemptionRequest, argOf c.id 0 0 0)) ++
  s.contexts.map (fun c => (.outsideEventVisible, argOf c.id 0 0 0)) ++
  s.contexts.flatMap (fun c => (c.board.filter (fun e => e.owed && !(s.cycleAtNow && actionPoint e == s.now))).map (fun e =>
    (.callBoardActionPoint, argOf c.id e.msg.srcDev.toNat 0 (e.msg.ident.setWidth 64)))) ++
  s.runs.map (fun r => (.admissionOrderHold, argOf r.ctx r.id 0 0)) ++
  s.contexts.map (fun c => (.ctxDestroyComplete, argOf c.id 0 0 0))

/-- A split as an operand. -/
def Split.operand (p : Split) : BitVec 64 := p.members.setWidth 64

/-- The events of a chorus (R24, R121, R123, R178, R186, R227, R241, R333 to R335). -/
def chorusDue (k : Company) (h : Chorus) : List Happening :=
  (if h.queue.isEmpty then [] else [(.queueHeadDecide, argOf k.uid h.index 0 0), (.flyCommandHandover, argOf k.uid h.index 0 0)]) ++
  (List.range h.timers.length).map (fun n => (.timerExpiry, argOf k.uid h.index n 0)) ++
  h.splits.flatMap (fun p =>
    match p.wait with
    | .wev _ _ _ => [(.wevDeadline, argOf k.uid h.index 0 p.operand)]
    | .wtm _ _ => [(.wtmDeadline, argOf k.uid h.index 0 p.operand)]
    | .joinT _ _ => [(.rcvTTimeout, argOf k.uid h.index 0 p.operand)]
    | _ => []) ++
  (if h.traps.isEmpty then [] else [(.asyncTrapTaken, argOf k.uid h.index 0 0)]) ++
  (if h.inflight.isEmpty then [] else [(.laneAccessComplete, argOf k.uid h.index 1 0)]) ++
  [(.splitReschedule, argOf k.uid h.index 0 0)]

/-- The events of a company: drained tiles (R169) and the array's starts, steps and completions (R186, R193, R201). -/
def companyDue (k : Company) : List Happening :=
  (numbered 0 k.tiles).map (fun t => (.tileDrainEnd, argOf k.uid t.1 0 0)) ++
  k.ops.flatMap (fun o =>
    [(.matrixKStep, argOf k.uid o.uid 0 0), (.matrixOpComplete, argOf k.uid o.uid 0 0), (.matrixOpStart, argOf k.uid o.uid 0 0)]) ++
  k.choruses.flatMap (chorusDue k)

/-- The events of a core between its cycles (R150, R151, R156, R157). -/
def State.coreDue (s : State) (core : Nat) : List Happening :=
  (bankIds.filter (s.bankIdle core)).map (fun b => (.bankDrowsy, argOf core b 0 0)) ++
    [(.bandRaise, argOf core 0 0 0), (.bandWindow, argOf core 0 0 0), (.stallCycle, argOf core 0 0 0)]

/-- The queue events that a time has made due: a slot or a word to read again (R310, R313). -/
def State.queueDue (s : State) (c : Context) : List Happening :=
  (numbered 0 c.queues).flatMap (fun q =>
    (match q.2.hold with
     | .wait _ _ _ _ t => if t ≤ s.now then [(.waitReevaluate, argOf c.id q.1 0 0)] else []
     | _ => []) ++
    (if q.2.reread.any (fun t => decide (t ≤ s.now)) then [(.prompterReread, argOf c.id q.1 0 0)] else []))

/-- The array's events in a cluster that come before a current window's end which time has passed: their charges count in that window
(R154). -/
def State.windowDue (s : State) (cluster : Nat) : List Happening :=
  let late := (s.cluster cluster).windowAt - s.windowTicks cluster
  if (s.cluster cluster).windowAt < s.windowTicks cluster then []
  else
    (s.companies.filter (fun k => clusterOf k.core == cluster && s.acts k)).flatMap (fun k =>
      let vt := s.vtTicks k.ctx - late
      (k.ops.filter (fun o => if o.started then decide (o.due ≤ vt) else o.ready.any (fun t => decide (t ≤ vt)))).flatMap (fun o =>
        [(.matrixKStep, argOf k.uid o.uid 0 0), (.matrixOpComplete, argOf k.uid o.uid 0 0), (.matrixOpStart, argOf k.uid o.uid 0 0)]))

/-- A pump's last transfers as its company stops: those that would pass 2 µs with the longest cycle, within the bound of 4 µs on a stop
(R341, log 90). -/
def Chorus.pumpLate (h : Chorus) (now : Nat) : Bool :=
  h.splits.any (·.owed) || h.pump.any (fun m => m.moving && decide (m.since + 2000 * ticksPerNs ≤ now + longestCycle))

/-- The transfers of the pumps of companies that stop. -/
def State.pumpDue (s : State) : List Happening :=
  (s.companies.filter s.stops).flatMap (fun k =>
    (k.choruses.filter (fun h => h.pumpLate s.now)).map (fun h => (.pumpRowTransferDone, argOf k.uid h.index 0 0)))

/-- The first event that is due. -/
def State.due? (s : State) : Option Happening :=
  (clusterIds.flatMap s.windowDue ++ s.pumpDue ++ s.deviceDue ++ s.contextDue ++ s.contexts.flatMap s.queueDue ++ s.companies.flatMap companyDue).find? s.moves

/-! ## Events whose latency is open (R409) -/

/-- What the engines and the pump may do for a chorus. -/
def chorusProgress (k : Company) (h : Chorus) : List Happening :=
  (h.splits.filter (fun p => p.spilled && (p.wait == .none || p.isArrived))).map (fun p => (.splitEntryRefill, argOf k.uid h.index 0 p.operand)) ++
  [(.laneAccessComplete, argOf k.uid h.index 0 0), (.pumpServeRequest, argOf k.uid h.index 0 0),
   (.pumpRowTransferDone, argOf k.uid h.index 0 0)]

/-- The lines that a command still has to do. -/
def linesLeft (k : Company) (f : FlyCmd) : List Nat :=
  (((f.elems k).filter (fun e => !f.begun || f.todo.contains e.idx)).map f.lineOf).eraseDups

/-- What the engines may do for a company, and its return from a fault save. -/
def companyProgress (k : Company) : List Happening :=
  k.choruses.flatMap (chorusProgress k) ++
  k.engine.flatMap (fun e =>
    (linesLeft k e.2).map (fun l => (.flyLineComplete, argOf k.uid e.2.uid l 0)) ++ [(.flyCommandComplete, argOf k.uid e.2.uid 0 0)]) ++
  (if k.state == .faultSaved then
     (List.range 8).map (fun n => (.companyFaultRestore, argOf k.uid (8 * clusterOf k.core + n) 0 0)) else [])

/-- What the front end may do for a queue (R309 to R314). -/
def queueProgress (c : Context) (q : Nat) : List Happening :=
  let a := argOf c.id q 0 0
  [(.launch, a), (.resume, a), (.write, a), (.signal, a), (.writeSignal, a), (.wait, a), (.fence, a), (.grant, a), (.cont, a),
   (.prompterReread, a), (.waitReevaluate, a)]

/-- What the box office and the front end may do for a context. -/
def State.contextProgress (s : State) (c : Context) : List Happening :=
  (.eventRecordWrite, argOf c.id 0 0 0) :: (if c.rollbacks.isEmpty then [] else [(.resume, argOf c.id schedulerQueue 0 0)]) ++
    ((s.runs.filter (fun r => r.ctx == c.id)).flatMap (fun r => c.partition.map (fun k => (.troupePlace, argOf r.ctx r.id k 0))) ++
      ((numbered 0 c.queues).filter (fun q => q.2.enabled || q.2.hold != .none)).flatMap (fun q => queueProgress c q.1))

/-- What translation may do (R251, R253, R255). -/
def State.translationProgress (s : State) : List Happening :=
  s.walks.map (fun w => (.pageWalkComplete, argOf w.uid 0 0 0)) ++
  s.funcs.flatMap (fun f => [(.pageRequestWrite, argOf f.num 1 0 0), (.pageRequestWrite, argOf f.num 2 0 0), (.xlinvComplete, argOf f.num 0 0 0)])

/-- The events that may happen now. -/
def State.progress (s : State) : List Happening :=
  (s.copies.map (fun (c : Image × BitVec 64) => (Instr.checkpoint, argOf c.1.ctx c.1.run c.1.number 0)) ++ s.companies.flatMap companyProgress ++ s.translationProgress ++ s.contexts.flatMap s.contextProgress).filter s.moves

/-- Events that no one waits for: a change of point that ends before its bound (R361), a grant that leaves its cache
(R259). -/
def State.lazyEvents (s : State) : List Happening :=
  let changes : List Happening := (s.dies.filter (fun d => d.changing.isSome)).map (fun d => (.vfChangeComplete, argOf d.num 0 0 0))
  let evictions : List Happening := s.cores.flatMap (fun c => c.grants.map (fun g =>
    (.grantCacheEviction, { a := c.num, b := g.ctx, c := g.principal.toNat, d := g.tag.toNat, v := 0, x := .none })))
  (changes ++ evictions).filter s.moves

/-! ## Choosing a chorus (R152) -/

/-- A chorus that may issue, as R152 sees it. -/
structure Contender where
  ref : ChorusRef
  slot : Nat
  age : Nat
  cls : Nat
  cost : Nat
  prio : Nat
  mid : Bool
  deriving DecidableEq, Repr

/-- Whether a chorus may issue although its company is being stopped (R329, R340): a chain that has begun goes on, and a
debugger's step is of one chorus. -/
def State.mayIssue (s : State) (k : Company) (h : Chorus) : Bool :=
  let c := (s.context? k.ctx).getD Context.firmware
  let stepped := match c.stepping with
    | none => true
    | some (u, ch, m) => u == k.uid && ch == h.index && !c.stepped && h.splits.any (fun p => p.state == .running && p.members &&& m != 0)
  h.chain.isSome || (!s.stops k && stepped)

/-- The choruses that were ready as the core's cycle began: what wakes within a cycle issues in the next. -/
def State.wasReady (s : State) (core : Nat) (k : Company) (h : Chorus) : Bool := (s.core core).ready.all (fun l => l.contains (k.uid, h.index))

/-- Whether a chorus waits for a bank that wakes. -/
def State.awaitsBank (s : State) (k : Company) (h : Chorus) : Bool :=
  (s.banksOf k h).any (fun b => (s.core k.core).waking.any (fun w => w.1 == b))

/-- The contenders of a bay. -/
def State.contenders (s : State) (core bay : Nat) : List Contender :=
  ((s.readyOn core).filter (fun p => p.2.slot / 24 == bay && s.wasReady core p.1 p.2 && !p.2.issued && !p.2.refused && !s.awaitsBank p.1 p.2 &&
    s.mayIssue p.1 p.2)).map (fun p =>
    { ref := { co := p.1.uid, ch := p.2.index }, slot := p.2.slot % 24, age := p.2.readyAge,
      cls := (nextClass p.1 p.2 s.peek).num, cost := nextCharge p.1 p.2 s.peek,
      prio := ((s.run? p.1.ctx p.1.run).map (·.prio)).getD 0, mid := p.2.chain.isSome })

/-- Those with the least key, in order. -/
def leastBy (key : Contender → Nat) (l : List Contender) : List Contender :=
  match least (l.map key) with
  | none => []
  | some m => l.filter (fun c => key c == m)

/-- Ready cycles after which age alone decides. -/
def oldAge : Nat := 48

/-- The first of the four rules of R152 that decides. -/
def chooseOne (sparse : Bool) (last : Nat) (l : List Contender) : Option Contender :=
  let old := l.filter (fun c => decide (oldAge ≤ c.age))
  if old.isEmpty then
    let l := if sparse then leastBy (·.cost) l else l
    let l := leastBy (fun c => 3 - c.prio) l
    (leastBy (fun c => (c.slot + 23 - last) % 24) l).head?
  else
    let top := old.foldl (fun m c => Nat.max m c.age) 0
    (leastBy (·.slot) (old.filter (fun c => c.age == top))).head?

/-- The pick of a bay: a chain it has begun, else one among those the band admits. -/
def State.pick? (s : State) (core bay : Nat) : Option Contender :=
  let l := s.contenders core bay
  let c := s.core core
  match l.find? (·.mid) with
  | some m => some m
  | none =>
    chooseOne ((s.cluster (clusterOf core)).nearLimit && bay % 2 == 1) (c.picked.getD bay 23) (l.filter (fun m => decide (m.cls ≤ c.band)))

/-- A drowsy bank that the next issue of a chorus touches (R157). -/
def State.drowsyBank (s : State) (core : Nat) (r : ChorusRef) : Option Nat :=
  match s.company? r.co with
  | none => none
  | some k =>
    match k.chorus? r.ch with
    | none => none
    | some h => (s.banksOf k h).find? (s.core core).drowsy.contains

/-- The turn of a bay: a bank that sleeps begins to wake when a pick touches it, and the bay picks again. -/
def State.bayTurn (s : State) (core bay : Nat) : Turn :=
  match s.pick? core bay with
  | none => .skip core
  | some m =>
    match s.drowsyBank core m.ref with
    | some b => .event .bankWake { a := core, b := b, c := m.ref.co, d := m.ref.ch, v := 0, x := .none }
    | none => .issue m.ref

/-- The core whose cycle began first; the lowest number among equals. -/
def State.earliestCore (s : State) : Option Nat :=
  match least (s.runningCores.map (fun k => (s.core k).at_)) with
  | none => none
  | some t => s.runningCores.find? (fun k => (s.core k).at_ == t)

/-- The turn of a core. -/
def State.coreTurn (s : State) (core : Nat) : Turn :=
  let bay := (s.core core).bay
  if bay < 4 then s.bayTurn core bay else .cycle core

/-- The choruses of companies that run, with their names. -/
def State.runningChoruses (s : State) : List (ChorusRef × Chorus) :=
  (s.companies.filter s.acts).flatMap (fun k => k.choruses.map (fun h => ({ co := k.uid, ch := h.index }, h)))

/-- The instructions that are decoded at last, and those that are not yet: how long a fetch takes is open (R151, R409). -/
def State.decodes (s : State) : List Turn := (s.runningChoruses.filter (fun p => p.2.fetching)).map (fun p => .decoded p.1)
def State.starvations (s : State) : List Turn := (s.runningChoruses.filter (fun p => p.2.isReady && p.2.chain.isNone)).map (fun p => .starve p.1)

/-- The answers of the call board that splits of some companies await; when they come is open (R393, R409). -/
def boardTurns (l : List Company) : List Turn :=
  l.flatMap (fun k => k.choruses.flatMap (fun h =>
    if h.halted.isSome || h.ended then [] else (h.splits.filter (·.wait.onBoard)).map (fun p => .board { co := k.uid, ch := h.index } p.members)))

/-- Chooses among the events that may happen and going on; a free value decides (log 5). -/
def State.chooseTurn (s : State) (pass : Turn) : Turn :=
  let event (h : Happening) : Turn := .event h.1 h.2
  let l := s.progress.map event ++ s.decodes ++ boardTurns (s.companies.filter s.acts) ++ pass :: s.lazyEvents.map event ++ s.starvations
  l.getD ((Config.freeWord s.free).toNat % l.length) pass

/-- Whether the fetch reaches past the code image, and uses a free value. -/
def Site.pastCode (x : Site) : Bool := decide (x.co.playbill.codeLength < x.sp.pc.toNat + 4)

/-- The chorus issues its next instruction: the bytes at its split's PC are fetched and decoded, and the instruction is
executed (R22, R28, R47). -/
def State.issueTurn (s : State) (r : ChorusRef) : Out :=
  let s : State := { s with cur := r }
  match s.site? with
  | none => .next s
  | some x =>
    let w := s.peek
    let s := if x.pastCode then { s with free := s.free + 1 } else s
    match fetch x w with
    | .run i => exec i s
    | .trap c tv => .next (s.refuse x c tv)
    | .wait w st => .next (s.stall x w st)

/-- Whether a wait is one of an instruction that has not issued: its data, its rows, its tile, or room for it. -/
def Wait.holds : Wait → Bool
  | .tile _ | .queue | .inflight | .readers _ | .counter | .window _ _ | .data _ | .boards => true
  | _ => false

/-- The state after the split of a chorus has been found to wait before its next instruction or chain (R151), and none where
it can issue. A chorus that is not ready any more has no age. -/
def State.held? (s : State) (r : ChorusRef) : Option State :=
  match ({ s with cur := r } : State).site? with
  | none => none
  | some x =>
    match s.issueTurn r with
    | .next t =>
      match (t.chorus? r.co r.ch).bind (fun h => h.splits.find? (fun p => p.members == x.sp.members)) with
      | none => none
      | some q =>
        if q.pc == x.sp.pc && q.wait.holds
        then some (t.modChorus r.co r.ch (fun h => if h.isReady then h else { h with readyAge := 0, bandWait := 0 }))
        else none
    | _ => none

/-- A ready chorus of a core whose next instruction waits after all, so that it is not ready (R151); a chain that has begun does not
wait. -/
def State.heldOn (s : State) (core : Nat) : Option ChorusRef :=
  ((s.readyOn core).filter (fun p => p.2.chain.isNone)).findSome? (fun p =>
    let r : ChorusRef := { co := p.1.uid, ch := p.2.index }
    if (s.held? r).isSome then some r else none)

/-- What the ends, the halts and the stops of a cycle bring once its bays have issued: the sweep of a chorus, then the answers of the call
board that a company which stops awaits, then the save of a company, then the end of a debugger's step. -/
def State.aftermath (s : State) : Option Turn :=
  let swept := s.companies.findSome? (fun k => (k.choruses.find? Chorus.unswept).map (fun h => Turn.sweep { co := k.uid, ch := h.index }))
  let answered := (boardTurns (s.companies.filter (fun k => s.stops k && s.acts k))).head?
  ((swept.orElse (fun _ => answered)).orElse (fun _ => (s.companies.find? (fun k => k.saving && s.stoppable k && s.acts k)).map (fun k => .save k.uid))).orElse
    (fun _ => (s.contexts.find? s.stepOver).map (fun c => .stepEnd c.id))

/-- Whether a core is still to run a cycle that began together with one in which a chorus of another core has ended or halted: what that
brings to barriers comes after the issues of all of them (R171, R216). -/
def State.behind (s : State) (core : Nat) : Bool :=
  s.companies.any (fun k => k.core != core && k.choruses.any Chorus.unswept && (s.core k.core).began == (s.core core).at_)

/-- What comes before the next issue, if anything does: what a cycle has left to settle, and the events that are due. -/
def State.pending (s : State) : Option Turn := s.aftermath.orElse (fun _ => s.due?.map (fun h => .event h.1 h.2))

/-- What moves next. Events fall between the cycles of the core that issues next: within one core cycle the bays take
effect in order, and the rest after all four (R171). Under the curtain only what does not need its clocks goes on (R371); before that,
bring-up is completed (R365). -/
def State.nextTurn (s : State) : Turn :=
  if s.bootStep < 7 then (if s.recovery.isNone then .boot else .idle)
  else if s.curtain then ((s.deviceDue.find? s.moves).map (fun h => Turn.event h.1 h.2)).getD .idle
  else
    match s.earliestCore with
    | none => s.pending.getD (s.chooseTurn .idle)
    | some k =>
      if (s.core k).bay != 0 then s.coreTurn k
      else
        match (if s.behind k then none else s.pending) with
        | some t => t
        | none =>
          match s.heldOn k with
          | some r => .hold r
          | none =>
            match (s.coreDue k).find? s.moves with
            | some h => .event h.1 h.2
            | none => s.chooseTurn (s.coreTurn k)

/-! ## Taking a turn -/

/-- Ticks by which stage time moves on while no core runs: a T0 cycle. -/
def idleTicks : Nat := 14400

/-- A core's cycle begins: the choruses that are ready now are those that may issue in it. -/
def State.openCycle (s : State) (core : Nat) : State :=
  let c := s.core core
  if c.ready.isSome then s else s.setCore { c with ready := some ((s.readyOn core).map (fun p => (p.1.uid, p.2.index))) }

/-- Notes the slot of a bay's pick (R152), in the cycle that its core has open. -/
def State.notePick (s : State) (r : ChorusRef) : State :=
  match s.company? r.co with
  | none => s
  | some k =>
    match k.chorus? r.ch with
    | none => s
    | some h =>
      let s := s.openCycle k.core
      let c := s.core k.core
      s.setCore { c with picked := updAt c.picked (h.slot / 24) (fun _ => h.slot % 24) }

/-- A bay passes. -/
def State.skipBay (s : State) (core : Nat) : State :=
  let s := s.openCycle core
  let c := s.core core
  s.setCore { c with bay := c.bay + 1 }

/-- Takes a turn. -/
def State.take (s : State) : Turn → Out
  | .issue r => (s.notePick r).issueTurn r
  | .skip core => .next (s.skipBay core)
  | .hold r => .next ((s.held? r).getD s)
  | .cycle core => .next (s.endCycle core false)
  | .sweep r => .next (s.sweep r.co r.ch)
  | .save u => .next (s.save u)
  | .upset r b => .next (s.modChorus r.co r.ch (fun h => { h with upset := b }))
  | .mxUpset u l => .next (s.modCompany u (fun c => { c with mxUpset := l }))
  | .starve r => .next (s.modChorus r.co r.ch (fun h => { h with fetching := true, readyAge := 0, bandWait := 0 }))
  | .decoded r => .next (s.modChorus r.co r.ch (fun h => { h with fetching := false }))
  | .stepEnd ctx => .next (s.debugStop ctx)
  | .arrive m => .next (s.takeIn m)
  | .idle => .next (s.advance idleTicks)
  | .board r m => .next (s.boardAnswer r m)
  | .train n => .next (s.modPort n Port.train)
  | .fec n k => .next (s.modPort n (fun p => p.correct k))
  | .flitAck n q => .next (s.modPort n (fun p => p.acknowledged q))
  | .corrected n stack =>
    if n = 8 then .next { s with fohCorrected := s.fohCorrected + 1 } else .next (s.modDie n (fun d => if stack then { d with stackCorrected := d.stackCorrected + 1 } else { d with corrected := d.corrected + 1 }))
  | .firmware m w => .next (s.fwStep m w)
  | .boot => .next s.boot
  | .flash i im => .next { s with flash := s.flash.filter (fun f => f.1 != i) ++ [(i, im)] }
  | .event i a => if s.bootStep < 7 && !alwaysOn i then .next s else exec i { s with arg := a }

/-! ## A place for one instruction -/

/-- The playbill of the smallest company: one chorus of 32 lanes, one page of stage, no tile and no pool. -/
def Playbill.least : Playbill :=
  { codeBase := 0, codeLength := 8, entry := 0, handler := none, paramOffset := 0, wellSize := 8192, localSize := 0, fmt := 0
    ring := 32, choruses := 1, ensemble := 1, companies := 1, stage := 4096, scoreSlots := 0, scoreBase := none, pools := []
    tiles := [], pit := [] }

/-- A run of one such company in the context of firmware. -/
def Run.least : Run :=
  { ctx := 0, id := 1, tag := 0, queue := 0, cls := 0, prio := 0, troupes := 1, nextTroupe := 1, doneTroupes := 0, playbill := Playbill.least, code := [], codeAt := [], codeSince := []
    params := [], window := 0, lanes := 32, wells := 0, principals := List.replicate 32 0, pliMap := List.replicate 32 0, accepted := 0, holding := false,
    placedAt := some 0, windows := [], windowPoison := [], firstHalt := none, ending := none, killed := none, resumed := false, checkpoint := none, snapAt := none }

/-- The state with that company on core 0, as if the scheduler had given context 0 a cluster (R303) and a LAUNCH had placed it (R312), and
its chorus the one that issues. -/
def State.withCompany (s : State) : State :=
  let u := s.fresh
  let b : TroupeBarrier := { phase := 0, arrivals := [], arrived := [], counts := [], target := none }
  let s := (u.2.modContext 0 (fun c => { c with state := .resident, onStage := true, partition := [0] })).modCluster 0 (fun k =>
    { k with owner := some 0, power := .on })
  let c := Company.start u.1 Run.least 0 0 0 0 0
  let t : State := { s with
    runs := u.2.runs ++ [Run.least]
    troupes := u.2.troupes ++ [{ ctx := 0, run := 1, index := 0, cluster := 0, barriers := List.replicate 4 b, abandoned := false }]
    companies := u.2.companies ++ [c]
    cur := { co := u.1, ch := 0 } }
  t.wakeRows c

/-- The company of a site with bytes placed at its split's PC; the image reaches past them, and no pool holds them. -/
def Site.placeCode (x : Site) (bs : List Byte) : Company :=
  let pc := x.sp.pc.toNat
  { x.co with
    code := x.co.code.writeBytes pc bs
    playbill := { x.co.playbill with
      codeLength := Nat.max x.co.playbill.codeLength (pc / 4 * 4 + 8)
      pools := x.co.playbill.pools.filter (fun e => decide (pc + 4 ≤ e.1) || decide (e.1 + 4 * e.2 ≤ pc)) } }

/-- The state whose current chorus issues next, with bytes at its split's PC. -/
def State.placeCode (s : State) (bs : List Byte) : State :=
  match s.site? with
  | none => s
  | some x => { s.setCompany (x.placeCode bs) with agenda := .issue s.cur :: s.agenda }

end Sys2Proof.Machine
end

