-- ==== Sys2Proof/Machine/Step.lean ====
section
/-!
DEFINITION. One step of the device: the first turn of the agenda, or what the device's own order of things gives.
-/
namespace Sys2Proof.Machine

/-- One step. A turn that the agenda does not give uses up a free value. -/
def step (s : State) : Host.Outcome State Fault Refusal :=
  match s.agenda with
  | t :: rest => State.take { s with agenda := rest } t
  | [] => State.take { s with free := s.free + 1 } s.nextTurn

/-- The state with an instruction of `nbits` bits `w` where the next step fetches: at the PC of the chorus that issues. Where
no chorus can issue, the smallest company stands on core 0 first (log 1). -/
def State.withFetchWord (s : State) (nbits w : Nat) : State :=
  let s := if s.site?.isSome then s else s.withCompany
  s.placeCode (bytesLE 4 (w % 2 ^ nbits))

end Sys2Proof.Machine
end

