-- ==== Sys2Proof/Safety.lean ====
section
/-!
DEFINITION. What counts as a safe run, in the terms the statements use.
-/
namespace Sys2Proof

/-- A step that neither stops with a fault nor is refused. -/
def Safe (s : Machine.State) : Prop := ∃ t, Machine.step s = .next t

/-- The state after `n` steps, when every one of them is safe. -/
def runs : Nat → Machine.State → Option Machine.State
  | 0, s => some s
  | n + 1, s =>
    match Machine.step s with
    | .next t => runs n t
    | _ => none

end Sys2Proof
end

