-- ==== Sys2Proof/WellFormed.lean ====
section
/-!
DEFINITION. Well-formed instructions: every field holds a value its form allows (R48). An ill-formed one is still
decoded, and it traps with illegal encoding when it executes.
-/
namespace Sys2Proof

/-- Whether the fields of the instruction are legal. -/
def Instr.wellFormed (i : Instr) : Bool := fieldsLegal i

end Sys2Proof
end

