-- ==== Sys2Proof/Certificates/Slice0/Obligations.lean ====
section
/-!
DEFINITION. The statements about the machine, for the provers: what each instruction and each happening does, what it
leaves alone, and what every step keeps. A statement says in its docstring which rules of the spec it formalises.
-/
namespace Sys2Proof.Claims
open Sys2Proof.Machine

/-! ## What the statements share -/

/-- The lists of registers and slots of a chorus have their full length (R10): 16 house rows, a ring of 32 to 240 rows, 4
latches, 8 cues, 4 timers, and 8 range slots with their counters and phases. -/
structure Shaped (h : Chorus) : Prop where
  house : h.house.length = 16
  ring : 32 ≤ h.ring.length ∧ h.ring.length ≤ 240
  latches : h.latches.length = 4
  cues : h.cues.length = 8
  timers : h.timers.length = 4
  slots : h.slots.length = 8
  counters : h.counters.length = 8
  phases : h.phases.length = 8

/-- The instruction `i` issues at the site `x` of `s`: a chorus has it as its next instruction, no decode-time cause of R49
holds, its rows fit the ring and are resident (R126), the data of the registers it reads has come (R137, R151), and none of them is
poisoned (R348). -/
structure Issues (i : Instr) (s : State) (x : Site) : Prop where
  site : s.site? = some x
  shaped : Shaped x.ch
  free : x.sp.wait = .none
  cause : ownCause x i = none
  fits : x.overflowRow (regsNamed x i) = none
  resident : x.ch.resident (x.neededBy (regsNamed x i)) = true
  loaded : x.loading i = []
  clean : poisonedLane x i = none

/-- The PC after the instruction. -/
def nextPc (x : Site) (i : Instr) : Word := x.sp.pc + BitVec.ofNat 32 (encode i).length

/-- The cores and clusters, and everything that is no company, after an instruction of `x`: the issue is billed to the
cluster's record and to the core's cycle (R149, R154), and nothing else moves. -/
structure Billed (s t : State) (x : Site) : Prop where
  device : t = { s with companies := t.companies, cores := t.cores, clusters := t.clusters }
  cores : ∀ n, n ≠ x.co.core → t.core n = s.core n
  core : t.core x.co.core =
    { s.core x.co.core with issuing := (t.core x.co.core).issuing, bay := (t.core x.co.core).bay }
  clusters : ∀ n, t.cluster n = { s.cluster n with record := (t.cluster n).record }
  companies : ∀ u, u ≠ x.co.uid → t.company? u = s.company? u

/-- A split is ready (R121): it waits for nothing, its entry is on chip, and its window is resident (R126). -/
def splitReady (h : Chorus) (q : Split) : Prop := q.state = .ready ∧ q.spilled = false ∧ q.wait = .none ∧ h.resident q.needed = true

/-- The count of consecutive issues after instruction `i`: it runs on while another split of the chorus is ready, or asks in vain for rows
beside this one's (R121, R134, log 89), at the end of an instruction or a chain. -/
def issuesThen (x : Site) (i : Instr) (n : Nat) : Prop :=
  (chBit i = true → n = x.sp.issues) ∧
  (chBit i = false → (∃ q, q ∈ x.ch.splits ∧ q.members ≠ x.sp.members ∧ splitReady x.ch q) → n = x.sp.issues + 1) ∧
  (chBit i = false → (∀ q, q ∈ x.ch.splits → q.members ≠ x.sp.members → ¬splitReady x.ch q) → x.ch.crowded = false → n = 0)

/-- The split of `x` has moved to `pc` after instruction `i`, and `y` is what stands in its place in `t`: beside the advance
of the split, and the end of its hold on rows served to it (R134), nothing of the company, of the chorus and of the other splits has changed
from `x`. -/
structure PastAt (pc : Word) (i : Instr) (t : State) (x y : Site) : Prop where
  site : t.site? = some y
  company : y.co = { x.co with choruses := y.co.choruses }
  choruses : ∀ k, k ≠ x.ch.index → y.co.chorus? k = x.co.chorus? k
  chorus : y.ch = { x.ch with splits := y.ch.splits, chain := y.ch.chain, latches := y.ch.latches, issued := true, served := y.ch.served }
  served : y.ch.served = x.ch.served ∨ ((∃ a b, x.ch.served = some (x.sp.members, a, b)) ∧ y.ch.served = none)
  splits : y.ch.splits = updWhere (fun q => q.members == x.sp.members) (fun _ => y.sp) x.ch.splits
  split : y.sp = { x.sp with pc := pc, issues := y.sp.issues }
  issues : issuesThen x i y.sp.issues
  chain : chBit i = false → y.ch.chain = none ∧ y.ch.latches = noLatches

/-- As `PastAt`, at the instruction that follows. -/
def Past (i : Instr) (t : State) (x y : Site) : Prop := PastAt (nextPc x i) i t x y

/-- The instruction answers a next state, in which the split stands past it and the effect on the state around the company
is that of `s'`, and the effect on the site is that of `x'`: nothing else has changed. -/
def Does (i : Instr) (s s' : State) (x' : Site) : Prop :=
  ∃ t y, Machine.exec i s = .next t ∧ Billed s' t x' ∧ Past i t x' y

/-- As `Does`, for an instruction that leaves the split at `pc`. -/
def DoesAt (pc : Word) (i : Instr) (s : State) (x' : Site) : Prop :=
  ∃ t y, Machine.exec i s = .next t ∧ Billed s t x' ∧ PastAt pc i t x' y

/-- Register `d` of `y` holds `f` in the lanes of `m`, and every other register and lane reads as it did in `x`; a write
to v0 is dropped, v0 reads zero, and only marks of poison on the written row may have gone (R11, R12, R348). -/
structure Wrote (x y : Site) (d : Nat) (m : Mask) (f : Nat → Word) : Prop where
  new : d ≠ 0 → ∀ l, l < 32 → m.has l = true → y.reg d l = f l
  old : ∀ n l, n < 64 → l < 32 → (d = 0 ∨ m.has l = false ∨ x.physRow n ≠ x.physRow d) → y.reg n l = x.reg n l
  zero : ∀ l, y.reg 0 l = 0
  marks : ∀ q, q ∈ y.ch.poison → q ∈ x.ch.poison
  marksKept : ∀ q, q ∈ x.ch.poison → q.1 ≠ x.physRow d → q ∈ y.ch.poison

/-- `x` with the register rows and marks of poison of `y`. -/
def withRows (x y : Site) : Site :=
  { x with ch := { x.ch with house := y.ch.house, ring := y.ch.ring, poison := y.ch.poison } }

/-- A lane operation (R67): where it issues, it answers a next state; with nw clear `vd` holds `f` in each active lane, all
operands read before; with nw set no register changes; as member k of a chain it writes latch k, 0 outside the active set
(R21); and nothing else changes but the PC and the bill. No error of the hardware is said to stand (R347). -/
def LaneEffectWhere (p : State → Site → Prop) (i : Instr) (w : BitVec 1) (d : BitVec 6) (f : Site → Nat → Word) : Prop :=
  ∀ s x, Issues i s x → x.ch.upset = Lanes.zero → p s x →
    ∃ t y, Machine.exec i s = .next t ∧ Billed s t x ∧ Past i t (withRows x y) y ∧
      (w = 0 → Wrote x y d.toNat x.active (f x)) ∧
      (w ≠ 0 → withRows x y = x) ∧
      (∀ k, chBit i = true → x.member i = some k → k < 4 →
        (∀ l, l < 32 → (y.ch.latches.getD k Lanes.zero).at l = if x.active.has l then f x l else 0) ∧
        (∀ j, j ≠ k → y.ch.latches.getD j Lanes.zero = x.ch.latches.getD j Lanes.zero) ∧
        y.ch.chain = some (k + 1, match x.ch.chain with | some p => p.2 | none => x.sp.pc))

def LaneEffect (i : Instr) (w : BitVec 1) (d : BitVec 6) (f : Site → Nat → Word) : Prop := LaneEffectWhere (fun _ _ => True) i w d f

/-- The lane operation on two source selectors, on one, and on two and the old `vd`. -/
def Binary (mk : BitVec 1 → BitVec 1 → BitVec 7 → BitVec 7 → BitVec 6 → Instr) (op : Word → Word → Word) : Prop :=
  ∀ c w b a d, LaneEffect (mk c w b a d) w d (fun x l => op (x.src a l) (x.src b l))

def Unary (mk : BitVec 1 → BitVec 1 → BitVec 7 → BitVec 6 → Instr) (op : Word → Word) : Prop :=
  ∀ c w a d, LaneEffect (mk c w a d) w d (fun x l => op (x.src a l))

def InPlace (mk : BitVec 1 → BitVec 1 → BitVec 7 → BitVec 7 → BitVec 6 → Instr) (op : Word → Word → Word → Word) : Prop :=
  ∀ c w b a d, LaneEffect (mk c w b a d) w d (fun x l => op (x.src a l) (x.src b l) (x.reg d.toNat l))

/-- The lane operation on a source and a sign-extended 9-bit immediate. -/
def Immediate (mk : BitVec 1 → BitVec 1 → BitVec 9 → BitVec 7 → BitVec 6 → Instr) (op : Word → Word → Word) : Prop :=
  ∀ c w k a d, LaneEffect (mk c w k a d) w d (fun x l => op (x.src a l) (k.signExtend 32))

/-- The lane operation on a source and a shift count. -/
def ShiftBy (mk : BitVec 1 → BitVec 1 → BitVec 5 → BitVec 7 → BitVec 6 → Instr) (op : Word → Nat → Word) : Prop :=
  ∀ c w (k : BitVec 5) a d, LaneEffect (mk c w k a d) w d (fun x l => op (x.src a l) k.toNat)

/-- The 16-bit operation of `vd` and `vs` (R30). -/
def TwoAddress (mk : BitVec 6 → BitVec 5 → Instr) (op : Word → Word → Word) : Prop :=
  ∀ (v : BitVec 6) (d : BitVec 5), LaneEffect (mk v d) 0 (d.setWidth 6) (fun x l => op (x.reg d.toNat l) (x.reg v.toNat l))

/-- The operation whose one result goes to every active lane, as a function of the values of the active lanes, lowest
first, and of the leader's (R87, R88). -/
def Across (mk : BitVec 1 → BitVec 1 → BitVec 7 → BitVec 6 → Instr) (op : Site → BitVec 7 → Word) : Prop :=
  ∀ c w a d, LaneEffect (mk c w a d) w d (fun x _ => op x a)

/-- All ones for true, zero for false (R74). -/
def mask32 (p : Prop) [Decidable p] : Word := if p then 0xFFFFFFFF else 0

/-- An integer clamped to the INT32 range (R70). -/
def clamp32 (v : Int) : Word :=
  BitVec.ofInt 32 (if v < -2147483648 then -2147483648 else if 2147483647 < v then 2147483647 else v)

/-- The active lanes in rising order. -/
def activeLanes (x : Site) : List Nat := (List.range 32).filter (fun l => x.active.has l)

/-- The leader: the lowest active lane (R6). -/
def leaderOf (x : Site) : Nat := (activeLanes x).headD 0

/-- The mask with bit `j` set for each lane `j` that satisfies `p`. -/
def maskBy (p : Nat → Bool) : Mask :=
  (List.range 32).foldl (fun m j => if p j then m ||| (1#32 <<< j) else m) 0

/-- The members that have not exited, lowest first. -/
def liveLanes (x : Site) : List Nat := (List.range 32).filter (fun l => x.live.has l)

/-- The lane whose value a uniform operand takes: the leader, and with no lane active the lowest member that has not exited
(R6, R16). -/
def chosen (x : Site) : Nat := (activeLanes x ++ liveLanes x).headD 0

/-- The splits of a chorus have members, and no two share one (R15). -/
def Apart (h : Chorus) : Prop :=
  (∀ p, p ∈ h.splits → p.members ≠ 0) ∧ h.splits.Pairwise (fun p q => p.members &&& q.members = 0)

/-- No wait can end in the company: in every chorus that runs, a split runs, and the others run free or stand at their join
point; and no two choruses share an index. -/
def QuietCompany (c : Company) : Prop :=
  c.choruses.Pairwise (fun g h => g.index ≠ h.index) ∧ ∀ h, h ∈ c.choruses → h.halted ≠ none ∨ h.ended = true ∨
    (Apart h ∧ (∀ p, p ∈ h.splits → p.wait = .none ∨ (p.wait = .join ∧ p.state = .arrived)) ∧ ∃ p, p ∈ h.splits ∧ p.state = .running)

/-- No wait can end in the troupe of `c`, and no two companies share a number. -/
def QuietTroupe (s : State) (c : Company) : Prop :=
  s.companies.Pairwise (fun d e => d.uid ≠ e.uid) ∧ ∀ d, d ∈ s.companies → d.ctx = c.ctx → d.run = c.run → d.troupe = c.troupe → QuietCompany d

/-- The address that a trap saves: that of the instruction, or of member 0 of its chain (R22, R50). -/
def trapPc (x : Site) : Word := match x.ch.chain with | some p => p.2 | none => x.sp.pc

/-- A trap of cause `c` has been taken at the site (R26, R140, R350): `cause`, `epc` and `tval` are written and no register
changes; the playbill's handler is entered where it may be, with the active set, `wb`, frame, `depth` and `fmt` as they were;
else the chorus halts and issues nothing more, and its company and its run note the halt (R319, R349). The rest of the device, the other
companies and the other choruses of the company are as they were. -/
structure TrapTaken (s t : State) (x : Site) (c : Nat) (tv : Word) : Prop where
  saved : ∃ g, t.chorus? x.co.uid x.ch.index = some g ∧ g.cause = BitVec.ofNat 32 c ∧ g.epc = trapPc x ∧ g.tval = tv ∧
    g.chain = none ∧ g.house = x.ch.house ∧ g.ring = x.ch.ring ∧ g.exited = x.ch.exited ∧ g.fm = x.ch.fm
  device : t = { s with companies := t.companies, runs := t.runs }
  others : ∀ u, u ≠ x.co.uid → t.company? u = s.company? u
  company : ∃ d, t.company? x.co.uid = some d ∧ d = { x.co with choruses := d.choruses, firstHalt := d.firstHalt } ∧
    ∀ k, k ≠ x.ch.index → d.chorus? k = x.co.chorus? k
  handled : ∀ pc, x.co.playbill.handler = some pc → x.ch.handler = false → c ≠ 0x0F → c ≠ 0x10 →
    t.runs = s.runs ∧ ∃ y, t.site? = some y ∧ y.ch.handler = true ∧ y.sp = { x.sp with pc := BitVec.ofNat 32 pc } ∧
      y.co = { x.co with choruses := y.co.choruses }
  halted : (x.co.playbill.handler = none ∨ x.ch.handler = true ∨ c = 0x0F ∨ c = 0x10) →
    ∃ d g, t.company? x.co.uid = some d ∧ d.firstHalt.isSome = true ∧ d.chorus? x.ch.index = some g ∧ g.halted = some c

/-- The instruction issues, is billed (R149, R154), and answers the state after a trap, which is its own effect or what its form meets. -/
def Traps (i : Instr) (s : State) (x : Site) (c : Nat) (tv : Word) : Prop :=
  ∃ b t, Machine.exec i s = .next t ∧ Billed s b x ∧ b.companies = s.companies ∧ TrapTaken b t x c tv

/-- The instruction does not issue, and nothing is billed: its cause is found at decode, or its rows do not fit (R26, R49, R126). -/
def Refused (i : Instr) (s : State) (x : Site) (c : Nat) (tv : Word) : Prop := ∃ t, Machine.exec i s = .next t ∧ TrapTaken s t x c tv

end Sys2Proof.Claims

open Sys2Proof Sys2Proof.Machine Sys2Proof.Claims

/-! ## The integer instructions (R70 to R83) -/

/-- R70, R71: sums and differences wrap, the saturating forms clamp the exact signed result, the high products are exact,
and `mad` adds the product to the old `vd`. -/
def Sys2Proof.Claims.IntegerArithmeticResults : Prop :=
  Binary Instr.add (fun a b => a + b) ∧ Binary Instr.sub (fun a b => a - b) ∧
  Binary Instr.adds (fun a b => clamp32 (a.toInt + b.toInt)) ∧
  Binary Instr.subs (fun a b => clamp32 (a.toInt - b.toInt)) ∧
  Binary Instr.mul (fun a b => a * b) ∧
  Binary Instr.mulhs (fun a b => (a.signExtend 64 * b.signExtend 64).extractLsb' 32 32) ∧
  Binary Instr.mulhu (fun a b => (a.setWidth 64 * b.setWidth 64).extractLsb' 32 32) ∧
  InPlace Instr.mad (fun a b d => d + a * b)

/-- R72, R73: minimum and maximum, bitwise operations, shifts by the low five bits of b. -/
def Sys2Proof.Claims.LogicAndShiftResults : Prop :=
  Binary Instr.min (fun a b => if a.toInt ≤ b.toInt then a else b) ∧
  Binary Instr.max (fun a b => if b.toInt ≤ a.toInt then a else b) ∧
  Binary Instr.minu (fun a b => if a.toNat ≤ b.toNat then a else b) ∧
  Binary Instr.maxu (fun a b => if b.toNat ≤ a.toNat then a else b) ∧
  Binary Instr.and (fun a b => a &&& b) ∧ Binary Instr.or (fun a b => a ||| b) ∧
  Binary Instr.xor (fun a b => a ^^^ b) ∧ Binary Instr.andn (fun a b => a &&& ~~~b) ∧
  Binary Instr.shl (fun a b => a <<< (b.toNat % 32)) ∧ Binary Instr.shr (fun a b => a >>> (b.toNat % 32)) ∧
  Binary Instr.sar (fun a b => a.sshiftRight (b.toNat % 32)) ∧
  Binary Instr.rot (fun a b => (a <<< (b.toNat % 32)) ||| (a >>> (32 - b.toNat % 32)))

/-- R74, R75: a compare writes all ones for true and zero for false; `absd` is the exact distance. -/
def Sys2Proof.Claims.CompareResults : Prop :=
  Binary Instr.cmpeq (fun a b => mask32 (a = b)) ∧ Binary Instr.cmpne (fun a b => mask32 (a ≠ b)) ∧
  Binary Instr.cmplt (fun a b => mask32 (a.toInt < b.toInt)) ∧ Binary Instr.cmple (fun a b => mask32 (a.toInt ≤ b.toInt)) ∧
  Binary Instr.cmpltu (fun a b => mask32 (a.toNat < b.toNat)) ∧ Binary Instr.cmpleu (fun a b => mask32 (a.toNat ≤ b.toNat)) ∧
  Binary Instr.tst (fun a b => mask32 (a &&& b ≠ 0)) ∧
  Binary Instr.absd (fun a b => BitVec.ofInt 32 |a.toInt - b.toInt|)

namespace Sys2Proof.Claims

/-- Position, effective width and the mask of a field control word (R76). -/
def ctlPos (b : Word) : Nat := b.toNat % 32
def ctlWidth (b : Word) : Nat := min (min (b.toNat / 256 % 64) 32) (32 - ctlPos b)
def ones (n : Nat) : Word := BitVec.ofNat 32 (2 ^ n - 1)

/-- The number of set bits below bit `n`. -/
def setBits (a : Word) (n : Nat) : Nat := ((List.range n).filter (fun k => a.getLsbD k)).length

end Sys2Proof.Claims

/-- R76: `sel` takes a where the old `vd` is not zero; `bfx` and `bfi` move the field of effective width at the position of
the control word; `lea` scales b by four. -/
def Sys2Proof.Claims.SelectionAndFieldResults : Prop :=
  InPlace Instr.sel (fun a b d => if d = 0 then b else a) ∧
  Binary Instr.bfx (fun a b =>
    let f := (a >>> ctlPos b) &&& ones (ctlWidth b)
    if b.getLsbD 16 = true ∧ 0 < ctlWidth b ∧ f.getLsbD (ctlWidth b - 1) = true then f ||| ~~~ones (ctlWidth b) else f) ∧
  InPlace Instr.bfi (fun a b d =>
    (d &&& ~~~(ones (ctlWidth b) <<< ctlPos b)) ||| ((a &&& ones (ctlWidth b)) <<< ctlPos b)) ∧
  Binary Instr.lea (fun a b => a + 4 * b)

/-- R77, R78: bit counts by their defining property, the reversals bit by bit, moves, extensions and `pack`. -/
def Sys2Proof.Claims.BitCountAndMoveResults : Prop :=
  Unary Instr.popc (fun a => BitVec.ofNat 32 (setBits a 32)) ∧
  Unary Instr.clz (fun a => BitVec.ofNat 32 (((List.range 32).find? (fun n => a.getLsbD (31 - n))).getD 32)) ∧
  Unary Instr.ctz (fun a => BitVec.ofNat 32 (((List.range 32).find? (fun n => a.getLsbD n)).getD 32)) ∧
  Unary Instr.brev (fun a => maskBy (fun k => a.getLsbD (31 - k))) ∧
  Unary Instr.mov (fun a => a) ∧
  Unary Instr.zxb (fun a => (a.setWidth 8).setWidth 32) ∧ Unary Instr.sxb (fun a => (a.setWidth 8).signExtend 32) ∧
  Unary Instr.sxh (fun a => (a.setWidth 16).signExtend 32) ∧ Unary Instr.zxh (fun a => (a.setWidth 16).setWidth 32) ∧
  Binary Instr.pack (fun a b => b.setWidth 16 ++ a.setWidth 16) ∧
  Unary Instr.bsw (fun a => a.extractLsb' 0 8 ++ a.extractLsb' 8 8 ++ a.extractLsb' 16 8 ++ a.extractLsb' 24 8)

/-- R72, R73, R76 to R78: the results of the logic, shift, selection, field, bit count and move instructions. -/
def Obligations.LogicShiftSelectAndBitCountResults : Prop := LogicAndShiftResults ∧ SelectionAndFieldResults ∧ BitCountAndMoveResults

/-- R79: division truncates towards zero, the remainder takes the sign of the dividend, and the two cases without a true
quotient have fixed results; no trap is raised. -/
def Sys2Proof.Claims.DivisionResults : Prop :=
  Binary Instr.divs (fun a b =>
    if b = 0 then 0xFFFFFFFF else if a = 0x80000000 ∧ b = 0xFFFFFFFF then 0x80000000 else BitVec.ofInt 32 (a.toInt.tdiv b.toInt)) ∧
  Binary Instr.divu (fun a b => if b = 0 then 0xFFFFFFFF else BitVec.ofNat 32 (a.toNat / b.toNat)) ∧
  Binary Instr.rems (fun a b =>
    if b = 0 then a else if a = 0x80000000 ∧ b = 0xFFFFFFFF then 0 else BitVec.ofInt 32 (a.toInt.tmod b.toInt)) ∧
  Binary Instr.remu (fun a b => if b = 0 then a else BitVec.ofNat 32 (a.toNat % b.toNat))

/-- R70, R71, R74, R75, R79: the results of the integer arithmetic, compare and division instructions. -/
def Obligations.IntegerArithmeticCompareAndDivisionResults : Prop := IntegerArithmeticResults ∧ CompareResults ∧ DivisionResults

/-- R80, R81: the immediate forms perform the operation of their register form on the sign-extended 9-bit immediate, the
shifts on its count; `movi` writes the immediate, and `movh` puts it above the old low half. -/
def Sys2Proof.Claims.ImmediateResults : Prop :=
  Immediate Instr.addi (fun a k => a + k) ∧ Immediate Instr.andi (fun a k => a &&& k) ∧
  Immediate Instr.ori (fun a k => a ||| k) ∧ Immediate Instr.xori (fun a k => a ^^^ k) ∧
  ShiftBy Instr.shli (fun a n => a <<< n) ∧ ShiftBy Instr.shri (fun a n => a >>> n) ∧
  ShiftBy Instr.sari (fun a n => a.sshiftRight n) ∧
  Immediate Instr.cmpeqi (fun a k => mask32 (a = k)) ∧ Immediate Instr.cmplti (fun a k => mask32 (a.toInt < k.toInt)) ∧
  Immediate Instr.cmpltui (fun a k => mask32 (a.toNat < k.toNat)) ∧ Immediate Instr.muli (fun a k => a * k) ∧
  (∀ c w k d, LaneEffect (.movi c w k d) w d (fun _ _ => k.setWidth 32)) ∧
  (∀ c w k d, LaneEffect (.movh c w k d) w d (fun x l => k ++ (x.reg d.toNat l).setWidth 16))

namespace Sys2Proof.Claims

/-- The word of the code image at byte address `a`; outside the image it reads 0 (R82). -/
def imageWord (c : Company) (a : Nat) : Word :=
  if a + 4 ≤ c.playbill.codeLength then c.code.read (a + 3) ++ c.code.read (a + 2) ++ c.code.read (a + 1) ++ c.code.read a else 0

/-- No agent has written the code image since the launch. -/
def imageUnwritten (s : State) (x : Site) : Prop := ∀ r, s.run? x.co.ctx x.co.run = some r → r.codeSince = []

/-- The values that a read of a word of the code image may return (R84). -/
def mayRead (s : State) (c : Company) (a : Nat) (v : Word) : Prop :=
  v = imageWord c a ∨ ∃ r, s.run? c.ctx c.run = some r ∧ (a, v) ∈ r.codeSince

end Sys2Proof.Claims

/-- R82, R83: `lit` reads the word at (PC & ~3) + 4 × imm16; `ldp` reads, per lane, word imm9 + V[l][vs] of pool extent 0,
and 0 at or beyond its length or where the playbill lists no extent. R84: a word that no agent has written since the launch reads its launch
value, and another that value or one of those written since. -/
def Sys2Proof.Claims.CodeImageReadResults : Prop :=
  (∀ k d, LaneEffectWhere imageUnwritten (.lit k d) 0 d (fun x _ => imageWord x.co (x.sp.pc.toNat / 4 * 4 + 4 * k.toNat))) ∧
  (∀ (k : BitVec 9) a d, LaneEffectWhere imageUnwritten (.ldp k a d) 0 d (fun x l =>
    match x.co.playbill.pools with
    | [] => 0
    | e :: _ =>
      let n := (k.setWidth 32 + x.reg a.toNat l).toNat
      if n < e.2 then imageWord x.co (e.1 + 4 * n) else 0)) ∧
  (∀ (k : BitVec 16) d s x, d ≠ 0 → Issues (.lit k d) s x →
    ∃ t y, Machine.exec (.lit k d) s = .next t ∧ Billed s t x ∧ Past (.lit k d) t (withRows x y) y ∧
      ∀ l, l ∈ activeLanes x → mayRead s x.co (x.sp.pc.toNat / 4 * 4 + 4 * k.toNat) (y.reg d.toNat l)) ∧
  (∀ (k : BitVec 9) a d s x e r, d ≠ 0 → Issues (.ldp k a d) s x → x.co.playbill.pools = e :: r →
    ∃ t y, Machine.exec (.ldp k a d) s = .next t ∧ Billed s t x ∧ Past (.ldp k a d) t (withRows x y) y ∧
      ∀ l, l ∈ activeLanes x → (k.setWidth 32 + x.reg a.toNat l).toNat < e.2 →
        mayRead s x.co (e.1 + 4 * (k.setWidth 32 + x.reg a.toNat l).toNat) (y.reg d.toNat l))

/-! ## The 16-bit instructions (R30) -/

/-- R30: each 16-bit instruction computes `vd op vs` in every active lane as its 32-bit equivalent does. -/
def Sys2Proof.Claims.ShortFormResults : Prop :=
  TwoAddress Instr.mov16 (fun _ b => b) ∧ TwoAddress Instr.add16 (fun a b => a + b) ∧ TwoAddress Instr.sub16 (fun a b => a - b) ∧
  TwoAddress Instr.and16 (fun a b => a &&& b) ∧ TwoAddress Instr.or16 (fun a b => a ||| b) ∧
  TwoAddress Instr.xor16 (fun a b => a ^^^ b) ∧ TwoAddress Instr.shl16 (fun a b => a <<< (b.toNat % 32)) ∧
  TwoAddress Instr.shr16 (fun a b => a >>> (b.toNat % 32)) ∧ TwoAddress Instr.sar16 (fun a b => a.sshiftRight (b.toNat % 32)) ∧
  TwoAddress Instr.mul16 (fun a b => a * b) ∧ TwoAddress Instr.min16 (fun a b => if a.toInt ≤ b.toInt then a else b) ∧
  TwoAddress Instr.max16 (fun a b => if b.toInt ≤ a.toInt then a else b) ∧
  TwoAddress Instr.fadd16 (fun a b => rneFp32 (exactSum .rne [fp32.value a.toNat, fp32.value b.toNat])) ∧
  TwoAddress Instr.fsub16 (fun a b => rneFp32 (exactSum .rne [fp32.value a.toNat, (fp32.value b.toNat).neg])) ∧
  TwoAddress Instr.fmul16 (fun a b => rneFp32 ((fp32.value a.toNat).mul (fp32.value b.toNat))) ∧
  (∀ (k : BitVec 6) (d : BitVec 5), LaneEffect (.addi16 k d) 0 (d.setWidth 6) (fun x l => x.reg d.toNat l + k.signExtend 32))

/-- R30, R80 to R83: the results of the immediate forms, of the 16-bit forms and of reads of the code image. Beyond the rules it follows the model's
choices of log entries 9 and 99. -/
def Obligations.ImmediateShortFormAndCodeImageResults : Prop := ImmediateResults ∧ ShortFormResults ∧ CodeImageReadResults

/-! ## Lane exchange (R85 to R89) -/

namespace Sys2Proof.Claims

/-- The value of `a` in lane `j` when it is an active lane, and the reading lane's own otherwise (R85). -/
def fromOr (x : Site) (a : BitVec 7) (l : Nat) (p : Prop) [Decidable p] (j : Nat) : Word :=
  if p ∧ j < 32 ∧ x.active.has j = true then x.src a j else x.src a l

/-- The uniform count of a shuffle: bits 4:0 of b in the leader (R86). -/
def shuffleBy (x : Site) (b : BitVec 7) : Nat := (x.src b (leaderOf x)).toNat % 32

end Sys2Proof.Claims

/-- R85, R86: `shfl` reads the lane that b names, `shup`, `shdn` and `shxor` the lane that the leader's count gives; a source
that is not active, or not a lane, gives the reading lane its own value. -/
def Sys2Proof.Claims.ShuffleResults : Prop :=
  (∀ c w b a d, LaneEffect (.shfl c w b a d) w d (fun x l => fromOr x a l True ((x.src b l).toNat % 32))) ∧
  (∀ c w b a d, LaneEffect (.shup c w b a d) w d (fun x l => fromOr x a l (shuffleBy x b ≤ l) (l - shuffleBy x b))) ∧
  (∀ c w b a d, LaneEffect (.shdn c w b a d) w d (fun x l => fromOr x a l True (l + shuffleBy x b))) ∧
  (∀ c w b a d, LaneEffect (.shxor c w b a d) w d (fun x l => fromOr x a l True (l ^^^ shuffleBy x b)))

/-- R87, R88: votes and reductions range over the active lanes alone and give every active lane the same result. -/
def Sys2Proof.Claims.VoteAndReductionResults : Prop :=
  Across Instr.vany (fun x a => mask32 ((activeLanes x).any (fun l => x.src a l != 0) = true)) ∧
  Across Instr.vall (fun x a => mask32 ((activeLanes x).all (fun l => x.src a l != 0) = true)) ∧
  Across Instr.ballot (fun x a => maskBy (fun l => x.active.has l && x.src a l != 0)) ∧
  Across Instr.leader (fun x a => x.src a (leaderOf x)) ∧
  Across Instr.redadd (fun x a => BitVec.ofNat 32 (((activeLanes x).map (fun l => (x.src a l).toNat)).sum)) ∧
  Across Instr.redmin (fun x a => (activeLanes x).foldl (fun m l => if (x.src a l).toInt < m.toInt then x.src a l else m) 0x7FFFFFFF) ∧
  Across Instr.redmax (fun x a => (activeLanes x).foldl (fun m l => if m.toInt < (x.src a l).toInt then x.src a l else m) 0x80000000) ∧
  Across Instr.redminu (fun x a => (activeLanes x).foldl (fun m l => if (x.src a l).toNat < m.toNat then x.src a l else m) 0xFFFFFFFF)

/-- R89: the inclusive prefix sum over the active lanes, the mask of active lanes with the same value, and the number of
lower ones. -/
def Sys2Proof.Claims.ScanRankMatchResults : Prop :=
  (∀ c w a d, LaneEffect (.scan c w a d) w d (fun x l =>
    BitVec.ofNat 32 ((((activeLanes x).filter (fun j => j ≤ l)).map (fun j => (x.src a j).toNat)).sum))) ∧
  (∀ c w a d, LaneEffect (.rank c w a d) w d (fun x l =>
    BitVec.ofNat 32 ((activeLanes x).filter (fun j => j < l ∧ x.src a j = x.src a l)).length)) ∧
  (∀ c w a d, LaneEffect (.matchLanes c w a d) w d (fun x l =>
    maskBy (fun j => x.active.has j && x.src a j == x.src a l)))

/-- R85 to R89: the results of the lane-exchange instructions. -/
def Obligations.LaneExchangeResults : Prop := ShuffleResults ∧ VoteAndReductionResults ∧ ScanRankMatchResults

/-! ## Floating point (R94 to R114) -/

namespace Sys2Proof.Claims

/-- The exact value of an FP32 register (R53). -/
def fp (a : Word) : Val := fp32.value a.toNat

/-- A register of two 16-bit elements, element 0 in the low half (R105). -/
def pairs (g : Nat → Nat) : Word := BitVec.ofNat 16 (g 1) ++ BitVec.ofNat 16 (g 0)

/-- Element `i` of a register of 16-bit elements. -/
def elem16 (a : Word) (i : Nat) : Nat := a.toNat / 65536 ^ i % 65536

/-- Whether an FP32 code is a NaN. -/
def nanCode (a : Word) : Bool := decide (0x7F800000 < a.toNat % 2 ^ 31)

/-- The place of an FP32 code that is no NaN in the order -∞ < … < -0 < +0 < … < +∞ (R100). -/
def orderPlace (a : Word) : Int := if a.getLsbD 31 then -1 - (a.toNat % 2 ^ 31 : Nat) else (a.toNat % 2 ^ 31 : Nat)

/-- Whether an FP32 code is a zero of either sign. -/
def zeroCode (a : Word) : Bool := a.toNat % 2 ^ 31 == 0

/-- The FP32 compares of R101: false with a NaN, and the two zeros are equal. -/
def equalFp (a b : Word) : Bool := !nanCode a && !nanCode b && (a == b || zeroCode a && zeroCode b)
def lessFp (a b : Word) : Bool := !nanCode a && !nanCode b && !(zeroCode a && zeroCode b) && decide (orderPlace a < orderPlace b)

end Sys2Proof.Claims

/-- R98, R99 through the model's exact values and RND: the four operations and the four fused forms round the exact value
once, to nearest even without saturation. -/
def Sys2Proof.Claims.FloatArithmeticResults : Prop :=
  Binary Instr.fadd (fun a b => rneFp32 (exactSum .rne [fp a, fp b])) ∧
  Binary Instr.fsub (fun a b => rneFp32 (exactSum .rne [fp a, (fp b).neg])) ∧
  Binary Instr.fmul (fun a b => rneFp32 ((fp a).mul (fp b))) ∧
  Binary Instr.fdiv (fun a b => rneFp32 ((fp a).div (fp b))) ∧
  InPlace Instr.fma (fun a b d => rneFp32 (exactSum .rne [(fp a).mul (fp b), fp d])) ∧
  InPlace Instr.fms (fun a b d => rneFp32 (exactSum .rne [(fp a).mul (fp b), (fp d).neg])) ∧
  InPlace Instr.fnma (fun a b d => rneFp32 (exactSum .rne [((fp a).mul (fp b)).neg, fp d])) ∧
  InPlace Instr.fnms (fun a b d => rneFp32 (exactSum .rne [((fp a).mul (fp b)).neg, (fp d).neg]))

/-- R100, R101, R103: minimum and maximum under the total order with their NaN rules, the compares, and the one-hot class. -/
def Sys2Proof.Claims.FloatSelectCompareClassResults : Prop :=
  Binary Instr.fmin (fun a b => if nanCode a || nanCode b then 0x7FC00000 else if orderPlace a ≤ orderPlace b then a else b) ∧
  Binary Instr.fmax (fun a b => if nanCode a || nanCode b then 0x7FC00000 else if orderPlace b ≤ orderPlace a then a else b) ∧
  Binary Instr.fminnum (fun a b =>
    if nanCode a then (if nanCode b then 0x7FC00000 else b) else if nanCode b then a else if orderPlace a ≤ orderPlace b then a else b) ∧
  Binary Instr.fmaxnum (fun a b =>
    if nanCode a then (if nanCode b then 0x7FC00000 else b) else if nanCode b then a else if orderPlace b ≤ orderPlace a then a else b) ∧
  Binary Instr.fcmpeq (fun a b => mask32 (equalFp a b = true)) ∧
  Binary Instr.fcmplt (fun a b => mask32 (lessFp a b = true)) ∧
  Binary Instr.fcmple (fun a b => mask32 (lessFp a b = true ∨ equalFp a b = true)) ∧
  Binary Instr.fcmpun (fun a b => mask32 (nanCode a = true ∨ nanCode b = true)) ∧
  Unary Instr.fclass (fun a =>
    let mag := a.toNat % 2 ^ 31
    if 0x7F800000 < mag then (if a.getLsbD 22 then 1#32 <<< 9 else 1#32 <<< 8)
    else if mag = 0x7F800000 then (if a.getLsbD 31 then 1#32 <<< 0 else 1#32 <<< 7)
    else if 2 ^ 23 ≤ mag then (if a.getLsbD 31 then 1#32 <<< 1 else 1#32 <<< 6)
    else if mag ≠ 0 then (if a.getLsbD 31 then 1#32 <<< 2 else 1#32 <<< 5)
    else (if a.getLsbD 31 then 1#32 <<< 3 else 1#32 <<< 4))

/-- R102, R104 through the model's exact values and RND: reciprocal, roots and the transcendental functions write the code
that the model computes for them, `frnd` rounds to an integral value in its mode, keeping the sign of a zero, an
infinity, and the canonical NaN. -/
def Sys2Proof.Claims.FloatFunctionResults : Prop :=
  Unary Instr.frcp (fun a => rneFp32 ((Val.fin false 1 0).div (fp a))) ∧
  Unary Instr.frsq (fun a => rneFp32 (fp a).rsqrt) ∧ Unary Instr.fsqrt (fun a => rneFp32 (fp a).sqrt) ∧
  Unary Instr.fexp2 exp2Code ∧ Unary Instr.flog2 log2Code ∧ Unary Instr.fsinpi sinpiCode ∧ Unary Instr.fcospi cospiCode ∧
  (∀ c w m a d, LaneEffect (.frnd c w m a d) w d (fun x l =>
    match fp (x.src a l) with
    | .nan => 0x7FC00000
    | .inf _ => x.src a l
    | .fin neg n e => rneFp32 (.fin neg (roundUnits (Mode.ofCode m) neg n e 0) 0)))

/-- R98, R99, R102, R104: the results of floating-point arithmetic and of the functions of one operand. Beyond the rules it follows the model's
choices of log entry 20. -/
def Obligations.FloatArithmeticAndFunctionResults : Prop := FloatArithmeticResults ∧ FloatFunctionResults

/-- R102: the special operands of the table, and the exact results it names. -/
def Sys2Proof.Claims.FloatFunctionSpecials : Prop :=
  (∀ a, nanCode a = true → fRcp a = 0x7FC00000 ∧ fRsq a = 0x7FC00000 ∧ fSqrt a = 0x7FC00000 ∧ exp2Code a = 0x7FC00000 ∧
    log2Code a = 0x7FC00000 ∧ sinpiCode a = 0x7FC00000 ∧ cospiCode a = 0x7FC00000) ∧
  (∀ a, nanCode a = false → zeroCode a = false → a.getLsbD 31 = true →
    fRsq a = 0x7FC00000 ∧ fSqrt a = 0x7FC00000 ∧ log2Code a = 0x7FC00000) ∧
  (fRcp 0xFF800000 = 0x80000000 ∧ exp2Code 0xFF800000 = 0 ∧ sinpiCode 0xFF800000 = 0x7FC00000 ∧ cospiCode 0xFF800000 = 0x7FC00000) ∧
  (fRcp 0x80000000 = 0xFF800000 ∧ fRsq 0x80000000 = 0xFF800000 ∧ fSqrt 0x80000000 = 0x80000000 ∧ exp2Code 0x80000000 = 0x3F800000 ∧
    log2Code 0x80000000 = 0xFF800000 ∧ sinpiCode 0x80000000 = 0x80000000 ∧ cospiCode 0x80000000 = 0x3F800000) ∧
  (fRcp 0 = 0x7F800000 ∧ fRsq 0 = 0x7F800000 ∧ fSqrt 0 = 0 ∧ exp2Code 0 = 0x3F800000 ∧ log2Code 0 = 0xFF800000 ∧ sinpiCode 0 = 0 ∧
    cospiCode 0 = 0x3F800000) ∧
  (fRcp 0x7F800000 = 0 ∧ fRsq 0x7F800000 = 0 ∧ fSqrt 0x7F800000 = 0x7F800000 ∧ exp2Code 0x7F800000 = 0x7F800000 ∧
    log2Code 0x7F800000 = 0x7F800000 ∧ sinpiCode 0x7F800000 = 0x7FC00000 ∧ cospiCode 0x7F800000 = 0x7FC00000) ∧
  log2Code 0x3F800000 = 0 ∧
  (∀ n : Nat, 0 < n → n < 2 ^ 24 → sinpiCode (rneFp32 (.fin false n 0)) = 0 ∧ sinpiCode (rneFp32 (.fin true n 0)) = 0x80000000) ∧
  (∀ neg, ∀ n : Nat, n < 2 ^ 22 → cospiCode (rneFp32 (.fin neg (2 * n + 1) (-1))) = 0) ∧
  (∀ k : Int, -149 ≤ k → k ≤ 127 → exp2Code (rneFp32 (Val.ofInt k)) = rneFp32 (.fin false 1 k)) ∧
  (∀ k : Int, -149 ≤ k → k ≤ 127 → log2Code (rneFp32 (.fin false 1 k)) = rneFp32 (Val.ofInt k))

namespace Sys2Proof.Claims

/-- The rational number that a finite exact value stands for. -/
def valQ : Val → Option ℚ
  | .fin neg n e => some ((if neg then -1 else 1) * (n : ℚ) * (2 : ℚ) ^ e)
  | _ => none

/-- The floating-point formats of R53. -/
def formats : List Fmt := [fp32, fp16, bf16, e5m2, e4m3, e3m2, e2m3, e2m1]

/-- The finite numbers that a format represents. -/
def Represents (f : Fmt) (q : ℚ) : Prop := ∃ c, c < 2 ^ f.width ∧ valQ (f.value c) = some q

end Sys2Proof.Claims

/-- R59, R60: where |x| does not pass the largest finite number of the format, RND gives the representable number that its
mode asks for: under RNE a nearest one, on a tie the one with an even last mantissa bit; under RZ the greatest magnitude that
does not pass |x|; under RDN the greatest not above x; under RUP the least not below x. -/
def Obligations.RoundingPicksTheNeighbourOfItsMode : Prop :=
  ∀ f, f ∈ formats → ∀ m sat neg n e q x, valQ (f.value f.maxCode) = some q → valQ (.fin neg n e) = some x → |x| ≤ q →
    ∃ r, f.rnd m sat (.fin neg n e) < 2 ^ f.width ∧ valQ (f.value (f.rnd m sat (.fin neg n e))) = some r ∧
      match m with
      | .rne => ∀ p, Represents f p → |r - x| ≤ |p - x| ∧ (|r - x| = |p - x| → p ≠ r → f.rnd m sat (.fin neg n e) % 2 = 0)
      | .rz => |r| ≤ |x| ∧ ∀ p, Represents f p → |p| ≤ |x| → |p| ≤ |r|
      | .rdn => r ≤ x ∧ ∀ p, Represents f p → p ≤ x → p ≤ r
      | .rup => x ≤ r ∧ ∀ p, Represents f p → x ≤ p → r ≤ p

/-- R60: NaN, zeros, infinities and finite values beyond the largest number: rounded with an unbounded exponent, they stay at it or pass
it. -/
def Sys2Proof.Claims.RoundingSpecials : Prop :=
  ∀ f, f ∈ formats → ∀ m sat neg,
    f.rnd m sat .nan = f.nanCode ∧ (∀ e, f.rnd m sat (.fin neg 0 e) = f.sign neg) ∧
    f.rnd m sat (.inf neg) =
      (if sat then f.sign neg + f.maxCode
       else match f.top with
        | .ieee => f.sign neg + f.infCode
        | .nanOnly => f.nanCode
        | .none => f.sign neg + f.maxCode) ∧
    (∀ (n : Nat) (e : Int) (q : ℚ), valQ (f.value f.maxCode) = some q → 2 * q ≤ (n : ℚ) * (2 : ℚ) ^ e →
      f.rnd m sat (.fin neg n e) =
        (if sat || !(m == .rne || (m == .rup && !neg) || (m == .rdn && neg)) then f.sign neg + f.maxCode
         else match f.top with
          | .ieee => f.sign neg + f.infCode
          | .nanOnly => f.nanCode
          | .none => f.sign neg + f.maxCode)) ∧
    (∀ (n : Nat) (e : Int) (q p x : ℚ), valQ (f.value f.maxCode) = some q → valQ (f.value (f.maxCode - 1)) = some p →
      valQ (.fin false n e) = some x → q < x →
      f.rnd m sat (.fin neg n e) =
        (if m = .rz ∨ (m = .rup ∧ neg = true) ∨ (m = .rdn ∧ neg = false) ∨
            (m = .rne ∧ (x - q < (q - p) / 2 ∨ (x - q = (q - p) / 2 ∧ f.maxCode % 2 = 0))) ∨ sat = true then f.sign neg + f.maxCode
         else match f.top with
          | .ieee => f.sign neg + f.infCode
          | .nanOnly => f.nanCode
          | .none => f.sign neg + f.maxCode))

/-- R61, R65, R98, R99: the special operands of sums, products and quotients, and the sign of a zero. -/
def Sys2Proof.Claims.ExactArithmeticSpecials : Prop :=
  (∀ m ts, (Val.nan ∈ ts ∨ (Val.inf true ∈ ts ∧ Val.inf false ∈ ts)) → exactSum m ts = .nan) ∧
  (∀ m ts neg, Val.nan ∉ ts → Val.inf neg ∈ ts → Val.inf (!neg) ∉ ts → exactSum m ts = .inf neg) ∧
  (∀ m ts neg, ts ≠ [] → (∀ t, t ∈ ts → ∃ e, t = .fin neg 0 e) → ∃ e, exactSum m ts = .fin neg 0 e) ∧
  (∀ m ts d e, (∀ t, t ∈ ts → ∃ neg e, t = .fin neg 0 e) → Val.fin true 0 d ∈ ts → Val.fin false 0 e ∈ ts →
    ∃ z, exactSum m ts = .fin (m == .rdn) 0 z) ∧
  (∀ m a n e, n ≠ 0 → ∃ z, exactSum m [.fin a n e, .fin (!a) n e] = .fin (m == .rdn) 0 z) ∧
  (∀ ts m q, (∀ t, t ∈ ts → valQ t ≠ none) → valQ (exactSum m ts) = some q → q = (ts.map (fun t => (valQ t).getD 0)).sum) ∧
  (∀ a n e, Val.mul (.inf a) (.fin n 0 e) = .nan ∧ Val.mul (.fin n 0 e) (.inf a) = .nan) ∧
  (∀ a b n k e f, Val.mul (.fin a n e) (.fin b k f) = .fin (a != b) (n * k) (e + f)) ∧
  (∀ a b, Val.div (.inf a) (.inf b) = .nan) ∧ (∀ a b e f, Val.div (.fin a 0 e) (.fin b 0 f) = .nan) ∧
  (∀ a b n e f, n ≠ 0 → Val.div (.fin a n e) (.fin b 0 f) = .inf (a != b)) ∧
  (∀ a b n e, ∃ z, Val.div (.fin a n e) (.inf b) = .fin (a != b) 0 z)

/-- R60, R61, R65, R98, R99, R102: the special operands of rounding, of the functions and of exact arithmetic. Beyond the rules it follows the
model's choices of log entry 20. -/
def Obligations.FloatSpecialOperands : Prop := RoundingSpecials ∧ FloatFunctionSpecials ∧ ExactArithmeticSpecials

/-- R105 through the model's exact values and RND: the packed operations round each 16-bit element on its own. -/
def Sys2Proof.Claims.PackedPairResults : Prop :=
  Binary Instr.hadd2 (fun a b => pairs (fun i => fp16.rnd .rne false (exactSum .rne [fp16.value (elem16 a i), fp16.value (elem16 b i)]))) ∧
  Binary Instr.hmul2 (fun a b => pairs (fun i => fp16.rnd .rne false ((fp16.value (elem16 a i)).mul (fp16.value (elem16 b i))))) ∧
  InPlace Instr.hfma2 (fun a b d => pairs (fun i =>
    fp16.rnd .rne false (exactSum .rne [(fp16.value (elem16 a i)).mul (fp16.value (elem16 b i)), fp16.value (elem16 d i)]))) ∧
  InPlace Instr.bfma2 (fun a b d => pairs (fun i =>
    bf16.rnd .rne false (exactSum .rne [(bf16.value (elem16 a i)).mul (bf16.value (elem16 b i)), bf16.value (elem16 d i)])))

/-- R100, R101, R103, R105: the results of selection, compare, class and the packed operations. -/
def Obligations.FloatSelectCompareAndPackedResults : Prop := FloatSelectCompareClassResults ∧ PackedPairResults

/-- R106 to R108 and R111 to R114: conversions, the scale product, packing and unpacking, and the shared block scale, through
the model's functions of the operand values; `cvt` and `cvtsr` saturate as `fmt` bit 10 says, and `dp4u` alone takes b from
the leader (R109, R110). -/
def Sys2Proof.Claims.ConversionAndDotProductResults : Prop :=
  (∀ c w m k a d, LaneEffect (.cvt c w m k a d) w d (fun x l => convert k (Mode.ofCode m) (x.sp.fmt.getLsbD 10) (x.src a l))) ∧
  (∀ c w t b a d, LaneEffect (.cvtsr c w t b a d) w d (fun x l => convertSr t (x.sp.fmt.getLsbD 10) (x.src a l) (x.src b l))) ∧
  (∀ c w b a d, LaneEffect (.dp4 c w b a d) w d (fun x l => dotProduct 4 8 x.sp.fmt (x.src a l) (x.src b l) (x.reg d.toNat l))) ∧
  (∀ c w b a d, LaneEffect (.dp8 c w b a d) w d (fun x l => dotProduct 8 4 x.sp.fmt (x.src a l) (x.src b l) (x.reg d.toNat l))) ∧
  (∀ c w b a d, LaneEffect (.dp2 c w b a d) w d (fun x l => dotProduct 2 16 x.sp.fmt (x.src a l) (x.src b l) (x.reg d.toNat l))) ∧
  (∀ c w b a d, LaneEffect (.dp4u c w b a d) w d (fun x l =>
    dotProduct 4 8 x.sp.fmt (x.src a l) (x.src b (leaderOf x)) (x.reg d.toNat l))) ∧
  Binary Instr.scl (fun a b => rneFp32 ((fp a).mul (if b.toNat % 256 = 255 then .nan else .fin false 1 (((b.toNat % 256 : Nat) : Int) - 127)))) ∧
  (∀ c w b a d, LaneEffect (.pk8 c w b a d) w d (fun x l => packTwo x.sp.fmt (x.src a l) (x.src b l) (x.reg d.toNat l))) ∧
  (∀ c w b a d, LaneEffect (.upk c w b a d) w d (fun x l => unpackOne x.sp.fmt (x.src a l) (x.src b l))) ∧
  Across Instr.mxs (fun x a => sharedScale (fmtA x.sp.fmt) ((activeLanes x).map (x.src a)))

namespace Sys2Proof.Claims

/-- The integer `z` is what mode `m` rounds a rational number to (R59). -/
def RoundsTo (m : Mode) (x : ℚ) (z : Int) : Prop :=
  match m with
  | .rne => |(z : ℚ) - x| ≤ 1 / 2 ∧ (|(z : ℚ) - x| = 1 / 2 → z % 2 = 0)
  | .rz => |(z : ℚ)| ≤ |x| ∧ |x| - |(z : ℚ)| < 1 ∧ 0 ≤ (z : ℚ) * x
  | .rdn => (z : ℚ) ≤ x ∧ x < z + 1
  | .rup => x ≤ (z : ℚ) ∧ (z : ℚ) < x + 1

/-- The code `c` is what RNDI makes of an exact value (R62). -/
def IntegerCode (i : IntFmt) (m : Mode) (v : Val) (c : Nat) : Prop :=
  match v with
  | .nan => c = 0
  | .inf neg => (c : Int) = (if neg then i.lo else i.hi) % 2 ^ i.width
  | v => ∃ x z, valQ v = some x ∧ RoundsTo m x z ∧ (c : Int) = max i.lo (min i.hi z) % 2 ^ i.width

/-- The code `c` is that of an FP32 value in an element format (R112). -/
def ElementCode (f : BitVec 16) (a : Word) (c : Nat) : Prop :=
  match elemFmt (fmtA f) with
  | some (.flt g) => c = g.rnd (fmtMode f) (fmtSat f) (fp a)
  | some (.int i) => IntegerCode i (fmtMode f) (fp a) c
  | none => False

/-- The container widths and the largest exponents of the format codes 0x0 to 0xA (R58, R112, R114). -/
def widthOf (c : BitVec 4) : Nat := [8, 8, 8, 8, 4, 8, 8, 4, 4, 16, 16].getD c.toNat 8
def topExponent (c : BitVec 4) : Int := [8, 15, 4, 2, 2, 6, 7, 2, 3, 15, 127].getD c.toNat 0

/-- The FP32 register `r` holds the element code `c` exactly (R113). -/
def Unpacked (f : BitVec 16) (c : Nat) (r : Word) : Prop :=
  match elemFmt (fmtA f) with
  | some (.flt g) =>
    (match g.value (c % 2 ^ g.width) with
     | .nan => r = 0x7FC00000
     | .inf neg => r = if neg then 0xFF800000 else 0x7F800000
     | v => valQ (fp r) = valQ v)
  | some (.int i) => valQ (fp r) = some (i.value c : ℚ)
  | none => False

end Sys2Proof.Claims

/-- R106, R107: the sources and destinations of the conversion codes; a float destination takes RND of the exact value of the source, an
integer destination RNDI of it. -/
def Sys2Proof.Claims.ConversionLaws : Prop :=
  (∀ k : BitVec 7, cvtSource k = [CvtKind.flt fp32, .int int32, .int uint32, .flt fp16, .flt bf16, .flt e4m3, .flt e5m2, .scale].getD (k.toNat / 16) .scale) ∧
  (∀ k : BitVec 7, k.toNat % 16 < 14 → some (cvtDest k) = [CvtKind.flt fp32, .int int32, .int uint32, .flt fp16, .flt bf16, .flt e4m3, .flt e5m2, .flt e3m2,
    .flt e2m3, .flt e2m1, .int int8, .int uint8, .int int4, .int uint4][k.toNat % 16]?) ∧
  (∀ k a g, cvtSource k = .flt g → cvtValue k a = g.value (a.toNat % 2 ^ g.width)) ∧
  (∀ k a i, cvtSource k = .int i → valQ (cvtValue k a) = some (i.value a.toNat : ℚ)) ∧
  (∀ k a, cvtSource k = .scale → cvtValue k a = if a.toNat % 256 = 255 then .nan else .fin false 1 (((a.toNat % 256 : Nat) : Int) - 127)) ∧
  (∀ k m sat a f, cvtDest k = .flt f → cvtSource k ≠ .flt f → (convert k m sat a).toNat = f.rnd m sat (cvtValue k a)) ∧
  (∀ k m sat a i, cvtDest k = .int i → (∀ j, cvtSource k ≠ .int j) → IntegerCode i m (cvtValue k a) (convert k m sat a).toNat)

/-- R63, R108: stochastic rounding keeps 16 bits below the last place of the target, adds the random value there and truncates. -/
def Sys2Proof.Claims.StochasticRoundingLaws : Prop :=
  (∀ t : BitVec 2, srTarget t = [bf16, e4m3, e5m2, e2m1].getD t.toNat e2m1) ∧
  (∀ t sat a b, (nanCode a = true ∨ zeroCode a = true ∨ a.toNat % 2 ^ 31 = 0x7F800000) → (convertSr t sat a b).toNat = (srTarget t).rnd .rz sat (fp a)) ∧
  (∀ t sat a b (x q : ℚ) (k : Int), valQ (fp a) = some x → (2 : ℚ) ^ k ≤ |x| → |x| < (2 : ℚ) ^ (k + 1) →
    valQ ((srTarget t).value (srTarget t).maxCode) = some q →
    let u : ℚ := (2 : ℚ) ^ (max k (1 - ((srTarget t).bias : Int)) - ((srTarget t).mant : Int))
    let z : Int := ⌊((⌊|x| / u * 65536⌋ + ((b.toNat % 65536 : Nat) : Int) : Int) : ℚ) / 65536⌋
    (z * u ≤ q → valQ ((srTarget t).value (convertSr t sat a b).toNat) = some (if x < 0 then -(z * u) else z * u)) ∧
    (q < z * u → (convertSr t sat a b).toNat = (srTarget t).sign (decide (x < 0)) + (srTarget t).maxCode))

/-- R110 with R65: a dot product with a float format rounds the exact sum of the accumulator and the products once, in the mode of `fmt`. -/
def Sys2Proof.Claims.FloatDotProductLaw : Prop :=
  ∀ n w f a b d, (codeIsInt (fmtA f) && codeIsInt (fmtB f)) = false →
    dotProduct n w f a b d = BitVec.ofNat 32 (fp32.rnd (fmtMode f) (fmtSat f) (exactSum (fmtMode f) (fp d :: (List.range n).map (fun i =>
      (codeValue (fmtA f) (a.toNat / 2 ^ (w * i) % 2 ^ w)).mul (codeValue (fmtB f) (b.toNat / 2 ^ (w * i) % 2 ^ w))))))

/-- R112 to R114: two values are converted and shifted in from the top; an element is unpacked exactly; the shared scale is that of the
largest magnitude. -/
def Sys2Proof.Claims.PackingAndScaleLaws : Prop :=
  (∀ f a b d, (fmtA f).toNat ≤ 10 → ∃ p q, ElementCode f a p ∧ ElementCode f b q ∧
    packTwo f a b d = BitVec.ofNat 32 (if widthOf (fmtA f) = 16 then p + q * 2 ^ 16
      else d.toNat / 2 ^ (2 * widthOf (fmtA f)) + p * 2 ^ (32 - 2 * widthOf (fmtA f)) + q * 2 ^ (32 - widthOf (fmtA f)))) ∧
  (∀ f a b, (fmtA f).toNat ≤ 10 →
    Unpacked f (a.toNat / 2 ^ (widthOf (fmtA f) * (b.toNat % (32 / widthOf (fmtA f)))) % 2 ^ widthOf (fmtA f)) (unpackOne f a b)) ∧
  (∀ c vs a, a ∈ vs → 0x7F800000 ≤ a.toNat % 2 ^ 31 → sharedScale c vs = 0xFF) ∧
  (∀ c vs, (∀ a, a ∈ vs → zeroCode a = true) → sharedScale c vs = 0x7F) ∧
  (∀ (c : BitVec 4) vs (b : Word) (y : ℚ) (k : Int), c.toNat ≤ 10 → b ∈ vs → valQ (fp b) = some y →
    (∀ a, a ∈ vs → ∃ x, valQ (fp a) = some x ∧ |x| ≤ |y|) → (2 : ℚ) ^ k ≤ |y| → |y| < (2 : ℚ) ^ (k + 1) →
    sharedScale c vs = BitVec.ofInt 32 (max 0 (min 254 (k - topExponent c + 127))))

/-- R107, R110: a format converted into itself returns its operand, a NaN its canonical form; integers clamp to the
destination; a dot product of two integer formats is the exact sum modulo 2^32. -/
def Sys2Proof.Claims.ConversionAndDotProductLaws : Prop :=
  (∀ k m sat a, cvtSource k = cvtDest k → (cvtValue k a).isNan = false → ∀ f, cvtDest k = .flt f →
    (convert k m sat a).toNat = a.toNat % 2 ^ f.width) ∧
  (∀ k m sat a f, cvtDest k = .flt f → (cvtValue k a).isNan = true → (convert k m sat a).toNat = f.nanCode) ∧
  (∀ k m sat a i j, cvtDest k = .int i → cvtSource k = .int j →
    ((convert k m sat a).toNat : Int) = max i.lo (min i.hi (j.value a.toNat)) % 2 ^ i.width) ∧
  (∀ n w f a b d, codeIsInt (fmtA f) = true → codeIsInt (fmtB f) = true →
    dotProduct n w f a b d = BitVec.ofInt 32 (d.toInt +
      ((List.range n).map (fun i => codeInt (fmtA f) (a.toNat / 2 ^ (w * i) % 2 ^ w) * codeInt (fmtB f) (b.toNat / 2 ^ (w * i) % 2 ^ w))).sum))

/-- R106 to R114: conversions, packing, scales and dot products, and their laws. Beyond the rules it follows the model's choices of log entry
16. -/
def Obligations.ConversionAndDotProducts : Prop :=
  ConversionAndDotProductResults ∧ ConversionAndDotProductLaws ∧ ConversionLaws ∧ StochasticRoundingLaws ∧ FloatDotProductLaw ∧ PackingAndScaleLaws

/-! ## Lane accesses to the well, the stage, tiles and the cistern (R137, R161 to R173, R223 to R226) -/

namespace Sys2Proof.Claims

/-- The word, halfword and byte at an address, little-endian, zero-extended (R161). -/
def leWord (m : Memory) (a : Nat) : Word := m.read (a + 3) ++ m.read (a + 2) ++ m.read (a + 1) ++ m.read a
def leHalf (m : Memory) (a : Nat) : Word := (m.read (a + 1) ++ m.read a).setWidth 32
def leByte (m : Memory) (a : Nat) : Word := (m.read a).setWidth 32

/-- The address of each active lane, lowest lane first: base register plus offset, modulo 2^32 (R36). -/
def laneAddrs (x : Site) (b : BitVec 6) (off : Word) : List (Nat × Nat) :=
  (activeLanes x).map (fun l => (l, (x.reg b.toNat l + off).toNat))

/-- The offset of a form-M field: a signed multiple of the size (R36). -/
def offM (o : BitVec 10) (size : Nat) : Word := o.signExtend 32 * BitVec.ofNat 32 size

/-- The spans of a lane access in a space: 0 main memory, 1 cistern, 2 stage. -/
def spans (space size : Nat) (as : List (Nat × Nat)) : List Span := as.map (fun a => { space := space, base := a.2, len := size })

/-- Some lane is active, the chorus has fewer than 64 accesses in flight (R24), and no counter of a range slot that the
access would be tagged with is at 255 (R275). -/
structure Free (x : Site) (space size : Nat) (as : List (Nat × Nat)) : Prop where
  active : x.active ≠ 0
  room : x.ch.inflight.length < 64
  counters : ∀ t, t ∈ x.ch.tagsFor (spans space size as) → x.ch.count t < 255

/-- The site once its access is in flight: the split's count, and the access with its tags, its tile, the rows and house registers it
writes and the time of its issue (R24, R133, R151, R168, R275). The rows of registers are those of `y`. -/
def inFlight (x y : Site) (s : State) (reads : Bool) (space size : Nat) (as : List (Nat × Nat)) (tile : Option Nat)
    (rows : List Nat) : Site :=
  { (withRows x y) with
    sp := { x.sp with mem := x.sp.mem + 1 }
    ch := { ((withRows x y).ch.tag (x.ch.tagsFor (spans space size as))) with
      inflight := x.ch.inflight ++
        [{ uid := s.uid, reads := reads, members := x.active, tags := x.ch.tagsFor (spans space size as), tile := tile,
           rows := rows.filterMap (fun n => if 16 ≤ n then some (x.sp.wb + n - 16) else none)
           house := rows.filter (fun n => decide (0 < n) && decide (n < 16)), since := s.now }] } }

/-- A unique number is used up. -/
def used (s : State) : State := { s with uid := s.uid + 1 }

/-- Registers `ds` hold the words `f k` for `k` = 0, 1, …: v0's slot is dropped, and nothing else changes (R12). -/
structure WroteAll (x y : Site) (ds : List Nat) (m : Mask) (f : Nat → Nat → Word) : Prop where
  new : ∀ k n, ds[k]? = some n → n ≠ 0 → ∀ l, l < 32 → m.has l = true → y.reg n l = f k l
  old : ∀ n l, n < 64 → l < 32 → (m.has l = false ∨ ∀ d, d ∈ ds → d = 0 ∨ x.physRow n ≠ x.physRow d) → y.reg n l = x.reg n l
  zero : ∀ l, y.reg 0 l = 0

/-- What a lane's value of an access is, from its address. -/
def atLane (as : List (Nat × Nat)) (rd : Nat → Word) (l : Nat) : Word :=
  match as.find? (fun a => a.1 == l) with
  | some a => rd a.2
  | none => 0

/-- A load by lanes: where it issues, all addresses are aligned and inside, and no byte read is poisoned, it answers a next
state in which each active lane's registers hold the words at its address, and the access is in flight (R162, R163). -/
def StageLoad (i : Instr) (o : BitVec 10) (b : BitVec 6) (size : Nat) (ds : List Nat) (rd : Memory → Nat → Nat → Word) : Prop :=
  ∀ s x, Issues i s x →
    let as := laneAddrs x b (offM o size)
    Free x 2 size as → (∀ a, a ∈ as → a.2 % size = 0 ∧ a.2 + size ≤ x.co.playbill.stage) →
    (∀ a, a ∈ as → poisoned x.co.stagePoison a.2 size = false) →
    ∃ t y, Machine.exec i s = .next t ∧ Billed (used s) t x ∧ Past i t (inFlight x y s true 2 size as none ds) y ∧
      WroteAll x y ds x.active (fun k l => atLane as (rd x.co.stage k) l)

/-- Byte `k` of the registers that a lane stores. -/
def byteOf (x : Site) (regs : List Nat) (l k : Nat) : Byte := (x.reg (regs.getD (k / 4) 0) l).extractLsb' (8 * (k % 4)) 8

/-- What a byte holds after a store by lanes: the byte of the highest lane that stores to it, and its old value where
none does (R163). -/
def storedByte (as : List (Nat × Nat)) (size : Nat) (bytes : Nat → Nat → Byte) (old : Byte) (a : Nat) : Byte :=
  match as.reverse.find? (fun p => decide (p.2 ≤ a) && decide (a < p.2 + size)) with
  | some p => bytes p.1 (a - p.2)
  | none => old

/-- A store by lanes to the stage: every byte of the stage holds the highest lane's value or is unchanged, no register
changes, and marks of poison can only go (R162, R163, R348). The stage is in canonical form, as every step keeps it. -/
def StageStoreAs (i : Instr) (size : Nat) (regs : List Nat) (tile : Option Nat) (as : List (Nat × Nat)) (s : State) (x x' : Site) : Prop :=
  ∃ t y, Machine.exec i s = .next t ∧ Billed (used s) t x ∧
    Past i t { inFlight x x s false 2 size as tile [] with
      co := { x'.co with stage := y.co.stage, stagePoison := y.co.stagePoison } } y ∧
    (∀ a, y.co.stage.read a = storedByte as size (byteOf x regs) (x.co.stage.read a) a) ∧
    (∀ g, g ∈ y.co.stagePoison → g ∈ x.co.stagePoison)

def StageStore (i : Instr) (o : BitVec 10) (b : BitVec 6) (size : Nat) (regs : List Nat) : Prop :=
  ∀ s x, Issues i s x →
    let as := laneAddrs x b (offM o size)
    Free x 2 size as → (∀ a, a ∈ as → a.2 % size = 0 ∧ a.2 + size ≤ x.co.playbill.stage) → x.co.stage.wf = true →
    StageStoreAs i size regs none as s x x

/-- The four registers of a quad field (R36). -/
def quad (d : BitVec 4) : List Nat := [4 * d.toNat, 4 * d.toNat + 1, 4 * d.toNat + 2, 4 * d.toNat + 3]

end Sys2Proof.Claims

/-- R163: the stage loads, of a byte, a halfword, a word and four words; `ld.sa` loads as `ld.sw` does. -/
def Sys2Proof.Claims.StageLoadResults : Prop :=
  (∀ h o b d, StageLoad (.ldSb h o b d) o b 1 [d.toNat] (fun m _ a => leByte m a)) ∧
  (∀ h o b d, StageLoad (.ldSh h o b d) o b 2 [d.toNat] (fun m _ a => leHalf m a)) ∧
  (∀ h o b d, StageLoad (.ldSw h o b d) o b 4 [d.toNat] (fun m _ a => leWord m a)) ∧
  (∀ h o b d, StageLoad (.ldSq h o b d) o b 16 (quad d) (fun m k a => leWord m (a + 4 * k))) ∧
  (∀ h o b d, StageLoad (.ldSa h o b d) o b 4 [d.toNat] (fun m _ a => leWord m a))

/-- R163: the stage stores, with the highest lane's value on equal bytes; `st.sr` stores as `st.sw` does, and as a release at
company scope it sets pending bit 6 in every other chorus of the company (R332), said here where no split of the
company waits. -/
def Sys2Proof.Claims.StageStoreResults : Prop :=
  (∀ h o b v, StageStore (.stSb h o b v) o b 1 [v.toNat]) ∧
  (∀ h o b v, StageStore (.stSh h o b v) o b 2 [v.toNat]) ∧
  (∀ h o b v, StageStore (.stSw h o b v) o b 4 [v.toNat]) ∧
  (∀ h o b v, StageStore (.stSq h o b v) o b 16 (quad v)) ∧
  (∀ h o b v s x, Issues (.stSr h o b v) s x →
    let as := laneAddrs x b (offM o 4)
    Free x 2 4 as → (∀ a, a ∈ as → a.2 % 4 = 0 ∧ a.2 + 4 ≤ x.co.playbill.stage) → x.co.stage.wf = true → QuietCompany x.co →
    ∃ t y, Machine.exec (.stSr h o b v) s = .next t ∧ Billed (used s) t x ∧ t.site? = some y ∧
      (∀ a, y.co.stage.read a = storedByte as 4 (byteOf x [v.toNat]) (x.co.stage.read a) a) ∧
      y.ch.house = x.ch.house ∧ y.ch.ring = x.ch.ring ∧ y.ch.pending = x.ch.pending ∧ y.sp.pc = nextPc x (.stSr h o b v) ∧
      (∀ k g, k ≠ x.ch.index → x.co.chorus? k = some g → y.co.chorus? k = some { g with pending := g.pending ||| 0x40 }))

/-- R163, R332: loads and stores by lanes in the stage. Beyond the rules it follows the model's choices of log entries 7 and 17. -/
def Obligations.StageLoadsAndStores : Prop := StageLoadResults ∧ StageStoreResults

namespace Sys2Proof.Claims

/-- The new value of an atomic operation, by the code of R37. -/
def atomResult (p : BitVec 4) (old b expected : Word) : Word :=
  match p.toNat with
  | 0 => old + b
  | 1 => old - b
  | 2 => if old.toInt ≤ b.toInt then old else b
  | 3 => if b.toInt ≤ old.toInt then old else b
  | 4 => if old.toNat ≤ b.toNat then old else b
  | 5 => if b.toNat ≤ old.toNat then old else b
  | 6 => old &&& b
  | 7 => old ||| b
  | 8 => old ^^^ b
  | 9 => b
  | 10 => if old = expected then b else old
  | 11 => if old = 0xFFFFFFFF then old else old + 1
  | _ => if old = 0 then 0 else old - 1

/-- The memory after the lanes of a list have done their read-modify-writes in turn (R165). -/
def atomMemory (x : Site) (p : BitVec 4) (r d : BitVec 6) (m : Memory) (as : List (Nat × Nat)) : Memory :=
  as.foldl (fun m a => m.writeWord a.2 (atomResult p (leWord m a.2) (x.reg r.toNat a.1) (x.reg d.toNat a.1))) m

/-- The value that lane `l` finds: the word after the lanes below it (R165). -/
def atomOld (x : Site) (p : BitVec 4) (r d : BitVec 6) (m : Memory) (as : List (Nat × Nat)) (l : Nat) : Word :=
  atLane as (leWord (atomMemory x p r d m (as.filter (fun a => a.1 < l)))) l

end Sys2Proof.Claims

/-- R165: each active lane performs one read-modify-write, in rising lane order, each seeing the one before it; `vd` receives
the old value. An order without release leaves every other chorus alone. -/
def Sys2Proof.Claims.StageAtomicResults : Prop :=
  ∀ q p r a d s x, q.getLsbD 1 = false → Issues (.atomS q p r a d) s x →
    let as := laneAddrs x a 0
    Free x 2 4 as → (∀ e, e ∈ as → e.2 % 4 = 0 ∧ e.2 + 4 ≤ x.co.playbill.stage) →
    (∀ e, e ∈ as → poisoned x.co.stagePoison e.2 4 = false) →
    ∃ t y, Machine.exec (.atomS q p r a d) s = .next t ∧ Billed (used s) t x ∧
      Past (.atomS q p r a d) t { inFlight x y s true 2 4 as none [d.toNat] with
        co := { x.co with stage := atomMemory x p r d x.co.stage as } } y ∧
      WroteAll x y [d.toNat] x.active (fun _ l => atomOld x p r d x.co.stage as l)

/-- R165, R332: an atomic with release order at company scope has the same result, and sets pending bit 6 in every other
chorus of the company, said here where no split of the company waits. -/
def Sys2Proof.Claims.StageAtomicReleaseResults : Prop :=
  ∀ q p r a d s x, q.getLsbD 1 = true → Issues (.atomS q p r a d) s x →
    let as := laneAddrs x a 0
    Free x 2 4 as → (∀ e, e ∈ as → e.2 % 4 = 0 ∧ e.2 + 4 ≤ x.co.playbill.stage) →
    (∀ e, e ∈ as → poisoned x.co.stagePoison e.2 4 = false) → QuietCompany x.co →
    ∃ t y, Machine.exec (.atomS q p r a d) s = .next t ∧ Billed (used s) t x ∧ t.site? = some y ∧
      y.co.stage = atomMemory x p r d x.co.stage as ∧ y.sp.pc = nextPc x (.atomS q p r a d) ∧
      WroteAll x y [d.toNat] x.active (fun _ l => atomOld x p r d x.co.stage as l) ∧
      (∀ k g, k ≠ x.ch.index → x.co.chorus? k = some g → y.co.chorus? k = some { g with pending := g.pending ||| 0x40 })

/-- R165, R332: atomics by lanes in the stage, under every order. Beyond the rules it follows the model's choices of log entries 7 and 17. -/
def Obligations.StageAtomics : Prop := StageAtomicResults ∧ StageAtomicReleaseResults

namespace Sys2Proof.Claims

/-- The place of each active lane's unit of a tile: base + (index + k) × size, the index without wrap (R173). -/
def unitAddrs (x : Site) (tl : Tile) (k : BitVec 4) (v : BitVec 6) (size : Nat) : List (Nat × Nat) :=
  (activeLanes x).map (fun l => (l, tl.base + ((x.reg v.toNat l).toNat + k.toNat) * size))

/-- The tile is ready, fewer than 255 accesses read it, and every lane's unit lies within its extent (R168, R170, R173). -/
structure TileReady (x : Site) (t : BitVec 8) (tl : Tile) (k : BitVec 4) (v : BitVec 6) (size : Nat) : Prop where
  tile : x.co.tiles[t.toNat]? = some tl
  ready : tl.state = .ready
  readers : tl.readers < 255
  inside : ∀ l, l ∈ activeLanes x → ((x.reg v.toNat l).toNat + k.toNat + 1) * size ≤ tl.rows * pitch tl.cols (formatBits tl.format)

/-- The site with one reader more of a tile (R168). -/
def reading (x : Site) (t : BitVec 8) (tl : Tile) : Site :=
  { x with co := { x.co with tiles := updAt x.co.tiles t.toNat (fun _ => { tl with readers := tl.readers + 1 }) } }

end Sys2Proof.Claims

/-- R170, R173: a tile-relative access of a ready tile reads or stores its units as the stage instructions do, and counts as a reader of the
tile. Beyond the rules it follows the model's choices of log entries 7 and 17. -/
def Obligations.TileAccessResults : Prop :=
  (∀ k v t d size ds i, (size = 4 ∧ ds = [d % 64] ∧ i = .ldT k v t (BitVec.ofNat 6 d)) ∨
      (size = 16 ∧ ds = quad (BitVec.ofNat 4 d) ∧ i = .ldTq k v t (BitVec.ofNat 4 d)) →
    ∀ s x tl, Issues i s x → TileReady x t tl k v size → Free x 2 size (unitAddrs x tl k v size) →
      (∀ a, a ∈ unitAddrs x tl k v size → poisoned x.co.stagePoison a.2 size = false) →
      ∃ st y, Machine.exec i s = .next st ∧ Billed (used s) st x ∧
        Past i st (inFlight (reading x t tl) y s true 2 size (unitAddrs x tl k v size) (some t.toNat) ds) y ∧
        WroteAll x y ds x.active (fun j l => atLane (unitAddrs x tl k v size) (fun a => leWord x.co.stage (a + 4 * j)) l)) ∧
  (∀ k v t r size regs i, (size = 4 ∧ regs = [r % 64] ∧ i = .stT k v t (BitVec.ofNat 6 r)) ∨
      (size = 16 ∧ regs = quad (BitVec.ofNat 4 r) ∧ i = .stTq k v t (BitVec.ofNat 4 r)) →
    ∀ s x tl, Issues i s x → TileReady x t tl k v size → Free x 2 size (unitAddrs x tl k v size) → x.co.stage.wf = true →
      StageStoreAs i size regs (some t.toNat) (unitAddrs x tl k v size) s x (reading x t tl))

namespace Sys2Proof.Claims

/-- The lanes and places of a probe's translations. -/
def places (locs : List (Nat × Nat × BitVec 16)) : List (Nat × Nat) := locs.map (fun a => (a.1, a.2.1))

/-- The run of the company holds a window of `W` bytes on the company's die, with contents `m` (R223). -/
structure HasWindow (s : State) (c : Company) (W : Nat) (m : Memory) : Prop where
  size : s.windowSize c = W
  contents : s.window? c = some m

/-- A load by lanes from the cistern window: all addresses inside (R224, R225). -/
def CisternLoad (i : Instr) (o : BitVec 10) (b : BitVec 6) (size : Nat) (ds : List Nat) : Prop :=
  ∀ s x W m, Issues i s x → HasWindow s x.co W m →
    let as := laneAddrs x b (offM o size)
    Free x 1 size as → (∀ a, a ∈ as → a.2 % size = 0 ∧ a.2 + size ≤ W) →
    (∀ a, a ∈ as → poisoned (s.windowMarks x.co) a.2 size = false) →
    ∃ t y, Machine.exec i s = .next t ∧ Billed (used s) t x ∧ Past i t (inFlight x y s true 1 size as none ds) y ∧
      WroteAll x y ds x.active (fun k l => atLane as (fun a => leWord m (a + 4 * k)) l)

/-- A store by lanes to the cistern window: every byte of the window, and nothing of any other run. -/
def CisternStore (i : Instr) (o : BitVec 10) (b : BitVec 6) (size : Nat) (regs : List Nat) : Prop :=
  ∀ s x W m, Issues i s x → HasWindow s x.co W m → m.wf = true →
    let as := laneAddrs x b (offM o size)
    Free x 1 size as → (∀ a, a ∈ as → a.2 % size = 0 ∧ a.2 + size ≤ W) →
    ∃ t y m', Machine.exec i s = .next t ∧ Billed { used s with runs := t.runs } t x ∧ Past i t (inFlight x x s false 1 size as none []) y ∧
      HasWindow t x.co W m' ∧
      (∀ a, m'.read a = storedByte as size (byteOf x regs) (m.read a) a) ∧
      (∀ c r, (c ≠ x.co.ctx ∨ r ≠ x.co.run) → t.run? c r = s.run? c r)

end Sys2Proof.Claims

/-- R225, R226: loads, stores and atomics in the cistern window act as those of the stage do, in the window that the run
holds on the company's die. -/
def Sys2Proof.Claims.CisternAccessResults : Prop :=
  (∀ h o b d, CisternLoad (.ldCw h o b d) o b 4 [d.toNat]) ∧ (∀ h o b d, CisternLoad (.ldCq h o b d) o b 16 (quad d)) ∧
  (∀ h o b d, CisternLoad (.ldCa h o b d) o b 4 [d.toNat]) ∧
  (∀ h o b v, CisternStore (.stCw h o b v) o b 4 [v.toNat]) ∧ (∀ h o b v, CisternStore (.stCq h o b v) o b 16 (quad v)) ∧
  (∀ h o b v, CisternStore (.stCr h o b v) o b 4 [v.toNat]) ∧
  (∀ q p r a d s x W m, Issues (.atomC q p r a d) s x → HasWindow s x.co W m →
    let as := laneAddrs x a 0
    Free x 1 4 as → (∀ e, e ∈ as → e.2 % 4 = 0 ∧ e.2 + 4 ≤ W) → (∀ e, e ∈ as → poisoned (s.windowMarks x.co) e.2 4 = false) →
    ∃ t y, Machine.exec (.atomC q p r a d) s = .next t ∧ Billed { used s with runs := t.runs } t x ∧
      Past (.atomC q p r a d) t (inFlight x y s true 1 4 as none [d.toNat]) y ∧
      HasWindow t x.co W (atomMemory x p r d m as) ∧
      WroteAll x y [d.toNat] x.active (fun _ l => atomOld x p r d m as l))

namespace Sys2Proof.Claims

/-- Those of the lanes' accesses that lie within the window, of which a run without one has 0 bytes, and the lanes of the others (R224). -/
def insideOf (w size : Nat) (as : List (Nat × Nat)) : List (Nat × Nat) := as.filter (fun a => decide (a.2 + size ≤ w))
def outsideOf (w size : Nat) (as : List (Nat × Nat)) : Mask := maskBy (fun l => as.any (fun a => a.1 == l && decide (w < a.2 + size)))

/-- An access to the cistern window that passes it in some active lane, or in all: those lanes are switched off, with their `fm` bit set and
marked exited, and keep their registers; the others complete the access, in which lane `l` finds `f m as k l` for its `k`-th register in window
`m` and the window becomes one of which `after m as` holds, and go on behind the instruction. No trap is raised (R27, R224). -/
def OutsideSwitchedOff (i : Instr) (addrs : Site → List (Nat × Nat)) (size : Nat) (reads : Bool) (ds : List Nat)
    (f : Site → Memory → List (Nat × Nat) → Nat → Nat → Word) (after : Site → Memory → List (Nat × Nat) → Memory → Prop) : Prop :=
  ∀ s x, Issues i s x → Apart x.ch →
    let ins := insideOf (s.windowSize x.co) size (addrs x)
    let off := outsideOf (s.windowSize x.co) size (addrs x)
    off ≠ 0 → Free x 1 size ins → (∀ a, a ∈ addrs x → a.2 % size = 0) → (∀ m, s.window? x.co = some m → m.wf = true) →
    (reads = true → ∀ a, a ∈ ins → poisoned (s.windowMarks x.co) a.2 size = false) →
    ∃ t g, Machine.exec i s = .next t ∧ t.chorus? x.co.uid x.ch.index = some g ∧
      g.fm = x.ch.fm ||| off ∧ g.exited = x.ch.exited ||| off ∧ g.cause = x.ch.cause ∧ g.halted = x.ch.halted ∧
      (∀ n l, l < 32 → off.has l = true → (g.house.getD n Lanes.zero).at l = (x.ch.house.getD n Lanes.zero).at l ∧
        (g.ring.getD n Lanes.zero).at l = (x.ch.ring.getD n Lanes.zero).at l) ∧
      (∀ a, a ∈ ins → g.inflight.length = x.ch.inflight.length + 1 ∧
        (∃ p, p ∈ g.splits ∧ p.members = x.sp.members ∧ p.pc = nextPc x i) ∧
        (∀ k d, ds[k]? = some d → d ≠ 0 → ({ x with ch := g } : Site).reg d a.1 = f x ((s.window? x.co).getD []) ins k a.1) ∧
        (∀ n, n < 64 → (∀ d, d ∈ ds → d = 0 ∨ x.physRow n ≠ x.physRow d) → ({ x with ch := g } : Site).reg n a.1 = x.reg n a.1)) ∧
      (∀ m, s.window? x.co = some m → ∃ m', t.window? x.co = some m' ∧ after x m ins m') ∧
      (∀ c r, (c ≠ x.co.ctx ∨ r ≠ x.co.run) → t.run? c r = s.run? c r)

/-- The window keeps every byte; it takes the stored ones. -/
def keepsWindow (_ : Site) (m : Memory) (_ : List (Nat × Nat)) (m' : Memory) : Prop := m' = m
def storesWindow (size : Nat) (regs : List Nat) (x : Site) (m : Memory) (as : List (Nat × Nat)) (m' : Memory) : Prop :=
  ∀ a, m'.read a = storedByte as size (byteOf x regs) (m.read a) a

/-- A load and a store that pass the window in some lane. -/
def LoadOutside (i : Instr) (o : BitVec 10) (b : BitVec 6) (size : Nat) (ds : List Nat) : Prop :=
  OutsideSwitchedOff i (fun x => laneAddrs x b (offM o size)) size true ds (fun _ m as k l => atLane as (fun a => leWord m (a + 4 * k)) l) keepsWindow
def StoreOutside (i : Instr) (o : BitVec 10) (b : BitVec 6) (size : Nat) (regs : List Nat) : Prop :=
  OutsideSwitchedOff i (fun x => laneAddrs x b (offM o size)) size false [] (fun _ _ _ _ _ => 0) (storesWindow size regs)

end Sys2Proof.Claims

/-- R27, R224: in each of the seven accesses to the cistern an active lane that would pass the window, and every active lane of a run
without one, is switched off, and the remaining lanes complete the access. -/
def Sys2Proof.Claims.CisternAccessOutsideSwitchesLanesOff : Prop :=
  (∀ h o b d, LoadOutside (.ldCw h o b d) o b 4 [d.toNat]) ∧ (∀ h o b d, LoadOutside (.ldCq h o b d) o b 16 (quad d)) ∧
  (∀ h o b d, LoadOutside (.ldCa h o b d) o b 4 [d.toNat]) ∧
  (∀ h o b v, StoreOutside (.stCw h o b v) o b 4 [v.toNat]) ∧ (∀ h o b v, StoreOutside (.stCq h o b v) o b 16 (quad v)) ∧
  (∀ h o b v, StoreOutside (.stCr h o b v) o b 4 [v.toNat]) ∧
  (∀ q p r a d, OutsideSwitchedOff (.atomC q p r a d) (fun x => laneAddrs x a 0) 4 true [d.toNat]
    (fun x m as _ l => atomOld x p r d m as l) (fun x m as m' => m' = atomMemory x p r d m as))

/-- R27, R224 to R226: accesses by lanes to the cistern window, within it and past it. Beyond the rules it follows the model's choices of log
entries 7, 8 and 17. -/
def Obligations.CisternAccesses : Prop := CisternAccessResults ∧ CisternAccessOutsideSwitchesLanesOff

/-- Runs without what they note of writes to their code images (R84). -/
def Sys2Proof.Claims.noNotes (l : List Run) : List Run := l.map (fun r => { r with codeSince := [], codeAt := [] })

/-- R137, R138: `ld.wl` and `st.wl` access the words at wellp + V[l][vb] + 4 × off10 of the chorus's local area, at the places to which `probe`
translates every lane's address; the other words of memory keep their values. Their lines are under the key of the context or of none. Beyond the rules it follows the model's choices of log entries
7 and 17. -/
def Obligations.WellAccessResults : Prop :=
  (∀ h o b d s x locs s1, Issues (.ldWl h o b d) s x →
    let as := laneAddrs x b (x.ch.wellp + offM o 4)
    let vas := as.map (fun a => (a.1, x.ch.wellBase.toNat + 0x200 + a.2))
    Free x 0 4 vas → (∀ a, a ∈ as → a.2 % 4 = 0 ∧ a.2 + 4 ≤ x.co.playbill.localSize) →
    probe x.co.core x.co.ctx .read s [] vas = (.ok locs, s1) →
    (∀ a, a ∈ locs → poisoned s1.memPoison a.2.1 4 = false ∧ (s1.lineOf a.2.1).all (fun q => q.key.all (· == x.co.ctx)) = true) →
    ∃ t y, Machine.exec (.ldWl h o b d) s = .next t ∧ Billed { used s1 with lines := t.lines } t x ∧
      Past (.ldWl h o b d) t { inFlight x y s true 0 4 vas none [d.toNat] with
        ch := { (inFlight x y s true 0 4 vas none [d.toNat]).ch with failed := x.ch.failed.filter (fun f => f.1 != x.sp.members) } } y ∧
      WroteAll x y [d.toNat] x.active (fun _ l => atLane (places locs) (leWord s1.mem) l)) ∧
  (∀ h o b v s x locs s1, Issues (.stWl h o b v) s x →
    let as := laneAddrs x b (x.ch.wellp + offM o 4)
    let vas := as.map (fun a => (a.1, x.ch.wellBase.toNat + 0x200 + a.2))
    Free x 0 4 vas → (∀ a, a ∈ as → a.2 % 4 = 0 ∧ a.2 + 4 ≤ x.co.playbill.localSize) →
    probe x.co.core x.co.ctx .write s [] vas = (.ok locs, s1) → s1.mem.wf = true →
    (∀ a, a ∈ locs → (s1.lineOf a.2.1).all (fun q => q.key.all (· == x.co.ctx)) = true) →
    ∃ t y, Machine.exec (.stWl h o b v) s = .next t ∧
      Billed { used s1 with mem := t.mem, memPoison := t.memPoison, lines := t.lines, runs := t.runs } t x ∧
      noNotes t.runs = noNotes s1.runs ∧
      (∀ g, g ∈ t.memPoison → g ∈ s1.memPoison) ∧
      Past (.stWl h o b v) t { inFlight x x s false 0 4 vas none [] with
        ch := { (inFlight x x s false 0 4 vas none []).ch with failed := x.ch.failed.filter (fun f => f.1 != x.sp.members) } } y ∧
      (∀ a, t.mem.read a = storedByte (places locs) 4 (byteOf x [v.toNat]) (s1.mem.read a) a))

namespace Sys2Proof.Claims

/-- A walk of an address from a root meets the table of a level, of 64 KiB leaves or not, where `sees a e` says that entry `a` may read as `e`
(R245, R246). -/
inductive Meets (sees : Nat → Nat → Prop) (root va : Nat) : Nat → Nat → Bool → Prop where
  | root : Meets sees root va 3 root false
  | next {level table : Nat} {g64 : Bool} {e : Nat} (h : Meets sees root va (level + 1) table g64)
      (there : sees (table + 8 * levelIndex (level + 1) g64 va) e) :
      Meets sees root va level (e % 2 ^ 48 / 4096 * 4096) (decide (level = 0) && bits e 8 8 == 1)

/-- The address of an entry on a walk's way. -/
def OnWay (sees : Nat → Nat → Prop) (root va a : Nat) : Prop :=
  ∃ level table g64, Meets sees root va level table g64 ∧ a = table + 8 * levelIndex level g64 va

/-- Two entries that differ in nothing but A and D, bits 4 and 5 (R246). -/
def sameButAD (e f : Nat) : Prop := e ||| 48 = f ||| 48

/-- How an entry of stage 2 may read: from the page-walk cache of the die, or at its place in memory, up to A and D. -/
def Sees2 (s : State) (die ctx fn a e : Nat) : Prop :=
  (∃ k, k ∈ (s.die die).pwc ∧ k.ctx = ctx ∧ k.fn = fn ∧ k.stage = 2 ∧ k.addr = a ∧ k.value = e) ∨ sameButAD e (s.mem.readLE (place 0 a) 8)

/-- Where an entry of stage 1 of a virtual function lies: at the end of a walk of stage 2 (R254). -/
def GuestPlace (s : State) (die ctx fn root2 a p : Nat) : Prop :=
  ∃ level table g64 e size, Meets (Sees2 s die ctx fn) root2 a level table g64 ∧
    Sees2 s die ctx fn (table + 8 * levelIndex level g64 a) e ∧ size = pageSize level g64 ∧
    p = place (bits e 11 8) (e % 2 ^ 48 / 4096 * 4096 + a % size)

/-- How an entry of stage 1 may read, and the places of a walk's entries: those of its own stage, and for a virtual function those of
stage 2 for each of them and for the address that stage 1 gives. -/
def Sees1 (s : State) (die ctx fn root2 a e : Nat) : Prop :=
  (∃ k, k ∈ (s.die die).pwc ∧ k.ctx = ctx ∧ k.fn = fn ∧ k.stage = 1 ∧ k.addr = a ∧ k.value = e) ∨
  (fn = 0 ∧ sameButAD e (s.mem.readLE (place 0 a) 8)) ∨
  (fn ≠ 0 ∧ ∃ p, GuestPlace s die ctx fn root2 a p ∧ sameButAD e (s.mem.readLE p 8))

def EntryPlace (s : State) (die ctx va p : Nat) : Prop :=
  ∃ fn root root2, s.roots ctx = (fn, root, root2) ∧
    ((fn = 0 ∧ ∃ a, OnWay (Sees1 s die ctx fn root2) root va a ∧ p = place 0 a) ∨
     (fn ≠ 0 ∧ ∃ a, OnWay (Sees1 s die ctx fn root2) root va a ∧
       (GuestPlace s die ctx fn root2 a p ∨ ∃ b, OnWay (Sees2 s die ctx fn) root2 a b ∧ p = place 0 b)) ∨
     (fn ≠ 0 ∧ ∃ level table g64 e b, Meets (Sees1 s die ctx fn root2) root va level table g64 ∧
       Sees1 s die ctx fn root2 (table + 8 * levelIndex level g64 va) e ∧
       OnWay (Sees2 s die ctx fn) root2 (e % 2 ^ 48 / 4096 * 4096 + va % pageSize level g64) b ∧ p = place 0 b))

end Sys2Proof.Claims

/-- R251, R252: translating the lanes' addresses of an access changes no company, context, line or register of the device: only TLBs, page-walk
caches and main memory may differ; and of main memory only A and D, bits 4 and 5, of table entries on the addresses' walks, which get set. The
table roots are multiples of 4096, as those of every table are. Beyond the rules it follows the model's choices of log entry 7. -/
def Obligations.TranslationLeavesTheRestAlone : Prop :=
  ∀ core ctx acc s vas, ∃ p s1, probe core ctx acc s [] vas = (p, s1) ∧
    s1 = { s with cores := s1.cores, clusters := s1.clusters, dies := s1.dies, mem := s1.mem } ∧
    (s.mem.wf = true → (s.roots ctx).2.1 % 4096 = 0 → (s.roots ctx).2.2 % 4096 = 0 → ∀ a, s1.mem.read a = s.mem.read a ∨
      ((∃ v, v ∈ vas ∧ EntryPlace s (dieOfCore core) ctx v.2 a) ∧ s1.mem.read a ||| 48#8 = s.mem.read a ||| 48#8 ∧
        s1.mem.read a &&& s.mem.read a = s.mem.read a)) ∧
    (∀ n, s1.core n = { s.core n with tlb := (s1.core n).tlb }) ∧ (∀ n, s1.cluster n = { s.cluster n with l2 := (s1.cluster n).l2 }) ∧
    (∀ n, s1.die n = { s.die n with pwc := (s1.die n).pwc })

/-! ## Control, windows and traps (R115 to R131, R139 to R141) -/

namespace Sys2Proof.Claims

/-- The target of an offset in halfwords (R39). -/
def jumpTo {n : Nat} (x : Site) (o : BitVec n) : Word := x.sp.pc + 2 * o.signExtend 32

/-- The lanes of the active set that hold `p`. -/
def activeWhere (x : Site) (p : Nat → Bool) : Mask := maskBy (fun l => x.active.has l && p l)

/-- No merge is pending: no merge set has arrived whole, and a split without a member that has not exited has arrived. -/
def Settled (h : Chorus) : Prop :=
  mergeReady h.splits = none ∧ ∀ p, p ∈ h.splits → p.members &&& ~~~h.exited ≠ 0 ∨ p.isArrived = true

/-- The instruction, issued at `x`, sends each active lane to `next`: where all go to one address, or no lane is active, the split goes
there; where they differ, the split is replaced by one split for each next PC, with the active lanes that go there as `xm`, the
members that are not active in the leader's split, and the window, `fmt` and join PC of the old (R116, R117). -/
def BranchesFrom (i : Instr) (next : Nat → Word) (s : State) (x : Site) : Prop :=
  (x.active = 0 → Does i s s x) ∧
  (∀ pc, x.active ≠ 0 → (∀ l, l ∈ activeLanes x → next l = pc) → DoesAt pc i s x) ∧
  (∀ j k, Apart x.ch → Settled x.ch → j ∈ activeLanes x → k ∈ activeLanes x → next j ≠ next k →
    ∃ t g, Machine.exec i s = .next t ∧ Billed s t x ∧ t.chorus? x.co.uid x.ch.index = some g ∧
      g.house = x.ch.house ∧ g.ring = x.ch.ring ∧ g.exited = x.ch.exited ∧
      (∀ p, p ∈ g.splits → p.members ≠ x.sp.members) ∧
      ∀ l, l ∈ activeLanes x → ∃ p, p ∈ g.splits ∧ p.xm = activeWhere x (fun m => next m == next l) ∧
        p.members = (if p.xm.has (leaderOf x) then p.xm ||| (x.live &&& ~~~x.active) else p.xm) ∧
        p.pc = next l ∧ p.wb = x.sp.wb ∧ p.depth = x.sp.depth ∧ p.frame = x.sp.frame ∧ p.fmt = x.sp.fmt ∧
        p.joinPc = x.sp.joinPc ∧ p.mem = (x.ch.inflight.filter (fun f => f.members &&& p.members != 0)).length)

def Branches (i : Instr) (next : Site → Nat → Word) : Prop := ∀ s x, Issues i s x → BranchesFrom i (next x) s x

end Sys2Proof.Claims

/-- R116 to R118: `bz` and `bnz` send each active lane to the target or on, `j` sends the whole split to its target. -/
def Sys2Proof.Claims.BranchResults : Prop :=
  (∀ o c, Branches (.bz o c) (fun x l => if x.reg c.toNat l = 0 then jumpTo x o else nextPc x (.bz o c))) ∧
  (∀ o c, Branches (.bnz o c) (fun x l => if x.reg c.toNat l ≠ 0 then jumpTo x o else nextPc x (.bnz o c))) ∧
  (∀ o s x, Issues (.j o) s x → DoesAt (jumpTo x o) (.j o) s x)

namespace Sys2Proof.Claims

/-- Where `brt` sends a lane: through the table at T = target & ~3, whose word 0 is its length, in a code image that reads as `rd` (R120). -/
def tableNext (rd : Nat → Word) (o : BitVec 18) (c : BitVec 6) (x : Site) (l : Nat) : Word :=
  let t := (jumpTo x o).toNat / 4 * 4
  let v := (x.reg c.toNat l).toNat
  if v < (rd t).toNat then BitVec.ofNat 32 t + rd (t + 4 + 4 * v) else nextPc x (.brt o c)

end Sys2Proof.Claims

/-- R120: `brt` jumps each active lane through the table, falls through beyond its length, and traps with misaligned, `tval`
the lowest odd target, before any effect. Its words read as those of `lit`: a word that no agent has written since the launch reads its launch
value (R82, R84). -/
def Sys2Proof.Claims.JumpTableResults : Prop :=
  ∀ o c s x, Issues (.brt o c) s x → ∃ rd, (∀ a, mayRead s x.co a (rd a)) ∧
    ((∀ l, l ∈ activeLanes x → (tableNext rd o c x l).getLsbD 0 = false) → BranchesFrom (.brt o c) (tableNext rd o c x) s x) ∧
    (∀ j, j ∈ activeLanes x → (tableNext rd o c x j).getLsbD 0 = true →
      (∀ l, l ∈ activeLanes x → (tableNext rd o c x l).getLsbD 0 = true → (tableNext rd o c x j).toNat ≤ (tableNext rd o c x l).toNat) →
      Traps (.brt o c) s x 0x0E (tableNext rd o c x j))

/-- R116 to R118, R120: branches, jumps and jump tables. Beyond the rules it follows the model's choices of log entries 9 and 70. -/
def Obligations.BranchesAndJumpTables : Prop := BranchResults ∧ JumpTableResults

/-- R119, R122, R123: `jpt` sets the join PC; `rcv` and `rcv.t` away from the join PC go on, the latter with 0 in `vd`. -/
def Sys2Proof.Claims.JoinPointResults : Prop :=
  (∀ o s x, Issues (.jpt o) s x → x.live ≠ 0 →
    ∃ t y, Machine.exec (.jpt o) s = .next t ∧ Billed s t x ∧ t.site? = some y ∧
      y.sp = { x.sp with pc := nextPc x (.jpt o), issues := y.sp.issues, joinPc := jumpTo x o }) ∧
  (∀ s x, Issues .rcv s x → x.sp.joinPc ≠ x.sp.pc → Does .rcv s s x) ∧
  (∀ a d s x, Issues (.rcvT a d) s x → x.sp.joinPc ≠ x.sp.pc →
    ∃ t y, Machine.exec (.rcvT a d) s = .next t ∧ Billed s t x ∧ Past (.rcvT a d) t (withRows x y) y ∧
      Wrote x y d.toNat x.active (fun _ => 0))

namespace Sys2Proof.Claims

/-- The other splits of the merge set of the running split (R122). -/
def siblings (x : Site) : List Split :=
  x.ch.splits.filter (fun q => q.members != x.sp.members && q.joinPc == x.sp.joinPc && q.wb == x.sp.wb && q.depth == x.sp.depth)

/-- The members of the merge: those of the set that have not exited. -/
def merged (x : Site) : Mask := (siblings x).foldl (fun m q => m ||| q.members) x.sp.members &&& ~~~x.ch.exited

/-- The split of a merge of the running split's set (R122). -/
structure Merged (x : Site) (p : Split) : Prop where
  members : p.members = merged x
  xm : p.xm = merged x
  pc : p.pc = x.sp.pc + 4
  join : p.joinPc = 0xFFFFFFFF
  window : p.wb = x.sp.wb ∧ p.depth = x.sp.depth
  frame : p.frame = (siblings x).foldl (fun f q => Nat.max f q.frame) x.sp.frame
  fmt : ∀ j, x.ch.joins.find? (fun j => j.joinPc == x.sp.joinPc && j.wb == x.sp.wb && j.depth == x.sp.depth) = some j →
    p.fmt = j.fmt.setWidth 16

end Sys2Proof.Claims

/-- R122, R123: at the join PC the split arrives; when every other split of its merge set has arrived, they merge into one
split at P + 4, `rcv.t` writing 0; otherwise it waits there, `rcv.t` until its deadline. -/
def Sys2Proof.Claims.ReconvergenceResults : Prop :=
  (∀ s x, Issues .rcv s x → x.sp.joinPc = x.sp.pc → x.sp.joinPc ≠ 0xFFFFFFFF → Settled x.ch → QuietTroupe s x.co →
    (∀ q, q ∈ siblings x → q.state = .arrived ∧ q.spilled = false) → x.sp.spilled = false → merged x ≠ 0 →
    ∃ t g p, Machine.exec .rcv s = .next t ∧ t.chorus? x.co.uid x.ch.index = some g ∧ p ∈ g.splits ∧ Merged x p ∧
      g.house = x.ch.house ∧ g.ring = x.ch.ring ∧ g.exited = x.ch.exited) ∧
  (∀ s x q, Issues .rcv s x → x.sp.joinPc = x.sp.pc → Settled x.ch → QuietTroupe s x.co →
    q ∈ siblings x → q.state ≠ .arrived → q.members &&& ~~~x.ch.exited ≠ 0 →
    ∃ t g p, Machine.exec .rcv s = .next t ∧ t.chorus? x.co.uid x.ch.index = some g ∧ p ∈ g.splits ∧
      p.members = x.sp.members ∧ p.state = .arrived ∧ p.wait = .join ∧ p.pc = x.sp.pc ∧
      g.house = x.ch.house ∧ g.ring = x.ch.ring ∧ g.exited = x.ch.exited) ∧
  (∀ a d s x, Issues (.rcvT a d) s x → x.sp.joinPc = x.sp.pc → x.sp.joinPc ≠ 0xFFFFFFFF → Settled x.ch → QuietTroupe s x.co →
    (∀ q, q ∈ siblings x → q.state = .arrived ∧ q.spilled = false) → x.sp.spilled = false → merged x ≠ 0 →
    ∃ t g p, Machine.exec (.rcvT a d) s = .next t ∧ t.chorus? x.co.uid x.ch.index = some g ∧ p ∈ g.splits ∧ Merged x p ∧
      ∀ l, l < 32 → (merged x).has l = true → (g.row x.sp.wb d.toNat).at l = 0) ∧
  (∀ a d s x q, Issues (.rcvT a d) s x → x.sp.joinPc = x.sp.pc → Settled x.ch → QuietTroupe s x.co →
    q ∈ siblings x → q.state ≠ .arrived → q.members &&& ~~~x.ch.exited ≠ 0 →
    ∃ t g p l, Machine.exec (.rcvT a d) s = .next t ∧ t.chorus? x.co.uid x.ch.index = some g ∧ p ∈ g.splits ∧
      p.members = x.sp.members ∧ p.state = .arrived ∧ p.pc = x.sp.pc ∧ l = x.leaderOrMember ∧
      p.wait = .joinT ((s.vtNs x.co.ctx + (x.reg a.toNat l).toNat) * ticksPerNs) d)

/-- R119, R122, R123: join points, arrivals and merges. -/
def Obligations.JoinPointsAndReconvergence : Prop := JoinPointResults ∧ ReconvergenceResults

/-- R16, R124, R130: `exit`, and `ret` at depth 0, mark the active lanes exited, and with none active have no effect; a chorus whose last split
has no member left ends. Beyond the rules it follows the model's choices of log entry 67. -/
def Obligations.ExitResults : Prop :=
  ∀ i s x, (i = .exit ∨ (i = .ret ∧ x.sp.depth = 0)) → Issues i s x →
    (x.active = 0 → Does i s s x) ∧
    (x.active ≠ 0 → Settled x.ch → QuietTroupe s x.co →
      ∃ t g, Machine.exec i s = .next t ∧ t.chorus? x.co.uid x.ch.index = some g ∧ g.exited = x.ch.exited ||| x.active ∧
        g.house = x.ch.house ∧ g.ring = x.ch.ring ∧ g.fm = x.ch.fm ∧ t.mem = s.mem ∧
        (x.ch.splits = [x.sp] → x.sp.joinPc = 0xFFFFFFFF → x.live = x.active → g.splits = [] ∧ g.ended = true))

namespace Sys2Proof.Claims

/-- The rows of the frame area (R131), and the row of a call's link. -/
def rf (x : Site) : Nat := (x.co.playbill.wellSize - 0x200 - x.co.playbill.localSize) / 128
def linkRow (x : Site) (n : Nat) : Nat := x.sp.wb + n - 1

/-- A call of slide `n` fits (R127, R131). -/
def CallFits (x : Site) (n : Nat) : Prop :=
  n = 0 ∨ (x.sp.wb + n + (x.sp.frame - n) ≤ rf x ∧ x.sp.depth ≠ 65535 ∧ (x.sp.frame - n) + 1 ≤ x.ch.ring.length)

/-- The site after a call: the window slid, the frame what the callee inherits. -/
def afterCall (x : Site) (n : Nat) : Site :=
  if n = 0 then x
  else { x with sp := { x.sp with wb := x.sp.wb + n, depth := x.sp.depth + 1, frame := x.sp.frame - n } }

/-- The rows after a call: the link of every member that has not exited, and nothing else (R127, R130). -/
def LinksWritten (x y : Site) (n : Nat) (ret : Word) : Prop :=
  y.ch.house = x.ch.house ∧
  (n = 0 → y.ch.ring = x.ch.ring) ∧
  (n ≠ 0 → ∀ r l, r < x.ch.ring.length → l < 32 →
    (y.ch.ring.getD r Lanes.zero).at l =
      if r = linkRow x n % x.ch.ring.length ∧ x.live.has l = true then BitVec.ofNat 32 (n * 2 ^ 26 + ret.toNat % 2 ^ 26)
      else (x.ch.ring.getD r Lanes.zero).at l)

/-- A call of the whole split to a target. -/
def CallsTo (i : Instr) (s : State) (x : Site) (n : Nat) (target : Word) : Prop :=
  (n = 0 ∨ x.ch.resident (linkRow x n, linkRow x n + 1) = true →
    ∃ t y, Machine.exec i s = .next t ∧ Billed s t x ∧ PastAt target i t (withRows (afterCall x n) y) y ∧
      LinksWritten x y n (nextPc x i)) ∧
  (n ≠ 0 → x.ch.resident (linkRow x n, linkRow x n + 1) = false → Apart x.ch →
    ∃ t g p, Machine.exec i s = .next t ∧ t.chorus? x.co.uid x.ch.index = some g ∧ p ∈ g.splits ∧
      p.members = x.sp.members ∧ p.state = .waitWindow ∧ p.pc = target ∧ p.wb = x.sp.wb + n ∧ p.depth = x.sp.depth + 1 ∧
      p.frame = x.sp.frame - n ∧ x.sp.members ∈ g.requests ∧ g.house = x.ch.house ∧ g.ring = x.ch.ring)

end Sys2Proof.Claims

/-- R127, R128: `call` and `callr` slide the window by n, write the link in every member that has not exited, and go to the
target; where the link's row is not resident they wait for it. `callr` with no active lane falls through, with lanes that
differ it divides first, and an odd target traps with misaligned. -/
def Sys2Proof.Claims.CallResults : Prop :=
  (∀ o n s x, Issues (.call o n) s x → CallFits x n.toNat → CallsTo (.call o n) s x n.toNat (jumpTo x o)) ∧
  (∀ n a s x, Issues (.callr n a) s x → x.active = 0 → Does (.callr n a) s s x) ∧
  (∀ n a s x pc, Issues (.callr n a) s x → CallFits x n.toNat → x.active ≠ 0 → pc.getLsbD 0 = false →
    (∀ l, l ∈ activeLanes x → x.reg a.toNat l = pc) → CallsTo (.callr n a) s x n.toNat pc) ∧
  (∀ n a s x j k, Issues (.callr n a) s x → CallFits x n.toNat → Apart x.ch → Settled x.ch →
    (n.toNat = 0 ∨ x.ch.resident (linkRow x n.toNat, linkRow x n.toNat + 1) = true) →
    (∀ l, l ∈ activeLanes x → (x.reg a.toNat l).getLsbD 0 = false) →
    j ∈ activeLanes x → k ∈ activeLanes x → x.reg a.toNat j ≠ x.reg a.toNat k →
    ∃ t g, Machine.exec (.callr n a) s = .next t ∧ t.chorus? x.co.uid x.ch.index = some g ∧
      ∀ l, l ∈ activeLanes x → ∃ p, p ∈ g.splits ∧ p.xm = activeWhere x (fun m => x.reg a.toNat m == x.reg a.toNat l) ∧
        p.pc = x.reg a.toNat l ∧ p.wb = (afterCall x n.toNat).sp.wb ∧ p.depth = (afterCall x n.toNat).sp.depth ∧
        p.frame = (afterCall x n.toNat).sp.frame) ∧
  (∀ n a s x j, Issues (.callr n a) s x → j ∈ activeLanes x → (x.reg a.toNat j).getLsbD 0 = true →
    (∀ l, l ∈ activeLanes x → (x.reg a.toNat l).getLsbD 0 = true → (x.reg a.toNat j).toNat ≤ (x.reg a.toNat l).toNat) →
    Traps (.callr n a) s x 0x0E (x.reg a.toNat j))

/-- R129, R131: `alloc` sets the frame, waiting for its rows; a call or `alloc` that would need a row beyond the frame area,
a call past depth 65,535, and an `alloc` of more rows than the ring holds trap with well overflow, before any effect. -/
def Sys2Proof.Claims.AllocAndOverflowResults : Prop :=
  (∀ k s x, Issues (.alloc k) s x → x.sp.wb + k.toNat ≤ rf x → k.toNat + (if x.sp.depth = 0 then 0 else 1) ≤ x.ch.ring.length →
    (x.ch.resident (if x.sp.depth = 0 then x.sp.wb else x.sp.wb - 1, x.sp.wb + k.toNat) = true →
      Does (.alloc k) s s { x with sp := { x.sp with frame := k.toNat } }) ∧
    (x.ch.resident (if x.sp.depth = 0 then x.sp.wb else x.sp.wb - 1, x.sp.wb + k.toNat) = false → Apart x.ch →
      ∃ t g p, Machine.exec (.alloc k) s = .next t ∧ t.chorus? x.co.uid x.ch.index = some g ∧ p ∈ g.splits ∧
        p.members = x.sp.members ∧ p.state = .waitWindow ∧ p.frame = k.toNat ∧ p.pc = nextPc x (.alloc k) ∧
        x.sp.members ∈ g.requests)) ∧
  (∀ k s x, Issues (.alloc k) s x → rf x < x.sp.wb + k.toNat → Traps (.alloc k) s x 0x07 (BitVec.ofNat 32 (rf x))) ∧
  (∀ k s x, Issues (.alloc k) s x → x.sp.wb + k.toNat ≤ rf x → x.ch.ring.length < k.toNat + (if x.sp.depth = 0 then 0 else 1) →
    Traps (.alloc k) s x 0x07 (BitVec.ofNat 32 (x.sp.wb - (if x.sp.depth = 0 then 0 else 1) + x.ch.ring.length))) ∧
  (∀ o (n : BitVec 6) s x, Issues (.call o n) s x → n ≠ 0 → rf x < x.sp.wb + n.toNat + (x.sp.frame - n.toNat) →
    Traps (.call o n) s x 0x07 (BitVec.ofNat 32 (rf x))) ∧
  (∀ o (n : BitVec 6) s x, Issues (.call o n) s x → n ≠ 0 → x.sp.wb + n.toNat + (x.sp.frame - n.toNat) ≤ rf x → x.sp.depth = 65535 →
    Traps (.call o n) s x 0x07 (BitVec.ofNat 32 (linkRow x n.toNat)))

namespace Sys2Proof.Claims

/-- The link that a member finds in row wb - 1 (R130), and whether only another agent can have left it. -/
def linkOf (x : Site) (l : Nat) : Word := (x.ch.ring.getD ((x.sp.wb - 1) % x.ch.ring.length) Lanes.zero).at l
def slide (v : Word) : Nat := v.toNat / 2 ^ 26
def badLink (x : Site) (v : Word) : Prop := slide v = 0 ∨ x.sp.wb < slide v ∨ v.getLsbD 0 = true

/-- The frame after a return through a link (R130). -/
def frameBack (x : Site) (v : Word) : Nat :=
  min (min (slide v + x.sp.frame) 48) (x.ch.ring.length - (if x.sp.depth - 1 = 0 then 0 else 1))

end Sys2Proof.Claims

/-- R130: above depth 0, `ret` returns every member that has not exited through its link, grouped by link, undoing the slide;
a link that no call can have written traps with misaligned, `tval` the link word. -/
def Sys2Proof.Claims.ReturnResults : Prop :=
  (∀ s x v, Issues .ret s x → x.sp.depth ≠ 0 → x.live ≠ 0 → (∀ l, l ∈ liveLanes x → linkOf x l = v) → ¬ badLink x v →
    (∀ l, l ∈ liveLanes x → (16 + (x.sp.wb - 1) % x.ch.ring.length, l / 8) ∉ x.ch.poison) →
    DoesAt (BitVec.ofNat 32 (v.toNat % 2 ^ 26)) .ret s
      { x with sp := { x.sp with wb := x.sp.wb - slide v, depth := x.sp.depth - 1, frame := frameBack x v } }) ∧
  (∀ s x j k, Issues .ret s x → x.sp.depth ≠ 0 → Apart x.ch → Settled x.ch → j ∈ liveLanes x → k ∈ liveLanes x →
    linkOf x j ≠ linkOf x k → (∀ l, l ∈ liveLanes x → ¬ badLink x (linkOf x l)) →
    (∀ l, l ∈ liveLanes x → (16 + (x.sp.wb - 1) % x.ch.ring.length, l / 8) ∉ x.ch.poison) →
    ∃ t g, Machine.exec .ret s = .next t ∧ Billed s t x ∧ t.chorus? x.co.uid x.ch.index = some g ∧ g.house = x.ch.house ∧ g.ring = x.ch.ring ∧
      ∀ l, l ∈ liveLanes x → ∃ p, p ∈ g.splits ∧ p.members = maskBy (fun m => x.live.has m && linkOf x m == linkOf x l) ∧
        p.xm = p.members &&& x.sp.xm ∧ p.pc = BitVec.ofNat 32 ((linkOf x l).toNat % 2 ^ 26) ∧
        p.wb = x.sp.wb - slide (linkOf x l) ∧ p.depth = x.sp.depth - 1 ∧ p.frame = frameBack x (linkOf x l)) ∧
  (∀ s x l, Issues .ret s x → x.sp.depth ≠ 0 → l ∈ liveLanes x → badLink x (linkOf x l) → (∀ m, m ∈ liveLanes x → m < l → ¬ badLink x (linkOf x m)) →
    (∀ m, m ∈ liveLanes x → (16 + (x.sp.wb - 1) % x.ch.ring.length, m / 8) ∉ x.ch.poison) →
    Traps .ret s x 0x0E (linkOf x l))

/-- R127 to R131: calls, frames, well overflow and returns. Beyond the rules it follows the model's choices of log entries 15, 67, 70 and 79. -/
def Obligations.CallsReturnsAndFrames : Prop := CallResults ∧ AllocAndOverflowResults ∧ ReturnResults

/-- R47, R48, R139: `trap`, `brk`, `pool`, `undef` and words that are no instruction take their trap; `nop` has no effect. -/
def Sys2Proof.Claims.TrapInstructionResults : Prop :=
  (∀ (k : BitVec 14) s x, Issues (.trap k) s x → Traps (.trap k) s x 0x11 (k.setWidth 32)) ∧
  (∀ (k : BitVec 14) s x, Issues (.brk k) s x → Traps (.brk k) s x 0x12 (k.setWidth 32)) ∧
  (∀ k s x, s.site? = some x → (∀ n e, x.co.playbill.pools[n]? = some e → e.1 = x.sp.pc.toNat + 4 →
      (∀ m f, m < n → x.co.playbill.pools[m]? = some f → f.1 ≠ x.sp.pc.toNat + 4) → Refused (.pool k) s x 0x04 (BitVec.ofNat 32 n)) ∧
    ((∀ e, e ∈ x.co.playbill.pools → e.1 ≠ x.sp.pc.toNat + 4) → Refused (.pool k) s x 0x04 0xFFFFFFFF)) ∧
  (∀ k s x, s.site? = some x → Refused (.undef k) s x 0x01 (encode (.undef k)).word) ∧
  (∀ w s x, s.site? = some x → chOnLoadLiteral w = false → Refused (.reservedEncoding w) s x 0x01 w) ∧
  (∀ w s x, s.site? = some x → chOnLoadLiteral w = true → Refused (.reservedEncoding w) s x 0x03 (x.sp.pc - trapPc x)) ∧
  (∀ v s x, Issues (.nop v) s x → Does (.nop v) s s x)

/-- R141: `rtt` clears the handler flag and continues at `epc`; outside a handler it is an illegal encoding, and an odd `epc`
traps with misaligned before the flag is cleared. -/
def Sys2Proof.Claims.ReturnFromTrapResults : Prop :=
  (∀ s x, Issues .rtt s x → x.ch.handler = true → x.ch.epc.getLsbD 0 = false →
    DoesAt x.ch.epc .rtt s { x with ch := { x.ch with handler := false } }) ∧
  (∀ s x, Issues .rtt s x → x.ch.handler = false → Traps .rtt s x 0x01 0x100000F9) ∧
  (∀ s x, Issues .rtt s x → x.ch.handler = true → x.ch.epc.getLsbD 0 = true → Traps .rtt s x 0x0E x.ch.epc)

/-- R47, R48, R139, R141: the instructions that take a trap, and the return from one. Beyond the rules it follows the model's choices of log entries
4, 11, 70, 79 and 98. -/
def Obligations.TrapInstructionsAndTheirReturn : Prop := TrapInstructionResults ∧ ReturnFromTrapResults

/-- R48, R49, R126, R348: before an instruction has any effect, the first of its decode-time causes in the order illegal encoding, privileged, chain
form, latch use is taken as a trap; rows that do not fit the ring are a well overflow; rows that are not resident, and then data of loads that its
operands await (R137, R151), are waited for; a poisoned operand halts the chorus. Beyond the rules it follows the model's choices of log entries 4,
11, 15, 79 and 98. -/
def Obligations.DecodeTimeCausesComeFirst : Prop :=
  ∀ i s x, encode i ≠ .none → s.site? = some x →
    (∀ c tv, ownCause x i = some (c, tv) → Refused i s x c tv) ∧
    ((∀ k, i ≠ .pool k) → chFormWord i = false → (fieldsLegal i = false ∨ fmtLegal x.sp.fmt i = false) →
      ownCause x i = some (0x01, (encode i).word)) ∧
    (fieldsLegal i = true → fmtLegal x.sp.fmt i = true → firmwareOnly i = true → x.co.ctx ≠ 0 →
      ownCause x i = some (0x0B, (encode i).word)) ∧
    (fieldsLegal i = true → fmtLegal x.sp.fmt i = true → firmwareOnly i = false → (∀ k, i ≠ .pool k) → x.ch.chain = none →
      (latchReads i ≠ [] → ownCause x i = some (0x02, 0)) ∧ (latchReads i = [] → chFormWord i = false → ownCause x i = none)) ∧
    (∀ r, ownCause x i = none → x.overflowRow (regsNamed x i) = some r → Refused i s x 0x07 (BitVec.ofNat 32 r)) ∧
    (ownCause x i = none → x.overflowRow (regsNamed x i) = none → x.ch.resident (x.neededBy (regsNamed x i)) = false → Apart x.ch →
      ∃ t g p, Machine.exec i s = .next t ∧ t.chorus? x.co.uid x.ch.index = some g ∧ p ∈ g.splits ∧ p.members = x.sp.members ∧
        p.pc = x.sp.pc ∧ p.state = .waitWindow ∧ x.sp.members ∈ g.requests ∧ g.house = x.ch.house ∧ g.ring = x.ch.ring) ∧
    (ownCause x i = none → x.overflowRow (regsNamed x i) = none → x.ch.resident (x.neededBy (regsNamed x i)) = true → x.loading i ≠ [] →
      Apart x.ch →
      ∃ t g p, Machine.exec i s = .next t ∧ t.chorus? x.co.uid x.ch.index = some g ∧ p ∈ g.splits ∧ p.members = x.sp.members ∧
        p.pc = x.sp.pc ∧ p.state = .waitMemory ∧ p.wait = .data (x.loading i) ∧ g.house = x.ch.house ∧ g.ring = x.ch.ring) ∧
    (∀ l, ownCause x i = none → x.overflowRow (regsNamed x i) = none → x.ch.resident (x.neededBy (regsNamed x i)) = true → x.loading i = [] →
      poisonedLane x i = some l → Traps i s x 0x10 (BitVec.ofNat 32 l))

/-- R137, R162, R170, R173, R224: an access by lanes whose addresses are misaligned in some lane, or lie outside, or that
names a tile that is not ready, traps before any lane accesses, `tval` the lowest offending lane or the tile. -/
def Sys2Proof.Claims.AccessTraps : Prop :=
  (∀ i o b size, (∃ h d, (i = .ldSb h o b d ∧ size = 1) ∨ (i = .ldSh h o b d ∧ size = 2) ∨ (i = .ldSw h o b d ∧ size = 4) ∨
        (i = .ldSa h o b d ∧ size = 4) ∨ (i = .stSb h o b d ∧ size = 1) ∨ (i = .stSh h o b d ∧ size = 2) ∨
        (i = .stSw h o b d ∧ size = 4) ∨ (i = .stSr h o b d ∧ size = 4)) ∨
      (∃ h d, (i = .ldSq h o b d ∧ size = 16) ∨ (i = .stSq h o b d ∧ size = 16)) →
    ∀ s x l a, Issues i s x → x.ch.inflight.length < 64 → (l, a) ∈ laneAddrs x b (offM o size) →
      (a % size ≠ 0 → (∀ e, e ∈ laneAddrs x b (offM o size) → e.1 < l → e.2 % size = 0) → Traps i s x 0x0E (BitVec.ofNat 32 l)) ∧
      (x.co.playbill.stage < a + size → (∀ e, e ∈ laneAddrs x b (offM o size) → e.2 % size = 0) →
        (∀ e, e ∈ laneAddrs x b (offM o size) → e.1 < l → e.2 + size ≤ x.co.playbill.stage) →
        Traps i s x 0x0D (BitVec.ofNat 32 l))) ∧
  (∀ i o b size, (∃ h d, (i = .ldCw h o b d ∧ size = 4) ∨ (i = .ldCa h o b d ∧ size = 4) ∨ (i = .stCw h o b d ∧ size = 4) ∨
        (i = .stCr h o b d ∧ size = 4)) ∨ (∃ h d, (i = .ldCq h o b d ∧ size = 16) ∨ (i = .stCq h o b d ∧ size = 16)) →
    ∀ s x l a, Issues i s x → x.ch.inflight.length < 64 → (l, a) ∈ laneAddrs x b (offM o size) → a % size ≠ 0 →
      (∀ e, e ∈ laneAddrs x b (offM o size) → e.1 < l → e.2 % size = 0) → Traps i s x 0x0E (BitVec.ofNat 32 l)) ∧
  (∀ i o b, (∃ h d, i = .ldWl h o b d ∨ i = .stWl h o b d) →
    ∀ s x l a, Issues i s x → x.ch.inflight.length < 64 → (l, a) ∈ laneAddrs x b (x.ch.wellp + offM o 4) →
      (a % 4 ≠ 0 → (∀ e, e ∈ laneAddrs x b (x.ch.wellp + offM o 4) → e.1 < l → e.2 % 4 = 0) → Traps i s x 0x0E (BitVec.ofNat 32 l)) ∧
      (x.co.playbill.localSize < a + 4 → (∀ e, e ∈ laneAddrs x b (x.ch.wellp + offM o 4) → e.2 % 4 = 0) →
        (∀ e, e ∈ laneAddrs x b (x.ch.wellp + offM o 4) → e.1 < l → e.2 + 4 ≤ x.co.playbill.localSize) →
        Traps i s x 0x06 (BitVec.ofNat 32 l))) ∧
  (∀ i t, (∃ k v d, i = .ldT k v t d ∨ i = .stT k v t d) ∨ (∃ k v d, i = .ldTq k v t d ∨ i = .stTq k v t d) →
    ∀ s x, Issues i s x → x.active ≠ 0 → x.ch.inflight.length < 64 →
      (x.co.tiles[t.toNat]? = none ∨ ∃ tl, x.co.tiles[t.toNat]? = some tl ∧ (tl.state = .empty ∨ tl.state = .draining)) →
      Traps i s x 0x09 (t.setWidth 32))

namespace Sys2Proof.Claims

/-- Whether two FP32 codes mismatch (R347): in sign, exponent or class, or by more than 1 in the top 5 mantissa bits. -/
def mismatch32 (a b : Word) : Prop :=
  a.getLsbD 31 ≠ b.getLsbD 31 ∨ a.extractLsb' 23 8 ≠ b.extractLsb' 23 8 ∨
  ((a.extractLsb' 23 8 = 0 ∨ a.extractLsb' 23 8 = 255) ∧ ¬ (a.setWidth 23 = 0 ↔ b.setWidth 23 = 0)) ∨
  (a.extractLsb' 18 5).toNat + 1 < (b.extractLsb' 18 5).toNat ∨ (b.extractLsb' 18 5).toNat + 1 < (a.extractLsb' 18 5).toNat

/-- A checked FP32 operation whose right results are `op` (R347): where a lane's computed result, the right one with the upset's bits
inverted, mismatches, the chorus halts with cause 0x0F and no register changes; where none does, the computed results are written. -/
def CheckedResult (mk : BitVec 1 → BitVec 1 → BitVec 7 → BitVec 7 → BitVec 6 → Instr) (op : Word → Word → Word) : Prop :=
  ∀ c w b a d s x, Issues (mk c w b a d) s x →
    let right (l : Nat) : Word := op (x.src a l) (x.src b l)
    let found (l : Nat) : Word := right l ^^^ x.ch.upset.at l
    (∀ l, l ∈ activeLanes x → mismatch32 (right l) (found l) → (∀ m, m ∈ activeLanes x → m < l → ¬ mismatch32 (right m) (found m)) →
      Traps (mk c w b a d) s x 0x0F (BitVec.ofNat 32 l)) ∧
    ((∀ l, l ∈ activeLanes x → ¬ mismatch32 (right l) (found l)) → w = 0 →
      ∃ t y, Machine.exec (mk c w b a d) s = .next t ∧ Billed s t x ∧ t.site? = some y ∧ y.ch.upset = Lanes.zero ∧
        Wrote x y d.toNat x.active found)

end Sys2Proof.Claims

/-- R347: the understudy's check of the FP32 sums, products and quotients. -/
def Sys2Proof.Claims.UnderstudyMismatchHalts : Prop :=
  CheckedResult Instr.fadd (fun a b => rneFp32 (exactSum .rne [fp a, fp b])) ∧
  CheckedResult Instr.fsub (fun a b => rneFp32 (exactSum .rne [fp a, (fp b).neg])) ∧
  CheckedResult Instr.fmul (fun a b => rneFp32 ((fp a).mul (fp b))) ∧ CheckedResult Instr.fdiv (fun a b => rneFp32 ((fp a).div (fp b)))

/-- R137, R162, R170, R173, R224, R347: traps of accesses by lanes, and the halt of a mismatch. Beyond the rules it follows the model's choices
of log entries 17 and 85. -/
def Obligations.TrapsOfExecution : Prop := AccessTraps ∧ UnderstudyMismatchHalts

/-! ## Barriers, fences, range slots, cues, tile state and handles (R174 to R183, R215, R273 to R277) -/

namespace Sys2Proof.Claims

/-- The choruses of a company that have neither ended nor halted (R180). -/
def liveCount (c : Company) : Nat := (c.choruses.filter (fun h => h.halted.isNone && !h.ended)).length

/-- The arrived set and the target after an arrival of chorus `ch` with a count (R180). -/
def arrivedSet (b : Barrier) (ch : Nat) : List Nat := if ch ∈ b.arrived then b.arrived else b.arrived ++ [ch]
def arrivedTarget (b : Barrier) (ch n all : Nat) : Nat :=
  if ch ∈ b.arrived then b.target else if b.arrived = [] then (if n = 0 then all else n) else b.target

/-- The barrier after the arrival: the next phase, with nobody arrived, when the arrivals are enough (R180). -/
def arrivedBarrier (c : Company) (b : Barrier) (ch n : Nat) : Barrier :=
  let a := arrivedSet b ch
  let t := arrivedTarget b ch n c.choruses.length
  if min t (liveCount c) ≤ a.length then { phase := b.phase + 1, arrived := [], target := t } else { phase := b.phase, arrived := a, target := t }

/-- The site with a barrier of its company replaced. -/
def withBarrier (x : Site) (k : Nat) (b : Barrier) : Site :=
  { x with co := { x.co with barriers := updAt x.co.barriers k (fun _ => b) } }

/-- Whether phase `token` of a barrier in phase `p` has completed (R182). -/
def completed (p token : Word) : Prop := (p - token - 1).toNat < 2 ^ 31

/-- The instruction's split waits in state `st` at the next instruction; no register has changed. -/
def Waits (i : Instr) (s : State) (x : Site) (w : Wait) (st : SplitState) : Prop :=
  ∃ t g p, Machine.exec i s = .next t ∧ t.chorus? x.co.uid x.ch.index = some g ∧ p ∈ g.splits ∧ p.members = x.sp.members ∧
    p.wait = w ∧ p.state = st ∧ p.pc = nextPc x i ∧ g.house = x.ch.house ∧ g.ring = x.ch.ring ∧ g.pending = x.ch.pending

/-- The instruction answers a next state in which `vd` holds `v` in each active lane, and the effect beside it is that of
`s'` and `x'`. -/
def DoesWrite (i : Instr) (s s' : State) (x x' : Site) (d : BitVec 6) (v : Word) : Prop :=
  ∃ t y, Machine.exec i s = .next t ∧ Billed s' t x' ∧ Past i t (withRows x' y) y ∧ Wrote x y d.toNat x.active (fun _ => v)

end Sys2Proof.Claims

/-- R180, R181: `bar.c` arrives and, when the phase completes, goes on with status 0; in an abandoned company whose phase has
not completed with status 1; else it waits. -/
def Sys2Proof.Claims.CompanyBarrierResults : Prop :=
  ∀ k (n : BitVec 8) d s x b, Issues (.barC k n d) s x → QuietCompany x.co → x.co.barriers[k.toNat]? = some b →
    let b' := arrivedBarrier x.co b x.ch.index n.toNat
    (b'.phase ≠ b.phase → DoesWrite (.barC k n d) s s x (withBarrier x k.toNat b') d 0) ∧
    (b'.phase = b.phase → x.co.abandoned = true → DoesWrite (.barC k n d) s s x (withBarrier x k.toNat b') d 1) ∧
    (b'.phase = b.phase → x.co.abandoned = false →
      Waits (.barC k n d) s x (.barC k.toNat b.phase d) .waitEvent ∧
      ∃ t c, Machine.exec (.barC k n d) s = .next t ∧ t.company? x.co.uid = some c ∧ c.barriers[k.toNat]? = some b')

/-- R182: `arv.c` arrives and returns the phase of the arrival; `awt.c` waits until the token's phase has completed, status 0,
or the company is abandoned, status 1; with no lane active neither has an effect, and a count above 32 is an illegal
encoding. -/
def Sys2Proof.Claims.ArriveAndAwaitResults : Prop :=
  (∀ vb va d s x, Issues (.arvC vb va d) s x → x.active = 0 → Does (.arvC vb va d) s s x) ∧
  (∀ vb va d s x b, Issues (.arvC vb va d) s x → x.active ≠ 0 → QuietCompany x.co →
    let k := (x.src va (leaderOf x)).toNat % 16
    let n := (x.src vb (leaderOf x)).toNat % 64
    n ≤ 32 → x.co.barriers[k]? = some b →
    DoesWrite (.arvC vb va d) s s x (withBarrier x k (arrivedBarrier x.co b x.ch.index n)) d b.phase) ∧
  (∀ vb va d s x, Issues (.arvC vb va d) s x → x.active ≠ 0 → 32 < (x.src vb (leaderOf x)).toNat % 64 →
    Traps (.arvC vb va d) s x 0x01 (encode (.arvC vb va d)).word) ∧
  (∀ vb va d s x, Issues (.awtC vb va d) s x → x.active = 0 → Does (.awtC vb va d) s s x) ∧
  (∀ vb va d s x b, Issues (.awtC vb va d) s x → x.active ≠ 0 → QuietCompany x.co →
    let k := (x.src va (leaderOf x)).toNat % 16
    let tok := x.src vb (leaderOf x)
    x.co.barriers[k]? = some b →
    (completed b.phase tok → DoesWrite (.awtC vb va d) s s x x d 0) ∧
    (¬ completed b.phase tok → x.co.abandoned = true → DoesWrite (.awtC vb va d) s s x x d 1) ∧
    (¬ completed b.phase tok → x.co.abandoned = false → Waits (.awtC vb va d) s x (.barC k tok d) .waitEvent))

/-- R180 to R182: company barriers. -/
def Obligations.CompanyBarriers : Prop := CompanyBarrierResults ∧ ArriveAndAwaitResults

namespace Sys2Proof.Claims

/-- The barrier of the company's troupe. -/
def troupeBarrier (s : State) (c : Company) (k : Nat) : Option TroupeBarrier :=
  (s.troupe? c.ctx c.run c.troupe).bind (fun t => t.barriers[k]?)

/-- Every live company of the troupe has arrived whole once chorus `x` has: an arrival of each, and one of each of its live
choruses (R182, R214). -/
def AllArrived (s : State) (x : Site) (b : TroupeBarrier) : Prop :=
  let as := b.arrivals ++ [(x.co.index, x.ch.index)]
  ∀ c, c ∈ s.liveCompanies x.co.ctx x.co.run x.co.troupe →
    (∃ a, a ∈ as ∧ a.1 = c.index) ∧ ∀ h, h ∈ c.choruses → h.halted ≠ none ∨ h.ended = true ∨ (c.index, h.index) ∈ as

/-- The row of register `e`, as a split sees it, is resident (R14, R126). -/
def RowThere (g : Chorus) (q : Split) (e : BitVec 6) : Prop :=
  e.toNat < 16 ∨ (g.low ≤ q.wb + e.toNat - 16 ∧ q.wb + e.toNat - 15 ≤ g.high)

/-- The arrivals of the phase with that of chorus `x` and a count: a second arrival joins the first, and a company's first gives its
count (R214, R215). -/
def arrivalsWith (x : Site) (b : TroupeBarrier) : List (Nat × Nat) :=
  if (x.co.index, x.ch.index) ∈ b.arrivals then b.arrivals else b.arrivals ++ [(x.co.index, x.ch.index)]
def countsWith (x : Site) (b : TroupeBarrier) (n : Nat) : List (Nat × Nat) :=
  if (x.co.index, x.ch.index) ∈ b.arrivals ∨ ∃ k, k ∈ b.counts ∧ k.1 = x.co.index then b.counts else b.counts ++ [(x.co.index, n)]

/-- A live company has arrived whole with these arrivals (R182, R214). -/
def Whole (as : List (Nat × Nat)) (c : Company) : Prop :=
  (∃ a, a ∈ as ∧ a.1 = c.index) ∧ ∀ h, h ∈ c.choruses → h.halted ≠ none ∨ h.ended = true ∨ (c.index, h.index) ∈ as

/-- The companies arrived once chorus `x` has: those before, and those whole now, among them the first that sets the target: its count, and
count 0 stands for every company of the troupe (R214). -/
def ArrivedWith (s : State) (x : Site) (b : TroupeBarrier) (l : List Nat) : Prop :=
  ∃ new, l = b.arrived ++ new ∧ (∀ k, k ∈ new → k ∉ b.arrived) ∧ new.Sublist ((s.liveCompanies x.co.ctx x.co.run x.co.troupe).map (·.index)) ∧
    ∀ c, c ∈ s.liveCompanies x.co.ctx x.co.run x.co.troupe → (c.index ∈ l ↔ c.index ∈ b.arrived ∨ ∃ d,
      d ∈ s.liveCompanies x.co.ctx x.co.run x.co.troupe ∧ d.index = c.index ∧ Whole (arrivalsWith x b) d)

def targetWith (s : State) (x : Site) (b : TroupeBarrier) (n : Nat) (l : List Nat) : Option Nat :=
  match b.target, l with
  | some t, _ => some t
  | none, [] => none
  | none, k :: _ =>
    let m := (((countsWith x b n).find? (fun c => c.1 == k)).map (·.2)).getD 0
    some (if m = 0 then ((s.run? x.co.ctx x.co.run).map (fun r => r.playbill.companies)).getD 0 else m)

/-- The barrier after the arrival of chorus `x` with count `n` (R214): where the arrived companies are at least as many as the target, or
as the live ones, the phase is over and nobody has arrived in the next; where they are fewer, or none is there to set a target, it stays and
the arrival stands in it. -/
def ArrivedAt (s : State) (x : Site) (n : Nat) (b b' : TroupeBarrier) : Prop :=
  ∃ l, ArrivedWith s x b l ∧
    ((∃ t, targetWith s x b n l = some t ∧ min t (s.liveCompanies x.co.ctx x.co.run x.co.troupe).length ≤ l.length) →
      b' = { phase := b.phase + 1, arrivals := [], arrived := [], counts := [], target := none }) ∧
    ((∀ t, targetWith s x b n l = some t → l.length < min t (s.liveCompanies x.co.ctx x.co.run x.co.troupe).length) →
      b'.phase = b.phase ∧ b'.arrivals = arrivalsWith x b ∧ b'.counts = countsWith x b n ∧
        (l ≠ [] → b'.arrived = l ∧ b'.target = targetWith s x b n l))

end Sys2Proof.Claims

/-- R182, R214, R215: `arv.t` arrives at a troupe barrier and returns its phase, `bar.t` also waits, and `awt.t` waits for a
token; the phase completes when as many companies have arrived whole as the target says or as live ones there are, and stays while there are
fewer. In an abandoned troupe `bar.t` goes on with status 1 where its phase has not completed. -/
def Obligations.TroupeBarrierResults : Prop :=
  (∀ vb va d s x, Issues (.arvT vb va d) s x → x.active = 0 → Does (.arvT vb va d) s s x) ∧
  (∀ vb va d s x b, Issues (.arvT vb va d) s x → x.active ≠ 0 → QuietTroupe s x.co →
    (x.src vb (leaderOf x)).toNat % 16 ≤ 8 → troupeBarrier s x.co ((x.src va (leaderOf x)).toNat % 4) = some b →
    ∃ t y b', Machine.exec (.arvT vb va d) s = .next t ∧ Billed { s with troupes := t.troupes } t x ∧
      Past (.arvT vb va d) t (withRows x y) y ∧ Wrote x y d.toNat x.active (fun _ => b.phase) ∧
      troupeBarrier t x.co ((x.src va (leaderOf x)).toNat % 4) = some b' ∧ ArrivedAt s x ((x.src vb (leaderOf x)).toNat % 16) b b' ∧
      (AllArrived s x b → b'.phase = b.phase + 1)) ∧
  (∀ vb va d s x, Issues (.arvT vb va d) s x → x.active ≠ 0 → 8 < (x.src vb (leaderOf x)).toNat % 16 →
    Traps (.arvT vb va d) s x 0x01 (encode (.arvT vb va d)).word) ∧
  (∀ k (n : BitVec 8) d s x b, Issues (.barT k n d) s x → QuietTroupe s x.co → troupeBarrier s x.co k.toNat = some b →
    ∃ t g b', Machine.exec (.barT k n d) s = .next t ∧ t.chorus? x.co.uid x.ch.index = some g ∧
      troupeBarrier t x.co k.toNat = some b' ∧ ArrivedAt s x n.toNat b b' ∧ (AllArrived s x b → b'.phase = b.phase + 1) ∧
      (b'.phase ≠ b.phase → ∃ y, t.site? = some y ∧ y.ch = g ∧ y.sp.pc = nextPc x (.barT k n d) ∧ Wrote x y d.toNat x.active (fun _ => 0)) ∧
      (b'.phase = b.phase → (s.troupeOf x.co).all (fun u => u.abandoned) = true →
        ∃ y, t.site? = some y ∧ y.ch = g ∧ y.sp.pc = nextPc x (.barT k n d) ∧ Wrote x y d.toNat x.active (fun _ => 1)) ∧
      (b'.phase = b.phase → (s.troupeOf x.co).all (fun u => !u.abandoned) = true → Waits (.barT k n d) s x (.barT k.toNat b.phase d) .waitEvent)) ∧
  (∀ vb va d s x, Issues (.awtT vb va d) s x → x.active = 0 → Does (.awtT vb va d) s s x) ∧
  (∀ vb va d s x u b, Issues (.awtT vb va d) s x → x.active ≠ 0 → QuietCompany x.co → s.troupeOf x.co = some u →
    let k := (x.src va (leaderOf x)).toNat % 4
    let tok := x.src vb (leaderOf x)
    u.barriers[k]? = some b →
    (completed b.phase tok → DoesWrite (.awtT vb va d) s s x x d 0) ∧
    (¬ completed b.phase tok → u.abandoned = true → DoesWrite (.awtT vb va d) s s x x d 1) ∧
    (¬ completed b.phase tok → u.abandoned = false → Waits (.awtT vb va d) s x (.barT k tok d) .waitEvent))

/-- R180, R181: an arrival that completes the phase of a company barrier releases every split of another chorus that waits in
it: the split is ready again at its next instruction, with status 0 in its active lanes. Where the pump has taken the row of the status away
meanwhile, the split waits for that row instead, with the status to write (R126; log entry 78). -/
def Obligations.BarrierCompletionReleasesWaiters : Prop :=
  ∀ vb va d s x b g q e, Issues (.arvC vb va d) s x → x.active ≠ 0 → (x.src vb (leaderOf x)).toNat % 64 ≤ 32 →
    let k := (x.src va (leaderOf x)).toNat % 16
    x.co.barriers[k]? = some b → (arrivedBarrier x.co b x.ch.index ((x.src vb (leaderOf x)).toNat % 64)).phase = b.phase + 1 →
    x.co.chorus? g.index = some g → g.index ≠ x.ch.index → Shaped g → Apart g → g.halted = none → g.ended = false →
    q ∈ g.splits → q.wait = .barC k b.phase e →
    ∃ t g' q', Machine.exec (.arvC vb va d) s = .next t ∧ t.chorus? x.co.uid g.index = some g' ∧ q' ∈ g'.splits ∧
      q'.members = q.members ∧ q'.pc = q.pc ∧
      (RowThere g q e → q'.wait = .none ∧ (q'.state = .ready ∨ q'.state = .running) ∧
        ∀ l, l < 32 → (q.xm &&& q.members &&& ~~~g.exited).has l = true → (g'.row q.wb e.toNat).at l = 0) ∧
      (¬ RowThere g q e → q'.state = .waitWindow ∧ ∃ a b, q'.wait = .outcome a b [e] 0)

/-- R276, R277: a fence with nothing to wait for has no effect but the phases of its range slots; with accesses of its kind outstanding its
split waits in state 0x2, a fence from messages also while the call board still owes a split of its chorus an answer. Beyond the rules it follows
the model's choices of log entries 8 and 68. -/
def Obligations.FenceResults : Prop :=
  (∀ c k m s x, Issues (.fenceR c k m) s x → QuietCompany x.co →
    (k.getLsbD 0 = true → ∀ f, f ∈ x.ch.inflight → f.reads = true → f.members &&& x.sp.members = 0) →
    (k.getLsbD 1 = true → ∀ j, j < 8 → m.getLsbD j = true → x.ch.counters.getD j (0, 0) = (0, 0)) →
    ∃ ph, ph.length = 8 ∧
      (∀ j, j < 8 → ph.getD j false = (x.ch.phases.getD j false ^^ (k.getLsbD 1 && m.getLsbD j))) ∧
      Does (.fenceR c k m) s s { x with ch := { x.ch with phases := ph } }) ∧
  (∀ c k m s x f, Issues (.fenceR c k m) s x → QuietCompany x.co → k.getLsbD 0 = true → f ∈ x.ch.inflight → f.reads = true →
    f.members &&& x.sp.members ≠ 0 →
    ∃ t g p, Machine.exec (.fenceR c k m) s = .next t ∧ t.chorus? x.co.uid x.ch.index = some g ∧ p ∈ g.splits ∧
      p.members = x.sp.members ∧ p.state = .waitMemory ∧ p.pc = nextPc x (.fenceR c k m) ∧ g.house = x.ch.house ∧ g.ring = x.ch.ring) ∧
  (∀ c k o f s x, Issues (.fenceX c k o f) s x → QuietCompany x.co →
    (f.getLsbD 0 = true → x.ch.inflight = []) → (f.getLsbD 1 = true → x.co.liveCommands x.ch.index = []) →
    (f.getLsbD 2 = true → x.co.liveMatrix x.ch.index = []) →
    (f.getLsbD 3 = true → (∀ q, q ∈ s.sent → ∀ ctx e, q.asker ≠ .message ctx x.co.uid x.ch.index e) ∧
      ∀ p, p ∈ x.ch.splits → ∀ o d, p.wait ≠ .board o d) →
    Does (.fenceX c k o f) s s x) ∧
  (∀ c k o f s x p q d, Issues (.fenceX c k o f) s x → Apart x.ch → f.getLsbD 3 = true → p ∈ x.ch.splits → p.wait = .board q d →
    ∃ t g p', Machine.exec (.fenceX c k o f) s = .next t ∧ t.chorus? x.co.uid x.ch.index = some g ∧ p' ∈ g.splits ∧
      p'.members = x.sp.members ∧ p'.state = .waitMemory ∧ p'.wait = .boards ∧ p'.pc = x.sp.pc ∧ g.house = x.ch.house ∧ g.ring = x.ch.ring) ∧
  (∀ c k o f s x, Issues (.fenceX c k o f) s x → QuietCompany x.co → k ≠ 1 →
    ((f.getLsbD 3 = true → ∀ p, p ∈ x.ch.splits → ∀ o d, p.wait ≠ .board o d)) →
    ((f.getLsbD 3 = true ∧ ∃ q ctx e, q ∈ s.sent ∧ q.asker = .message ctx x.co.uid x.ch.index e) ∨
      (f.getLsbD 0 = true ∧ x.ch.inflight ≠ []) ∨ (f.getLsbD 1 = true ∧ x.co.liveCommands x.ch.index ≠ []) ∨
      (f.getLsbD 2 = true ∧ x.co.liveMatrix x.ch.index ≠ [])) →
    ∃ t g p, Machine.exec (.fenceX c k o f) s = .next t ∧ t.chorus? x.co.uid x.ch.index = some g ∧ p ∈ g.splits ∧
      p.members = x.sp.members ∧ p.state = .waitMemory ∧ p.pc = nextPc x (.fenceX c k o f) ∧ g.house = x.ch.house ∧ g.ring = x.ch.ring)

/-- R273 to R275: `rng.set` and `rng.set.h` bind a slot and leave its counters; a lane access is tagged with exactly the bound
slots that its bytes overlap in their space, each under the slot's phase. -/
def Sys2Proof.Claims.RangeSlotResults : Prop :=
  (∀ b a k s x, Issues (.rngSet b a k) s x → x.active = 0 → Does (.rngSet b a k) s s x) ∧
  (∀ b (a : BitVec 7) k s x, Issues (.rngSet b a k) s x → x.active ≠ 0 →
    let r := a.toNat % 64
    let lo := x.reg r (leaderOf x)
    let hi := x.reg (r + 1) (leaderOf x)
    (hi.extractLsb' 30 2 ≠ 3 → Does (.rngSet b a k) s s { x with ch := { x.ch with
      slots := updAt x.ch.slots k.toNat (fun _ =>
        { length := x.src b (leaderOf x), space := hi.extractLsb' 30 2, base := hi.extractLsb' 0 16 ++ lo }) } }) ∧
    (hi.extractLsb' 30 2 = 3 → Traps (.rngSet b a k) s x 0x01 (encode (.rngSet b a k)).word)) ∧
  (∀ (h : BitVec 6) k s x, Issues (.rngSetH h k) s x →
    (x.co.handles.getD h.toNat none = none → Traps (.rngSetH h k) s x 0x08 (h.setWidth 32)) ∧
    (∀ r, x.co.handles.getD h.toNat none = some r → ∃ n free, (r.footprint < 2 ^ 32 → n = BitVec.ofNat 32 r.footprint) ∧
      Does (.rngSetH h k) s { s with free := free } { x with ch := { x.ch with
        slots := updAt x.ch.slots k.toNat (fun _ => { length := n, space := 0, base := r.base.extractLsb' 0 48 }) } })) ∧
  (∀ h fp k ph, Shaped h → ((k, ph) ∈ h.tagsFor fp ↔
    ∃ r q, h.slots[k]? = some r ∧ q ∈ fp ∧ r.length ≠ 0 ∧ q.len ≠ 0 ∧ r.space.toNat = q.space ∧
      r.base.toNat < q.base + q.len ∧ q.base < r.base.toNat + r.length.toNat ∧ ph = if h.phases.getD k false then 1 else 0))

/-- R20, R177: `cue.set` resolves a cue by its source, `cue.clr` makes it unresolved, `cue.rd` writes its code: g0 is true. -/
def Sys2Proof.Claims.CueResults : Prop :=
  (∀ a k s x, Issues (.cueSet a k) s x → x.active = 0 → Does (.cueSet a k) s s x) ∧
  (∀ a k s x, Issues (.cueSet a k) s x → x.active ≠ 0 → Does (.cueSet a k) s s { x with ch := { x.ch with
    cues := updAt x.ch.cues k.toNat (fun _ => if x.src a (leaderOf x) = 0 then .isFalse else .isTrue) } }) ∧
  (∀ k s x, Issues (.cueClr k) s x → Does (.cueClr k) s s { x with ch := { x.ch with
    cues := updAt x.ch.cues k.toNat (fun _ => .unresolved) } }) ∧
  (∀ k d s x, Issues (.cueRd k d) s x → DoesWrite (.cueRd k d) s s x x d
    (if k = 0 then 3 else match x.ch.cues.getD k.toNat .unresolved with | .unresolved => 0 | .isFalse => 2 | .isTrue => 3))

/-- R20, R177, R273 to R275: range slots and cues. -/
def Obligations.RangeSlotsAndCues : Prop := RangeSlotResults ∧ CueResults

/-- R169, R170, R174: `tl.rel` drains a ready tile, `tl.wait` goes on at a ready one and waits at a filling one, `tl.st` writes
the state code; `tl.rel` of a tile that is not ready, `tl.wait` of an empty or draining one, and a tile beyond the map trap with tile
state. -/
def Sys2Proof.Claims.TileStateResults : Prop :=
  (∀ t s x tl, Issues (.tlRel t) s x → x.co.tiles[t.toNat]? = some tl → tl.state = .ready →
    Does (.tlRel t) s s { x with co := { x.co with tiles := updAt x.co.tiles t.toNat (fun _ => { tl with state := .draining, drainAge := 0 }) } }) ∧
  (∀ t s x tl, Issues (.tlRel t) s x → x.co.tiles[t.toNat]? = some tl → tl.state ≠ .ready → Traps (.tlRel t) s x 0x09 (t.setWidth 32)) ∧
  (∀ t s x tl, Issues (.tlWait t) s x → x.co.tiles[t.toNat]? = some tl → tl.state = .ready → Does (.tlWait t) s s x) ∧
  (∀ t s x tl, Issues (.tlWait t) s x → QuietCompany x.co → x.co.tiles[t.toNat]? = some tl → tl.state = .filling →
    Waits (.tlWait t) s x (.tileReady t.toNat x.sp.pc) .waitMemory) ∧
  (∀ t s x tl, Issues (.tlWait t) s x → x.co.tiles[t.toNat]? = some tl → (tl.state = .empty ∨ tl.state = .draining) →
    Traps (.tlWait t) s x 0x09 (t.setWidth 32)) ∧
  (∀ t d s x tl, Issues (.tlSt t d) s x → x.co.tiles[t.toNat]? = some tl → DoesWrite (.tlSt t d) s s x x d
    (match tl.state with | .empty => 0 | .filling => 1 | .ready => 2 | .draining => 3)) ∧
  (∀ i t s x, (i = .tlRel t ∨ i = .tlWait t ∨ ∃ d, i = .tlSt t d) → Issues i s x → x.co.tiles[t.toNat]? = none →
    Traps i s x 0x09 (t.setWidth 32))

namespace Sys2Proof.Claims

/-- The fields of a shape record by their bits; a dimension beyond the rank counts as 1, and its stride is no field (R175). -/
def recField (v lo n : Nat) : Nat := v / 2 ^ lo % 2 ^ n
def recRank (v : Nat) : Nat := recField v 440 8
def recExtent (v i : Nat) : Nat := if i < recRank v then recField v (64 + 32 * i) 32 else 1
def recBox (v i : Nat) : Nat := if i < recRank v then recField v (352 + 16 * i) 16 else 1
def recStride (v i : Nat) : Nat := recField v (192 + 32 * i) 32
def recWidth (v : Nat) : Nat := formatBits (BitVec.ofNat 4 (recField v 432 4))

/-- The bytes that the dimensions up to `i` span (R176). -/
def recSpan (v i : Nat) : Nat := if i = 0 then (recExtent v 0 * recWidth v + 7) / 8 else 16 * recStride v i * recExtent v i

/-- What a record fails by each code of R176. -/
def RecordFails (c : Company) (v code : Nat) : Prop :=
  match code with
  | 1 => ∃ i, i < recRank v ∧ (recExtent v i = 0 ∨ recBox v i = 0)
  | 2 => recField v 448 1 = 0 ∧ ∃ i, 1 ≤ i ∧ i < recRank v ∧ 16 * recStride v i < recSpan v (i - 1)
  | 3 => v % 16 ≠ 0
  | 4 => ∀ t, c.tiles[recField v 456 8]? = some t →
      t.capacity < recBox v 1 * recBox v 2 * recBox v 3 * recBox v 4 * pitch (recBox v 0) (recWidth v)
  | 5 => 14 ≤ recField v 432 4 ∨ (recWidth v = 6 ∧ recBox v 0 % 4 ≠ 0) ∨ (recField v 449 1 = 1 ∧ 10 < recField v 432 4)
  | 6 => recRank v = 0 ∨ 5 < recRank v
  | 7 => recField v 449 1 = 1 ∧ (recField v 471 1 = 1 ∨ recBox v 0 % 32 ≠ 0 ∨ ∀ q, c.handles.getD (recField v 464 6) none = some q →
      q.format ≠ 0xD ∨ q.rank ≠ recRank v ∨ q.extents.drop 1 ≠ (List.range 4).map (fun i => recExtent v (i + 1)) ∨
        q.box.drop 1 ≠ (List.range 4).map (fun i => recBox v (i + 1)) ∨ q.extents.getD 0 1 ≠ (recExtent v 0 + 31) / 32 ∨
        q.box.getD 0 1 ≠ recBox v 0 / 32)
  | _ => False

/-- `n` is the first of the codes that the record fails, or 0. -/
def FirstFailed (c : Company) (v n : Nat) : List Nat → Prop
  | [] => n = 0
  | k :: r => (RecordFails c v k ∧ n = k) ∨ (¬ RecordFails c v k ∧ FirstFailed c v n r)

/-- The record as a handle keeps it (R175). -/
def RecordOf (v : Nat) (r : Record) : Prop :=
  r.base = BitVec.ofNat 64 v ∧ r.rank = recRank v ∧ r.format = BitVec.ofNat 4 (recField v 432 4) ∧
  (∀ i, i < 5 → r.extents.getD i 1 = recExtent v i ∧ r.box.getD i 1 = recBox v i) ∧
  (∀ i, 1 ≤ i → i < 5 → r.strides.getD i 0 = if i < recRank v then recStride v i else 0) ∧
  r.overlap = decide (recField v 448 1 = 1) ∧ r.scaled = decide (recField v 449 1 = 1) ∧ r.noscale = decide (recField v 471 1 = 1) ∧
  r.tile = recField v 456 8 ∧ r.scaleHandle = recField v 464 6

end Sys2Proof.Claims

/-- R175, R176: `rec.bind` reads the 64-byte record, writes the number of the first of the seven checks that it fails, in the order 6, 1, 2, 3,
4, 5, 7, or 0, and binds the handle exactly when none fails. -/
def Sys2Proof.Claims.RecordBindResults : Prop :=
  (∀ h a d s x, Issues (.recBind h a d) s x → x.active = 0 → Does (.recBind h a d) s s x) ∧
  (∀ h a d s x, Issues (.recBind h a d) s x → x.active ≠ 0 →
    let p := (x.src a (leaderOf x)).toNat
    (p % 16 ≠ 0 → Traps (.recBind h a d) s x 0x0E (BitVec.ofNat 32 (leaderOf x))) ∧
    (p % 16 = 0 → x.co.playbill.stage < p + 64 → Traps (.recBind h a d) s x 0x0D (BitVec.ofNat 32 (leaderOf x))) ∧
    (p % 16 = 0 → p + 64 ≤ x.co.playbill.stage → poisoned x.co.stagePoison p 64 = false →
      let v := ofBytesLE ((List.range 64).map (fun k => x.co.stage.read (p + k)))
      ∃ r n, RecordOf v r ∧ FirstFailed x.co v n [6, 1, 2, 3, 4, 5, 7] ∧
        DoesWrite (.recBind h a d) s s x
          { x with co := { x.co with handles := updAt x.co.handles h.toNat (fun _ => if n = 0 then some r else none) } } d (BitVec.ofNat 32 n)))

/-- R169, R170, R174 to R176: tile states and the binding of records. Beyond the rules it follows the model's choices of log entry 81. -/
def Obligations.TileStateAndRecords : Prop := TileStateResults ∧ RecordBindResults

/-! ## Special registers, time, queues and messages (R25, R90 to R93, R321 to R335, R387 to R390) -/

namespace Sys2Proof.Claims

/-- The value that lane `l` reads from special register `r` (R25, R91). -/
def sreg (s : State) (x : Site) (r l : Nat) : Word :=
  if r = 0x000 then BitVec.ofNat 32 l
  else if r = 0x001 then BitVec.ofNat 32 x.ch.index
  else if r = 0x002 then BitVec.ofNat 32 x.co.index
  else if r = 0x003 then BitVec.ofNat 32 x.co.troupe
  else if r = 0x004 then BitVec.ofNat 32 x.co.run
  else if r = 0x008 then x.sp.xm
  else if r = 0x009 then x.sp.fmt.setWidth 32
  else if r = 0x00A then (x.ch.pli.getD l 0).setWidth 32
  else if r = 0x00B then x.ch.fm
  else if r = 0x010 then BitVec.ofNat 32 x.sp.wb
  else if r = 0x011 then BitVec.ofNat 32 x.ch.ring.length
  else if r = 0x012 then x.ch.wellp
  else if r = 0x013 then BitVec.ofNat 32 x.sp.depth
  else if r = 0x018 then BitVec.ofNat 32 x.co.cyc
  else if r = 0x019 then x.ch.cycHi
  else if r = 0x01A then BitVec.ofNat 32 (s.vtNs x.co.ctx)
  else if r = 0x01B then x.ch.vtHi
  else if r = 0x01C then x.ch.msgvt.extractLsb' 0 32
  else if r = 0x01D then x.ch.msgvtHi
  else if r = 0x020 then x.ch.cause
  else if r = 0x021 then x.ch.epc
  else if r = 0x022 then x.ch.tval
  else if r = 0x028 then x.ch.cueWord
  else if r = 0x030 then BitVec.ofNat 32 (s.core x.co.core).band
  else BitVec.ofNat 32 (s.cluster (x.co.core / 8)).draw

/-- The high half that a read of `cyc.lo`, `vt.lo` or `msgvt.lo` latches (R25). -/
def latched (s : State) (x : Site) (r : Nat) : Site :=
  if r = 0x018 then { x with ch := { x.ch with cycHi := BitVec.ofNat 32 (x.co.cyc / 2 ^ 32) } }
  else if r = 0x01A then { x with ch := { x.ch with vtHi := BitVec.ofNat 32 (s.vtNs x.co.ctx / 2 ^ 32) } }
  else if r = 0x01C then { x with ch := { x.ch with msgvtHi := x.ch.msgvt.extractLsb' 32 32 } }
  else x

end Sys2Proof.Claims

/-- R25, R91: `mfs` writes to each active lane the value of the register for that lane, and a read of a low half latches its
high half; with no lane active it has no effect. -/
def Sys2Proof.Claims.SpecialRegisterReadResults : Prop :=
  (∀ r d s x, Issues (.mfs r d) s x → x.active = 0 → Does (.mfs r d) s s x) ∧
  (∀ r d s x, Issues (.mfs r d) s x → x.active ≠ 0 →
    ∃ t y, Machine.exec (.mfs r d) s = .next t ∧ Billed s t x ∧ Past (.mfs r d) t (withRows (latched s x r.toNat) y) y ∧
      Wrote x y d.toNat x.active (sreg s x r.toNat))

/-- R92, R93: `mts` writes a special register from the leader: `xm` within the members, 12 bits of `fmt`, `fm` only cleared,
`wellp` where it is a multiple of 4 within the local size, and `cause`, `epc`, `tval` as written; `fmt` writes its immediate. -/
def Sys2Proof.Claims.SpecialRegisterWriteResults : Prop :=
  (∀ r v s x, Issues (.mts r v) s x → x.active = 0 → r ≠ 0x008 → Does (.mts r v) s s x) ∧
  (∀ v s x, Issues (.mts 0x008 v) s x →
    Does (.mts 0x008 v) s s { x with sp := { x.sp with xm := x.reg v.toNat (chosen x) &&& x.sp.members } }) ∧
  (∀ v s x, x.active ≠ 0 →
    let u := x.reg v.toNat (leaderOf x)
    (Issues (.mts 0x009 v) s x → Does (.mts 0x009 v) s s { x with sp := { x.sp with fmt := u.setWidth 12 |>.setWidth 16 } }) ∧
    (Issues (.mts 0x00B v) s x → Does (.mts 0x00B v) s s { x with ch := { x.ch with fm := x.ch.fm &&& u } }) ∧
    (Issues (.mts 0x012 v) s x → u.toNat % 4 = 0 → u.toNat ≤ x.co.playbill.localSize →
      Does (.mts 0x012 v) s s { x with ch := { x.ch with wellp := u } }) ∧
    (Issues (.mts 0x012 v) s x → (u.toNat % 4 ≠ 0 ∨ x.co.playbill.localSize < u.toNat) →
      Traps (.mts 0x012 v) s x 0x0E (BitVec.ofNat 32 (leaderOf x))) ∧
    (Issues (.mts 0x020 v) s x → Does (.mts 0x020 v) s s { x with ch := { x.ch with cause := u } }) ∧
    (Issues (.mts 0x021 v) s x → Does (.mts 0x021 v) s s { x with ch := { x.ch with epc := u } }) ∧
    (Issues (.mts 0x022 v) s x → Does (.mts 0x022 v) s s { x with ch := { x.ch with tval := u } })) ∧
  (∀ (k : BitVec 12) s x, Issues (.fmt k) s x → Does (.fmt k) s s { x with sp := { x.sp with fmt := k.setWidth 16 } })

/-- R25, R91 to R93: reads and writes of special registers. Beyond the rules it follows the model's choices of log entries 28, 66, 80 and 82. -/
def Obligations.SpecialRegisters : Prop := SpecialRegisterReadResults ∧ SpecialRegisterWriteResults

/-- R331 to R335: `tmr.set` arms a timer and `tmr.clr` disarms it, both clearing its pending bit; `wev` takes the selected pending events at
once, polls with a delta of 0, and else waits; `wtm` goes on at a deadline that has come and else waits. Beyond the rules it follows the
model's choices of log entry 74. -/
def Obligations.TimerAndWaitResults : Prop :=
  (∀ b a s x, Issues (.tmrSet b a) s x →
    let k := (x.reg a.toNat (chosen x)).toNat
    (k < 4 → Does (.tmrSet b a) s s { x with ch := { x.ch with
      timers := updAt x.ch.timers k (fun _ => some ((s.vtNs x.co.ctx + (x.reg b.toNat (chosen x)).toNat) * ticksPerNs))
      pending := x.ch.pending &&& ~~~(1#7 <<< k) } }) ∧
    (4 ≤ k → Traps (.tmrSet b a) s x 0x01 (encode (.tmrSet b a)).word)) ∧
  (∀ a s x, Issues (.tmrClr a) s x →
    let k := (x.reg a.toNat (chosen x)).toNat
    (k < 4 → Does (.tmrClr a) s s { x with ch := { x.ch with
      timers := updAt x.ch.timers k (fun _ => none)
      pending := x.ch.pending &&& ~~~(1#7 <<< k) } }) ∧
    (4 ≤ k → Traps (.tmrClr a) s x 0x01 (encode (.tmrClr a)).word)) ∧
  (∀ b a d s x, Issues (.wev b a d) s x → QuietCompany x.co →
    let m := (x.reg a.toNat (chosen x)).setWidth 7
    let delta := x.reg b.toNat (chosen x)
    (x.ch.pending &&& m ≠ 0 →
      DoesWrite (.wev b a d) s s x { x with ch := { x.ch with pending := x.ch.pending &&& ~~~m } } d ((x.ch.pending &&& m).setWidth 32)) ∧
    (x.ch.pending &&& m = 0 → delta = 0 → DoesWrite (.wev b a d) s s x x d 0x80000000) ∧
    (x.ch.pending &&& m = 0 → delta ≠ 0 →
      Waits (.wev b a d) s x (.wev m ((s.vtNs x.co.ctx + delta.toNat) * ticksPerNs) d) .waitEvent)) ∧
  (∀ a d s x, Issues (.wtm a d) s x → QuietCompany x.co →
    let t := (x.reg a.toNat (chosen x)).toNat + 2 ^ 32 * (x.reg (a.toNat + 1) (chosen x)).toNat
    (t * ticksPerNs ≤ s.vtTicks x.co.ctx → DoesWrite (.wtm a d) s s x x d 0) ∧
    (s.vtTicks x.co.ctx < t * ticksPerNs → Waits (.wtm a d) s x (.wtm (t * ticksPerNs) d) .waitEvent))

/-- R310, R321: `qkick` raises the write index of an enabled queue of its own context; a queue number of 16 or more is an
illegal encoding. R322: `evt` writes the completion-event counter. -/
def Sys2Proof.Claims.KickAndEventCounterResults : Prop :=
  (∀ b a s x, Issues (.qkick b a) s x → x.active = 0 → Does (.qkick b a) s s x) ∧
  (∀ b a s x, Issues (.qkick b a) s x → x.active ≠ 0 →
    let q := (x.reg b.toNat (leaderOf x)).toNat
    let w := (x.reg a.toNat (leaderOf x)).toNat + 2 ^ 32 * (x.reg (a.toNat + 1) (leaderOf x)).toNat
    (q < 16 → Does (.qkick b a) s { s with contexts := s.contexts.map (fun (c : Context) =>
      if c.id = x.co.ctx then
        { c with queues := updAt c.queues q (fun (u : Queue) => if u.ctl.getLsbD 0 then { u with w := max u.w w, reread := none } else u) }
      else c) } x) ∧
    (16 ≤ q → Traps (.qkick b a) s x 0x01 (encode (.qkick b a)).word)) ∧
  (∀ d s x, Issues (.evt d) s x → DoesWrite (.evt d) s s x x d x.ch.events)

/-- R48, R323, R326: in the context of firmware `plset` sets the limit that a cluster of the die takes at its next window, and
`rdstg` reads stage time, the low half latching the high; in every other context both trap as privileged. -/
def Sys2Proof.Claims.FirmwareInstructionResults : Prop :=
  (∀ c d s x, Issues (.plset c d) s x → x.active = 0 → Does (.plset c d) s s x) ∧
  (∀ c d s x, Issues (.plset c d) s x → x.active ≠ 0 →
    Does (.plset c d) s { s with clusters := s.clusters.map (fun (k : Cluster) =>
      if k.num = 6 * (x.co.core / 48) + c.toNat then { k with newLimit := some (x.reg d.toNat (leaderOf x)).toNat } else k) } x) ∧
  (∀ d s x, Issues (.rdstg 0 d) s x → DoesWrite (.rdstg 0 d) s s x
    { x with ch := { x.ch with stageHi := BitVec.ofNat 32 (s.now / ticksPerNs / 2 ^ 32) } } d (BitVec.ofNat 32 (s.now / ticksPerNs))) ∧
  (∀ d s x, Issues (.rdstg 1 d) s x → DoesWrite (.rdstg 1 d) s s x x d x.ch.stageHi) ∧
  (∀ i s x, ((∃ c d, i = .plset c d) ∨ ∃ k d, i = .rdstg k d) → s.site? = some x → x.co.ctx ≠ 0 → fieldsLegal i = true →
    Traps i s x 0x0B (encode i).word)

/-- R48, R310, R321 to R323, R326: `qkick`, `evt`, and the instructions of firmware. Beyond the rules it follows the model's choices of log
entries 30 and 56. -/
def Obligations.KickEventCounterAndFirmwareResults : Prop := KickAndEventCounterResults ∧ FirmwareInstructionResults

namespace Sys2Proof.Claims

/-- A message from the site, as `msg.send` reads it from its operands (R388). -/
structure Outgoing (s : State) (x : Site) (dest control replyTo : Word) (ident : BitVec 32) (addr len : Nat) (m : Message) : Prop where
  dest : m.destDev = dest.extractLsb' 0 12 ∧ m.destCtx = dest.extractLsb' 12 12 ∧ m.channel = dest.extractLsb' 24 8
  source : m.srcDev = s.deviceId ∧ m.srcCtx = BitVec.ofNat 12 x.co.ctx
  control : m.patience = control.extractLsb' 0 16 ∧ m.dilation = control.getLsbD 16 ∧ m.kind = (control.extractLsb' 17 3).setWidth 4
  ident : m.ident = ident
  replyTo : m.kind = 1 → m.replyTo = replyTo
  payload : m.payload = (List.range len).map (fun k => x.co.stage.read (addr + k))

/-- The message that `msg.recv` takes: visible, not taken, and of the lowest stamp, ties in arrival order (R389). -/
def TakenNext (c : Context) (e : BoardEntry) : Prop :=
  e ∈ c.board ∧ e.visible = true ∧ e.taken = false ∧
  ∀ d, d ∈ c.board → d.visible = true → d.taken = false → d ≠ e →
    e.stampTicks < d.stampTicks ∨ (e.stampTicks = d.stampTicks ∧ e.order < d.order)

end Sys2Proof.Claims

namespace Sys2Proof.Claims

/-- The call board answers split `x`, which waits for it and for which the rows of `vd` are there; no other split of its company waits for
anything but its join. -/
structure BoardTurn (s u : State) (x : Site) (op : BoardOp) (vd : BitVec 6) : Prop where
  turn : ∃ r rest, s.agenda = .board r x.sp.members :: rest ∧ u = { s with agenda := rest } ∧ u.siteOf r x.sp.members = some x ∧
    r.co = x.co.uid ∧ r.ch = x.ch.index
  waits : x.sp.wait = .board op vd
  shaped : Shaped x.ch
  rows : RowThere x.ch x.sp vd
  running : x.co.state = .running
  alone : s.companies.Pairwise (fun c d => c.uid ≠ d.uid) ∧ x.co.choruses.Pairwise (fun g h => g.index ≠ h.index) ∧
    ∀ h, h ∈ x.co.choruses → h.halted = none → h.ended = false → Apart h ∧ ∀ p, p ∈ h.splits →
      (h.index = x.ch.index ∧ p.members = x.sp.members) ∨ p.wait = .none ∨ (p.wait = .join ∧ p.state = .arrived)

/-- The answer has come: the split of `x` runs on where it stood, as `y`, with `v` in `vd` in each active lane. -/
structure Answered (t : State) (x y : Site) (vd : BitVec 6) (v : Word) : Prop where
  company : t.company? x.co.uid = some y.co
  chorus : y.co.chorus? x.ch.index = some y.ch
  split : y.sp ∈ y.ch.splits ∧ y.sp.members = x.sp.members ∧ y.sp.pc = x.sp.pc ∧ y.sp.wb = x.sp.wb
  goes : y.sp.wait = .none ∧ (y.sp.state = .ready ∨ y.sp.state = .running)
  wrote : Wrote x y vd.toNat x.active (fun _ => v)

end Sys2Proof.Claims

/-- R387, R388, R393: `msg.send` takes its operands and its split waits for the call board, which then reads the payload in the stage, sends a
message made of them and answers with the next request identifier of the destination device in `vd`; a payload that is poisoned there traps. Ill-formed
controls and lengths, a misaligned payload and one past the stage trap as it issues. -/
def Sys2Proof.Claims.MessageSendResults : Prop :=
  ∀ b a d s x, Issues (.msgSend b a d) s x →
    (x.active = 0 → Does (.msgSend b a d) s s x) ∧
    (x.active ≠ 0 →
      let dest := x.reg a.toNat (leaderOf x)
      let control := x.reg (a.toNat + 1) (leaderOf x)
      let replyTo := x.reg (a.toNat + 2) (leaderOf x)
      let addr := (x.reg b.toNat (leaderOf x)).toNat
      let len := (x.reg (b.toNat + 1) (leaderOf x)).toNat
      let legal := control.toNat < 2 ^ 20 ∧ control.toNat / 2 ^ 17 ≤ 1 ∧ len ≤ 128 ∧ len % 4 = 0
      (¬ legal → Traps (.msgSend b a d) s x 0x01 (encode (.msgSend b a d)).word) ∧
      (legal → addr % 4 ≠ 0 → Traps (.msgSend b a d) s x 0x0E (BitVec.ofNat 32 (leaderOf x))) ∧
      (legal → addr % 4 = 0 → x.co.playbill.stage < addr + len → Traps (.msgSend b a d) s x 0x0D (BitVec.ofNat 32 (leaderOf x))) ∧
      (legal → addr % 4 = 0 → addr + len ≤ x.co.playbill.stage → QuietCompany x.co →
        Waits (.msgSend b a d) s x (.board (.send dest control replyTo addr len x.sp.pc) d) .waitMemory))

/-- What the call board does for `msg.send`. -/
def Sys2Proof.Claims.MessageSendAnswers : Prop :=
  ∀ s u x dest control replyTo addr len pc vd, BoardTurn s u x (.send dest control replyTo addr len pc) vd →
    (poisoned x.co.stagePoison addr len = false →
      ∃ t y o m, Machine.step s = .next t ∧ Answered t x y vd (u.nextIdent (dest.extractLsb' 0 12)).1 ∧
        y.co = { x.co with choruses := y.co.choruses } ∧ o ∈ t.sent ∧ o.dest = dest.extractLsb' 0 12 ∧ o.what = .message m ∧
        Outgoing u x dest control replyTo (u.nextIdent (dest.extractLsb' 0 12)).1 addr len m ∧
        t.mem = s.mem ∧ t.runs = s.runs ∧ t.now = s.now) ∧
    (poisoned x.co.stagePoison addr len = true →
      ∃ t g, Machine.step s = .next t ∧ t.chorus? x.co.uid x.ch.index = some g ∧ g.halted = some 0x10 ∧ g.cause = 0x10 ∧ g.epc = pc ∧
        t.sent = s.sent)

/-- R389, R393: the split of `msg.recv` waits for the call board, which writes the header and payload of the visible message of lowest stamp to
the stage, the header's bits 63:32 to `vd` and its stamp to `msgvt`, and takes it from the board; `msg.peek` writes the same `vd` as it issues and
takes nothing; without a message both write all ones. -/
def Sys2Proof.Claims.MessageReceiveResults : Prop :=
  (∀ a d s x, Issues (.msgRecv a d) s x →
    let p := (x.reg a.toNat (leaderOf x)).toNat
    (x.active = 0 → Does (.msgRecv a d) s s x) ∧
    (x.active ≠ 0 → p % 16 ≠ 0 → Traps (.msgRecv a d) s x 0x0E (BitVec.ofNat 32 (leaderOf x))) ∧
    (x.active ≠ 0 → p % 16 = 0 → x.co.playbill.stage < p + 160 → Traps (.msgRecv a d) s x 0x0D (BitVec.ofNat 32 (leaderOf x))) ∧
    (x.active ≠ 0 → p % 16 = 0 → p + 160 ≤ x.co.playbill.stage → QuietCompany x.co →
      Waits (.msgRecv a d) s x (.board (.recv p x.sp.pc) d) .waitMemory)) ∧
  (∀ s u x p pc vd c, BoardTurn s u x (.recv p pc) vd → s.context? x.co.ctx = some c →
    ((∀ e, e ∈ c.board → e.taken = true ∨ e.visible = false) → ∃ t y, Machine.step s = .next t ∧ Answered t x y vd 0xFFFFFFFF ∧
      y.co = { x.co with choruses := y.co.choruses } ∧ t.contexts = s.contexts) ∧
    (∀ e, TakenNext c e → x.co.stage.wf = true →
      ∃ t y c', Machine.step s = .next t ∧ Answered t x y vd (BitVec.ofNat 32 (messageHeader e.msg / 2 ^ 32)) ∧
        y.co = { x.co with choruses := y.co.choruses, stage := y.co.stage, stagePoison := y.co.stagePoison } ∧ y.ch.msgvt = e.msg.stamp ∧
        (∀ k, k < 32 → y.co.stage.read (p + k) = BitVec.ofNat 8 (messageHeader e.msg / 256 ^ k)) ∧
        (∀ k, k < e.msg.payload.length → y.co.stage.read (p + 32 + k) = e.msg.payload.getD k 0) ∧
        (∀ q, (q < p ∨ p + 32 + e.msg.payload.length ≤ q) → y.co.stage.read q = x.co.stage.read q) ∧
        t.context? x.co.ctx = some c' ∧ (∀ f, f ∈ c'.board → f.order = e.order → f.taken = true) ∧
        (∀ f, f ∈ c.board → f.order ≠ e.order → f.taken = false → f ∈ c'.board))) ∧
  (∀ d s x c, Issues (.msgPeek d) s x → s.context? x.co.ctx = some c →
    ((∀ e, e ∈ c.board → e.taken = true ∨ e.visible = false) → DoesWrite (.msgPeek d) s s x x d 0xFFFFFFFF) ∧
    (∀ e, TakenNext c e → DoesWrite (.msgPeek d) s s x x d (BitVec.ofNat 32 (messageHeader e.msg / 2 ^ 32))))

/-- R386, R390: `msg.hold` extends an owed reply of a sender that accepts dilation, at most 15 times, sending HOLD and writing 0;
else it ends the owed reply, sends BUSY and writes 1; without an owed reply it writes all ones and sends nothing. -/
def Sys2Proof.Claims.MessageHoldResults : Prop :=
  ∀ b a d s x c, Issues (.msgHold b a d) s x → s.context? x.co.ctx = some c →
    (x.active = 0 → Does (.msgHold b a d) s s x) ∧
    (x.active ≠ 0 →
      let ident := x.reg a.toNat (leaderOf x)
      let src := (x.reg (a.toNat + 1) (leaderOf x)).extractLsb' 0 12
      let ext := (x.reg b.toNat (leaderOf x)).extractLsb' 0 16
      ((∀ e, e ∈ c.board → e.owed = true → e.msg.srcDev = src → e.msg.ident ≠ ident) → DoesWrite (.msgHold b a d) s s x x d 0xFFFFFFFF) ∧
      (∀ e, c.board.find? (fun f => f.owed && f.msg.srcDev == src && f.msg.ident == ident) = some e →
        ∃ t y c' o m, Machine.exec (.msgHold b a d) s = .next t ∧ Past (.msgHold b a d) t (withRows x y) y ∧
          t.context? x.co.ctx = some c' ∧ o ∈ t.sent ∧ o.what = .message m ∧ m.destDev = src ∧ m.destCtx = e.msg.srcCtx ∧ m.replyTo = ident ∧
          (e.msg.dilation = true → e.holds < 15 → m.kind = 2 ∧ m.ext = ext ∧ Wrote x y d.toNat x.active (fun _ => 0) ∧
            ∃ f, f ∈ c'.board ∧ f.msg = e.msg ∧ f.holds = e.holds + 1 ∧ f.deadline = e.deadline + ext.toNat * 1000 * ticksPerNs) ∧
          ((e.msg.dilation = false ∨ 15 ≤ e.holds) → m.kind = 3 ∧ Wrote x y d.toNat x.active (fun _ => 1) ∧
            ∀ f, f ∈ c'.board → f.owed = true → f.msg.srcDev = src → f.msg.ident ≠ ident)))

/-- R386 to R390, R393: sending, receiving and holding messages. Beyond the rules it follows the model's choices of log entries 8, 21 and 69. -/
def Obligations.MessageResults : Prop := MessageSendResults ∧ MessageSendAnswers ∧ MessageReceiveResults ∧ MessageHoldResults

/-! ## Commands of the fly engine and of the array (R178, R185 to R203, R227 to R238, R382) -/

namespace Sys2Proof.Claims

/-- A fly command may enter the queue: some lane is active, the queue has room, its `n` operands from `b` lie within v63, and
no counter that it would be tagged with is at 255 (R16, R178, R228, R275). -/
structure FlyReady (i : Instr) (s : State) (x : Site) (b n : Nat) (fp : List Span) : Prop where
  issues : Issues i s x
  active : x.active ≠ 0
  room : x.ch.queue.length < 16
  operands : b + n ≤ 64
  counters : ∀ t, t ∈ x.ch.tagsFor fp → x.ch.count t < 255

/-- What every command captures as it issues (R227, R241, R242, R257). -/
structure Captures (i : Instr) (x : Site) (op : FlyOp) (e : BitVec 1) (k : BitVec 3) (c : FlyCmd) : Prop where
  word : c.word = (encode i).word
  epc : c.epc = x.sp.pc
  op : c.op = op
  event : c.ev = (e == 1)
  cue : c.cue = k.toNat
  lanes : c.lanes = x.active
  leader : c.leader = leaderOf x
  principals : ∀ l, l < 32 → c.principals.getD l 0 = x.co.principals.getD (x.ch.pli.getD l 0).toNat 0
  fresh : c.state = .queued ∧ c.begun = false ∧ c.denied = false ∧ c.denials = [] ∧ c.remote = [] ∧ c.halves = [] ∧
    c.stained = [] ∧ c.stainedScore = []

/-- The instruction answers a next state in which a command that satisfies `p` stands last in the queue, tagged by its
footprint, the company is that of `x'`, and nothing else has changed but the PC and the bill. -/
def Enqueued (i : Instr) (s : State) (x x' : Site) (fp : List Span) (p : FlyCmd → Prop) : Prop :=
  ∃ t y c, Machine.exec i s = .next t ∧ Billed (used s) t x ∧
    Past i t { x' with ch := { (x.ch.tag (x.ch.tagsFor fp)) with queue := x.ch.queue ++ [.fly c] } } y ∧
    c.uid = s.uid ∧ c.tags = x.ch.tagsFor fp ∧ c.footprint = fp.map (fun q => (q.space, q.base, q.len)) ∧ p c

/-- The handle is bound to `r`, and for a scaled record its scale handle to `sc`, which passes the check (R176). -/
structure Bound (x : Site) (h : BitVec 6) (r : Record) (sc : Option Record) : Prop where
  handle : x.co.handles.getD h.toNat none = some r
  scale : sc = if r.scaled then x.co.handles.getD r.scaleHandle none else none
  passes : r.scaled = true → r.scaleFails sc = false

/-- Elements in a group that an origin must fall on: 32 for a scaled record, 2 of 4 bits, 4 of 6 bits (R230). -/
def groupOf (r : Record) : Nat := if r.scaled then 32 else if formatBits r.format = 4 then 2 else if formatBits r.format = 6 then 4 else 1

/-- The lanes whose origins a command takes: every active one, or the leader (R230, R233). -/
def originLanes (x : Site) (perLane : Bool) : List Nat := if perLane then activeLanes x else [leaderOf x]

/-- Every origin falls on a whole group (R230). -/
def OnGroup (x : Site) (r : Record) (b : BitVec 6) (perLane : Bool) : Prop :=
  ∀ l, l ∈ originLanes x perLane → 0 < r.rank → (x.reg b.toNat l).toInt % (groupOf r : Int) = 0

/-- The command has the bindings and the origins, one for each lane or the leader's (R176, R230, R233). -/
structure Boxed (x : Site) (r : Record) (sc : Option Record) (b : BitVec 6) (perLane : Bool) (c : FlyCmd) : Prop where
  record : c.record = some r
  scale : c.scaleRecord = sc
  origins : c.origins = (if perLane then List.range 32 else [leaderOf x]).map (fun l =>
    (List.range 5).map (fun d => if d < r.rank then (x.reg (b.toNat + d) l).toInt else 0))

/-- The site with a tile of its company replaced. -/
def withTileAt (x : Site) (t : BitVec 8) (tl : Tile) : Site :=
  { x with co := { x.co with tiles := updAt x.co.tiles t.toNat (fun _ => tl) } }

/-- Rows of the box: the product of its dimensions but the first (R167). -/
def boxRows (r : Record) : Nat := r.box.getD 1 1 * r.box.getD 2 1 * r.box.getD 3 1 * r.box.getD 4 1

/-- The bytes of a tile that a command fills or reads (R167). -/
def tileSpan (tl : Tile) (r : Record) (rows : Nat) : Span :=
  { space := 2, base := tl.base, len := rows * pitch (r.box.getD 0 1) (formatBits r.format) }

/-- The tile is in the map, and bound to a score slot for a scaled record (R166, R230). -/
def HasTile (x : Site) (t : BitVec 8) (r : Record) (tl : Tile) : Prop :=
  x.co.tiles[t.toNat]? = some tl ∧ (r.scaled = true → tl.score ≠ 0xFF)

/-- The tile is ready for a read in the record's shape and format, and has fewer than 255 readers (R168, R170, R232). -/
def SourceTile (x : Site) (t : BitVec 8) (r : Record) (rows : Nat) (tl : Tile) : Prop :=
  HasTile x t r tl ∧ tl.state = .ready ∧ tl.readers < 255 ∧ tl.format = r.format ∧ tl.cols = r.box.getD 0 1 ∧ tl.rows = rows

end Sys2Proof.Claims

/-- R167, R169, R170, R231 to R235, R238, R382: a command that names a record enters the queue with its bindings and origins; a
fill makes an empty tile filling, or claims a draining one, with the shape of the box; a command that reads a tile counts as a
reader; an unbound handle, a tile that may not be filled, and an origin within a group trap. -/
def Sys2Proof.Claims.FlyTransfersEnterTheQueue : Prop :=
  (∀ e b h t k s x r sc tl tl' i op (perLane : Bool) rows,
    (perLane = false ∧ i = .flyIn e b h t k ∧ op = .inn ∧ rows = boxRows r) ∨ (perLane = true ∧ i = .flyGth e b h t k ∧ op = .gth ∧ rows = 32) →
    let cols := r.box.getD 0 1
    let fp := tileSpan tl r rows :: recordSpans r sc
    FlyReady i s x b.toNat r.rank fp → Bound x h r sc → OnGroup x r b perLane → HasTile x t r tl →
    rows * pitch cols (formatBits r.format) ≤ tl.capacity →
    (tl.state = .empty ∧ tl' = { tl with state := .filling, format := r.format, cols := cols, rows := rows }) ∨
      (tl.state = .draining ∧ tl.claim = false ∧ tl' = { tl with claim := true, claimShape := some (r.format, cols, rows) }) →
    Enqueued i s x (withTileAt x t tl') fp (fun c => Captures i x op e k c ∧ Boxed x r sc b perLane c ∧ c.tile = t.toNat ∧ c.reading = false)) ∧
  (∀ e b h t k s x r sc tl i op (perLane : Bool) rows,
    (perLane = false ∧ i = .flyOut e b h t k ∧ op = .out ∧ rows = boxRows r) ∨ (perLane = true ∧ i = .flySct e b h t k ∧ op = .sct ∧ rows = 32) →
    let fp := tileSpan tl r rows :: recordSpans r sc
    FlyReady i s x b.toNat r.rank fp → Bound x h r sc → OnGroup x r b perLane → SourceTile x t r rows tl →
    Enqueued i s x (withTileAt x t { tl with readers := tl.readers + 1 }) fp
      (fun c => Captures i x op e k c ∧ Boxed x r sc b perLane c ∧ c.tile = t.toNat ∧ c.reading = true)) ∧
  (∀ e b h t k s x r sc tl,
    let group := x.reg (b.toNat + r.rank) (leaderOf x)
    let ack := (x.reg (b.toNat + r.rank + 1) (leaderOf x)).toNat
    let fp : List Span := [tileSpan tl r (boxRows r), { space := 2, base := ack, len := 64 }]
    FlyReady (.flyMc e b h t k) s x b.toNat (r.rank + 2) fp → Bound x h r sc → OnGroup x r b false → SourceTile x t r (boxRows r) tl →
    group.toNat < 2 ^ 16 → ack % 64 = 0 → ack + 64 ≤ x.co.playbill.stage →
    Enqueued (.flyMc e b h t k) s x (withTileAt x t { tl with readers := tl.readers + 1 }) fp
      (fun c => Captures (.flyMc e b h t k) x .mc e k c ∧ Boxed x r sc b false c ∧ c.tile = t.toNat ∧ c.reading = true ∧
        c.group = group.setWidth 16 ∧ c.ackAddr = ack)) ∧
  (∀ e b h t k s x r sc tl, FlyReady (.flyScl e b h t k) s x b.toNat r.rank (recordSpans r sc) → Bound x h r sc → OnGroup x r b false →
    r.scaled = true → HasTile x t r tl → tl.cols = r.box.getD 0 1 → tl.rows = boxRows r →
    Enqueued (.flyScl e b h t k) s x x (recordSpans r sc)
      (fun c => Captures (.flyScl e b h t k) x .scl e k c ∧ Boxed x r sc b false c ∧ c.tile = t.toNat ∧ c.reading = false)) ∧
  (∀ e b h k s x r sc, FlyReady (.flyPf e b h k) s x b.toNat r.rank (recordSpans r sc) → Bound x h r sc → OnGroup x r b false →
    Enqueued (.flyPf e b h k) s x x (recordSpans r sc)
      (fun c => Captures (.flyPf e b h k) x .pf e k c ∧ Boxed x r sc b false c ∧ c.reading = false)) ∧
  (∀ e b h t k s x i, i ∈ [Instr.flyIn e b h t k, .flyOut e b h t k, .flyGth e b h t k, .flySct e b h t k, .flyScl e b h t k, .flyMc e b h t k,
      .flyPf e b h k] →
    Issues i s x → x.active ≠ 0 → x.ch.queue.length < 16 → x.co.handles.getD h.toNat none = none → Traps i s x 0x08 (h.setWidth 32)) ∧
  (∀ e b h t k s x r sc tl i, i ∈ [Instr.flyIn e b h t k, .flyGth e b h t k] → Issues i s x → x.active ≠ 0 → x.ch.queue.length < 16 →
    b.toNat + r.rank ≤ 64 → Bound x h r sc → OnGroup x r b (i == .flyGth e b h t k) → HasTile x t r tl → (tl.state = .filling ∨ tl.state = .ready) →
    Traps i s x 0x09 (t.setWidth 32)) ∧
  (∀ e b h t k s x r sc i l, i ∈ [Instr.flyIn e b h t k, .flyOut e b h t k, .flyMc e b h t k, .flyPf e b h k] → Issues i s x → x.active ≠ 0 →
    x.ch.queue.length < 16 → b.toNat + r.rank + 2 ≤ 64 → 0 < r.rank → Bound x h r sc → l = leaderOf x →
    (x.reg b.toNat l).toInt % (groupOf r : Int) ≠ 0 → Traps i s x 0x0E (BitVec.ofNat 32 l))

/-- R16, R178, R228, R236, R237: `fly.cp` and `fly.atm` enter the queue with their operands; with no lane active no fly command
has an effect, a full queue holds it up, and operands past v63 trap; `fly.atm` traps for a word or a result that is misaligned
or outside, `fly.cp` for a space that does not exist, and a copy past the cistern window switches the leader's lane off. -/
def Sys2Proof.Claims.FlyCopiesAndAtomicsEnterTheQueue : Prop :=
  (∀ i s x, flyOperands x i ≠ none → Issues i s x → x.active = 0 → Does i s s x) ∧
  (∀ i s x, flyOperands x i ≠ none → Issues i s x → x.active ≠ 0 → 16 ≤ x.ch.queue.length →
    ∃ t g p, Machine.exec i s = .next t ∧ t.chorus? x.co.uid x.ch.index = some g ∧ p ∈ g.splits ∧ p.members = x.sp.members ∧
      p.wait = .queue ∧ p.state = .waitMemory ∧ p.pc = x.sp.pc ∧ g.queue = x.ch.queue ∧ g.house = x.ch.house ∧ g.ring = x.ch.ring) ∧
  (∀ i s x b n, flyOperands x i = some (b, n) → Issues i s x → x.active ≠ 0 → x.ch.queue.length < 16 → 64 < b + n →
    ∃ v, Traps i s x 0x08 v) ∧
  (∀ e b k s x,
    let reg (n : Nat) := x.reg (b.toNat + n) (leaderOf x)
    let addr (space n : Nat) : BitVec 64 := if space = 0 then reg (n + 1) ++ reg n else (reg n).setWidth 64
    let ss := (reg 5).toNat % 4
    let ds := (reg 5).toNat / 4 % 4
    let src := addr ss 0
    let dst := addr ds 2
    let len := (reg 4).toNat
    let fp : List Span := [{ space := ss, base := src.toNat, len := len }, { space := ds, base := dst.toNat, len := len }]
    let legal := ss ≠ 3 ∧ ds ≠ 3 ∧ src.toNat % 16 = 0 ∧ dst.toNat % 16 = 0 ∧ len % 16 = 0 ∧ len ≤ 2 ^ 24 ∧
      (ss = 2 → src.toNat + len ≤ x.co.playbill.stage) ∧ (ds = 2 → dst.toNat + len ≤ x.co.playbill.stage)
    FlyReady (.flyCp e b k) s x b.toNat 6 fp →
    (legal → ∀ W m, (ss = 1 ∨ ds = 1 → HasWindow s x.co W m) → (ss = 1 → src.toNat + len ≤ W) → (ds = 1 → dst.toNat + len ≤ W) →
      Enqueued (.flyCp e b k) s x x fp (fun c => Captures (.flyCp e b k) x .cp e k c ∧ c.srcSpace = ss ∧ c.dstSpace = ds ∧
        c.src = src ∧ c.dst = dst ∧ c.len = len)) ∧
    (legal → ∀ W m, HasWindow s x.co W m → ((ss = 1 ∧ W < src.toNat + len) ∨ (ds = 1 ∧ W < dst.toNat + len)) →
      ∃ t g, Machine.exec (.flyCp e b k) s = .next t ∧ t.chorus? x.co.uid x.ch.index = some g ∧
        g.fm.has (leaderOf x) = true ∧ g.exited.has (leaderOf x) = true ∧ t.mem = s.mem) ∧
    ((ss = 3 ∨ ds = 3) → Traps (.flyCp e b k) s x 0x01 (encode (.flyCp e b k)).word)) ∧
  (∀ e b p q k s x,
    let addr (l : Nat) : BitVec 64 := x.reg (b.toNat + 1) l ++ x.reg b.toNat l
    let res := x.reg (b.toNat + 4) (leaderOf x)
    let fp : List Span := (if res = 0xFFFFFFFF then [] else [{ space := 2, base := res.toNat, len := 128 }]) ++
      (activeLanes x).map (fun l => { space := 0, base := (addr l).toNat, len := 4 })
    FlyReady (.flyAtm e b p q k) s x b.toNat 5 fp →
    ((∀ l, l ∈ activeLanes x → (addr l).toNat % 4 = 0) → (res = 0xFFFFFFFF ∨ (res.toNat % 4 = 0 ∧ res.toNat + 128 ≤ x.co.playbill.stage)) →
      Enqueued (.flyAtm e b p q k) s x x fp (fun c => Captures (.flyAtm e b p q k) x .atm e k c ∧ c.aop = p ∧ c.order = q ∧ c.result = res ∧
        ∀ l, l < 32 → c.addrs.getD l 0 = addr l ∧ c.operands.getD l 0 = x.reg (b.toNat + 2) l ∧ c.expecteds.getD l 0 = x.reg (b.toNat + 3) l)) ∧
    (∀ l, l ∈ activeLanes x → (addr l).toNat % 4 ≠ 0 → (∀ j, j ∈ activeLanes x → j < l → (addr j).toNat % 4 = 0) →
      Traps (.flyAtm e b p q k) s x 0x0E (BitVec.ofNat 32 l)) ∧
    ((∀ l, l ∈ activeLanes x → (addr l).toNat % 4 = 0) → res ≠ 0xFFFFFFFF → (res.toNat % 4 ≠ 0 ∨ x.co.playbill.stage < res.toNat + 128) →
      Traps (.flyAtm e b p q k) s x 0x0D (BitVec.ofNat 32 (leaderOf x))))

/-- R16, R167 to R170, R178, R228 to R238, R382: every command of the fly engine enters the queue of its chorus. Beyond the rules it follows the
model's choices of log entry 23. -/
def Obligations.FlyCommandsEnterTheQueue : Prop := FlyTransfersEnterTheQueue ∧ FlyCopiesAndAtomicsEnterTheQueue

namespace Sys2Proof.Claims

/-- The first member of the ensemble that has ended or halted (R179, R187). -/
def firstOver (x : Site) : Option Nat :=
  let e := max x.co.playbill.ensemble 1
  (List.range e).find? (fun k => (x.co.chorus? (x.ch.index / e * e + k)).any (fun h => h.ended || h.halted.isSome))

/-- A collective instruction may enter its member's queue: the queue has room, no member has ended or halted, and the operation is
the next of its ensemble (R184, R185, R187). -/
structure MxReady (i : Instr) (s : State) (x : Site) : Prop where
  issues : Issues i s x
  room : x.ch.queue.length < 16
  members : firstOver x = none
  new : ∀ o, o ∈ x.co.ops → o.uid ≠ s.uid ∧ (o.ensemble = x.ch.index / max x.co.playbill.ensemble 1 → o.number ≠ x.ch.collectives)
  commands : ∀ m, QueueEntry.mx m ∈ x.ch.queue → m.op ≠ x.ch.collectives

/-- The command of the member (R185). -/
structure MemberCommand (i : Instr) (x : Site) (cue : Nat) (shape : Word) (m : MxCmd) : Prop where
  word : m.word = (encode i).word
  epc : m.epc = x.sp.pc
  op : m.op = x.ch.collectives
  cue : m.cue = cue
  fmt : m.fmt = x.sp.fmt.extractLsb' 0 12
  shape : m.shape = shape
  open_ : m.verdict = none

/-- The operation of the ensemble, issued by its first member (R184, R185). -/
structure NewOp (x : Site) (f : MxFields) (o : MxOp) : Prop where
  kind : o.kind = f.kind
  fields : o.region = f.region ∧ o.tileA = f.tileA ∧ o.tileB = f.tileB ∧ o.sc = f.sc
  number : o.number = x.ch.collectives
  ensemble : o.ensemble = x.ch.index / max x.co.playbill.ensemble 1
  issued : o.issued = [(x.ch.index, x.sp.pc)]
  idle : o.started = false ∧ o.finished = false ∧ o.next = 0

/-- The member's command stands last in its queue and its operation is noted; the company is otherwise that of `co`. -/
def EntersMx (i : Instr) (s : State) (x : Site) (f : MxFields) (shape : Word) (co : Company) (p : MxOp → Prop) : Prop :=
  ∃ t y m o, Machine.exec i s = .next t ∧ Billed { s with uid := s.uid + 2 } t x ∧
    Past i t { x with
      co := { co with ops := x.co.ops ++ [o] }
      ch := { x.ch with queue := x.ch.queue ++ [.mx m], collectives := x.ch.collectives + 1 } } y ∧
    MemberCommand i x f.cue shape m ∧ NewOp x f o ∧ p o

/-- The five collective instructions, with their fields and the shape that `mx.zero` reads (R191). -/
inductive Collective (x : Site) : Instr → MxFields → Word → Prop where
  | mma (sc r b a k) : Collective x (.mxMma sc r b a k)
      { kind := .mma, region := r.toNat, tileA := a.toNat, tileB := b.toNat, sc := sc == 1, cue := k.toNat } 0
  | spr (sc r b a k) : Collective x (.mxSpr sc r b a k)
      { kind := .spr, region := r.toNat, tileA := a.toNat, tileB := b.toNat, sc := sc == 1, cue := k.toNat } 0
  | zero (r v) : Collective x (.mxZero r v)
      { kind := .zero, region := r.toNat, tileA := 0, tileB := 0, sc := false, cue := 0 } (x.reg v.toNat (chosen x))
  | put (t r) : Collective x (.mxPut t r) { kind := .put, region := r.toNat, tileA := t.toNat, tileB := 0, sc := false, cue := 0 } 0
  | get (t r) : Collective x (.mxGet t r) { kind := .get, region := r.toNat, tileA := t.toNat, tileB := 0, sc := false, cue := 0 } 0

/-- A region that the playbill declares (R188). -/
def Declared (x : Site) (r : Nat) (g : Region) : Prop := x.co.pit[r]? = some g ∧ g.capacity ≠ 0

/-- A shape of M rows and N columns that R195 allows and that fits the region. -/
def ShapeFits (g : Region) (m n : Nat) : Prop :=
  m % 16 = 0 ∧ 16 ≤ m ∧ m ≤ 192 ∧ n % 16 = 0 ∧ 16 ≤ n ∧ n ≤ 320 ∧ m / 16 * (n / 16) ≤ g.capacity

/-- The company with a region shaped. -/
def shaped (c : Company) (r m n : Nat) : Company :=
  { c with pit := updAt c.pit r (fun g => { g with shaped := true, cols := n / 16, rows := m / 16 }) }

/-- The company with one reader more of some tiles (R199). -/
def reserving (c : Company) (ts : List Nat) : Company :=
  { c with tiles := ts.foldl (fun l t => updAt l t (fun tl => { tl with readers := tl.readers + 1 })) c.tiles }

/-- The operand tiles that the core at its place of a spread group reads, and those of a product on one core (R192, R203). -/
def operandsOf (k : MxKind) (pos a b : Nat) : List Nat :=
  if k = .spr then (if pos % 2 = 0 then [a] else []) ++ (if pos / 2 = 0 ∧ ¬ (pos % 2 = 0 ∧ a = b) then [b] else [])
  else if a = b then [a] else [a, b]

/-- An operand tile of a product: ready, fewer than 255 readers, in the format, with its rows and K columns, and its scales
bound within the allocation when the product is scaled (R168, R190, R192). -/
structure Operand (x : Site) (t : Nat) (code : BitVec 4) (rows k : Nat) (sc : Bool) : Prop where
  tile : ∃ tl, x.co.tiles[t]? = some tl ∧ tl.state = .ready ∧ tl.readers < 255 ∧ tl.format = code ∧ tl.rows = rows ∧ tl.cols = k ∧
    (sc = true → tl.score ≠ 0xFF ∧ tl.score * 128 + tl.rows * tl.cols / 32 ≤ x.co.playbill.scoreSlots * 128)

end Sys2Proof.Claims

/-- R184 to R189, R192, R195 to R199, R202: a collective instruction enters its member's queue and is noted with its operation; the member of a one-member
ensemble gathers it at once: `mx.zero` and `mx.put` shape their region, `mx.get` makes its tile filling in the region's shape, and the ready
operand tiles of a product and of `mx.put` are reserved; a full queue holds it up, a member that is over traps it, and so does a region that the
playbill gives no capacity. `mx.sput` queues its address, lanes and data. Beyond the rules it follows the model's choices of log entries 59, 60 and
106. -/
def Obligations.MatrixOperationsEnterTheQueue : Prop :=
  (∀ i s x f shape, Collective x i f shape → MxReady i s x → 1 < x.co.playbill.ensemble →
    EntersMx i s x f shape x.co (fun o => o.gathered = false)) ∧
  (∀ i s x f shape, Collective x i f shape → Issues i s x → 16 ≤ x.ch.queue.length →
    ∃ t g p, Machine.exec i s = .next t ∧ t.chorus? x.co.uid x.ch.index = some g ∧ p ∈ g.splits ∧ p.members = x.sp.members ∧
      p.wait = .queue ∧ p.state = .waitMemory ∧ p.pc = x.sp.pc ∧ g.queue = x.ch.queue) ∧
  (∀ i s x f shape k, Collective x i f shape → Issues i s x → x.ch.queue.length < 16 → firstOver x = some k →
    Traps i s x 0x0A (BitVec.ofNat 32 k)) ∧
  (∀ r v s x g, MxReady (.mxZero r v) s x → x.co.playbill.ensemble ≤ 1 → QuietCompany x.co → Declared x r.toNat g →
    let w := x.reg v.toNat (chosen x)
    let m := w.toNat % 65536
    let n := w.toNat / 65536
    ShapeFits g m n →
    EntersMx (.mxZero r v) s x { kind := .zero, region := r.toNat, tileA := 0, tileB := 0, sc := false, cue := 0 } w
      (shaped x.co r.toNat m n) (fun o => o.gathered = true ∧ o.shape = w ∧ o.reserved = [])) ∧
  (∀ t r s x g tl, MxReady (.mxPut t r) s x → x.co.playbill.ensemble ≤ 1 → QuietCompany x.co → Declared x r.toNat g →
    x.co.tiles[t.toNat]? = some tl → tl.state = .ready → tl.readers < 255 → tl.format ≠ 0xD → ShapeFits g tl.rows tl.cols →
    EntersMx (.mxPut t r) s x { kind := .put, region := r.toNat, tileA := t.toNat, tileB := 0, sc := false, cue := 0 } 0
      (reserving (shaped x.co r.toNat tl.rows tl.cols) [t.toNat]) (fun o => o.gathered = true ∧ o.reserved = [t.toNat])) ∧
  (∀ t r s x g tl, MxReady (.mxGet t r) s x → x.co.playbill.ensemble ≤ 1 → QuietCompany x.co → Declared x r.toNat g → g.shaped = true →
    g.rows ≤ 12 → g.cols ≤ 20 → x.co.tiles[t.toNat]? = some tl → tl.state = .empty → tl.format ≠ 0xD →
    g.rows * 16 * pitch (g.cols * 16) (formatBits tl.format) ≤ tl.capacity →
    EntersMx (.mxGet t r) s x { kind := .get, region := r.toNat, tileA := t.toNat, tileB := 0, sc := false, cue := 0 } 0
      (withTileAt x t { tl with state := .filling, cols := g.cols * 16, rows := g.rows * 16 }).co (fun o => o.gathered = true ∧ o.reserved = [])) ∧
  (∀ i s x f, Collective x i f 0 → (f.kind = .mma ∨ (f.kind = .spr ∧ x.co.index / 4 * 4 + 4 ≤ x.co.playbill.companies)) →
    MxReady i s x → x.co.playbill.ensemble ≤ 1 → QuietCompany x.co →
    ∀ g k, Declared x f.region g → g.shaped = true → g.rows ≤ 12 → g.cols ≤ 20 → k % 32 = 0 → k ≤ 512 →
    let fmt : BitVec 16 := (x.sp.fmt.extractLsb' 0 12).setWidth 16
    operandCode (fmtA fmt) = true → operandCode (fmtB fmt) = true → fmtScaled fmt = f.sc →
    (f.kind = .mma ∨ x.co.index % 4 % 2 = 0 → Operand x f.tileA (fmtA fmt) (g.rows * 16) k f.sc) →
    (f.kind = .mma ∨ x.co.index % 4 / 2 = 0 → Operand x f.tileB (fmtB fmt) (g.cols * 16) k f.sc) →
    EntersMx i s x f 0 (reserving x.co (operandsOf f.kind (x.co.index % 4) f.tileA f.tileB))
      (fun o => o.gathered = true ∧ o.fmt = x.sp.fmt.extractLsb' 0 12 ∧ o.reserved = operandsOf f.kind (x.co.index % 4) f.tileA f.tileB)) ∧
  (∀ i s x f shape, Collective x i f shape → MxReady i s x → x.co.playbill.ensemble ≤ 1 →
    (∀ g, x.co.pit[f.region]? = some g → g.capacity = 0) →
    (∀ t tl, (t = f.tileA ∨ t = f.tileB) → x.co.tiles[t]? = some tl → tl.readers < 255) →
    (f.kind = .zero ∨ f.kind = .get ∨ f.kind = .put ∨ (f.kind = .mma ∧ operandCode (fmtA ((x.sp.fmt.extractLsb' 0 12).setWidth 16)) = true ∧
      operandCode (fmtB ((x.sp.fmt.extractLsb' 0 12).setWidth 16)) = true ∧ fmtScaled ((x.sp.fmt.extractLsb' 0 12).setWidth 16) = f.sc)) →
    ∃ t g, Machine.exec i s = .next t ∧ t.chorus? x.co.uid x.ch.index = some g ∧ g.cause = 0x09 ∧ g.epc = trapPc x ∧
      g.tval = BitVec.ofNat 32 (0x100 + f.region) ∧ t.mem = s.mem) ∧
  (∀ v s x, Issues (.mxSput v) s x → x.active = 0 → Does (.mxSput v) s s x) ∧
  (∀ v s x, Issues (.mxSput v) s x → x.active ≠ 0 → x.ch.queue.length < 16 →
    let o := (x.reg (v.toNat + 1) (leaderOf x)).toNat
    (o % 4 = 0 → (∀ l, l ∈ activeLanes x → o + 4 * l + 4 ≤ x.co.playbill.scoreSlots * 128) →
      Does (.mxSput v) s (used s) { x with ch := { x.ch with
        queue := x.ch.queue ++ [.sput s.uid (encode (.mxSput v)).word x.sp.pc o x.active (x.ch.row x.sp.wb v.toNat)] } }) ∧
    (o % 4 ≠ 0 → Traps (.mxSput v) s x 0x0E (BitVec.ofNat 32 (leaderOf x))) ∧
    (o % 4 = 0 → (∃ l, l ∈ activeLanes x ∧ x.co.playbill.scoreSlots * 128 < o + 4 * l + 4) →
      Traps (.mxSput v) s x 0x0D (BitVec.ofNat 32 (leaderOf x))))

/-! ## Events: what each happening does (R17, R24, R121 to R136, R149 to R157) -/

namespace Sys2Proof.Claims

/-- The agents of a company act: it runs on its core, its die's clocks run, and its context is on stage and not halted (R328,
R361, R371). -/
structure Acts (s : State) (c : Company) : Prop where
  running : c.state = .running
  curtain : s.curtain = false
  clocks : (s.die (c.core / 48)).changing = none
  stage : ∃ x, s.context? c.ctx = some x ∧ x.onStage = true ∧ x.debugHalted = false

/-- The event's company acts. -/
def Actor (s : State) (c : Company) : Prop := s.company? s.arg.a = some c ∧ Acts s c

/-- The event's chorus: of a company that acts, neither halted nor ended. -/
structure ActsOn (s : State) (c : Company) (h : Chorus) : Prop where
  actor : Actor s c
  chorus : c.chorus? s.arg.b = some h
  only : ∀ g, g ∈ c.choruses → g.index = h.index → g = h
  live : h.halted = none ∧ h.ended = false

/-- The state with a chorus of a company replaced, and the waits of the company that are over ended. -/
def withChorus (s : State) (c : Company) (h : Chorus) : State := (s.setCompany (c.setChorus h)).settleCompany c.uid

/-- The virtual address of an absolute row in the well (R23). -/
def rowVa (c : Company) (h : Chorus) (row : Nat) : Nat := h.wellBase.toNat + 0x200 + c.playbill.localSize + 128 * row

/-- Lines of other contexts' keys hold none of `n` bytes (R262). -/
def OwnLines (s : State) (ctx loc n : Nat) : Prop := ∀ k, k < n → ∀ t, s.lineOf (loc + k) = some t → ∀ c, t.key = some c → c = ctx

/-- An agent that never uses guarded pages may read `n` bytes under an entry: HBM4, not guarded, and on no line that the reservoir keeps
with G (R258, R261, R375). -/
def PlainRead (s : State) (e : TlbEntry) (loc n : Nat) : Prop :=
  e.plain = true ∧ ∀ k, k < n → ∀ t, t ∈ s.lines → t.line = (loc + k) / 128 → t.cached = true → t.g = false

/-- The image of a split-table entry (R17): members, `xm`, `wb`, PC, join PC, state, count and `fmt`, and `depth`, each a word. -/
def entryWord (p : Split) (k : Nat) : Word :=
  if k = 1 then p.members else if k = 2 then p.xm else if k = 3 then BitVec.ofNat 32 p.wb else if k = 4 then p.pc else if k = 5 then p.joinPc
  else if k = 6 then BitVec.ofNat 32 (16 * p.state.code + 256 * p.mem + 65536 * p.fmt.toNat)
  else if k = 7 then BitVec.ofNat 32 (p.depth % 65536) else 0

/-- The virtual address of an entry's place in the split area (R23). -/
def entryVa (h : Chorus) (p : Split) : Nat := h.wellBase.toNat + 32 * p.place

/-- The pump moves rows of the chorus: no image of a spilled entry is owed, a transfer is under way, the bank of the row is awake, and
the company goes on (R17, R157, R340). -/
structure Pumping (s : State) (c : Company) (h : Chorus) (m : PumpMove) (row : Nat) : Prop where
  on : ActsOn s c h
  move : h.pump = some m ∧ m.moving = true
  images : ∀ p, p ∈ h.splits → p.spilled = true → p.owed = false
  awake : (s.core c.core).awake (s.bankOf c h (16 + row % h.ring.length)) = true
  goes : s.stops c = false

/-- A ring with one absolute row replaced. -/
def ringWith (h : Chorus) (row : Nat) (l : Lanes) : Chorus :=
  { h with
    ring := updAt h.ring (row % h.ring.length) (fun _ => l)
    poison := h.poison.filter (fun q => q.1 != 16 + row % h.ring.length) }

/-- The chorus once a move of its window is over: the split served keeps the range it asked for until it issues or stalls (R132 to R134). -/
def moved (h : Chorus) (m : PumpMove) : Chorus :=
  { h with
    low := m.low2, high := m.high2, top := max h.top m.high2, pump := none
    served := match h.requests with | [] => none | k :: _ => (h.asksFor k).map (fun r => (k, r))
    requests := h.requests.drop 1 }

/-- The spread of a range and of the needed ranges of the splits that run or are ready fits the ring, as `[lo, hi)` (R132). -/
def SpreadFits (h : Chorus) (a b lo hi : Nat) : Prop :=
  lo ≤ a ∧ b ≤ hi ∧ hi ≤ lo + h.ring.length ∧
  ∀ q, q ∈ h.splits → (q.state = .running ∧ q.spilled = false) ∨ splitReady h q → lo ≤ q.needed.1 ∧ q.needed.2 ≤ hi

/-- Split `r` runs, needs rows, and they are resident, but the ring cannot hold them beside `[a, b)` (R134). -/
structure InTheWay (h : Chorus) (r : Split) (a b : Nat) : Prop where
  runs : r ∈ h.splits ∧ r.state = .running ∧ r.spilled = false ∧ r.wait = .none
  rows : r.needed.1 < r.needed.2 ∧ h.resident r.needed = true
  beside : h.ring.length < max b r.needed.2 - min a r.needed.1

/-- The move holds the rows of `[a, b)`, and is one of the ring: the rows beyond it leave, and those that it lacks come (R132). -/
structure MoveTo (h g : Chorus) (mv : PumpMove) (a b : Nat) : Prop where
  pump : g.pump = some mv ∧ mv.moving = true
  holds : mv.low2 ≤ a ∧ b ≤ mv.high2 ∧ mv.high2 ≤ mv.low2 + h.ring.length
  bounds : g.low = max h.low mv.low2 ∧ g.high = min h.high mv.high2
  spill : ∀ n, n ∈ mv.spill ↔ h.low ≤ n ∧ n < h.high ∧ (n < mv.low2 ∨ mv.high2 ≤ n)
  fill : ∀ n, n ∈ mv.fill ↔ mv.low2 ≤ n ∧ n < mv.high2 ∧ (n < h.low ∨ h.high ≤ n)

/-- The oldest request of the chorus is that of split `p` for rows it does not hold, and no split keeps rows that were brought for it. -/
structure Asks (h : Chorus) (p : Split) (a b : Nat) : Prop where
  apart : Apart h
  idle : h.pump = none ∧ h.chain = none ∧ h.served = none
  oldest : ∃ rest, h.requests = p.members :: rest
  waits : p ∈ h.splits ∧ p.wait = .window a b
  rows : a < b ∧ b - a ≤ h.ring.length ∧ ¬ (h.low ≤ a ∧ b ≤ h.high)

/-- Union of the member masks of the arrived splits that share the join of `p` (R122). -/
def arrivedMembers (h : Chorus) (p : Split) : Mask :=
  (h.splits.filter (fun q => q.isArrived && q.joinPc == p.joinPc && q.wb == p.wb && q.depth == p.depth)).foldl (fun m q => m ||| q.members) 0

/-- Accesses of `f` counted under slot `k` and phase `ph` (R275). -/
def tagCount (f : InFlight) (k ph : Nat) : Nat := (f.tags.filter (fun t => t.1 == k && t.2 == ph)).length

end Sys2Proof.Claims

/-- R17, R23, R24, R121, R123: the image of a spilled entry is written to its place in the well, and a spilled split comes back on chip
from there; at the deadline of `rcv.t` the arrived splits of its join merge and `vd` reads all ones, or the merged split waits for the rows
that are to hold them; after 256 issues in a row the best ready split runs, or where none is ready and the rows of the one that runs keep
the oldest request waiting, that one makes room (R134; log entry 89); the end of the oldest access leaves the in-flight list, the counts
of the splits, its tags and its tile. -/
def Sys2Proof.Claims.SplitEventResults : Prop :=
  (∀ s c h p e u, ActsOn s c h → Apart h → p ∈ h.splits → s.arg.v.setWidth 32 = p.members → p.spilled = true → p.owed = false → p.state = .ready →
    p.wait = .none → p.members &&& ~~~h.exited ≠ 0 → s.stops c = false → s.translate c.core c.ctx (entryVa h p) .read = (.ok e, u) →
    PlainRead u e (e.at_ (entryVa h p)) 32 → poisoned u.memPoison (e.at_ (entryVa h p)) 32 = false →
    ∃ t g q, Machine.exec .splitEntryRefill s = .next t ∧ t.mem = u.mem ∧ t.runs = s.runs ∧ t.chorus? c.uid h.index = some g ∧ q ∈ g.splits ∧
      q.members = p.members ∧ q.xm = p.xm ∧ q.pc = p.pc ∧ q.spilled = false ∧
      (h.resident p.needed = true → q.state = .ready ∨ q.state = .running) ∧ (h.resident p.needed = false → q.state = .waitWindow)) ∧
  (∀ s c h p e u, ActsOn s c h → Apart h → h.splits.find? (fun q => q.spilled && q.owed) = some p → s.stops c = false →
    s.translate c.core c.ctx (entryVa h p) .write = (.ok e, u) → e.plain = true → u.mem.wf = true →
    let loc := e.at_ (entryVa h p)
    OwnLines u c.ctx loc 32 →
    ∃ t g, Machine.exec .pumpRowTransferDone s = .next t ∧ t.chorus? c.uid h.index = some g ∧
      g = { h with splits := h.splits.map (fun q => if q.members = p.members then { p with owed := false } else q) } ∧
      (∀ k, k < 32 → t.mem.read (loc + k) = (entryWord p (k / 4)).extractLsb' (8 * (k % 4)) 8) ∧
      ∀ a, (a < loc ∨ loc + 32 ≤ a) → t.mem.read a = u.mem.read a) ∧
  (∀ s c h p d vd, ActsOn s c h → Shaped h → Apart h → p ∈ h.splits → s.arg.v.setWidth 32 = p.members → p.wait = .joinT d vd → p.state = .arrived →
    d ≤ s.deadlineVt c → arrivedMembers h p &&& ~~~h.exited ≠ 0 →
    ∃ t g q, Machine.exec .rcvTTimeout s = .next t ∧ t.chorus? c.uid h.index = some g ∧ q ∈ g.splits ∧
      q.members = arrivedMembers h p &&& ~~~h.exited ∧ q.xm = q.members ∧ q.pc = p.joinPc + 4 ∧ q.joinPc = 0xFFFFFFFF ∧
      ((∀ r e w, r ∈ h.splits → r.joinPc = p.joinPc → r.wb = p.wb → r.depth = p.depth → r.wait = .joinT e w → RowThere h p w) →
        q.wait = .none ∧ (vd ≠ 0 → ∀ l, l < 32 → q.members.has l = true → (g.row q.wb vd.toNat).at l = 0xFFFFFFFF)) ∧
      (¬ RowThere h p vd → q.state = .waitWindow ∧ ∃ a b ds, q.wait = .outcome a b ds 0xFFFFFFFF ∧ vd ∈ ds)) ∧
  (∀ s c h r p0, ActsOn s c h → Apart h → h.chain = none → r ∈ h.splits → r.state = .running → 256 ≤ r.issues → p0 ∈ h.splits → splitReady h p0 →
    ∃ p g, Machine.exec .splitReschedule s = .next (s.setCompany (c.setChorus g)) ∧ p ∈ h.splits ∧ splitReady h p ∧
      (∀ q, q ∈ h.splits → splitReady h q → q = p ∨ p.mem < q.mem ∨ (p.mem = q.mem ∧ p.members.toNat < q.members.toNat)) ∧
      g = { h with splits := h.splits.map (fun q =>
        if q.members = p.members then { p with state := .running, issues := 0 } else if q.state = .running then { q with state := .ready } else q) }) ∧
  (∀ s c h r p a b, ActsOn s c h → s.stops c = false → Asks h p a b → InTheWay h r a b → 256 ≤ r.issues → (∀ q, q ∈ h.splits → ¬ splitReady h q) →
    (∀ q, q ∈ h.splits → q.state = .running → q = r) →
    ∃ t g mv q, Machine.exec .splitReschedule s = .next t ∧ t.chorus? c.uid h.index = some g ∧ MoveTo h g mv a b ∧ q ∈ g.splits ∧
      q.members = r.members ∧ q.pc = r.pc ∧ q.state = .waitWindow ∧ r.members ∈ g.requests) ∧
  (∀ s c h f rest, s.company? s.arg.a = some c → c.chorus? s.arg.b = some h → h.inflight = f :: rest → Shaped h → QuietCompany c →
    (s.arg.c = 1 → f.since + 2000 * ticksPerNs ≤ s.now + longestCycle) →
    ∃ t d g, Machine.exec .laneAccessComplete s = .next t ∧ t = { s with companies := t.companies } ∧ t.company? c.uid = some d ∧
      d.chorus? h.index = some g ∧
      d = { c with choruses := d.choruses, tiles := match f.tile with | some n => updAt c.tiles n (fun tl => { tl with readers := tl.readers - 1 }) | none => c.tiles } ∧
      (∀ k, k ≠ h.index → d.chorus? k = c.chorus? k) ∧
      g = { h with
        inflight := rest
        splits := h.splits.map (fun q => if q.members &&& f.members ≠ 0 then { q with mem := q.mem - 1 } else q)
        counters := g.counters } ∧
      ∀ k, k < 8 → (∀ t, t ∈ f.tags → t.2 = 0 ∨ t.2 = 1) →
        g.counters.getD k (0, 0) = ((h.counters.getD k (0, 0)).1 - tagCount f k 0, (h.counters.getD k (0, 0)).2 - tagCount f k 1))

/-- R132 to R134: the pump serves the oldest request by a move within the ring that holds the rows asked for, and those of the splits that run
or are ready where the ring can hold them all, and gives up the rows beyond it; it takes no row of the split that runs to serve another; each row is written to its place in the well or filled from it, a row never held before with zeros, and the
rows are resident when the last one is done. -/
def Sys2Proof.Claims.PumpEventResults : Prop :=
  (∀ s c h p a b lo hi, ActsOn s c h → s.stops c = false → Asks h p a b → SpreadFits h a b lo hi →
    ∃ t g mv, Machine.exec .pumpServeRequest s = .next t ∧ t = { s with companies := t.companies } ∧ t.chorus? c.uid h.index = some g ∧
      MoveTo h g mv a b ∧ ∀ q, q ∈ h.splits → (q.state = .running ∧ q.spilled = false) ∨ splitReady h q → mv.low2 ≤ q.needed.1 ∧ q.needed.2 ≤ mv.high2) ∧
  (∀ s c h p r a b, ActsOn s c h → s.stops c = false → Asks h p a b → InTheWay h r a b →
    ∃ t g, Machine.exec .pumpServeRequest s = .next t ∧ t = { s with companies := t.companies } ∧ t.chorus? c.uid h.index = some g ∧
      g.pump = none ∧ g.low = h.low ∧ g.high = h.high ∧ g.ring = h.ring) ∧
  (∀ s c h m row next rest, Pumping s c h m row → m.spill = [] → m.fill = row :: next :: rest → h.top ≤ row →
    Machine.exec .pumpRowTransferDone s =
      .next (withChorus s c { (ringWith h row Lanes.zero) with pump := some { m with fill := next :: rest, since := s.now } })) ∧
  (∀ s c h m row, Pumping s c h m row → m.spill = [] → m.fill = [row] → h.top ≤ row →
    Machine.exec .pumpRowTransferDone s = .next (withChorus s c (moved (ringWith h row Lanes.zero) { m with fill := [] }))) ∧
  (∀ s c h m row next rest e u, Pumping s c h m row → m.spill = [] → m.fill = row :: next :: rest → row < h.top →
    s.translate c.core c.ctx (rowVa c h row) .read = (.ok e, u) →
    let loc := e.at_ (rowVa c h row)
    PlainRead u e loc 128 → (∀ k, k < 4 → poisoned u.memPoison (loc + 32 * k) 32 = false) → OwnLines u c.ctx loc 128 →
    ∃ v, v = { u with lines := v.lines } ∧ Machine.exec .pumpRowTransferDone s = .next (withChorus v c
      { (ringWith h row (Lanes.ofFn (fun l => u.mem.readWord (loc + 4 * l)))) with pump := some { m with fill := next :: rest, since := s.now } })) ∧
  (∀ s c h m row rest e u, Pumping s c h m row → m.spill = row :: rest → (∀ f, f ∈ h.inflight → row ∉ f.rows) →
    s.translate c.core c.ctx (rowVa c h row) .write = (.ok e, u) → e.plain = true → u.mem.wf = true →
    let loc := e.at_ (rowVa c h row)
    OwnLines u c.ctx loc 128 →
    ∃ t g, Machine.exec .pumpRowTransferDone s = .next t ∧ t.chorus? c.uid h.index = some g ∧
      (∀ k, k < 128 → t.mem.read (loc + k) = ((h.ringRow row).at (k / 4)).extractLsb' (8 * (k % 4)) 8) ∧
      (∀ a, (a < loc ∨ loc + 128 ≤ a) → t.mem.read a = u.mem.read a) ∧
      (if rest = [] ∧ m.fill = [] then g.pump = none ∧ g.low = m.low2 ∧ g.high = m.high2 else g.pump = some { m with spill := rest, since := s.now }))

/-- R17, R23, R24, R121, R123, R132 to R134: what happens to splits, accesses and window rows. Beyond the rules it follows the model's choices of
log entries 8, 25, 62, 77, 78 and 89. -/
def Obligations.SplitAndPumpEvents : Prop := SplitEventResults ∧ PumpEventResults

namespace Sys2Proof.Claims

/-- A chorus that is ready on a core has waited 32 cycles with a next issue of class `k` above the band, and none that has
waited so long has a higher one (R151). -/
def RaisesTo (s : State) (n k : Nat) : Prop :=
  (s.core n).band < k ∧ (∃ q, q ∈ s.readyOn n ∧ 32 ≤ q.2.bandWait ∧ (nextClass q.1 q.2 s.peek).num = k) ∧
  ∀ q, q ∈ s.readyOn n → 32 ≤ q.2.bandWait → (nextClass q.1 q.2 s.peek).num ≤ k

/-- A new window of the band `k` begins on core `n` (R150). -/
def NewWindow (s t : State) (n k : Nat) : Prop :=
  t = { s with companies := t.companies, cores := t.cores } ∧ t.core n = { s.core n with band := k, bandCycle := 0 } ∧ ∀ m, m ≠ n → t.core m = s.core m

/-- The cycle of a core has ended (R149, R156, R158): the execute stages move on, and `cyc` of its companies counts. -/
structure CycleEnded (s t : State) (n : Nat) (stall : Bool) : Prop where
  stages : (t.core n).e1 = (s.core n).issuing ∧ (t.core n).e2 = (s.core n).e1 ∧ (t.core n).e3 = (s.core n).e2 ∧ (t.core n).issuing = none
  turn : (t.core n).bay = 0 ∧ (t.core n).ready = none ∧ (t.core n).bandCycle = (s.core n).bandCycle + 1
  waking : (t.core n).waking = ((s.core n).waking.map (fun b => (b.1, b.2 - 1))).filter (fun b => b.2 != 0)
  stall : (t.core n).stalled = stall
  cyc : ∀ u c, s.company? u = some c → ∃ d, t.company? u = some d ∧ d.cyc = (if c.core = n ∧ c.state = .running then c.cyc + 1 else c.cyc)
  memory : t.mem = s.mem ∧ t.runs = s.runs

end Sys2Proof.Claims

namespace Sys2Proof.Claims

/-- The instruction's issue charges the current record of its cluster with a weight for each active lane, and its class enters the cycle of
the core (R149, R154). It issues wherever a chorus that had not issued in the cycle has. -/
def ChargesAs (i : Instr) (k : TClass) (w : Nat) : Prop :=
  ∀ s x t c, Issues i s x → s.clusters.find? (fun c => c.num == x.co.core / 8) = some c → x.ch.issued = false → Machine.exec i s = .next t →
    (∃ g, t.chorus? x.co.uid x.ch.index = some g ∧ g.issued = true) →
    (t.cluster (x.co.core / 8)).record = c.record + w * (activeLanes x).length ∧
    (∀ n, n ≠ x.co.core / 8 → (t.cluster n).record = (s.cluster n).record) ∧
    ∀ d, s.cores.find? (fun d => d.num == x.co.core) = some d →
      (t.core x.co.core).issuing = some (match d.issuing with | none => k | some j => if j.num < k.num then k else j)

end Sys2Proof.Claims

/-- R69, R95, R115, R147, R149, R154: the class and the weight by which an instruction of each row of the tables is charged as it issues. -/
def Sys2Proof.Claims.IssueChargeResults : Prop :=
  (∀ c w b a d, ChargesAs (.add c w b a d) .t0 1 ∧ ChargesAs (.mul c w b a d) .t1 2 ∧ ChargesAs (.divs c w b a d) .t3 3 ∧
    ChargesAs (.shfl c w b a d) .t0 2 ∧ ChargesAs (.fadd c w b a d) .t1 2 ∧ ChargesAs (.fma c w b a d) .t2 3 ∧ ChargesAs (.dp4 c w b a d) .t2 4 ∧
    ChargesAs (.fdiv c w b a d) .t3 3 ∧ ChargesAs (.hfma2 c w b a d) .t2 3 ∧ ChargesAs (.pk8 c w b a d) .t1 2) ∧
  (∀ v d, ChargesAs (.add16 v d) .t0 1 ∧ ChargesAs (.mul16 v d) .t1 2 ∧ ChargesAs (.fadd16 v d) .t1 2) ∧
  (∀ h o b d, ChargesAs (.ldSw h o b d) .t1 1 ∧ ChargesAs (.stSw h o b d) .t1 1 ∧ ChargesAs (.ldWl h o b d) .t1 1 ∧ ChargesAs (.ldCw h o b d) .t1 1) ∧
  (∀ q p r a d, ChargesAs (.atomS q p r a d) .t1 2 ∧ ChargesAs (.atomC q p r a d) .t1 2) ∧
  (∀ o c, ChargesAs (.bz o c) .t0 1 ∧ ChargesAs (.call o c) .t0 1) ∧ (∀ k, ChargesAs (.alloc k) .t0 1) ∧
  (∀ k n d, ChargesAs (.barC k n d) .t0 1) ∧ (∀ k a o f, ChargesAs (.fenceX k a o f) .t0 1) ∧
  (∀ e b h t k, ChargesAs (.flyIn e b h t k) .t0 1) ∧ (∀ c r b a k, ChargesAs (.mxMma c r b a k) .t0 1) ∧
  (∀ r d, ChargesAs (.mfs r d) .t0 1) ∧ (∀ k, ChargesAs (.trap k) .t0 1) ∧ (∀ b a d, ChargesAs (.msgSend b a d) .t0 1)

/-- R149 to R151, R155 to R158: the band of a new window is the least class that three bays can issue under, unless a chorus that waited 32 cycles
raises it; the end of a current window draws the record, sets the limit, its conditions and the stall ratio; a stall cycle spends its
credit; a bank whose choruses all waited over 200 ns on memory drops, and it wakes over two cycles of its core, with the others that a pick
touches, for that pick or for a transfer of the pump that touches it. -/
def Sys2Proof.Claims.CoreStepResults : Prop :=
  (∀ s, 8 ≤ (s.core s.arg.a).bandCycle → (∀ k, ¬ RaisesTo s s.arg.a k) →
    ∃ t k, Machine.exec .bandWindow s = .next t ∧ NewWindow s t s.arg.a k ∧ k ≤ 3 ∧ (k < 3 → 3 ≤ s.baysUpTo s.arg.a k) ∧
      ∀ j, j < k → s.baysUpTo s.arg.a j < 3) ∧
  (∀ s k, RaisesTo s s.arg.a k →
    (∃ t, Machine.exec .bandRaise s = .next t ∧ NewWindow s t s.arg.a k) ∧
    (8 ≤ (s.core s.arg.a).bandCycle → ∃ t, Machine.exec .bandWindow s = .next t ∧ NewWindow s t s.arg.a k)) ∧
  (∀ s c, s.clusters.find? (fun k => k.num == s.arg.a) = some c → s.windowTicks s.arg.a ≤ c.windowAt →
    (∀ k, k ∈ s.companies → k.core / 8 = s.arg.a → ∀ o, o ∈ k.ops → o.started = true → o.finished = true) →
    let limit := c.newLimit.getD c.limit
    ∃ t, Machine.exec .currentWindowBoundary s = .next t ∧ t = { s with clusters := t.clusters, cores := t.cores } ∧
      t.cluster s.arg.a = { c with
        draw := c.record, record := 0, limit := limit, newLimit := none, windowAt := c.windowAt - s.windowTicks s.arg.a
        nearLimit := decide (limit ≠ 0 ∧ 3 * limit < 4 * c.record), overLimit := decide (limit ≠ 0 ∧ limit < c.record) } ∧
      (∀ m, m ≠ s.arg.a → t.cluster m = s.cluster m) ∧
      ∀ j, j < 8 → (t.core (8 * s.arg.a + j)).credit = 0 ∧
        (if limit ≠ 0 ∧ limit < c.record then
          (if c.record ≤ 2 * (c.record - limit) then (t.core (8 * s.arg.a + j)).ratio = 1 ∧ (t.core (8 * s.arg.a + j)).ratioDen = 2
           else (t.core (8 * s.arg.a + j)).ratio = c.record - limit ∧ (t.core (8 * s.arg.a + j)).ratioDen = c.record)
         else (t.core (8 * s.arg.a + j)).ratio = 0)) ∧
  (∀ s, let c := s.core s.arg.a
    s.coreRuns s.arg.a = true → (s.cluster (s.arg.a / 8)).overLimit = true → c.bay = 0 → c.ratioDen ≤ c.credit → c.stalled = false → c.mid = false →
    ∃ t, Machine.exec .stallCycle s = .next t ∧ CycleEnded s t s.arg.a true ∧ (t.core s.arg.a).credit = c.credit - c.ratioDen) ∧
  (∀ s, s.arg.b < 48 → s.arg.b ∉ (s.core s.arg.a).drowsy → (∀ k, (s.arg.b, k) ∉ (s.core s.arg.a).waking) → (∀ h, h ∈ s.inBank s.arg.a s.arg.b → 200 * ticksPerNs < h.memWait) →
    Machine.exec .bankDrowsy s = .next (s.setCore { s.core s.arg.a with drowsy := (s.core s.arg.a).drowsy ++ [s.arg.b] })) ∧
  (∀ s, s.arg.b ∈ (s.core s.arg.a).drowsy → s.company? s.arg.c = none →
    Machine.exec .bankWake s = .next (s.setCore { s.core s.arg.a with
      drowsy := (s.core s.arg.a).drowsy.filter (· != s.arg.b), waking := (s.core s.arg.a).waking ++ [(s.arg.b, 2)] })) ∧
  (∀ s k h c, s.company? s.arg.c = some k → k.core = s.arg.a → k.chorus? s.arg.d = some h → s.cores.find? (fun c => c.num == s.arg.a) = some c →
    ∃ t, Machine.exec .bankWake s = .next t ∧ t = { s with cores := t.cores } ∧ (∀ n, n ≠ s.arg.a → t.core n = s.core n) ∧
      t.core s.arg.a = { c with drowsy := (t.core s.arg.a).drowsy, waking := (t.core s.arg.a).waking } ∧
      ∀ b, (b ∈ (t.core s.arg.a).drowsy ↔ b ∈ c.drowsy ∧ b ≠ s.arg.b ∧ b ∉ s.banksOf k h) ∧
        ∀ n, (b, n) ∈ (t.core s.arg.a).waking ↔ (b, n) ∈ c.waking ∨ (n = 2 ∧ b ∈ c.drowsy ∧ (b = s.arg.b ∨ b ∈ s.banksOf k h))) ∧
  (∀ s c h m row, ActsOn s c h → h.pump = some m → m.moving = true → (∀ p, p ∈ h.splits → p.spilled = true → p.owed = false) →
    (m.spill.head? = some row ∨ (m.spill = [] ∧ m.fill.head? = some row)) →
    let b := s.bankOf c h (16 + row % h.ring.length)
    b ∈ (s.core c.core).drowsy →
    Machine.exec .pumpRowTransferDone s = .next (s.setCore { s.core c.core with
      drowsy := (s.core c.core).drowsy.filter (· != b), waking := (s.core c.core).waking ++ [(b, 2)] })) ∧
  (∀ s n rest, s.agenda = .cycle n :: rest → s.coreRuns n = true → ∃ t, Machine.step s = .next t ∧ CycleEnded { s with agenda := rest } t n false)

/-- R69, R95, R115, R147, R149 to R151, R154 to R158: what an issue charges, and what happens to the cores. Beyond the rules it follows the model's
choices of log entries 22, 34 and 63. -/
def Obligations.CoreEventResults : Prop := IssueChargeResults ∧ CoreStepResults

/-! ## Events of the engine queue, the fly engine and the array (R169, R178, R186, R187, R193 to R205, R227, R239 to R243) -/

namespace Sys2Proof.Claims

/-- Only the company `c` has changed from `s` to `t`: it is `d` now. -/
def Became (s t : State) (c d : Company) : Prop :=
  t = { s with companies := t.companies } ∧ t.company? c.uid = some d ∧ ∀ u, u ≠ c.uid → t.company? u = s.company? u

/-- The event answers the state in which company `c` has become `d`. -/
def Turns (e : Instr) (s : State) (c d : Company) : Prop := ∃ t, Machine.exec e s = .next t ∧ Became s t c d

/-- The number that an event word of R179 holds after one more completion of some status: the count in bits 23:0 goes up, and that in
bits 31:24 too for status 2 and 3. -/
def eventsAfter (h : Chorus) (status : Nat) : Word :=
  BitVec.ofNat 32 ((h.events.toNat / 2 ^ 24 + (if status = 2 ∨ status = 3 then 1 else 0)) % 2 ^ 8 * 2 ^ 24 + (h.events.toNat % 2 ^ 24 + 1) % 2 ^ 24)

/-- The chorus once a command of it has ended: its tags are returned, and its event is posted (R242, R275). -/
structure Posted (h g : Chorus) (f : FlyCmd) (status : Nat) : Prop where
  rest : g = { h with counters := g.counters, events := g.events, pending := g.pending }
  counters : ∀ k, k < 8 → (∀ t, t ∈ f.tags → t.2 = 0 ∨ t.2 = 1) → h.counters.length = 8 →
    g.counters.getD k (0, 0) = ((h.counters.getD k (0, 0)).1 - (f.tags.filter (fun t => t.1 == k && t.2 == 0)).length,
      (h.counters.getD k (0, 0)).2 - (f.tags.filter (fun t => t.1 == k && t.2 == 1)).length)
  event : f.ev = true → g.events = eventsAfter h status ∧ g.pending = h.pending ||| 0x10
  noEvent : f.ev = false → g.events = h.events ∧ g.pending = h.pending

/-- The tiles with one reader less of tile `n`. -/
def readerGone (ts : List Tile) (n : Nat) : List Tile := updAt ts n (fun t => { t with readers := t.readers - 1 })

/-- The operation that the event names, of a company that acts. -/
structure Works (s : State) (c : Company) (o : MxOp) : Prop where
  actor : Actor s c
  quiet : QuietTroupe s c
  op : o ∈ c.ops ∧ o.uid = s.arg.b
  only : ∀ q, q ∈ c.ops → q.uid = o.uid → q = o

/-- The operations with one replaced. -/
def opsWith (c : Company) (o q : MxOp) : List MxOp := c.ops.map (fun p => if p.uid = o.uid then q else p)

/-- Every member of the operation's ensemble has it at the head of its queue, with a command of which `p` holds (R186). -/
def Heads (c : Company) (o : MxOp) (p : Nat → MxCmd → Prop) : Prop :=
  ∀ k, k ∈ c.members o.ensemble → ∃ h m rest, c.chorus? k = some h ∧ h.queue = .mx m :: rest ∧ m.op = o.number ∧ p k m

/-- The head of an engine queue of a company that acts, in sound SRAM. -/
structure AtHead (s : State) (c : Company) (h : Chorus) (q : QueueEntry) (rest : List QueueEntry) : Prop where
  actor : Actor s c
  quiet : QuietCompany c
  chorus : c.chorus? s.arg.b = some h
  queue : h.queue = q :: rest
  sound : q.name.1 ∉ h.queuePoison

end Sys2Proof.Claims

/-- R169, R178, R186, R198, R227, R348: a draining tile without readers becomes empty, or filling when it is claimed; a resolved cue decides
the command at a queue's head for good: under a true one a fly command goes to the engine, under a false one it is discarded with status 2, and a
gathered operation is discarded for all members once every member's cue has resolved and one was false; `mx.sput` writes the score when no product
under way reads it; a head in poisoned SRAM halts the chorus. -/
def Sys2Proof.Claims.QueueEventResults : Prop :=
  (∀ s c t, s.company? s.arg.a = some c → QuietCompany c → c.tile? s.arg.b = some t → t.state = .draining → t.readers = 0 → 2 ≤ t.drainAge →
    (t.claim = false → Machine.exec .tileDrainEnd s =
      .next (s.setCompany { c with tiles := updAt c.tiles s.arg.b (fun _ => { t with state := .empty, drainAge := 0 }) })) ∧
    ∀ f n m, t.claim = true → t.claimShape = some (f, n, m) → Machine.exec .tileDrainEnd s =
      .next (s.setCompany { c with tiles := updAt c.tiles s.arg.b (fun _ =>
        { t with state := .filling, claim := false, claimShape := none, drainAge := 0, format := f, cols := n, rows := m }) })) ∧
  (∀ s c h f rest, AtHead s c h (.fly f) rest → f.state = .queued → h.cueCode f.cue = 3 →
    Turns .queueHeadDecide s c (c.setChorus { h with queue := .fly { f with state := .decided } :: rest })) ∧
  (∀ s c h f rest, Actor s c → QuietCompany c → c.chorus? s.arg.b = some h → h.queue = .fly f :: rest → f.state = .decided → s.handedOn c.core < 32 →
    c.orderHolds h.index f = false → s.stops c = false →
    Machine.exec .flyCommandHandover s = .next (s.setCompany
      { c.setChorus { h with queue := rest } with engine := c.engine ++ [(h.index, { f with state := .handed })] })) ∧
  (∀ s c h f rest, AtHead s c h (.fly f) rest → f.state = .queued → h.cueCode f.cue = 2 → f.op ≠ .inn → f.op ≠ .gth →
    ∃ d g, Turns .queueHeadDecide s c d ∧ d = { c with choruses := d.choruses, tiles := if f.reading then readerGone c.tiles f.tile else c.tiles } ∧
      d.chorus? h.index = some g ∧ Posted { h with queue := rest } g f 2 ∧ ∀ k, k ≠ h.index → d.chorus? k = c.chorus? k) ∧
  (∀ s c h f rest t, AtHead s c h (.fly f) rest → h.halted = none → h.ended = false → f.state = .queued → h.cueCode f.cue = 2 →
    (f.op = .inn ∨ f.op = .gth) → f.reading = false → c.tile? f.tile = some t → (t.claim = true ∨ t.state = .filling) → (∀ o, o ∈ c.ops → f.tile ∉ c.awaits o) →
    ∃ d g, Turns .queueHeadDecide s c d ∧ d = { c with choruses := d.choruses, tiles := updAt c.tiles f.tile (fun _ =>
        if t.claim then { t with claim := false, claimShape := none } else { t with state := .empty }) } ∧
      d.chorus? h.index = some g ∧ Posted { h with queue := rest } g f 2) ∧
  (∀ s c h u w epc base m v rest, AtHead s c h (.sput u w epc base m v) rest → c.score.wf = true →
    (∀ o, o ∈ c.ops → o.started = true → o.finished = false → o.sc = false) →
    ∃ d, Turns .queueHeadDecide s c d ∧ d = { c.setChorus { h with queue := rest } with score := d.score, scorePoison := d.scorePoison } ∧
      (∀ l k, l < 32 → k < 4 → m.has l = true → d.score.read (base + 4 * l + k) = (v.at l).extractLsb' (8 * k) 8) ∧
      ∀ a, (∀ l k, l < 32 → k < 4 → m.has l = true → a ≠ base + 4 * l + k) → d.score.read a = c.score.read a) ∧
  (∀ s c h u w epc base m v rest o, AtHead s c h (.sput u w epc base m v) rest → o ∈ c.ops → o.started = true → o.finished = false → o.sc = true →
    Turns .queueHeadDecide s c c) ∧
  (∀ s c h m rest, AtHead s c h (.mx m) rest → (∀ o, o ∈ c.ops → o.number = m.op → o.ensemble = h.index / max c.playbill.ensemble 1 → o.gathered = false) →
    (∀ v, m.verdict = none → h.cueCode m.cue = (if v then 3 else 2) →
      Turns .queueHeadDecide s c (c.setChorus { h with queue := .mx { m with verdict := some v } :: rest })) ∧
    (∀ v, m.verdict = some v → Turns .queueHeadDecide s c c)) ∧
  (∀ s c h q rest, ActsOn s c h → h.queue = q :: rest → q.name.1 ∈ h.queuePoison →
    ∃ t d g, Machine.exec .queueHeadDecide s = .next t ∧ t.company? c.uid = some d ∧ d.chorus? h.index = some g ∧ g.halted = some 0x10 ∧
      g.cause = 0x10 ∧ g.epc = q.name.2 ∧ g.tval = 0xFFFFFFFF ∧ t.mem = s.mem) ∧
  (∀ s c h o m rest, AtHead s c h (.mx m) rest → o ∈ c.ops → (∀ q, q ∈ c.ops → q.uid = o.uid → q = o) →
    (∀ q, q ∈ c.ops → q.number = o.number → q.ensemble = o.ensemble → q = o) → o.ensemble = c.ensembleNo h.index →
    m.op = o.number → o.gathered = true → o.started = false → o.kind ≠ .get → m.verdict = none → h.cueCode m.cue = 2 →
    Heads c o (fun k n => k = h.index ∨ n.verdict ≠ none) →
    ∃ d, Turns .queueHeadDecide s c d ∧ (∀ p, p ∈ d.ops ↔ p ∈ c.ops ∧ p ≠ o) ∧ d.tiles = o.reserved.foldl readerGone c.tiles ∧
      ∀ k g, k ∈ c.members o.ensemble → c.chorus? k = some g → ∃ g', d.chorus? k = some g' ∧ g' = { g with queue := g'.queue } ∧
        ∀ q, q ∈ g'.queue ↔ q ∈ g.queue ∧ ∀ n, q = .mx n → n.op ≠ o.number)

/-- R26, R187, R241: a chorus takes the oldest trap raised after issue at a chain boundary, with the address of the command or of its
own instruction; the running split enters the playbill's handler, or the trap of the scheduler halts the chorus. -/
def Sys2Proof.Claims.AsyncTrapResults : Prop :=
  (∀ s c h a rest p pc, ActsOn s c h → QuietTroupe s c → Apart h → h.chain = none → h.traps = a :: rest → a.split = 0 → a.scheduler = false → p ∈ h.splits →
    p.state = .running → (∀ q, q ∈ h.splits → q.state = .running → q = p) → c.playbill.handler = some pc → h.handler = false →
    a.cause ≠ 0x0F → a.cause ≠ 0x10 →
    Machine.exec .asyncTrapTaken s = .next (s.setCompany (c.setChorus { h with
      traps := rest, cause := BitVec.ofNat 32 a.cause, epc := a.epc, tval := a.tval, handler := true
      splits := h.splits.map (fun q => if q.members = p.members then { p with pc := BitVec.ofNat 32 pc, wait := .none } else q) }))) ∧
  (∀ s c h a rest p, ActsOn s c h → QuietTroupe s c → Apart h → h.chain = none → h.traps = a :: rest → a.split = 0 → p ∈ h.splits → p.state = .running →
    (a.scheduler = true ∨ c.playbill.handler = none ∨ h.handler = true ∨ a.cause = 0x0F ∨ a.cause = 0x10) →
    ∃ t d g, Machine.exec .asyncTrapTaken s = .next t ∧ t.company? c.uid = some d ∧ d.chorus? h.index = some g ∧
      g.halted = some a.cause ∧ g.cause = BitVec.ofNat 32 a.cause ∧ g.epc = a.epc ∧ g.tval = a.tval ∧ g.swept = false ∧ g.house = h.house ∧ g.ring = h.ring ∧
      d.stage = c.stage ∧ d.abandoned = c.abandoned ∧ t.mem = s.mem)

/-- R171, R179, R187, R216, R349: after the four bays of a cycle in which a chorus has halted, its engine queue is empty, no operation of its ensemble
that is not started stands any more, one that is started stops at its next boundary, and the barriers of its company and of its troupe are
abandoned; after a cycle in which a chorus has ended, no operation of its ensemble that is not gathered stands, and each other member that had
issued one has a trap of cause 0x0A with the index of the ended member; either way the phases of the company's barriers that
hold enough arrivals complete. -/
def Sys2Proof.Claims.SweepResults : Prop :=
  ∀ s r rest c h, s.agenda = .sweep r :: rest → s.company? r.co = some c → c.chorus? r.ch = some h → QuietTroupe s c → h.swept = false →
    (∀ o q, o ∈ c.ops → q ∈ c.ops → o.uid = q.uid → o = q) →
    let e := max c.playbill.ensemble 1
    let mine (o : MxOp) : Prop := o.ensemble = h.index / e
    (h.halted ≠ none → ∃ t d g, Machine.step s = .next t ∧ t.company? c.uid = some d ∧ d.chorus? h.index = some g ∧
      g.queue = [] ∧ g.swept = true ∧ g.halted = h.halted ∧ g.house = h.house ∧ g.ring = h.ring ∧ d.abandoned = true ∧
      (∀ u, s.troupeOf c = some u → ∃ v, t.troupeOf d = some v ∧ v.abandoned = true) ∧
      (∀ o, o ∈ d.ops → mine o → o.started = true ∧ o.stopping = true) ∧ d.stage = c.stage ∧ t.mem = s.mem) ∧
    (h.halted = none → h.ended = true → ∃ t d g, Machine.step s = .next t ∧ t.company? c.uid = some d ∧ d.chorus? h.index = some g ∧
      g.swept = true ∧ d.abandoned = c.abandoned ∧ (∀ o, o ∈ d.ops → mine o → o.gathered = true) ∧
      (∀ o k a, o ∈ c.ops → mine o → o.gathered = false → (k, a) ∈ o.issued → k ≠ h.index → c.chorus? k ≠ none →
        ∃ g', d.chorus? k = some g' ∧ ∃ z, z ∈ g'.traps ∧ z.cause = 0x0A ∧ z.epc = a ∧ z.tval = BitVec.ofNat 32 (h.index % e)) ∧
      ∀ (k : Nat) (b : Barrier), c.barriers[k]? = some b → ∃ b' : Barrier, d.barriers[k]? = some b' ∧
        if b.arrived ≠ [] ∧ min b.target (liveCount c) ≤ b.arrived.length then b'.phase = b.phase + 1 ∧ b'.arrived = [] else b' = b)

/-- R26, R169, R171, R178, R179, R186, R187, R198, R227, R241, R349: the engine queue, draining tiles, traps taken after issue, and what the end or
the halt of a chorus brings. Beyond the rules it follows the model's choices of log entries 8 and 59. -/
def Obligations.QueueAndAsyncTrapEvents : Prop := QueueEventResults ∧ AsyncTrapResults ∧ SweepResults

namespace Sys2Proof.Claims

/-- The command that the event names: the engine has it, no earlier command of its chorus holds it back (R243), and the tile that it
fills is filling. -/
structure Engaged (s : State) (c : Company) (k : Nat) (f : FlyCmd) : Prop where
  actor : Actor s c
  quiet : QuietCompany c
  command : (k, f) ∈ c.engine ∧ f.uid = s.arg.b ∧ f.state = .handed ∧ f.failed = none
  only : ∀ e, e ∈ c.engine → e.2.uid = f.uid → e = (k, f)
  target : (f.op = .inn ∨ f.op = .gth) → ∃ t, c.tile? f.tile = some t ∧ t.state = .filling
  order : s.heldBack c k f (f.elems c) = false

/-- The engine's commands with `f` replaced. -/
def engineWith (c : Company) (f g : FlyCmd) : List (Nat × FlyCmd) := c.engine.map (fun e => if e.2.uid = f.uid then (e.1, g) else e)

/-- The line request of the event is for the element `e` alone, and the TLBs serve its page (R239). -/
structure OneLine (s : State) (c : Company) (k : Nat) (f : FlyCmd) (e : Elem) : Prop where
  engaged : Engaged s c k f
  begun : f.begun = true
  fresh : f.denials = []
  line : (f.elems c).filter (fun d => f.lineOf d == s.arg.c && f.todo.contains d.idx) = [e]
  here : e.idx ∉ f.remote
  served : s.missing c f [e] = []

/-- The command `g` is `f` with the element's bit of the bitmap set (R240); what it notes of poison that it delivers may change. -/
def DoneWith (f g : FlyCmd) (e : Elem) : Prop :=
  g = { f with todo := f.todo.filter (· != e.idx), stained := g.stained, stainedScore := g.stainedScore }

/-- The access that leaves the device: one to host memory goes out with the function and the PASID of its context (R373, R375). -/
def hostOutputs (s : State) (c : Company) (phys n : Nat) (write : Bool) : List Output :=
  if isHost phys then (s.context? c.ctx).toList.map (fun x => .hostAccess x.fn x.pasid phys n write) else []

/-- No line of the bytes is kept under another context's key, so they read as they were written (R262). -/
def OwnKeys (s : State) (c : Company) (loc : Nat → Nat) (n : Nat) : Prop :=
  ∀ j t q, j < n → s.lineOf (loc j) = some t → t.key = some q → q = c.ctx

/-- Whether the element is the last one that the command reads in the stage: what is left to do has gone to a peer (R168, R232). -/
def lastRead (f : FlyCmd) (e : Elem) : Prop := f.reading = true ∧ ∀ k, k ∈ f.todo → k ≠ e.idx → k ∈ f.remote

/-- The checks of an element's bytes from `va` to `vb` on one page: one line asks once, and two lines ask each (R258, R261). -/
def checksOf (e : TlbEntry) (va vb : Nat) : List (TlbEntry × Nat) := (e, va) :: (if va / 128 = vb / 128 then [] else [(e, vb)])

/-- Another element of the same principal that touches the page is still to do, so the count of its denials may rise (R260). -/
def MoreOfPage (c : Company) (f : FlyCmd) (e : Elem) (t : TlbEntry) : Prop :=
  ∃ d b, d ∈ f.elems c ∧ d.idx ∈ f.todo ∧ d.idx ≠ e.idx ∧ principalNo (f.principalOf d) = principalNo (f.principalOf e) ∧
    d.bit = some b ∧ t.va < (b + d.width + 7) / 8 ∧ b / 8 < t.va + t.size

/-- The principal that a command assigns to an element: the lane's for a per-lane command, else the leader's (R231, R233). -/
def principalFor (f : FlyCmd) (e : Elem) : Word :=
  if f.op = .gth ∨ f.op = .sct ∨ f.op = .atm then f.principals.getD e.lane 0 else f.principals.getD f.leader 0

end Sys2Proof.Claims

/-- R168, R232, R236, R239, R251, R258, R261, R382: a page that no TLB serves is walked for first, once; a multicast leaves with every code that its
tile holds and a request identifier for each member but the device itself; a copy within the stage takes its source before it writes;
an element that is read brings its code from memory to the stage, a denied one brings zero and counts; an element that is
written changes its own bits of memory and no other, and the last read of the source tile ends its reader. -/
def Sys2Proof.Claims.FlyLineResults : Prop :=
  (∀ s c k f es a rest, Engaged s c k f → f.op ≠ .mc → es = (f.elems c).filter (fun e => f.lineOf e == s.arg.c && (!f.begun || f.todo.contains e.idx)) →
    s.missing c f es = a :: rest → a.1 < 2 ^ 64 → (∀ b, b ∈ rest → b.2 = a.2 ∧ s.pageFound c.ctx b.1 a.2 = s.pageFound c.ctx a.1 a.2) →
    (∀ w, w ∈ s.walks → ¬ (w.ctx = c.ctx ∧ w.core = c.core ∧ s.pageFound c.ctx w.va.toNat a.2 = s.pageFound c.ctx a.1 a.2 ∧ w.access = a.2.code)) →
    (s.walks.filter (fun w => w.core / 48 == c.core / 48)).length < 16 →
    Machine.exec .flyLineComplete s = .next { s with
      uid := s.uid + 1
      walks := s.walks ++ [{ uid := s.uid, ctx := c.ctx, core := c.core, va := BitVec.ofNat 64 a.1, access := a.2.code, who := .fly c.uid f.uid, stale := false }] }) ∧
  (∀ s c k f, Engaged s c k f → f.op = .mc → f.begun = false →
    ∃ t o p w ids, Machine.exec .flyLineComplete s = .next t ∧
      t.company? c.uid = some { c with tiles := readerGone c.tiles f.tile, engine := engineWith c f { f with begun := true, todo := [], reading := false } } ∧
      t.sent = s.sent ++ [o] ∧ o.asker = .fly c.uid k f.uid 0 ∧ o.plainRead = false ∧ t.mem = s.mem ∧
      o.what = .multicast f.group p w ((f.elems c).any (fun e => e.bit.isSome && (e.cell.any (fun a =>
          poisoned c.stagePoison (a / 8) ((a + e.width - 1) / 8 + 1 - a / 8)) || (e.cell.isNone && e.score.any (fun a => poisoned c.scorePoison a 1)))))
        ((f.elems c).filterMap (fun e => e.bit.map (fun b => (b, e.width,
          match e.cell, e.score with | some a, _ => c.stage.readBits a e.width | none, some a => (c.score.read a).toNat | none, none => 0)))) ids ∧
      ids.Pairwise (fun a b => a.1 ≠ b.1) ∧ ∀ a, a ∈ ids → a.1 ≠ s.deviceId) ∧
  (∀ s c k f, Engaged s c k f → f.record = none → f.op = .cp → f.srcSpace = 2 → f.dstSpace = 2 → f.begun = false → f.remote = [] → f.denials = [] → 0 < f.len → f.len ≤ 128 →
    f.len % 4 = 0 → s.arg.c = 0 → c.stage.wf = true →
    ∃ d g, Turns .flyLineComplete s c d ∧ d = { c with stage := d.stage, stagePoison := d.stagePoison, engine := engineWith c f g } ∧
      g = { f with begun := true, todo := [], snapshot := g.snapshot, stained := g.stained, stainedScore := g.stainedScore } ∧
      (∀ j, j < f.len → d.stage.read (f.dst.toNat + j) = c.stage.read (f.src.toNat + j)) ∧
      ∀ a, (a < f.dst.toNat ∨ f.dst.toNat + f.len ≤ a) → d.stage.read a = c.stage.read a) ∧
  (∀ s c k f e bit cell e1 u v, OneLine s c k f e → (f.op = .inn ∨ f.op = .gth) → e.bit = some bit → e.cell = some cell → 0 < e.width →
    bit / 8 / 4096 = (bit + e.width - 1) / 8 / 4096 → s.translate c.core c.ctx (bit / 8) .read = (.ok e1, u) →
    u.readChecks c.core c.ctx (principalFor f e) (checksOf e1 (bit / 8) ((bit + e.width - 1) / 8)) = (.granted, v) → isPeer (e1.phys (bit / 8)) = false →
    OwnKeys v c (fun j => e1.at_ (bit / 8 + j)) ((bit + e.width - 1) / 8 + 1 - bit / 8) →
    let n := (bit + e.width - 1) / 8 + 1 - bit / 8
    ∃ d g, Machine.exec .flyLineComplete s = .next
        ({ v with outputs := v.outputs ++ hostOutputs v c (e1.phys (bit / 8)) n false }.setCompany d) ∧ DoneWith f g e ∧
      d = { c with
        stage := c.stage.writeBits cell e.width (ofBytesLE ((List.range n).map (fun j => v.mem.read (e1.at_ (bit / 8 + j)))) / 2 ^ (bit % 8) % 2 ^ e.width)
        stagePoison := d.stagePoison
        engine := engineWith c f g }) ∧
  (∀ s c k f e bit cell e1 u v a, OneLine s c k f e → (f.op = .inn ∨ f.op = .gth) → e.bit = some bit → e.cell = some cell → 0 < e.width →
    bit / 8 / 4096 = (bit + e.width - 1) / 8 / 4096 → s.translate c.core c.ctx (bit / 8) .read = (.ok e1, u) → MoreOfPage c f e e1 →
    u.readChecks c.core c.ctx (principalFor f e) (checksOf e1 (bit / 8) ((bit + e.width - 1) / 8)) = (.denied e1 a, v) →
    ∃ t d g, Machine.exec .flyLineComplete s = .next t ∧
      t = (v.modContext c.ctx (fun x => { x with denyCnt := (x.denyCnt + 1) % 2 ^ 64 })).setCompany d ∧
      d = { c with stage := c.stage.writeBits cell e.width 0, stagePoison := d.stagePoison, engine := engineWith c f g } ∧
      DoneWith { f with denied := true, denials := g.denials } g e ∧
      ∃ n, n ∈ g.denials ∧ n.page = e1.va ∧ n.principal = principalNo (principalFor f e) ∧ 1 ≤ n.count) ∧
  (∀ s c k f e bit cell e1 u, OneLine s c k f e → (f.op = .out ∨ f.op = .sct) → e.bit = some bit → e.cell = some cell → 0 < e.width → e.width ≤ 32 →
    bit / 8 / 4096 = (bit + e.width - 1) / 8 / 4096 → s.translate c.core c.ctx (bit / 8) .write = (.ok e1, u) →
    (e1.g = true → ownsGuarded (principalFor f e) = true) → isPeer (e1.phys (bit / 8)) = false →
    u.mem.wf = true →
    (∀ j, j < (bit + e.width - 1) / 8 + 1 - bit / 8 → e1.at_ (bit / 8 + j) = e1.at_ (bit / 8) + j) →
    OwnKeys u c (fun j => e1.at_ (bit / 8 + j)) ((bit + e.width - 1) / 8 + 1 - bit / 8) →
    let loc := e1.at_ (bit / 8)
    let n := (bit + e.width - 1) / 8 + 1 - bit / 8
    ∃ t d g, Machine.exec .flyLineComplete s = .next t ∧ t.company? c.uid = some d ∧ DoneWith f g e ∧
      t.outputs = u.outputs ++ hostOutputs u c (e1.phys (bit / 8)) n true ∧
      (lastRead f e → d = { c with
        stagePoison := d.stagePoison, tiles := readerGone c.tiles f.tile, engine := engineWith c f { g with reading := false } }) ∧
      (¬ lastRead f e → d = { c with stagePoison := d.stagePoison, engine := engineWith c f g }) ∧
      t.mem.readBits (8 * loc + bit % 8) e.width = c.stage.readBits cell e.width ∧
      (∀ b, b < 8 * n → (b < bit % 8 ∨ bit % 8 + e.width ≤ b) → t.mem.readBits (8 * loc + b) 1 = u.mem.readBits (8 * loc + b) 1) ∧
      ∀ a, (a < loc ∨ loc + n ≤ a) → t.mem.read a = u.mem.read a)

/-- R240 to R242, R251, R253, R382, R383: a command without anything left to do completes: it leaves the engine, its event has status 0, or
1 when an element was denied, and a tile that it filled is ready; a walk's result enters no TLB once it is stale; the aggregate
acknowledgement reaches its command; one that has failed ends, once its deny records are written, with status 3 and a trap of the scheduler. -/
def Sys2Proof.Claims.FlyCompletionResults : Prop :=
  (∀ s c k f h, Engaged s c k f → c.chorus? k = some h → f.begun = true → f.todo = [] → f.remote = [] → f.denials = [] → f.op ≠ .mc → f.ack = none →
    (∀ o, o ∈ c.ops → f.tile ∉ c.awaits o) → ((f.op = .inn ∨ f.op = .gth) → f.reading = false) →
    ∃ d g, Turns .flyCommandComplete s c d ∧ d.chorus? k = some g ∧ Posted h g f (if f.denied then 1 else 0) ∧
      (∀ j, j ≠ k → d.chorus? j = c.chorus? j) ∧
      d = { c with
        choruses := d.choruses
        engine := c.engine.filter (fun e => e.2.uid != f.uid)
        tiles := if f.op = .inn ∨ f.op = .gth then updAt c.tiles f.tile (fun t => { t with state := .ready })
          else if f.reading then readerGone c.tiles f.tile else c.tiles }) ∧
  (∀ s c k f h cause tval, Actor s c → QuietCompany c → (k, f) ∈ c.engine → f.uid = s.arg.b → f.state = .handed → f.failed = some (cause, tval) →
    (∀ e, e ∈ c.engine → e.2.uid = f.uid → e = (k, f)) → f.denials = [] → f.op ≠ .inn → f.op ≠ .gth → c.chorus? k = some h →
    ∃ d g, Turns .flyCommandComplete s c d ∧ d.chorus? k = some g ∧
      Posted { h with traps := h.traps ++ [{ cause := cause, epc := f.epc, tval := tval, scheduler := true, split := 0 }] } g f 3 ∧
      d = { c with
        choruses := d.choruses
        engine := c.engine.filter (fun e => e.2.uid != f.uid)
        tiles := if f.reading then readerGone c.tiles f.tile else c.tiles }) ∧
  (∀ s w, s.walks.find? (fun v => v.uid == s.arg.a) = some w → w.stale = true →
    Machine.exec .pageWalkComplete s = .next { s with walks := s.walks.filter (fun v => v.uid != w.uid) }) ∧
  (∀ s w e t, s.walks.find? (fun v => v.uid == s.arg.a) = some w → w.stale = false → w.access = 0 →
    State.translate { s with walks := s.walks.filter (fun v => v.uid != w.uid) } w.core w.ctx w.va.toNat .read = (.ok e, t) →
    Machine.exec .pageWalkComplete s = .next t) ∧
  (∀ s c k f a o d j x, s.arg.x = .ack a → s.multicastOf a = some o → o.asker = .fly a.co j a.cmd x → (∀ p, p ∈ s.sent → p.held = false) → s.replies = [] →
    s.company? a.co = some c → QuietCompany c → s.context? c.ctx = some d → d.onStage = true → d.debugHalted = false → s.curtain = false →
    (k, f) ∈ c.engine → f.uid = a.cmd → f.state ≠ .done → (∀ e, e ∈ c.engine → e.2.uid = f.uid → e = (k, f)) → f.op = .mc → f.begun = true →
    Machine.exec .aggregateAckArrival s = .next (({ s with
      sent := s.sent.filter (fun p => !(p.dest == o.dest && p.ident == o.ident && p.plainRead == o.plainRead)) } : State).setCompany
        { c with engine := engineWith c f { f with ack := some a } }))

/-- R168, R232, R236, R239 to R242, R251, R253, R258, R261, R382, R383: lines, walks and completions of the fly engine. Beyond the rules it follows
the model's choices of log entries 8, 65 and 91. -/
def Obligations.FlyEngineEvents : Prop := FlyLineResults ∧ FlyCompletionResults

namespace Sys2Proof.Claims

/-- The cell of output (i, j) of a region of `n` columns at block `base` (R188). -/
def outputCell (base n i j : Nat) : Nat := (base + i / 16 * (n / 16) + j / 16) * 256 + i % 16 * 16 + j % 16

/-- Keys of the accumulators rise. -/
def AccsRise (c : Company) : Prop := c.acc.Pairwise (fun p q => p.1 < q.1)

/-- A step of the operation is over (R204). -/
structure StepOver (s : State) (c : Company) (o : MxOp) : Prop where
  works : Works s c o
  running : o.started = true ∧ o.finished = false ∧ o.paused = false ∧ o.stopping = false ∧ o.due ≤ s.vtTicks c.ctx
  rising : AccsRise c
  shape : shapeM o.shape % 16 = 0 ∧ shapeN o.shape % 16 = 0

/-- What a step leaves of the operation: the next step, or its end (R199, R204). -/
def StepsOn (s : State) (c d : Company) (o : MxOp) (steps : Nat) : Prop :=
  (steps ≤ o.next + 1 → d.ops = opsWith c o { o with next := o.next + 1, finished := true, reserved := [], charged := 0 } ∧
    d.tiles = o.reserved.foldl readerGone c.tiles) ∧
  (o.next + 1 < steps → d.tiles = c.tiles ∧ ∃ q, d.ops = opsWith c o q ∧ q = { o with
    next := o.next + 1, due := o.due + stepCycles o * s.arithTicks c.core, charged := 0, paused := q.paused } ∧
    q.paused = s.stops c)

/-- Only the company `c`, the current record of its cluster and when its array was left have changed: the company is `d` now, and the record has
risen by 96 for each cycle of a product's step that was not charged yet (R154, R201). -/
def Stepped (e : Instr) (s : State) (c d : Company) (o : MxOp) : Prop :=
  ∃ t, Machine.exec e s = .next t ∧ t = { s with companies := t.companies, clusters := t.clusters, cores := t.cores } ∧ t.company? c.uid = some d ∧
    (∀ u, u ≠ c.uid → t.company? u = s.company? u) ∧ (∀ n, t.core n = { s.core n with arrayAt := (t.core n).arrayAt }) ∧
    (∀ n, t.cluster n = { s.cluster n with record := (t.cluster n).record }) ∧
    ∀ k, s.clusters.find? (fun k => k.num == c.core / 8) = some k →
      (t.cluster (c.core / 8)).record = k.record + (if o.kind = .mma ∨ o.kind = .spr then 96 * (stepCycles o - o.charged) else 0)

/-- The step of the operation ends in a halt of its members, each with the address of its instruction, and no accumulator changes (R205). -/
def StepHalts (s : State) (c : Company) (o : MxOp) (cause : Nat) (tval : Word) : Prop :=
  ∃ t d, Machine.exec .matrixKStep s = .next t ∧ t.company? c.uid = some d ∧ d.acc = c.acc ∧ d.stage = c.stage ∧ (∀ p, p ∈ d.ops → p.uid ≠ o.uid) ∧
    ∀ k a h, (k, a) ∈ o.issued → c.chorus? k = some h → h.halted = none →
      ∃ g, d.chorus? k = some g ∧ g.halted = some cause ∧ g.cause = BitVec.ofNat 32 cause ∧ g.epc = a ∧ g.tval = tval

/-- The sum of one K-step: the accumulator plus the exact scaled sum of the 32 products, rounded once (R193). -/
def stepSum (c : Company) (o : MxOp) (a b : Tile) (base i j : Nat) : Word :=
  let k := o.next
  let value (t : Tile) (r x : Nat) : Val := codeValue t.format (c.stage.readBits (t.bitAt r (32 * k + x)) (formatBits t.format))
  let scale (t : Tile) (r : Nat) : Nat := if o.sc then (c.score.read (t.score * 128 + r * (t.cols / 32) + k)).toNat else 127
  rneFp32 (dotSum .rne (fp32.value (accRead c.acc (outputCell base (shapeN o.shape) i j)).toNat)
    (((List.range 32).map (value a i)).zip ((List.range 32).map (value b j))) (scale a i) (scale b j))

end Sys2Proof.Claims

/-- R186, R194, R201: a gathered operation at the head of every member's queue, with its cues true and its operands reserved, starts on
the free array and leaves every queue; one that stands at a boundary goes on when no company stops it and the array is idle; when its last write is done
it is gone, and the tile that it filled is ready. -/
def Sys2Proof.Claims.MatrixStartAndEndResults : Prop :=
  (∀ s c o, Works s c o → o.kind ≠ .spr → o.gathered = true → o.started = false → Heads c o (fun _ m => m.verdict = some true) → c.awaits o = [] →
    s.stops c = false →
    (o.kind = .get → ∃ t, c.tile? o.tileA = some t ∧ t.state = .filling) →
    (∀ k, k ∈ s.companies → k.core = c.core → k.state = .running → ∀ q, q ∈ k.ops → q.started = false) →
    (o.kind = .mma → c.productFail o = none) →
    let vt := match o.ready with | none => s.vtTicks c.ctx | some t => max t (s.core c.core).arrayAt
    ∃ d, Turns .matrixOpStart s c d ∧ d.ops = opsWith c o { o with started := true, due := vt + stepCycles o * s.arithTicks c.core, charged := 0 } ∧
      d = { c with choruses := d.choruses, ops := d.ops } ∧
      (∀ k h, k ∈ c.members o.ensemble → c.chorus? k = some h → d.chorus? k = some { h with queue := h.queue.drop 1 }) ∧
      ∀ k, k ∉ c.members o.ensemble → d.chorus? k = c.chorus? k) ∧
  (∀ s c o, Works s c o → o.kind ≠ .spr → o.started = true → o.paused = true → s.stops c = false →
    (∀ k, k ∈ s.companies → k.core = c.core → k.state = .running → ∀ q, q ∈ k.ops → q.started = true → q.finished = true ∨ q.paused = true) →
    let q := { o with paused := false, charged := 0, due := s.vtTicks c.ctx + stepCycles o * s.arithTicks c.core }
    Machine.exec .matrixOpStart s = .next (s.setCompany { c with ops := opsWith c o q })) ∧
  (∀ s c o, Works s c o → o.finished = true → o.reserved = [] → o.kind ≠ .get →
    (∀ h m, h ∈ c.choruses → .mx m ∈ h.queue → m.op = o.number → h.index / c.ensembleSize ≠ o.ensemble) →
    Machine.exec .matrixOpComplete s = .next (s.setCompany { c with ops := c.ops.filter (fun p => p.uid != o.uid) })) ∧
  (∀ s c o t, Works s c o → o.finished = true → o.reserved = [] → o.kind = .get → c.tile? o.tileA = some t → t.state = .filling →
    (∀ p, p ∈ c.ops → o.tileA ∉ c.awaits p) →
    ∃ d, Turns .matrixOpComplete s c d ∧ d.ops = c.ops.filter (fun p => p.uid != o.uid) ∧
      d.tiles = updAt c.tiles o.tileA (fun _ => { t with state := .ready }) ∧ d.stage = c.stage ∧ d.acc = c.acc ∧ d.score = c.score ∧
      ∀ g, g ∈ d.stagePoison → g ∈ c.stagePoison)

/-- R154, R193, R195 to R197, R204, R205: a step of `mx.mma` updates every output of its region once, by one rounding of the exact sum; an error of
the array that the understudy sees, in the column of each block whose turn it is, and a poisoned operand or accumulator halt the members; a step of
`mx.zero`, `mx.put` and `mx.get` moves its blocks; no other accumulator and no other byte changes. -/
def Sys2Proof.Claims.MatrixStepResults : Prop :=
  (∀ s c o a b r, StepOver s c o → o.kind = .mma → c.tile? o.tileA = some a → c.tile? o.tileB = some b → c.region? o.region = some r →
    c.mxUpset = [] → c.stagePoison = [] → c.scorePoison = [] → c.accPoison = [] →
    let n := shapeN o.shape
    ∃ d, Stepped .matrixKStep s c d o ∧ StepsOn s c d o (a.cols / 32) ∧ d = { c with acc := d.acc, ops := d.ops, tiles := d.tiles } ∧
      (∀ i j, i < shapeM o.shape → j < n → accRead d.acc (outputCell r.base n i j) = stepSum c o a b r.base i j) ∧
      ∀ x, (∀ i j, i < shapeM o.shape → j < n → x ≠ outputCell r.base n i j) → accRead d.acc x = accRead c.acc x) ∧
  (∀ s c o a b r i j w, StepOver s c o → o.kind = .mma → c.tile? o.tileA = some a → c.tile? o.tileB = some b → c.region? o.region = some r →
    c.stagePoison = [] → c.scorePoison = [] → c.accPoison = [] → i < shapeM o.shape → j < shapeN o.shape → c.mxUpset = [(i, j, w)] →
    (o.issued.map (·.1)).Nodup →
    let right := stepSum c o a b r.base i j
    (j % 16 = o.next % 16 → mismatch32 right (right ^^^ w) → StepHalts s c o 0x0F (0x80000000 + BitVec.ofNat 32 j)) ∧
    ((j % 16 ≠ o.next % 16 ∨ ¬ mismatch32 right (right ^^^ w)) →
      ∃ d, Stepped .matrixKStep s c d o ∧ d.mxUpset = [] ∧ accRead d.acc (outputCell r.base (shapeN o.shape) i j) = right ^^^ w)) ∧
  (∀ s c o a b r, StepOver s c o → o.kind = .mma → c.tile? o.tileA = some a → c.tile? o.tileB = some b → c.region? o.region = some r →
    (o.issued.map (·.1)).Nodup →
    ((∃ i, i < shapeM o.shape ∧ a.bitAt i (32 * o.next) / 8 / 32 ∈ c.stagePoison ∧ 0 < formatBits a.format) ∨
      (∃ q k, q < shapeM o.shape / 16 * (shapeN o.shape / 16) ∧ k < 32 ∧ 32 * (r.base + q) + k ∈ c.accPoison)) →
    StepHalts s c o 0x10 0xFFFFFFFF) ∧
  (∀ s c o r, StepOver s c o → o.kind = .zero → c.region? o.region = some r →
    let blocks := shapeM o.shape / 16 * (shapeN o.shape / 16)
    ∃ d, Stepped .matrixKStep s c d o ∧ StepsOn s c d o ((blocks + 3) / 4) ∧
      d = { c with acc := d.acc, accPoison := d.accPoison, ops := d.ops, tiles := d.tiles } ∧ (∀ g, g ∈ d.accPoison → g ∈ c.accPoison) ∧
      ∀ x, accRead d.acc x = if (r.base + 4 * o.next) * 256 ≤ x ∧ x < (r.base + min (4 * o.next + 4) blocks) * 256 then 0 else accRead c.acc x) ∧
  (∀ s c o t r, StepOver s c o → o.kind = .put → c.tile? o.tileA = some t → c.region? o.region = some r → c.stagePoison = [] → 0 < shapeN o.shape →
    let n := shapeN o.shape
    let row (x : Nat) : Nat := o.next / (n / 16) * 16 + x / 16
    let col (x : Nat) : Nat := o.next % (n / 16) * 16 + x % 16
    ∃ d, Stepped .matrixKStep s c d o ∧ StepsOn s c d o (shapeM o.shape / 16 * (n / 16)) ∧
      d = { c with acc := d.acc, accPoison := d.accPoison, ops := d.ops, tiles := d.tiles } ∧ (∀ g, g ∈ d.accPoison → g ∈ c.accPoison) ∧
      (∀ x, x < 256 → accRead d.acc (outputCell r.base n (row x) (col x)) =
        rneFp32 (codeValue t.format (c.stage.readBits (t.bitAt (row x) (col x)) (formatBits t.format)))) ∧
      ∀ y, (∀ x, x < 256 → y ≠ outputCell r.base n (row x) (col x)) → accRead d.acc y = accRead c.acc y) ∧
  (∀ s c o t r, StepOver s c o → o.kind = .get → c.tile? o.tileA = some t → c.region? o.region = some r → c.stage.wf = true → 0 < shapeN o.shape →
    t.cols = shapeN o.shape → c.accPoison = [] →
    let n := shapeN o.shape
    let row (x : Nat) : Nat := o.next / (n / 16) * 16 + x / 16
    let col (x : Nat) : Nat := o.next % (n / 16) * 16 + x % 16
    ∃ d, Stepped .matrixKStep s c d o ∧ StepsOn s c d o (shapeM o.shape / 16 * (n / 16)) ∧
      d = { c with stage := d.stage, ops := d.ops, tiles := d.tiles } ∧
      (∀ x, x < 256 → d.stage.readBits (t.bitAt (row x) (col x)) (formatBits t.format) =
        convertTo t.format .rne (fmtSat (o.fmt.setWidth 16)) (fp32.value (accRead c.acc (outputCell r.base n (row x) (col x))).toNat) %
          2 ^ formatBits t.format) ∧
      ∀ y, (∀ x, x < 256 → y < t.bitAt (row x) (col x) / 8 ∨ (t.bitAt (row x) (col x) + formatBits t.format - 1) / 8 < y) →
        d.stage.read y = c.stage.read y)

/-- R154, R186, R193 to R197, R201, R204, R205: the array takes, steps and ends an operation. Beyond the rules it follows the model's choices of log
entries 8, 60 and 61. -/
def Obligations.MatrixEvents : Prop := MatrixStartAndEndResults ∧ MatrixStepResults

/-! ## Events of translation, of contexts and of the queues (R251 to R259, R304 to R318) -/

namespace Sys2Proof.Claims

/-- The state with the context of a number changed, with one of its queues changed, and with a function changed. -/
def ctxWith (s : State) (id : Nat) (f : Context → Context) : State := { s with contexts := s.contexts.map (fun c => if c.id = id then f c else c) }
def queueWith (s : State) (id k : Nat) (f : Queue → Queue) : State := ctxWith s id (fun c => { c with queues := updAt c.queues k f })
def funcWith (s : State) (n : Nat) (f : Func → Func) : State := { s with funcs := s.funcs.map (fun c => if c.num = n then f c else c) }

/-- The ring of a stage. -/
def ringOf (f : Func) (stage : Nat) : Ring := if stage = 1 then f.ring1 else f.ring2

/-- The memory holds the bytes of `f` from `loc` on, and elsewhere what it held. -/
def Stored (m m' : Memory) (loc n : Nat) (f : Nat → Byte) : Prop :=
  (∀ j, j < n → m'.read (loc + j) = f j) ∧ ∀ a, (a < loc ∨ loc + n ≤ a) → m'.read a = m.read a

/-- The function of the event is enabled, and the event writes the register of its ring. -/
structure RingOf (s : State) (f : Func) : Prop where
  func : s.func? s.arg.a = some f
  enabled : f.enabled = true
  stage : s.arg.b = 1 ∨ s.arg.b = 2

/-- The function with a ring replaced. -/
def ringFunc (f : Func) (stage : Nat) (r : Ring) : Func := if stage = 1 then { f with ring1 := r } else { f with ring2 := r }

/-- An invalidation of the entries of `target` that satisfy `p`, and of the table entries that satisfy `w`, begins (R253): they leave
every TLB and every page-walk cache, the walks of the function that are in flight keep no result, the engine's accesses to peers that are
under way are waited for, and busy is set. -/
def Invalidates (e : Instr) (s : State) (f : Func) (target : Nat) (p : TlbEntry → Prop) (w : TableEntry → Prop) : Prop :=
  ∃ t, Machine.exec e s = .next t ∧
    t = { s with cores := t.cores, clusters := t.clusters, dies := t.dies, walks := t.walks, sent := t.sent, funcs := t.funcs } ∧
    (∀ n, t.core n = { s.core n with tlb := (t.core n).tlb } ∧ ∀ x, x ∈ (t.core n).tlb ↔ x ∈ (s.core n).tlb ∧ ¬ (x.fn = target ∧ p x)) ∧
    (∀ n, t.cluster n = { s.cluster n with l2 := (t.cluster n).l2 } ∧ ∀ x, x ∈ (t.cluster n).l2 ↔ x ∈ (s.cluster n).l2 ∧ ¬ (x.fn = target ∧ p x)) ∧
    (∀ n, t.die n = { s.die n with pwc := (t.die n).pwc } ∧ ∀ x, x ∈ (t.die n).pwc ↔ x ∈ (s.die n).pwc ∧ ¬ (x.fn = target ∧ w x)) ∧
    t.sent = s.sent.map (fun o => if s.flyOf target o then { o with stale := true } else o) ∧
    t.walks = s.walks.map (fun w => if (s.roots w.ctx).1 = target then { w with stale := true } else w) ∧
    t.funcs = (funcWith s f.num (fun g => { g with xlinvCtl := (s.arg.v &&& 0x0FFF000F) ||| 0x8000000000000000 })).funcs

/-- The register write of the event reaches XLINV_CTL of an enabled function that is not busy, with a kind. -/
structure InvalidationWrite (s : State) (f : Func) (kind : Nat) : Prop where
  func : s.func? s.arg.a = some f
  enabled : f.enabled = true
  idle : f.xlinvCtl.getLsbD 63 = false
  kind : s.arg.v.toNat % 16 = kind

end Sys2Proof.Claims

/-- R138, R254 to R256: the next request of a ring is written to it under a free tag, its fields in place and its index last, and the ring's
vector is raised; the driver's writes of the read index and of the base take effect; an answer of retry lets every waiter walk again,
and one of fail gives each the permanent fault, of a chorus each split that waits for it. -/
def Sys2Proof.Claims.PageRequestResults : Prop :=
  (∀ s f q, RingOf s f → s.nextRequest f.num s.arg.b = some q → f.num = s.arg.a → (f.num = 0 ∨ s.arg.b = 2) → s.mem.wf = true →
    let r := ringOf f s.arg.b
    let a := r.base.toNat / 1024 * 1024 + 32 * (r.wr.toNat % 32)
    let taken (tag : Nat) : Prop := ∃ p, p ∈ s.requests ∧ p.fn = f.num ∧ p.stage = s.arg.b ∧ p.tag = some tag
    (∃ tag, tag < 32 ∧ ¬ taken tag) → (r.wr - r.rd).toNat < 32 → (∀ p, p ∈ s.requests → .ring f.num ∉ p.waiters) → a < 2 ^ 47 → q.addr < 2 ^ 64 →
    ∃ t tag, Machine.exec .pageRequestWrite s = .next t ∧ tag < 32 ∧ ¬ taken tag ∧
      t = { s with mem := t.mem, memPoison := t.memPoison, requests := t.requests, funcs := t.funcs, runs := t.runs, free := s.free + 1 } ∧
      noNotes t.runs = noNotes s.runs ∧
      (let v := t.mem.readLE (place 0 a) 32
       bits v 4 0 = tag ∧ bits v 5 5 = (if s.arg.b = 2 then 1 else 0) ∧ bits v 7 6 = q.access % 4 ∧ bits v 11 8 = 0 ∧ bits v 63 12 = q.addr / 4096 ∧
         bits v 127 64 = 0 ∧ bits v 159 128 = r.wr.toNat % 2 ^ 32 ∧ bits v 166 160 = f.num % 128 ∧ bits v 171 167 = 0 ∧ bits v 191 172 = q.pasid.toNat ∧
         bits v 203 192 = q.ctx % 4096 ∧ bits v 255 204 = 0) ∧
      (∀ b, (b < place 0 a ∨ place 0 a + 32 ≤ b) → t.mem.read b = s.mem.read b) ∧
      t.requests = s.requests.map (fun p => if p.fn = f.num ∧ p.stage = s.arg.b ∧ p.page = q.page then { p with tag := some tag } else p) ∧
      ∃ g, t.func? f.num = some g ∧ ringOf g s.arg.b = { r with wr := r.wr + 1 } ∧
        let served := if s.arg.b = 1 then f.num else 0
        (served = f.num → r.vec.toNat % 2048 < vectors served → r.vec.toNat % 2048 ∈ g.msix)) ∧
  (∀ s f, RingOf s f → f.num = s.arg.a → (∀ g, g ∈ s.funcs → g.num = f.num → g = f) →
    Machine.exec .prqRdWrite s = .next (funcWith s f.num (fun g => ringFunc g s.arg.b { ringOf g s.arg.b with rd := s.arg.v })) ∧
    Machine.exec .prqBaseWrite s = .next { (funcWith s f.num (fun g => ringFunc g s.arg.b { ringOf g s.arg.b with base := s.arg.v &&& ~~~0x3FF#64 })) with
      requests := s.requests.map (fun q => if q.fn = f.num ∧ q.stage = s.arg.b then { q with blocked := false } else q) }) ∧
  (∀ s q, s.requests.find? (fun q => q.fn == s.arg.a && q.stage == s.arg.b && q.tag == some (s.arg.v.toNat % 32)) = some q → bits s.arg.v.toNat 9 8 = 0 →
    (∀ w, w ∈ q.waiters → ∀ c k, w ≠ .mirror c k) →
    Machine.exec .prqReply s = .next { s with requests := s.requests.filter (fun r => !q.same r) }) ∧
  (∀ s q u k c ch h f, s.requests.find? (fun q => q.fn == s.arg.a && q.stage == s.arg.b && q.tag == some (s.arg.v.toNat % 32)) = some q →
    bits s.arg.v.toNat 9 8 = 1 → q.waiters = [.fly u k] → s.company? u = some c → (ch, f) ∈ c.engine → f.uid = k → f.state ≠ .done →
    (∀ e, e ∈ c.engine → e.2.uid = k → e = (ch, f)) → c.chorus? ch = some h → f.todo ≠ [] → f.failed = none → f.denials = [] → QuietCompany c →
    (f.op = .inn ∨ f.op = .gth → ∀ o, o ∈ c.ops → f.tile ∉ c.awaits o) →
    ∃ t d g a, Machine.exec .prqReply s = .next t ∧ t = { s with requests := s.requests.filter (fun r => !q.same r), companies := t.companies } ∧
      t.company? u = some d ∧ d.engine = c.engine.filter (fun e => e.2.uid != k) ∧ d.chorus? ch = some g ∧ g.traps = h.traps ++ [a] ∧
      a.cause = 0x0C ∧ a.epc = f.epc ∧ a.scheduler = true ∧ (f.ev = true → g.events = eventsAfter h 3)) ∧
  (∀ s q u ch, s.requests.find? (fun q => q.fn == s.arg.a && q.stage == s.arg.b && q.tag == some (s.arg.v.toNat % 32)) = some q →
    bits s.arg.v.toNat 9 8 = 1 →
    let t := { s with requests := s.requests.filter (fun r => !q.same r) }
    (q.waiters = [.lane u ch] → Machine.exec .prqReply s = .next (State.modChorus t u ch (fun h =>
      { h with failed := h.failed ++ (h.splits.filter (fun p => p.wait == .fault)).map (fun p => (p.members, q.stage, q.page)) }))) ∧
    (q.waiters = [.front u ch] → ch < 16 → Machine.exec .prqReply s = .next (queueWith t u ch (fun x => { x with failed := some (q.stage, q.page) }))) ∧
    (q.waiters = [.mirror u ch] → Machine.exec .prqReply s = .next (queueWith t u ch (fun x => { x with mirrorOwed := false }))) ∧
    (q.waiters = [.copy u] → Machine.exec .prqReply s = .next { t with copies := s.copies.filter (fun c => c.1.number != u) }) ∧
    (∀ c e rest, q.waiters = [.record u] → s.context? u = some c → c.records = e :: rest → (e.kind = 3 ∨ e.kind = 4) →
      Machine.exec .prqReply s = .next (ctxWith t u (fun d => { d with evLost := (d.evLost + 1) % 2 ^ 64, records := d.records.drop 1 })))) ∧
  (∀ s q u k c ch f, s.requests.find? (fun q => q.fn == s.arg.a && q.stage == s.arg.b && q.tag == some (s.arg.v.toNat % 32)) = some q →
    bits s.arg.v.toNat 9 8 = 1 → q.waiters = [.fly u k] → s.company? u = some c → (ch, f) ∈ c.engine → f.uid = k → f.state ≠ .done →
    (∀ e, e ∈ c.engine → e.2.uid = k → e = (ch, f)) → f.failed ≠ none →
    Machine.exec .prqReply s = .next (ctxWith (({ s with requests := s.requests.filter (fun r => !q.same r) } : State).setCompany { c with
      engine := c.engine.map (fun e => if e.2.uid = k then (e.1, { e.2 with denials := f.denials.drop 1 }) else e) }) c.ctx
        (fun d => { d with denyOvf := (d.denyOvf + 1) % 2 ^ 64 })))

/-- R253, R259: an invalidation removes the matching entries of every TLB and page-walk cache and is busy until the walks in flight at its
start, and the engine's accesses to peers, have ended; a kind that is not allowed sets bit 62 and does nothing; a grant cache may lose an entry. -/
def Sys2Proof.Claims.InvalidationResults : Prop :=
  (∀ s f, f.num = s.arg.a → InvalidationWrite s f 0 → Invalidates .xlinvFunction s f f.num (fun _ => True) (fun _ => True)) ∧
  (∀ s f, f.num = s.arg.a → InvalidationWrite s f 1 →
    let a := f.xlinvAddr.toNat % 2 ^ 48 / 4096 * 4096
    Invalidates .xlinvPage s f f.num (fun e => e.va / e.span = a / e.span) (fun e => e.stage = 1 ∧ e.first ≤ a ∧ a < e.first + e.size)) ∧
  (∀ s f, f.num = s.arg.a → InvalidationWrite s f 2 →
    Invalidates .xlinvContext s f f.num (fun e => e.ctx = bits s.arg.v.toNat 27 16) (fun e => e.ctx = bits s.arg.v.toNat 27 16)) ∧
  (∀ s f g, f.num = s.arg.a → InvalidationWrite s f 3 → f.num = 0 → s.func? (bits s.arg.v.toNat 22 16) = some g → g.enabled = true →
    bits s.arg.v.toNat 22 16 ≠ 0 → Invalidates .xlinvStage2Page s f (bits s.arg.v.toNat 22 16) (fun _ => True) (fun _ => True)) ∧
  (∀ s f k, f.num = s.arg.a → InvalidationWrite s f k →
    (4 ≤ k ∨ (k = 3 ∧ (f.num ≠ 0 ∨ bits s.arg.v.toNat 22 16 = 0 ∨ ∀ g, s.func? (bits s.arg.v.toNat 22 16) = some g → g.enabled = false))) →
    Machine.exec .xlinvInvalidKind s =
      .next (funcWith s f.num (fun g => { g with xlinvCtl := (s.arg.v &&& 0x0FFF000F) ||| 0x4000000000000000 }))) ∧
  (∀ s f, s.func? s.arg.a = some f → f.xlinvCtl.getLsbD 63 = true →
    let target := if f.xlinvCtl.toNat % 16 = 3 then bits f.xlinvCtl.toNat 22 16 else f.num
    ((∃ w, w ∈ s.walks ∧ w.stale = true ∧ (s.roots w.ctx).1 = target) ∨ (∃ o, o ∈ s.sent ∧ o.stale = true ∧ s.flyOf target o = true) →
      Machine.exec .xlinvComplete s = .next s) ∧
    ((∀ w, w ∈ s.walks → w.stale = true → (s.roots w.ctx).1 ≠ target) → (∀ o, o ∈ s.sent → o.stale = true → s.flyOf target o = false) →
    Machine.exec .xlinvComplete s = .next (funcWith s f.num (fun g => { g with xlinvCtl := g.xlinvCtl &&& 0x7FFFFFFFFFFFFFFF })))) ∧
  (∀ s g, g ∈ (s.core s.arg.a).grants → g.ctx = s.arg.b → g.principal.toNat = s.arg.c → g.tag.toNat = s.arg.d →
    ∃ t, Machine.exec .grantCacheEviction s = .next t ∧ t = { s with cores := t.cores } ∧ (∀ n, n ≠ s.arg.a → t.core n = s.core n) ∧
      t.core s.arg.a = { s.core s.arg.a with grants := (s.core s.arg.a).grants.filter (fun x =>
        !(x.ctx == s.arg.b && x.principal.toNat == s.arg.c && x.tag.toNat == s.arg.d)) })

/-- R253 to R256, R259: page requests, their answers, and invalidation. Beyond the rules it follows the model's choices of log entries 5, 27, 42
and 71. -/
def Obligations.PageRequestAndInvalidationEvents : Prop := PageRequestResults ∧ InvalidationResults

namespace Sys2Proof.Claims

/-- A context holds the page that the event names. -/
def OnPage (s : State) (c : Context) : Prop := s.page? s.arg.a s.arg.b = some c

/-- No core keeps a grant of the context. -/
def withoutGrants (s : State) (id : Nat) : State :=
  { s with cores := s.cores.map (fun (c : Core) => { c with grants := c.grants.filter (fun g => g.ctx != id) }) }

/-- The log2 of a ring's record count is from 4 to 16. -/
def RingLog (v : BitVec 64) : Prop := 4 ≤ v.toNat % 32 ∧ v.toNat % 32 ≤ 16

/-- A place for the green room of a new context: on lines of its own in HBM4, apart from every other green room. -/
def GreenFree (s : State) : Prop :=
  s.arg.v.toNat % 128 = 0 ∧ 128 ≤ s.arg.c ∧ s.arg.v.toNat + s.arg.c ≤ 2 ^ 39 ∧
    ∀ c, c ∈ s.contexts → s.arg.v.toNat + s.arg.c ≤ c.green ∨ c.green + c.greenSize ≤ s.arg.v.toNat

/-- No two contexts, no two runs of a context and no two companies share a number. -/
def Numbered (s : State) : Prop :=
  s.contexts.Pairwise (fun c d => c.id ≠ d.id) ∧ s.runs.Pairwise (fun p q => ¬ (p.ctx = q.ctx ∧ p.id = q.id)) ∧
    s.companies.Pairwise (fun d e => d.uid ≠ e.uid)

/-- Accesses of the run's lanes are in flight (R24). -/
def AccessesInFlight (s : State) (r : Run) : Prop := ∃ k h, k ∈ s.companies ∧ k.ctx = r.ctx ∧ k.run = r.id ∧ h ∈ k.choruses ∧ h.inflight ≠ []

/-- The run may end before its completion: none of its accesses is in flight (R24), and its units stand at their stopping points, unless its
context does not run (R340, R350). -/
def MayEnd (s : State) (r : Run) : Prop :=
  ¬ AccessesInFlight s r ∧ ((∀ k, k ∈ s.companies → k.ctx = r.ctx → k.run = r.id → k.state = .running → s.stoppable k = true) ∨
    ∀ c, s.context? r.ctx = some c → c.running s.curtain = false)

/-- The quota on die `d` that the event gives a context with the clusters `ks`, of 11 bits for each die (R221). -/
def quotaOf (s : State) (ks : List Nat) (d : Nat) : Nat := if ks.any (fun k => k / 6 == d) then 65536 * (s.arg.c / 2048 ^ d % 2048) else 0

/-- The event gives the context the clusters `ks`, which are free or its own, and quotas that fit beside those of the resident contexts
on every die (R211, R221). -/
structure Assigns (s : State) (c : Context) (ks : List Nat) : Prop where
  context : s.arg.x = .ids ks ∧ s.context? s.arg.a = some c ∧ ks ≠ [] ∧ s.arg.b < 1024
  clusters : ∀ k, k ∈ ks → k < 48 ∧ ((s.cluster k).owner = none ∨ (s.cluster k).owner = some c.id) ∧ (s.cluster k).available = true ∧
    (s.die (k / 6)).outOfService = false ∧ ∃ q, q ∈ s.clusters ∧ q.num = k
  quotas : ∀ d, d < 8 →
    total ((s.contexts.filter (fun x => x.id != c.id && x.state == .resident)).map (fun x => x.quotas.getD d 0)) + quotaOf s ks d ≤ (s.die d).cistern

/-- The context has the clusters: a new one holds no record, draw or L2 entry of the context before, and one that is given up is free. -/
structure Assigned (s t : State) (c : Context) (ks : List Nat) : Prop where
  rest : t = { s with contexts := t.contexts, clusters := t.clusters }
  others : ∀ d, d ∈ s.contexts → d.id ≠ c.id → d ∈ t.contexts
  taken : ∀ k, k ∈ ks → (s.cluster k).owner = none → t.cluster k = { s.cluster k with
    owner := some c.id, freed := none, record := 0, draw := 0, nearLimit := false, overLimit := false, l2 := (s.cluster k).l2.filter (fun e => e.ctx == c.id) }
  kept : ∀ k, k ∈ ks → (s.cluster k).owner = some c.id → t.cluster k = s.cluster k
  freed : ∀ k, k ∉ ks → (t.cluster k).owner ≠ some c.id ∧ ((s.cluster k).owner ≠ some c.id → t.cluster k = s.cluster k)

/-- A function is enabled. -/
def FnOn (s : State) (n : Nat) : Prop := ∃ f, s.func? n = some f ∧ f.enabled = true

/-- The permit of a channel of the context holds bits 31:0 of `v`, and nothing else has changed (R384). -/
def PermitSet (s t : State) (c : Context) (ch : Nat) (v : BitVec 64) : Prop :=
  t = { s with contexts := t.contexts } ∧ (∀ x, x ∈ s.contexts → x.id ≠ c.id → x ∈ t.contexts) ∧
    ∃ d, t.context? c.id = some d ∧ d = { c with permits := d.permits } ∧ ∀ k, d.permit k = if k = ch then v &&& 0xFFFFFFFF else c.permit k

/-- The context that the permit page shows: PSEL names an enabled virtual function and a page of it that is not free (R374, R384). -/
def Selected (s : State) (c : Context) : Prop :=
  s.permitSel.toNat % 128 ≠ 0 ∧ FnOn s (s.permitSel.toNat % 128) ∧ s.page? (s.permitSel.toNat % 128) (bits s.permitSel.toNat 15 8) = some c

end Sys2Proof.Claims

/-- R24, R211, R221, R303, R305, R350, R369: a free page gets a context with every register at 0; START makes a created one with an event ring
saved; DESTROY ends its runs with records of kind 6, each as soon as it may end, and takes the context off the stage when all have; once every
record is written it is free and nothing of it is left; the scheduler gives a saved context a partition, a key slot and quotas. -/
def Sys2Proof.Claims.ContextLifeResults : Prop :=
  (∀ s, FnOn s s.arg.a → s.arg.b < 256 → s.page? s.arg.a s.arg.b = none → (∃ i, 1 ≤ i ∧ i ≤ 4095 ∧ ∀ c, c ∈ s.contexts → c.id ≠ i) → GreenFree s →
    ∃ t c, Machine.exec .ctxCreate s = .next t ∧ t = { s with free := s.free + 1, contexts := s.contexts ++ [c] } ∧ 1 ≤ c.id ∧ c.id ≤ 4095 ∧
      (∀ d, d ∈ s.contexts → d.id ≠ c.id) ∧ c = { Context.init c.id s.arg.a s.arg.b with pasid := c.pasid, stopAt := s.now, green := s.arg.v.toNat, greenSize := s.arg.c } ∧
      c.state = .created ∧ c.vt = 0) ∧
  (∀ s c, OnPage s c → c.state = .created → RingLog c.evCtl → Machine.exec .ctxStart s = .next (ctxWith s c.id (fun d => { d with state := .saved }))) ∧
  (∀ s c, OnPage s c → s.context? c.id = some c → c.destroying = false → Numbered s →
    ∃ t d, Machine.exec .ctxDestroy s = .next t ∧ t.context? c.id = some d ∧ d.destroying = true ∧
      (∀ r, r ∈ s.runs → r.ctx = c.id → r.ending = none → r.killed = none → MayEnd s r →
        ∃ e, e ∈ d.records ∧ e.kind = 6 ∧ e.status = 0 ∧ e.run = r.id ∧ e.tag = r.tag ∧ ∀ k, k ∈ t.companies → ¬ (k.ctx = c.id ∧ k.run = r.id)) ∧
      (∀ r, r ∈ s.runs → r.ctx = c.id → r.ending = none → r.killed = none → ¬ MayEnd s r → { r with killed := some (6, 0) } ∈ t.runs) ∧
      ((∀ r, r ∈ s.runs → r.ctx = c.id → r.ending = none → r.killed = none ∧ MayEnd s r) → d.onStage = false ∧ (c.onStage = true →
        ∀ k, k ∈ t.clusters → k.owner ≠ some c.id)) ∧
      t.mem = s.mem) ∧
  (∀ s c r k n, s.run? s.arg.a s.arg.b = some r → s.context? r.ctx = some c → c.leaving ≠ some .reset → r.ending = none → r.killed = some (k, n) → MayEnd s r →
    ∃ t d, Machine.exec .runComplete s = .next t ∧ t.context? r.ctx = some d ∧
      d.records = c.records ++ [{ tag := r.tag, fm := 0, troupe := 0, run := r.id, company := 0, status := n, queue := r.queue, kind := k }] ∧
      (∀ m, m ∈ t.companies ↔ m ∈ s.companies ∧ ¬ (m.ctx = r.ctx ∧ m.run = r.id)) ∧ t.mem = s.mem) ∧
  (∀ s c, s.context? s.arg.a = some c → c.id ≠ 0 → c.destroying = true → c.records = [] → (∀ r, r ∈ s.runs → r.ctx ≠ c.id) →
    ∃ t, Machine.exec .ctxDestroyComplete s = .next t ∧ t.contexts = s.contexts.filter (fun d => d.id != c.id) ∧
      (∀ k, k ∈ t.companies → k.ctx ≠ c.id) ∧ (∀ m, m ∈ t.images → m.ctx ≠ c.id) ∧ (∀ k, k ∈ t.copies → k.1.ctx ≠ c.id) ∧
      (∀ k, k ∈ t.keySlots ↔ k ∈ s.keySlots ∧ (k.2 ≠ c.id ∨ k.1 = 0)) ∧ (∀ n, n ∈ t.imported ↔ n ∈ s.imported ∧ ∃ k, k ∈ s.keySlots ∧ k.1 = n ∧ k.2 ≠ c.id) ∧
      (∀ k, k ∈ t.clusters → k.owner ≠ some c.id) ∧ (∀ n e, e ∈ (t.core n).tlb → e ∈ (s.core n).tlb ∧ e.ctx ≠ c.id) ∧
      (∀ n e, e ∈ (t.cluster n).l2 → e.ctx ≠ c.id) ∧ (∀ n g, g ∈ (t.core n).grants → g.ctx ≠ c.id) ∧ (∀ l, l ∈ t.lines → l.key ≠ some c.id ∨ 4096 ≤ c.id) ∧
      t.mem = s.mem ∧ ∀ d, d ∈ s.contexts → d.id ≠ c.id → d ∈ t.contexts) ∧
  (∀ s c ks, Assigns s c ks → c.state = .saved → c.destroying = false → c.leaving = none → (c.id = 0 ↔ s.arg.b = 0) →
    ∃ t d, Machine.exec .partitionAssign s = .next t ∧ Assigned s t c ks ∧ t.context? c.id = some d ∧
      d = { c with partition := ks, keySlot := s.arg.b, quotas := d.quotas } ∧ ∀ n, n < 8 → d.quotas.getD n 0 = quotaOf s ks n)

/-- R253, R255, R304, R305, R319, R320, R338, R374, R376, R384: what a write of each register of a context, of a function and of the device stores,
in which state it takes it, and what it drops. A permit is written on the page of a context of the physical function, and for one of a virtual
function on the permit page. -/
def Sys2Proof.Claims.RegisterWriteResults : Prop :=
  (∀ s c, OnPage s c →
    Machine.exec .ctxPolicyWrite s = .next (withoutGrants (ctxWith s c.id (fun d => { d with policy := s.arg.v })) c.id) ∧
    (s.arg.v.toNat % 8192 ≤ 4096 →
      Machine.exec .ctxPcountWrite s = .next (withoutGrants (ctxWith s c.id (fun d => { d with pcount := s.arg.v.toNat % 8192 })) c.id)) ∧
    (4096 < s.arg.v.toNat % 8192 → Machine.exec .ctxPcountWrite s = .next s) ∧
    Machine.exec .ctxEvrdWrite s = .next (ctxWith s c.id (fun d => { d with evRd := s.arg.v.toNat })) ∧
    Machine.exec .ctxWdogWrite s = .next (ctxWith s c.id (fun d =>
      { d with wdog := s.arg.v.setWidth 32, wdogOld := d.limit, wdogFrom := (d.vt / (1000 * ticksPerNs) + 1) * (1000 * ticksPerNs) }))) ∧
  (∀ s c, OnPage s c → c.evWr = c.evRd →
    (c.state = .created → RingLog s.arg.v → Machine.exec .ctxEvctlWrite s = .next (ctxWith s c.id (fun d => { d with evCtl := s.arg.v &&& 0x07FF011F }))) ∧
    (c.state = .created → ¬ RingLog s.arg.v → Machine.exec .ctxEvctlWrite s = .next s) ∧
    (c.state ≠ .created → Machine.exec .ctxEvctlWrite s =
      .next (ctxWith s c.id (fun d => { d with evCtl := (c.evCtl &&& ~~~0x100#64) ||| (s.arg.v &&& 0x100) })))) ∧
  (∀ s c, OnPage s c → c.evWr ≠ c.evRd → c.state ≠ .created → s.arg.v.getLsbD 8 = true → bits c.evCtl.toNat 26 16 < vectors c.fn →
    Machine.exec .ctxEvctlWrite s = .next (funcWith (ctxWith s c.id (fun d => { d with evCtl := c.evCtl &&& ~~~0x100#64 })) c.fn
      (fun f => { f with msix := bits c.evCtl.toNat 26 16 :: f.msix }))) ∧
  (∀ s c off, FnOn s s.arg.a → s.page? s.arg.a ((s.arg.b - 0x100000) / 0x1000) = some c → s.arg.b = 0x100000 + 0x1000 * ((s.arg.b - 0x100000) / 0x1000) + off →
    0x100000 ≤ s.arg.b → s.arg.b < 0x200000 →
    (off = 0x008 → c.state = .created → s.context? c.id = some c →
      ∃ t, Machine.exec .registerWrite s = .next t ∧ t.context? c.id = some { c with root := s.arg.v }) ∧
    (off = 0x008 → c.state ≠ .created → (∀ d, d ∈ s.contexts → d.id = c.id → d = c) → Machine.exec .registerWrite s = .next s) ∧
    (off = 0x020 → Machine.exec .registerWrite s = .next (ctxWith s c.id (fun d => { d with prio := s.arg.v.setWidth 2 }))) ∧
    (off = 0x028 → Machine.exec .registerWrite s = .next (ctxWith s c.id (fun d => if d.state = .created then { d with evBase := s.arg.v } else d))) ∧
    (off = 0x048 → Machine.exec .registerWrite s = .next (ctxWith s c.id (fun d => if d.state = .created then { d with denyBase := s.arg.v } else d))) ∧
    (off = 0x050 → RingLog s.arg.v →
      Machine.exec .registerWrite s = .next (ctxWith s c.id (fun d => if d.state = .created then { d with denyCtl := s.arg.v &&& 0x1F } else d))) ∧
    (off = 0x050 → ¬ RingLog s.arg.v → Machine.exec .registerWrite s = .next s) ∧
    (off = 0x060 → Machine.exec .registerWrite s = .next (ctxWith s c.id (fun d => { d with denyRd := s.arg.v.toNat }))) ∧
    (∀ k, k < 256 → off = 0x800 + 8 * k → s.context? c.id = some c → c.fn = 0 → ∃ t, Machine.exec .registerWrite s = .next t ∧ PermitSet s t c k s.arg.v) ∧
    (∀ k, k < 256 → off = 0x800 + 8 * k → c.fn ≠ 0 → (∀ d, d ∈ s.contexts → d.id = c.id → d = c) → Machine.exec .registerWrite s = .next s) ∧
    (∀ k, k < 16 → off = 0x100 + 32 * k → Machine.exec .registerWrite s = .next (queueWith s c.id k (fun q => if q.ctl.getLsbD 0 then q else { q with base := s.arg.v }))) ∧
    (∀ k, k < 16 → off = 0x110 + 32 * k →
      Machine.exec .registerWrite s = .next (queueWith s c.id k (fun q => if q.ctl.getLsbD 0 then q else { q with mirror := s.arg.v &&& 0xFFFFFFFFFFFF })))) ∧
  (∀ s, FnOn s s.arg.a → s.arg.b = 0 → Machine.exec .registerWrite s = .next (funcWith s s.arg.a (fun f => { f with xlinvAddr := s.arg.v }))) ∧
  (∀ s, FnOn s s.arg.a → s.arg.b = 0x140 →
    Machine.exec .registerWrite s = .next (funcWith s s.arg.a (fun f => { f with ring1 := { f.ring1 with vec := s.arg.v &&& 0x7FF } }))) ∧
  (∀ s, FnOn s 0 → s.arg.a = 0 → s.arg.b = 0x30000 → Machine.exec .registerWrite s = .next { s with permitSel := s.arg.v &&& 0xFF7F }) ∧
  (∀ s k, FnOn s 0 → s.arg.a = 0 → k < 256 → s.arg.b = 0x30800 + 8 * k →
    (∀ c, Selected s c → s.context? c.id = some c → ∃ t, Machine.exec .registerWrite s = .next t ∧ PermitSet s t c k s.arg.v) ∧
    ((∀ c, ¬ Selected s c) → Machine.exec .registerWrite s = .next s)) ∧
  (∀ s k, FnOn s s.arg.a → s.arg.a = 0 → k < 256 → s.arg.b = 0x20000 + 8 * k →
    Machine.exec .registerWrite s = .next { s with apertures := s.apertures.filter (fun a => a.1 != k) ++ [(k, s.arg.v)] })

/-- R253, R255, R304, R305, R308, R327, R338, R367, R374, R376, R378, R384: what each register of a context page, of a queue page, of a translation
page, of the permit page, of an aperture and of a port reads as, that a page without a context reads 0, and that in recovery there is the
recovery page alone. -/
def Sys2Proof.Claims.RegisterReadResults : Prop :=
  (∀ s fn p c, FnOn s fn → s.recovery = none → p < 256 → s.page? fn p = some c →
    let r (off : Nat) : BitVec 64 := s.readBar fn (0x100000 + 0x1000 * p + off)
    r 0x00 = (match c.state with | .free => 0 | .created => 1 | .resident => 2 | .saved => 3 | .halted => 4) ∧ r 0x08 = c.root ∧ r 0x10 = c.policy ∧
      r 0x18 = BitVec.ofNat 64 c.pcount ∧ r 0x20 = c.prio.setWidth 64 ∧ r 0x28 = c.evBase ∧ r 0x30 = c.evCtl ∧ r 0x38 = BitVec.ofNat 64 c.evWr ∧
      r 0x40 = BitVec.ofNat 64 c.evRd ∧ r 0x48 = c.denyBase ∧ r 0x50 = c.denyCtl ∧ r 0x58 = BitVec.ofNat 64 c.denyWr ∧ r 0x60 = BitVec.ofNat 64 c.denyRd ∧
      r 0x68 = BitVec.ofNat 64 c.denyCnt ∧ r 0x70 = BitVec.ofNat 64 c.denyOvf ∧ r 0x78 = c.wdog.setWidth 64 ∧ r 0x80 = BitVec.ofNat 64 (c.vt / ticksPerNs) ∧
      r 0x90 = BitVec.ofNat 64 c.id ∧ r 0x98 = BitVec.ofNat 64 c.evLost ∧ r 0xA0 = BitVec.ofNat 64 c.noticeLost ∧
      (∀ ch, ch < 256 → r (0x800 + 8 * ch) = c.permit ch) ∧
      ∀ k q, k < 16 → c.queues[k]? = some q → r (0x100 + 32 * k) = q.base ∧ r (0x108 + 32 * k) = q.ctl ∧ r (0x110 + 32 * k) = q.mirror ∧
        let b (off : Nat) : BitVec 64 := s.readBar fn (0x1000000 + 0x10000 * p + 0x1000 * k + off)
        b 0x08 = BitVec.ofNat 64 q.rd ∧ (b 0x10).getLsbD 0 = q.stopped ∧ bits (b 0x10).toNat 7 1 = 0 ∧ bits (b 0x10).toNat 15 8 = q.code % 256 ∧
          bits (b 0x10).toNat 31 16 = 0 ∧ bits (b 0x10).toNat 63 32 = q.stopIndex % 2 ^ 32) ∧
  (∀ (s : State) fn p off, p < 256 → off < 0x1000 → s.recovery = none → s.page? fn p = none → s.readBar fn (0x100000 + 0x1000 * p + off) = 0) ∧
  (∀ (s : State) ch, FnOn s 0 → s.recovery = none → ch < 256 → s.readBar 0 0x30000 = s.permitSel ∧
    (∀ c, Selected s c → s.readBar 0 (0x30800 + 8 * ch) = c.permit ch) ∧ ((∀ c, ¬ Selected s c) → s.readBar 0 (0x30800 + 8 * ch) = 0)) ∧
  (∀ (s : State) k, FnOn s 0 → s.recovery = none → k < 256 →
    s.readBar 0 (0x20000 + 8 * k) = ((s.apertures.find? (fun a => a.1 == k)).map (·.2)).getD 0) ∧
  (∀ (s : State) fn r off, FnOn s fn → s.recovery = some r → off % 8 = 0 → s.readBar fn off = if off < 0x1000 then Config.recoveryPage r.1 r.2 off else 0) ∧
  (∀ (s : State) fn f, s.func? fn = some f → f.enabled = true → s.recovery = none → s.readBar fn 0x000 = f.xlinvAddr ∧ s.readBar fn 0x008 = f.xlinvCtl ∧ s.readBar fn 0x100 = f.ring1.base ∧
    s.readBar fn 0x108 = f.ring1.wr ∧ s.readBar fn 0x110 = f.ring1.rd ∧ s.readBar fn 0x140 = f.ring1.vec ∧
    (fn = 0 → f.num = 0 → s.readBar 0 0x120 = f.ring2.base ∧ s.readBar 0 0x128 = f.ring2.wr ∧ s.readBar 0 0x130 = f.ring2.rd ∧ s.readBar 0 0x148 = f.ring2.vec)) ∧
  (∀ s k p, FnOn s 0 → s.recovery = none → k < 64 → s.ports[k]? = some p →
    let r (off : Nat) : BitVec 64 := s.readBar 0 (0x1000 + 64 * k + off)
    let v := (r 0x00).toNat
    bits v 2 0 = p.state % 8 ∧ bits v 7 3 = 0 ∧ bits v 11 8 = p.lanes % 16 ∧ bits v 15 12 = 0 ∧ bits v 19 16 = p.xoff.toNat ∧ bits v 63 20 = 0 ∧
      r 0x08 = p.peer ∧ r 0x10 = BitVec.ofNat 64 p.crc ∧ r 0x18 = BitVec.ofNat 64 p.fec ∧ r 0x20 = BitVec.ofNat 64 p.replay ∧
      r 0x28 = p.errBeat ∧ r 0x30 = Config.routeWindow s.routes p.num)

/-- R24, R211, R221, R253, R255, R303 to R305, R308, R319, R320, R327, R338, R342, R350, R367, R369, R374, R376, R378, R384: the life of a context, and
writes and reads of registers. Beyond the rules it follows the model's choices of log entries 31, 32, 41, 92 and 94. -/
def Obligations.ContextLifeAndRegisterWrites : Prop := ContextLifeResults ∧ RegisterWriteResults ∧ RegisterReadResults

namespace Sys2Proof.Claims

/-- The queue that a register write names, of the context on its page. -/
def OnQueue (s : State) (c : Context) (q : Queue) : Prop := OnPage s c ∧ c.queues[s.arg.c]? = some q

/-- The queue stands behind `n` slots more (R310), and its mirror word, where its page can be written, holds the read index (R304). -/
structure Passed (v t : State) (c k n : Nat) : Prop where
  passed : t = v.pass c k n
  index : ∀ q, v.queue? c k = some q → ∃ p, t.queue? c k = some p ∧ p = { q with rd := q.rd + n, mirrorOwed := p.mirrorOwed }
  mirror : ∀ q loc tag u, v.queue? c k = some q → bits q.ctl.toNat 10 9 = 0 →
    (queueWith v c k (fun q => { q with rd := q.rd + n })).reach c (q.mirror.toNat % 2 ^ 48) 8 .write = (.ok [⟨loc, 8, tag⟩], u) →
    OwnLines u c loc 8 → u.mem.wf = true →
    t.mem.readLE loc 8 = (q.rd + n) % 2 ^ 64 ∧ ∀ a, (a < loc ∨ loc + 8 ≤ a) → t.mem.read a = u.mem.read a

/-- A packet of a type stands at the head of a queue that the prompter serves (R308 to R310): its slots hold `body`, and reading them
left the state `u`. -/
structure Packet (s : State) (c : Context) (q : Queue) (type n : Nat) (body : List Byte) (u : State) : Prop where
  context : s.context? s.arg.a = some c ∧ c.id = s.arg.a
  queue : c.queues[s.arg.b]? = some q
  prompts : s.prompts c s.arg.b q = true
  free : q.hold = .none ∧ q.reread = none ∧ q.rd < q.w
  head : s.head c.id s.arg.b q = (.packet type n body, u)

/-- The packet takes its effect `v` and the queue goes on; and it is refused with a code, which the context is told of (R316). -/
def Taken (e : Instr) (s v : State) (n : Nat) : Prop := ∃ t, Machine.exec e s = .next t ∧ Passed v t s.arg.a s.arg.b n
def PacketRefused (e : Instr) (s u : State) (n code : Nat) : Prop :=
  Taken e s (ctxWith u s.arg.a (fun c => { c with records := c.records ++ [{ tag := 0, fm := 0, troupe := 0, run := 0, company := 0, status := code, queue := s.arg.b, kind := 3 }] })) n

/-- A little-endian field of the packet. -/
def fieldOf (body : List Byte) (off n : Nat) : Nat := ofBytesLE ((body.drop off).take n)

/-- Byte `j` of the data of a packet that begins at `first` in its first slot; each continuation holds 56 bytes behind its 8 (R313). -/
def dataByte (body : List Byte) (first j : Nat) : Byte :=
  if j < 64 - first then body.getD (first + j) 0 else body.getD (64 * (1 + (j - (64 - first)) / 56) + 8 + (j - (64 - first)) % 56) 0

/-- Slots that data of a length needs from `first` on. -/
def slotCount (first len : Nat) : Nat := 1 + (len - (64 - first) + 55) / 56

/-- The queue stops at its head with error 0x01 (R316). -/
def StopsQueue (e : Instr) (s u : State) (c : Context) (q : Queue) : Prop :=
  Machine.exec e s = .next (ctxWith (queueWith u c.id s.arg.b (fun p => { p with stopped := true, code := 1, stopIndex := q.rd })) c.id (fun d =>
    { d with records := d.records ++ [{ tag := 0, fm := 0, troupe := 0, run := 0, company := 0, status := 1, queue := s.arg.b, kind := 3 }] }))

/-- Only memory, the tags of its lines and what code images note of it have changed. -/
def MemoryOnly (u v : State) : Prop :=
  v = { u with mem := v.mem, memPoison := v.memPoison, lines := v.lines, runs := v.runs } ∧ noNotes v.runs = noNotes u.runs

/-- The bytes of the context at a place are under its own key (R262). -/
def OwnKey (s : State) (c loc : Nat) : Prop := ∀ t q, s.lineOf loc = some t → t.key = some q → q = c

/-- The image is whole, as the device writes one: its companies have their numbers and their troupes, they are saved or complete, and the
numbers under which its run comes back are free. -/
structure WholeImage (s : State) (im : Image) : Prop where
  troupes : (∀ u, u ∈ im.troupes → u.ctx = im.ctx) ∧ im.troupes.Pairwise (fun u v => u.index ≠ v.index)
  companies : ∀ k, k ∈ im.companies → k.ctx = im.ctx ∧ (∃ u, u ∈ im.troupes ∧ u.index = k.troupe) ∧ (k.state = .preempted ∨ k.state = .complete) ∧
    k.faulted = false ∧ k.playbill = { im.runState.playbill with scoreBase := k.playbill.scoreBase } ∧ k.choruses.Pairwise (fun g h => g.index ≠ h.index) ∧
    k.engine.Pairwise (fun e f => e.2.uid ≠ f.2.uid)
  apart : im.companies.Pairwise (fun k m => ¬ (k.troupe = m.troupe ∧ k.index = m.index))
  run : im.runState.ctx = im.ctx ∧ ∀ c r, s.context? im.ctx = some c → r ∈ s.runs → r.ctx = im.ctx → r.id ≤ c.lastRun
  free : ∀ k, k ∈ s.companies → k.uid < s.uid
  placed : ∀ c k, s.context? im.ctx = some c → k ∈ s.companies → k.ctx = im.ctx → k.run ≤ c.lastRun
  seated : ∀ c u, s.context? im.ctx = some c → u ∈ s.troupes → u.ctx = im.ctx → u.run ≤ c.lastRun

/-- A queued entry and a command of the engine but for their range tags, which a restore gives anew (R275); a recorded command is the
engine's again. -/
def bareEntry : QueueEntry → QueueEntry
  | .fly f => .fly { f with tags := [] }
  | e => e
def bareCommand (e : Nat × FlyCmd) : Nat × FlyCmd :=
  (e.1, { e.2 with tags := [], state := if e.2.state = .recorded then .handed else e.2.state })

/-- The company `k` of an image is the company `d` of the run `id`: its stage, tiles, barriers, pit, score, operations and `cyc` are those of the
image, and unless it is complete it runs again, its commands in the engine, its queues and every chorus without a wait at its
recorded point (R318). -/
structure GoesOn (k d : Company) (id : Nat) : Prop where
  rest : d = { k with
    uid := d.uid, run := id, core := d.core, state := d.state, playbill := d.playbill, choruses := d.choruses, engine := d.engine, frame := d.frame }
  playbill : d.playbill = { k.playbill with scoreBase := d.playbill.scoreBase }
  state : d.state = if k.state = .complete then .complete else .running
  engine : k.state ≠ .complete → d.engine.map bareCommand = k.engine.map bareCommand ∧ ∀ e, e ∈ d.engine → e.2.state ≠ .recorded
  choruses : ∀ h, h ∈ k.choruses → ∃ g, d.chorus? h.index = some g ∧ g.queue.map bareEntry = h.queue.map bareEntry ∧
    (k.state ≠ .complete → (∀ p, p ∈ h.splits → p.wait = .none ∨ p.wait = .fault) →
      g = { h with
        splits := g.splits, queue := g.queue, counters := g.counters, phases := g.phases, requests := g.requests, slot := g.slot
        readyAge := 0, bandWait := 0, issued := false, refused := false } ∧
      ∀ p, p ∈ h.splits → ∃ q, q ∈ g.splits ∧ q = { p with state := q.state, wait := q.wait, issues := q.issues })

/-- A RESUME has given the context a run with its next id, restored from an image: its troupes are placed, its companies go on, its windows hold
what they held, and the context is owed the record of kind 4 (R318, R319). -/
structure Restored (s t : State) (im : Image) (queue : Nat) (tag : BitVec 64) (id : Nat) : Prop where
  context : ∃ c d, s.context? im.ctx = some c ∧ id = c.lastRun + 1 ∧ t.context? im.ctx = some d ∧ d = { c with
    lastRun := id, queues := updAt c.queues queue (fun q => { q with open_ := q.open_ ++ [id] })
    records := c.records ++ [{ tag := tag, fm := 0, troupe := 0, run := id, company := 0, status := 0, queue := queue, kind := 4 }] }
  run : ∃ c r, s.context? im.ctx = some c ∧ t.run? im.ctx id = some r ∧ r = { im.runState with
      id := id, tag := tag, queue := queue, accepted := s.vtTicks im.ctx, holding := false, placedAt := r.placedAt, prio := min im.runState.prio c.prio.toNat
      codeAt := r.codeAt, codeSince := [], ending := none, killed := none, checkpoint := none, snapAt := none, resumed := true
      windows := r.windows, windowPoison := r.windowPoison } ∧
    r.windows.map (·.2) = im.runState.windows.map (·.2)
  troupes : ∀ u, u ∈ im.troupes → ∃ v, v ∈ t.troupes ∧ v = { u with run := id, cluster := v.cluster } ∧ (t.cluster v.cluster).owner = some im.ctx
  companies : ∀ k, k ∈ im.companies → ∃ d, d ∈ t.companies ∧ GoesOn k d id
  others : t.mem = s.mem ∧ ∀ k, k ∈ s.companies → k.ctx ≠ im.ctx → k ∈ t.companies

end Sys2Proof.Claims

/-- R304, R308, R310, R353: enabling a queue takes its fields and sets its indices to 0, a refused enable stores bit 0 clear, disabling clears bit 0
alone; a kick proposes a write index; a restart clears stopped and skips one slot when asked to; a slot that is not published is
read again after 1 µs, and at that time it is read; nothing of a slot is read before its sequence number has matched. -/
def Sys2Proof.Claims.QueueRegisterResults : Prop :=
  (∀ s c q, OnQueue s c q → q.ctl.getLsbD 0 = false → s.arg.v.getLsbD 0 = true →
    let v := s.arg.v &&& (if c.fn = 0 then 0xFFFFFFFF0000773F else 0xFFFFFFFF0000763F)
    (4 ≤ bits v.toNat 5 1 ∧ bits v.toNat 5 1 ≤ 16 ∧ bits v.toNat 10 9 ≤ 1 → s.context? c.id = some c →
      ∃ t p, Machine.exec .queueEnable s = .next t ∧ t.queue? c.id s.arg.c = some p ∧
        p = { q with ctl := v, w := 0, rd := 0, reread := none, failed := none, mirrorOwed := p.mirrorOwed }) ∧
    (¬ (4 ≤ bits v.toNat 5 1 ∧ bits v.toNat 5 1 ≤ 16 ∧ bits v.toNat 10 9 ≤ 1) →
      Machine.exec .queueEnable s = .next (queueWith s c.id s.arg.c (fun q => { q with ctl := v &&& ~~~1#64 })))) ∧
  (∀ s c q, OnQueue s c q → s.arg.v.getLsbD 0 = false →
    (q.ctl.getLsbD 0 = true → Machine.exec .queueDisable s = .next (queueWith s c.id s.arg.c (fun q => { q with ctl := q.ctl &&& ~~~1#64 }))) ∧
    (q.ctl.getLsbD 0 = false → Machine.exec .queueDisable s = .next (queueWith s c.id s.arg.c (fun q =>
      { q with ctl := s.arg.v &&& (if c.fn = 0 then 0xFFFFFFFF0000773F else 0xFFFFFFFF0000763F) })))) ∧
  (∀ s c q, OnQueue s c q → Machine.exec .kick s = .next (queueWith s c.id s.arg.c (fun q =>
    if q.ctl.getLsbD 0 then { q with w := max q.w s.arg.v.toNat, reread := none } else q))) ∧
  (∀ s c q, OnQueue s c q → q.stopped = true →
    Machine.exec .qrestartReread s = .next (queueWith s c.id s.arg.c (fun q => { q with stopped := false })) ∧
    ∃ t, Machine.exec .qrestartSkip s = .next t ∧ Passed (queueWith s c.id s.arg.c (fun q => { q with stopped := false })) t c.id s.arg.c 1) ∧
  (∀ s c q u, s.context? s.arg.a = some c → c.queues[s.arg.b]? = some q → s.prompts c s.arg.b q = true → q.hold = .none → q.rd < q.w →
    (∀ d, q.reread = some d → d ≤ s.now) →
    (s.head c.id s.arg.b q = (.mismatch, u) →
      Machine.exec .prompterReread s = .next (queueWith u c.id s.arg.b (fun q => { q with reread := some (s.now + 1000 * ticksPerNs) }))) ∧
    (s.head c.id s.arg.b q = (.stall, u) → Machine.exec .prompterReread s = .next u) ∧
    (∀ found, s.head c.id s.arg.b q = (found, u) → found ≠ .mismatch → found ≠ .stall →
      Machine.exec .prompterReread s = .next (queueWith s c.id s.arg.b (fun q => { q with reread := none })))) ∧
  (∀ (s u : State) ctx k q h, s.ask ctx k (q.base.toNat + q.rd % 2 ^ bits q.ctl.toNat 5 1 * 64) 8 .read = (.data h, u) → fieldOf h 4 4 ≠ q.rd % 2 ^ 32 →
    s.head ctx k q = (.mismatch, u))

/-- R311, R312, R314, R317, R318: a LAUNCH whose fields, playbill, tiles and maps are legal and whose run the partition can hold gives the context a
run with its next id; an illegal one is refused with 0x02 and one that fits no partition with 0x03; a RESUME restores the run of
an image that is byte for byte one that the device sealed and that fits, under the next run id, with its registers, stages, tiles,
barriers, windows, queues and commands, and is refused with 0x05 for any other; so is the scheduler's own RESUME of a rollback (R350). -/
def Sys2Proof.Claims.LaunchAndResumeResults : Prop :=
  (∀ s c q n body u p u1 got u2, Packet s c q 1 n body u → u.runsHeld c.id < 256 →
    let l := launchSlot body
    let b := playbillOf p
    let tiles := chunks 16 (field p 0x22 2) (got.getD 0 [])
    let b' : Playbill := { b with tiles := tiles.map tileOf }
    l.legal = true → u.ask c.id s.arg.b l.playbill 256 .read = (.data p, u1) → playbillLegal p l = true →
    askAll u1 c.id s.arg.b [] [(field p 0x30 8, 16 * field p 0x22 2, .read), (b.codeBase.toNat, b.codeLength, .fetch), (l.params, l.paramLen, .read),
      (l.map, if l.map = 0 then 0 else 128 + 32 * b.choruses, .read)] = (.data [], got, u2) →
    tiles.all (tileLegal b') = true → disjoint (b'.tiles.map (fun t => (t.base, t.capacity))) = true → pliBad (got.getD 3 []) b.choruses l.lanes = false →
    (∃ r v, r.ctx = c.id ∧ r.id = c.lastRun + 1 ∧ r.tag = BitVec.ofNat 64 (fieldOf body 0x38 8) ∧ r.queue = s.arg.b ∧ r.cls = fieldOf body 0x27 1 % 4 ∧
      r.prio = min (fieldOf body 0x27 1 / 4) c.prio.toNat ∧ r.troupes = fieldOf body 0x10 8 ∧ r.nextTroupe = 0 ∧ r.doneTroupes = 0 ∧ r.playbill = b' ∧
      r.params = got.getD 2 [] ∧ r.window = 65536 * fieldOf body 0x24 2 ∧ r.lanes = fieldOf body 0x26 1 ∧ r.wells = BitVec.ofNat 64 (fieldOf body 0x30 8) ∧
      (∀ i, i < 32 → r.principals.getD i 0 = BitVec.ofNat 32 (fieldOf (got.getD 3 []) (4 * i) 4)) ∧ r.ending = none ∧ r.killed = none ∧
      (∀ j, r.code.read j = (got.getD 1 []).getD j 0) ∧ r.accepted = u2.vtTicks c.id ∧
      (u2.placeable r = true → Taken .launch s v n ∧
        v = ctxWith { u2 with runs := u2.runs ++ [r] } c.id (fun d => { d with lastRun := r.id, queues := updAt d.queues s.arg.b (fun q => { q with open_ := q.open_ ++ [r.id] }) }) ) ∧
      (u2.placeable r = false → PacketRefused .launch s u2 n 3))) ∧
  (∀ s c q n body u, Packet s c q 1 n body u → u.runsHeld c.id < 256 → (launchSlot body).legal = false → PacketRefused .launch s u n 2) ∧
  (∀ s c q n body u p u1, Packet s c q 1 n body u → u.runsHeld c.id < 256 → (launchSlot body).legal = true →
    u.ask c.id s.arg.b (launchSlot body).playbill 256 .read = (.data p, u1) → playbillLegal p (launchSlot body) = false → PacketRefused .launch s u1 n 2) ∧
  (∀ s c q n body u h u1 im b u2, Packet s c q 2 n body u → u.runsHeld c.id < 256 →
    u.ask c.id s.arg.b (fieldOf body 0x08 8) 128 .read = (.data h, u1) → u1.imageAt c.id (fieldOf body 0x10 8) h = some im →
    u1.ask c.id s.arg.b (fieldOf body 0x08 8) im.length .read = (.data b, u2) →
    (∀ v, b = im.bytes → u2.imageFits im = true → u2.resumeImage im s.arg.b (BitVec.ofNat 64 (fieldOf body 0x38 8)) = some v →
      Taken .resume s v.1 n ∧ (WholeImage u2 im → Restored u2 v.1 im s.arg.b (BitVec.ofNat 64 (fieldOf body 0x38 8)) v.2)) ∧
    (b = im.bytes → u2.imageFits im = true → u2.resumeImage im s.arg.b (BitVec.ofNat 64 (fieldOf body 0x38 8)) = none → Machine.exec .resume s = .next u2) ∧
    (b ≠ im.bytes ∨ u2.imageFits im = false → PacketRefused .resume s u2 n 5)) ∧
  (∀ s c q n body u h u1, Packet s c q 2 n body u → u.runsHeld c.id < 256 →
    u.ask c.id s.arg.b (fieldOf body 0x08 8) 128 .read = (.data h, u1) → u1.imageAt c.id (fieldOf body 0x10 8) h = none → PacketRefused .resume s u1 n 5) ∧
  (∀ s c a rest h u1 im b u2, s.arg.b = 16 → s.context? s.arg.a = some c → c.rollbacks = a :: rest → s.served c = true →
    (∀ r, r ∈ s.requests → .front c.id 16 ∉ r.waiters ∧ .mirror c.id 16 ∉ r.waiters) → (∀ r, s.run? c.id a.run = some r → r.ending ≠ none) →
    s.runsHeld c.id < 256 → s.ask c.id 16 a.image.toNat 128 .read = (.data h, u1) → u1.imageAt c.id a.length h = some im →
    u1.ask c.id 16 a.image.toNat im.length .read = (.data b, u2) →
    (∀ v, b = im.bytes → u2.imageFits im = true → u2.resumeImage im a.queue a.tag = some v →
      Machine.exec .resume s = .next (ctxWith v.1 c.id (fun d => { d with rollbacks := d.rollbacks.drop 1 })) ∧
      (WholeImage u2 im → Restored u2 v.1 im a.queue a.tag v.2)) ∧
    (b ≠ im.bytes ∨ u2.imageFits im = false → Machine.exec .resume s = .next (ctxWith u2 c.id (fun d => { d with
      rollbacks := d.rollbacks.drop 1
      records := d.records ++ [{ tag := 0, fm := 0, troupe := 0, run := 0, company := 0, status := 5, queue := a.queue, kind := 3 }] }))))

/-- R259, R313 to R316: WRITE stores its data; SIGNAL stores or adds one 64-bit word, and WRITE_SIGNAL does both in that order; WAIT holds the queue
until its word compares true, and reads it again; FENCE holds it until every earlier packet has completed; GRANT writes a
principal's bitmap and drops its grants from every core; a continuation at the head stops the queue with error 0x01. -/
def Sys2Proof.Claims.PacketResults : Prop :=
  (∀ s c q n body u loc tag a u1, Packet s c q 3 n body u →
    let len := fieldOf body 0x10 4
    (0 < len → len ≤ 256 → slotCount 0x18 len ≤ n → body.length = 64 * n →
      u.askPlaces c.id s.arg.b (fieldOf body 0x08 8) len .write = (some [⟨loc, len, tag⟩], a, u1) → u1.mem.wf = true → OwnLines u1 c.id loc len →
      ∃ v, Taken .write s v n ∧ Stored u1.mem v.mem loc len (dataByte body 0x18) ∧ MemoryOnly u1 v) ∧
    (0 < len → len ≤ 256 → n < slotCount 0x18 len → StopsQueue .write s u c q) ∧
    (len = 0 ∨ 256 < len → PacketRefused .write s u n 7)) ∧
  (∀ s c q n body u loc tag a u1, Packet s c q 4 n body u → fieldOf body 0x08 8 % 8 = 0 → fieldOf body 0x18 8 ≤ 1 →
    u.askPlaces c.id s.arg.b (fieldOf body 0x08 8) 8 (if fieldOf body 0x18 8 = 0 then .write else .rmw) = (some [⟨loc, 8, tag⟩], a, u1) →
    (fieldOf body 0x18 8 = 1 → poisoned u1.memPoison loc 8 = true → PacketRefused .signal s u1 n 4) ∧
    (u1.mem.wf = true → OwnLines u1 c.id loc 8 → (fieldOf body 0x18 8 = 1 → poisoned u1.memPoison loc 8 = false) →
      ∃ v, Taken .signal s v n ∧ MemoryOnly u1 v ∧
        v.mem.readLE loc 8 = (if fieldOf body 0x18 8 = 0 then fieldOf body 0x10 8 else (u1.mem.readLE loc 8 + fieldOf body 0x10 8) % 2 ^ 64) ∧
        ∀ x, (x < loc ∨ loc + 8 ≤ x) → v.mem.read x = u1.mem.read x)) ∧
  (∀ s c q n body u loc tag a u1 loc2 tag2 a2 u2, Packet s c q 5 n body u →
    let len := fieldOf body 0x10 4
    let op := fieldOf body 0x28 1
    0 < len → len ≤ 256 → slotCount 0x30 len ≤ n → body.length = 64 * n → fieldOf body 0x18 8 % 8 = 0 → op ≤ 1 →
    u.askPlaces c.id s.arg.b (fieldOf body 0x08 8) len .write = (some [⟨loc, len, tag⟩], a, u1) →
    u1.askPlaces c.id s.arg.b (fieldOf body 0x18 8) 8 (if op = 0 then .write else .rmw) = (some [⟨loc2, 8, tag2⟩], a2, u2) → u2.mem.wf = true →
    OwnLines u2 c.id loc len → OwnLines u2 c.id loc2 8 → (op = 1 → poisoned u2.memPoison loc2 8 = false) → (loc + len ≤ loc2 ∨ loc2 + 8 ≤ loc) →
    ∃ v, Taken .writeSignal s v n ∧ (∀ j, j < len → v.mem.read (loc + j) = dataByte body 0x30 j) ∧
      v.mem.readLE loc2 8 = (if op = 0 then fieldOf body 0x20 8 else (u2.mem.readLE loc2 8 + fieldOf body 0x20 8) % 2 ^ 64) ∧
      ∀ x, (x < loc ∨ loc + len ≤ x) → (x < loc2 ∨ loc2 + 8 ≤ x) → v.mem.read x = u2.mem.read x) ∧
  (∀ s c q n body u b u1, Packet s c q 6 n body u → fieldOf body 0x08 8 % 8 = 0 → fieldOf body 0x20 8 ≤ 3 →
    u.ask c.id s.arg.b (fieldOf body 0x08 8) 8 .read = (.data b, u1) →
    let m := BitVec.ofNat 64 (ofBytesLE b) &&& BitVec.ofNat 64 (fieldOf body 0x18 8)
    let holds : Prop := match fieldOf body 0x20 8 with
      | 0 => m.toNat = fieldOf body 0x10 8
      | 1 => m.toNat ≠ fieldOf body 0x10 8
      | 2 => fieldOf body 0x10 8 ≤ m.toNat
      | _ => m.toNat < fieldOf body 0x10 8
    (holds → Taken .wait s u1 n) ∧
    (¬ holds → Taken .wait s (queueWith u1 c.id s.arg.b (fun q =>
      { q with hold := .wait (fieldOf body 0x08 8) (fieldOf body 0x10 8) (fieldOf body 0x18 8) (fieldOf body 0x20 8) (u1.now + 1000 * ticksPerNs) })) n)) ∧
  (∀ s c q addr value mask cond d b u, s.context? s.arg.a = some c → c.queues[s.arg.b]? = some q → q.hold = .wait addr value mask cond d →
    s.goesOn c s.arg.b q = true → s.ask c.id s.arg.b addr 8 .read = (.data b, u) →
    Machine.exec .waitReevaluate s = .next (queueWith u c.id s.arg.b (fun q => { q with
      hold := if waitHolds (ofBytesLE b) value mask cond then .none else .wait addr value mask cond (s.now + 1000 * ticksPerNs) }))) ∧
  (∀ s c q addr value mask cond d u, s.context? s.arg.a = some c → c.queues[s.arg.b]? = some q → q.hold = .wait addr value mask cond d →
    s.goesOn c s.arg.b q = true → s.ask c.id s.arg.b addr 8 .read = (.refuse, u) →
    Machine.exec .waitReevaluate s = .next (ctxWith (queueWith u c.id s.arg.b (fun q => { q with hold := .none })) c.id (fun d => { d with
      records := d.records ++ [{ tag := 0, fm := 0, troupe := 0, run := 0, company := 0, status := 4, queue := s.arg.b, kind := 3 }] }))) ∧
  (∀ s c q n body u, Packet s c q 7 n body u →
    (q.open_ = [] → (∀ r, r ∈ c.records → ¬ (r.kind = 3 ∧ r.queue = s.arg.b)) → Taken .fence s u n) ∧
    (q.open_ ≠ [] → Taken .fence s (queueWith u c.id s.arg.b (fun q => { q with hold := .fence })) n)) ∧
  (∀ s c q, s.context? s.arg.a = some c → c.queues[s.arg.b]? = some q → q.hold = .fence → s.goesOn c s.arg.b q = true → q.open_ = [] →
    (∀ r, r ∈ c.records → ¬ (r.kind = 3 ∧ r.queue = s.arg.b)) →
    Machine.exec .fence s = .next (queueWith s c.id s.arg.b (fun q => { q with hold := .none }))) ∧
  (∀ s c q n body u loc a u1, Packet s c q 8 n body u →
    let p := fieldOf body 0x08 2
    let off := fieldOf body 0x0C 4
    let len := fieldOf body 0x10 4
    (q.ctl.getLsbD 8 = true → p < c.pcount → off % 8 = 0 → len % 8 = 0 → 8 ≤ len → len ≤ 256 → off + len ≤ 8192 → slotCount 0x18 len ≤ n → body.length = 64 * n →
      policyPlaces u c s.arg.b [] (pieces (len / 4096 + 2) (c.policy.toNat + 8192 * p + off) len) = (some [⟨loc, len, 0⟩], a, u1) → u1.mem.wf = true →
      OwnLines u1 c.id loc len →
      ∃ v, Taken .grant s v n ∧ Stored u1.mem v.mem loc len (dataByte body 0x18) ∧
        ∀ k g, g ∈ (v.core k).grants ↔ g ∈ (u1.core k).grants ∧ ¬ (g.ctx = c.id ∧ g.principal.toNat = p)) ∧
    (q.ctl.getLsbD 8 = false ∨ c.pcount ≤ p → PacketRefused .grant s u n 6)) ∧
  (∀ s c q u type, s.context? s.arg.a = some c → c.queues[s.arg.b]? = some q → s.prompts c s.arg.b q = true → q.hold = .none → q.reread = none → q.rd < q.w →
    s.head c.id s.arg.b q = (.stop type, u) → (type = 0 ∨ 8 < type) → StopsQueue .cont s u c q) ∧
  (∀ s c q u k, s.context? s.arg.a = some c → c.id = s.arg.a → c.queues[s.arg.b]? = some q → s.prompts c s.arg.b q = true → q.hold = .none → q.reread = none →
    q.rd < q.w → s.head c.id s.arg.b q = (.refuse k, u) → PacketRefused .cont s u k 4)

/-- R259, R304, R308 to R318, R353: queue registers, launches and packets. Beyond the rules it follows the model's choices of log entries 8, 9, 12,
36, 37, 38, 40, 43 and 81. -/
def Obligations.QueueLaunchAndPacketEvents : Prop := QueueRegisterResults ∧ LaunchAndResumeResults ∧ PacketResults

/-! ## Events of placement, completion, time and pre-emption (R13, R179, R210 to R214, R223, R312 to R319, R327 to R346) -/

namespace Sys2Proof.Claims

/-- Chorus `i` of a company of run `r` as it starts (R13, R19, R179, R312): the lanes of the run are populated, v1 to v4 hold the
chorus, the offset of the parameters, the troupe and the company, every other register is 0, and one split of every populated
lane runs at the entry. -/
structure StartsChorus (r : Run) (t m i : Nat) (h : Chorus) : Prop where
  index : h.index = i
  house : h.house.length = 16 ∧ ∀ n l, n < 16 → l < 32 → (h.house.getD n Lanes.zero).at l =
    if l < r.lanes ∧ 1 ≤ n ∧ n ≤ 4 then BitVec.ofNat 32 ([0, i, r.playbill.paramOffset, t, m].getD n 0) else 0
  ring : h.ring = List.replicate r.playbill.ring Lanes.zero ∧ h.low = 0 ∧ h.high = r.playbill.ring
  lanes : ∀ l, l < 32 → h.populated.has l = decide (l < r.lanes)
  split : 0 < r.lanes → ∃ p, h.splits = [p] ∧ p.members = h.populated ∧ p.xm = h.populated ∧ p.wb = 0 ∧ p.depth = 0 ∧ p.frame = min 48 r.playbill.ring ∧
    p.pc = BitVec.ofNat 32 r.playbill.entry ∧ p.joinPc = 0xFFFFFFFF ∧ p.fmt = r.playbill.fmt.setWidth 16 ∧ p.state = .running ∧ p.wait = .none
  clear : h.exited = 0 ∧ h.cues = List.replicate 8 .unresolved ∧ h.queue = [] ∧ h.events = 0 ∧ h.pending = 0 ∧ h.timers = List.replicate 4 none ∧
    h.collectives = 0 ∧ h.fm = 0 ∧ h.handler = false ∧ h.halted = none ∧ h.ended = false
  well : h.wellBase = r.wells + BitVec.ofNat 64 (((t * r.playbill.companies + m) * r.playbill.choruses + i) * r.playbill.wellSize)
  principals : ∀ l, l < 32 → h.pli.getD l 0 = r.pliMap.getD (32 * i + l) 0

/-- Company `m` of troupe `t` of run `r` as it starts on a core (R13, R166, R188, R312): its stage holds the parameters and else zeros. -/
structure Starts (r : Run) (t m core : Nat) (c : Company) : Prop where
  place : c.ctx = r.ctx ∧ c.run = r.id ∧ c.troupe = t ∧ c.index = m ∧ c.core = core ∧ c.state = .running ∧ c.cyc = 0
  stage : (∀ j, j < r.params.length → c.stage.read (r.playbill.paramOffset + j) = r.params.getD j 0) ∧
    ∀ a, (a < r.playbill.paramOffset ∨ r.playbill.paramOffset + r.params.length ≤ a) → c.stage.read a = 0
  tables : c.tiles = r.playbill.tiles ∧ c.handles = List.replicate 64 none ∧ c.pit = r.playbill.pit ∧ c.acc = [] ∧ c.score = [] ∧ c.engine = [] ∧ c.ops = []
  principals : c.principals = r.principals ∧ c.code = r.code
  choruses : ∀ i, i < r.playbill.choruses → ∃ h, c.chorus? i = some h ∧ StartsChorus r t m i h

/-- Frames of some sizes in the green room of a context: each within it, behind its header, and apart from the others and from every frame that a
company of the context holds (R342). -/
structure Framed (s : State) (c : Context) (sizes frames : List Nat) : Prop where
  each : frames.length = sizes.length ∧ ∀ i, i < sizes.length → c.green + 128 ≤ frames.getD i 0 ∧ frames.getD i 0 + sizes.getD i 0 ≤ c.green + c.greenSize
  apart : ∀ i j, i < j → j < sizes.length → frames.getD i 0 + sizes.getD i 0 ≤ frames.getD j 0 ∨ frames.getD j 0 + sizes.getD j 0 ≤ frames.getD i 0
  held : ∀ i k, i < sizes.length → k ∈ s.companies → k.ctx = c.id → k.state ≠ .complete →
    let n := k.playbill.frameSize (if k.index = 0 then ((s.run? c.id k.run).map (fun r => r.window)).getD 0 else 0)
    frames.getD i 0 + sizes.getD i 0 ≤ k.frame ∨ k.frame + n ≤ frames.getD i 0

/-- Where a cluster takes the companies of a troupe (R210 to R212): each on a core of its own that has room, and the four of a spread group on
a square of the cluster. -/
structure Seats (s : State) (r : Run) (k : Nat) (cores : List Nat) : Prop where
  each : cores.length = r.playbill.companies ∧ cores.Nodup ∧ ∀ n, n ∈ cores → n / 8 = k ∧ s.coreRoom n r.playbill true = true
  squares : ∀ g p, 4 * g + 4 ≤ r.playbill.companies → p < 4 → ∃ q, q < 2 ∧ cores.getD (4 * g + p) 0 = 8 * k + p / 2 * 4 + 2 * q + p % 2 ∧
    cores.getD (4 * g) 0 = 8 * k + 2 * q

/-- The next record of a context is to be written: the ring has room, its slot is reached at `loc`, and no page is waited for. -/
structure RecordDue (s : State) (c : Context) (e : EventRecord) (rest : List EventRecord) (loc : Nat) (tag : BitVec 16) (u : State) : Prop where
  context : s.context? s.arg.a = some c ∧ ∀ x, x ∈ s.contexts → x.id = c.id → x = c
  record : c.records = e :: rest
  room : c.evWr - c.evRd < 2 ^ (c.evCtl.toNat % 32)
  free : ∀ q, q ∈ s.requests → .record c.id ∉ q.waiters
  slot : s.reach c.id (c.evBase.toNat + 32 * (c.evWr % 2 ^ (c.evCtl.toNat % 32))) 32 .write = (.ok [⟨loc, 32, tag⟩], u)
  memory : u.mem.wf = true ∧ OwnLines u c.id loc 32

/-- Every split but `p` that is ready has its window resident: none of them begins to ask for it (R121, R126). -/
def OthersResident (h : Chorus) (p : Split) : Prop :=
  ∀ q, q ∈ h.splits → q.members ≠ p.members → q.state = .ready → q.spilled = false → q.wait = .none → h.resident q.needed = true

/-- A split's wait has ended in the chorus `g` with the value `v` in `vd` (R334, R335); a split whose row for `vd` is not resident waits for it
first, and one whose window is not resident asks for that (R126, log 78). -/
structure Ended (h g : Chorus) (p : Split) (vd : BitVec 6) (v : Word) (pend : BitVec 7) : Prop where
  rest : g = { h with house := g.house, ring := g.ring, poison := g.poison, splits := g.splits, requests := g.requests, pending := pend }
  split : ∃ q, q ∈ g.splits ∧ q.members = p.members ∧ q.xm = p.xm ∧ q.pc = p.pc ∧
    (RowThere h p vd → h.resident p.needed = true → q.wait = .none ∧ (q.state = .ready ∨ q.state = .running) ∧ g.requests = h.requests) ∧
    (RowThere h p vd → h.resident p.needed = false → p.spilled = false →
      q.state = .waitWindow ∧ q.wait = .window p.needed.1 p.needed.2 ∧ g.requests = h.requests ++ [p.members]) ∧
    (¬ RowThere h p vd → q.state = .waitWindow ∧ (∃ a b, q.wait = .outcome a b [vd] v) ∧ g.requests = h.requests ++ [p.members])
  value : vd ≠ 0 → RowThere h p vd → ∀ l, l < 32 → (p.xm &&& p.members &&& ~~~h.exited).has l = true → (g.row p.wb vd.toNat).at l = v
  others : ∀ n l, n < 64 → l < 32 → n ≠ vd.toNat → (16 ≤ n → 16 ≤ vd.toNat → (p.wb + n) % h.ring.length ≠ (p.wb + vd.toNat) % h.ring.length) →
    (g.row p.wb n).at l = (h.row p.wb n).at l

end Sys2Proof.Claims

/-- R13, R210 to R212, R223, R312, R317, R342: the box office places the next troupe of a run on a cluster that can take it, once frames for its companies
are reserved in the green room: each company on a core of its own, a spread group on a square, the run's window granted on the die, and every
company as R13 says; a run that has waited 1 ms of
`vt` holds later ones back. -/
def Sys2Proof.Claims.PlacementResults : Prop :=
  (∀ s r k cores, r.playbill.companies ≤ 8 → s.fit r k = some cores → Seats s r k cores) ∧
  (∀ s c sizes frames, s.context? c.id = some c → s.reserve c.id sizes = some frames → Framed s c sizes frames) ∧
  (∀ s r k, s.run? s.arg.a s.arg.b = some r → s.arg.c = k → r.cls ≠ 0 → (s.fit r k = none ∨ s.reserve r.ctx ((List.range r.playbill.companies).map r.frameSize) = none) →
    Machine.exec .troupePlace s = .next s) ∧
  (∀ s r k cores frames, s.run? s.arg.a s.arg.b = some r → s.arg.c = k → (∃ c, s.context? r.ctx = some c ∧ c.onStage = true ∧ c.destroying = false ∧ c.leaving = none) → r.ending = none →
    r.killed = none → r.nextTroupe < r.troupes → s.mayPlace r = true → r.cls ≠ 0 → s.fit r k = some cores → s.reserve r.ctx ((List.range r.playbill.companies).map r.frameSize) = some frames →
    (∀ d, d ∈ s.companies → d.uid < s.uid) → r.playbill.companies ≤ 8 → 1 ≤ r.lanes → r.lanes ≤ 32 →
    ∃ t new q, Machine.exec .troupePlace s = .next t ∧ t.companies = s.companies ++ new ∧ new.length = r.playbill.companies ∧
      (∀ m, m < r.playbill.companies → ∃ c, new[m]? = some c ∧ Starts r r.nextTroupe m (cores.getD m 0) c ∧ c.frame = frames.getD m 0) ∧
      t.run? r.ctx r.id = some q ∧ q.nextTroupe = r.nextTroupe + 1 ∧ q.doneTroupes = r.doneTroupes ∧
      (let ws := if r.window = 0 ∨ (∃ w, w ∈ r.windows ∧ w.1 = k / 6) then r.windows else r.windows ++ [(k / 6, [])]
       q.windows = if q.nextTroupe < r.troupes then ws
         else ws.filter (fun w => t.troupes.any (fun b => b.ctx == r.ctx && b.run == r.id && b.cluster / 6 == w.1))) ∧
      (∃ b, b ∈ t.troupes ∧ b.ctx = r.ctx ∧ b.run = r.id ∧ b.index = r.nextTroupe ∧ b.cluster = k) ∧ t.mem = s.mem) ∧
  (∀ s r, s.run? s.arg.a s.arg.b = some r → r.nextTroupe < r.troupes → r.accepted + 1000000 * ticksPerNs ≤ s.vtTicks r.ctx →
    Machine.exec .admissionOrderHold s = .next { s with runs := s.runs.map (fun q => if q.ctx = r.ctx ∧ q.id = r.id then { q with holding := true } else q) })

/-- R179, R314, R319: a company all of whose choruses have ended and whose work is done completes, and its core is free; it reports its lanes
switched off and its first halt; with the last of its troupe the troupe leaves its cluster; a run whose troupes are complete and that
owes no report has its record of kind 1; a record goes to the event ring, its index moves and its vector is raised, and the record of
a run's end ends the run's packet; after the report of a halt the run is ended with the first cause, and an error of the hardware has its last
checkpoint submitted again. -/
def Sys2Proof.Claims.CompletionResults : Prop :=
  (∀ s c r, Actor s c → QuietTroupe s c → s.run? c.ctx c.run = some r → (∀ x, x ∈ s.contexts → x.id = c.ctx → x.leaving ≠ some .reset) →
    (∀ h, h ∈ c.choruses → (h.ended = true ∨ h.halted ≠ none) ∧ h.queue = [] ∧ h.inflight = []) → c.engine = [] → c.ops = [] →
    (∃ d, d ∈ s.companies ∧ d.uid ≠ c.uid ∧ d.ctx = c.ctx ∧ d.run = c.run ∧ d.troupe = c.troupe ∧ d.state ≠ .complete) →
    ∃ t, Machine.exec .companyComplete s = .next t ∧ t = { s with companies := t.companies, contexts := t.contexts, troupes := t.troupes } ∧
      t.company? c.uid = some { c with state := .complete } ∧ (∀ u, u ≠ c.uid → t.company? u = s.company? u) ∧
      (c.fm = 0 → c.firstHalt = none → t.contexts = s.contexts) ∧
      ((c.fm ≠ 0 ∨ c.firstHalt ≠ none) → t.contexts = (ctxWith s c.ctx (fun x => { x with records := x.records ++
        [{ tag := r.tag, fm := c.fm, troupe := c.troupe, run := c.run, company := c.index, status := (c.firstHalt.map (fun f => f.cause)).getD 0, queue := r.queue, kind := 2 }] })).contexts)) ∧
  (∀ s c r, Actor s c → QuietTroupe s c → s.run? c.ctx c.run = some r → r.nextTroupe < r.troupes →
    (∀ h, h ∈ c.choruses → (h.ended = true ∨ h.halted ≠ none) ∧ h.queue = [] ∧ h.inflight = []) → c.engine = [] → c.ops = [] →
    (∀ d, d ∈ s.companies → d.uid ≠ c.uid → d.ctx = c.ctx → d.run = c.run → d.troupe = c.troupe → d.state = .complete) →
    ∃ t q, Machine.exec .companyComplete s = .next t ∧ (∀ d, d ∈ t.companies ↔ d ∈ s.companies ∧ ¬ (d.ctx = c.ctx ∧ d.run = c.run ∧ d.troupe = c.troupe)) ∧
      (∀ d, d ∈ t.troupes → ¬ (d.ctx = c.ctx ∧ d.run = c.run ∧ d.index = c.troupe)) ∧ t.run? c.ctx c.run = some q ∧ q.doneTroupes = r.doneTroupes + 1 ∧ t.mem = s.mem) ∧
  (∀ s r, s.run? s.arg.a s.arg.b = some r → r.ending = none → r.killed = none → r.doneTroupes = r.troupes →
    (∀ c, s.context? r.ctx = some c → ∀ e, e ∈ c.records → ¬ (e.run = r.id ∧ e.kind = 2)) → (∀ x, x ∈ s.contexts → x.id = r.ctx → x.leaving ≠ some .reset) →
    Machine.exec .runComplete s = .next (ctxWith { s with
      runs := s.runs.map (fun q => if q.ctx = r.ctx ∧ q.id = r.id then { q with ending := some (1, 0), windows := [], windowPoison := [] } else q) } r.ctx
      (fun c => { c with records := c.records ++ [{ tag := r.tag, fm := 0, troupe := 0, run := r.id, company := 0, status := 0, queue := r.queue, kind := 1 }] }))) ∧
  (∀ s c e rest loc tag u, RecordDue s c e rest loc tag u → (e.kind = 2 → e.status = 0) →
    ∃ t d, Machine.exec .eventRecordWrite s = .next t ∧ t.context? c.id = some d ∧ d.evWr = c.evWr + 1 ∧ d.records = rest ∧
      (let v := t.mem.readLE loc 32
       bits v 3 0 = e.kind % 16 ∧ bits v 7 4 = e.queue % 16 ∧ bits v 15 8 = e.status % 256 ∧ bits v 23 16 = e.company % 256 ∧ bits v 31 24 = 0 ∧
         bits v 63 32 = e.run % 2 ^ 32 ∧ bits v 95 64 = e.troupe % 2 ^ 32 ∧ bits v 127 96 = e.fm.toNat ∧ bits v 191 128 = e.tag.toNat ∧
         bits v 255 192 = s.vtNs c.id % 2 ^ 64) ∧
      (∀ a, (a < loc ∨ loc + 32 ≤ a) → t.mem.read a = u.mem.read a) ∧
      noNotes t.runs = noNotes (if e.kind = 1 ∨ e.kind = 5 ∨ e.kind = 6 then s.runs.filter (fun r => !(r.ctx == c.id && r.id == e.run)) else s.runs) ∧
      (c.evCtl.getLsbD 8 = true → d.evCtl = c.evCtl &&& ~~~0x100#64 ∧
        ∀ f, s.func? c.fn = some f → bits c.evCtl.toNat 26 16 < vectors c.fn → ∃ g, t.func? c.fn = some g ∧ g.msix = bits c.evCtl.toNat 26 16 :: f.msix) ∧
      (c.evCtl.getLsbD 8 = false → d.evCtl = c.evCtl ∧ t.funcs = s.funcs)) ∧
  (∀ s c e rest loc tag u r, RecordDue s c e rest loc tag u → e.kind = 2 → e.status ≠ 0 → s.run? c.id e.run = some r → r.ending = none → r.killed = none →
    MayEnd s r → c.leaving ≠ some .reset →
    let cause := (r.firstHalt.map (fun f => f.cause)).getD 0
    ∃ t d, Machine.exec .eventRecordWrite s = .next t ∧ t.context? c.id = some d ∧ (∀ k, k ∈ t.companies ↔ k ∈ s.companies ∧ ¬ (k.ctx = c.id ∧ k.run = e.run)) ∧
      d.records = rest ++ [{ tag := r.tag, fm := 0, troupe := 0, run := r.id, company := 0, status := cause, queue := r.queue, kind := 6 }] ∧
      d.rollbacks = c.rollbacks ++ (if cause = 0x0F ∨ cause = 0x10 then
        (r.checkpoint.map (fun p => { run := r.id, image := p.1, length := p.2, tag := r.tag, queue := r.queue })).toList else []))

/-- R13, R179, R210 to R214, R223, R312, R314, R317, R319, R342, R350: placement of troupes, and the completion of companies and runs. Beyond the
rules it follows the model's choices of log entries 8, 12, 24, 41 and 44. -/
def Obligations.PlacementAndCompletionEvents : Prop := PlacementResults ∧ CompletionResults

namespace Sys2Proof.Claims

/-- An operation is not on the array between two of its boundaries: it has not started, it has finished or stands at a boundary, or it is a spread
product whose step is over while a core of its group does not reach the boundary (R203, R204). -/
def OffArray (s : State) (k : Company) (o : MxOp) : Prop :=
  o.started = false ∨ o.finished = true ∨ o.paused = true ∨ (o.kind = .spr ∧ o.due ≤ s.vtTicks k.ctx ∧ s.stepParty k o = none)

/-- A company stands at its stopping points (R17, R24, R340): no access in flight; in any chorus that has not halted no chain begun, no answer of the
call board to come, no row under way, and every entry that left the split table in the well, unless a page is lacking there; and no step under
way. -/
def StandsStill (s : State) (k : Company) : Prop :=
  (∀ h, h ∈ k.choruses → h.inflight = [] ∧ (h.halted ≠ none ∨ (h.chain = none ∧ (∀ p, p ∈ h.splits → p.wait.onBoard = false) ∧
    (∀ m, h.pump = some m → m.moving = false) ∧
    ((∀ p, p ∈ h.splits → p.owed = false) ∨ ∃ q, q ∈ s.requests ∧ .pump k.uid h.index ∈ q.waiters)))) ∧
    ∀ o, o ∈ k.ops → OffArray s k o

/-- Every company of the run that is on a core stands at its stopping points. -/
def RunStands (s : State) (r : Run) : Prop := ∀ k, k ∈ s.companies → k.ctx = r.ctx → k.run = r.id → k.state = .running → StandsStill s k

/-- The time at which the last unit of a context stops: now, or the latest end of a cycle under way of its companies' cores (R341). -/
structure LastEdge (s : State) (id t : Nat) : Prop where
  after : s.now ≤ t ∧ ∀ k, k ∈ s.companies → k.ctx = id → (s.core k.core).at_ ≤ t
  least : t = s.now ∨ ∃ k, k ∈ s.companies ∧ k.ctx = id ∧ t = (s.core k.core).at_

/-- The context goes on at this stage time: an outside event that has arrived at this time is stamped with the `vt` of the stop (R337). -/
def Entered (s : State) (c d : Context) : Prop :=
  d.board = c.board.map (fun e => if e.visible = false ∧ e.arrivedAt = s.now
    then { e with stampTicks := c.vt, msg := { e.msg with stamp := BitVec.ofNat 64 (c.vt / ticksPerNs) } } else e) ∧
  d.responses = c.responses.map (fun r => if r.arrivedAt = s.now then { r with stampTicks := c.vt } else r)

/-- The context has been stopped by a debugger: its clock stands at the last edge of its units, the messages that are visible by it are shown, and
its deadlines up to it have passed (R328, R336, R337). -/
def DebugStopped (s t : State) (c : Context) : Prop :=
  ∃ d, t = { s with contexts := t.contexts, companies := t.companies } ∧ t.context? c.id = some d ∧
    let shown (e : BoardEntry) : Bool := !e.visible && !e.taken && decide (e.stampTicks ≤ d.vt)
    let told (h : Chorus) : Chorus := if c.board.any shown ∧ h.halted = none ∧ h.ended = false then { h with pending := h.pending ||| 0x20 } else h
    d = { c with
      debugHalted := true, stepping := none, stepped := false, stopAt := d.stopAt, vt := d.vt
      board := c.board.map (fun e => if shown e then { e with visible := true } else e) } ∧ LastEdge s c.id d.stopAt ∧
    d.vt = c.vt + (d.stopAt - s.now) ∧ (∀ x, x ∈ s.contexts → x.id ≠ c.id → x ∈ t.contexts) ∧
    t.companies = s.companies.map (fun k => if k.ctx = c.id then { k with choruses := k.choruses.map (fun h => (told h).passAll d.vt) } else k)

/-- The companies of a context alone have changed: what was latched while it stood takes effect in them before its next instruction (R337). -/
def Resettled (s t : State) (c : Context) : Prop :=
  t.companies.map (fun k => k.uid) = s.companies.map (fun k => k.uid) ∧ ∀ k, k ∈ s.companies → k.ctx ≠ c.id ∨ QuietCompany k → k ∈ t.companies

/-- Stage time has moved on by `d` ticks and a slew of at most one tick in every 10,000, what is left of a tick being kept; an error within that is
gone (R325); and with it the clock of every context that runs (R327). -/
structure Slewed (s t : State) (d : Nat) : Prop where
  time : ∃ c : Int, (t.now : Int) = s.now + d + c ∧ t.slew = s.slew - c ∧ c.natAbs ≤ s.slew.natAbs ∧ 10000 * c.natAbs ≤ s.slewPart + d ∧
    (c ≠ s.slew → 10000 * c.natAbs + t.slewPart = s.slewPart + d ∧ t.slewPart < 10000) ∧ (0 ≤ c ↔ 0 ≤ s.slew ∨ c = 0)
  clocks : ∀ x, x ∈ s.contexts → s.contexts.Pairwise (fun c d => c.id ≠ d.id) → ∃ y, t.context? x.id = some y ∧
    y = { x with vt := if x.onStage = true ∧ x.debugHalted = false then x.vt + ((t.now - s.now) - (x.stopAt - s.now)) else x.vt }

/-- The image of run `r` (R342 to R344): what it records of the run, its troupes, its companies and its context's time, under its seal, the
AES-CMAC of its bytes with a seal of 0 under the sealing key of the context. -/
structure ImageOf (s : State) (r : Run) (kind : Nat) (im : Image) : Prop where
  sealed : im.mac = BitVec.ofNat 128 (ofBytesLE (cmac (Config.sealingKey im.ctx) { im with mac := 0 }.bytes))
  head : im.kind = kind ∧ im.ctx = r.ctx ∧ im.run = r.id ∧ im.vt = s.vtNs r.ctx ∧ im.runState = r
  troupes : im.troupes = s.troupes.filter (fun t => t.ctx == r.ctx && t.run == r.id)
  companies : im.companies = (s.companies.filter (fun k => k.ctx == r.ctx && k.run == r.id)).map Company.asImage

end Sys2Proof.Claims

/-- R338, R340, R342 to R344: a checkpoint has the companies of its run stop, writes the image of the run to memory and the run goes on; a page that is
absent holds the copy up; at the limit of its context a run is saved in the green room and ended with a record of kind 5; bytes of the green room are
stored under the context's key. -/
def Sys2Proof.Claims.CheckpointAndWatchdogResults : Prop :=
  (∀ s r, s.run? s.arg.a s.arg.b = some r → (∀ c, c ∈ s.copies → ¬ (c.1.ctx = s.arg.a ∧ c.1.number = s.arg.c)) → r.ending = none →
    let at_ := r.snapAt.getD s.arg.v
    let r1 := { r with snapAt := none }
    let s1 : State := { s with runs := s.runs.map (fun q => if q.ctx = r.ctx ∧ q.id = r.id then { q with snapAt := none } else q) }
    (¬ RunStands s r → Machine.exec .checkpoint s = .next { s with
      runs := s.runs.map (fun q => if q.ctx = r.ctx ∧ q.id = r.id then { q with snapAt := some at_ } else q) }) ∧
    (∀ im p, RunStands s r → s1.imageOf r1 2 = (im, p) → ImageOf s1 r1 2 im ∧
      (∀ v, p.frontWrite r.ctx at_.toNat im.bytes = (.done, v) → Machine.exec .checkpoint s = .next { v with
        copies := v.copies.filter (fun c => c.1.number != im.number), images := v.images ++ [im]
        runs := v.runs.map (fun q => if q.ctx = r.ctx ∧ q.id = r.id then { q with checkpoint := some (at_, im.length) } else q) }) ∧
      (∀ k page v, p.frontWrite r.ctx at_.toNat im.bytes = (.absent k page, v) → (∀ c, c ∈ s.copies → c.1.number ≠ im.number) →
        ∃ t, Machine.exec .checkpoint s = .next t ∧ t.copies = s.copies ++ [(im, at_)] ∧ t.mem = p.mem ∧
          ∃ q, q ∈ t.requests ∧ q.stage = k ∧ q.page = page.base ∧ .copy im.number ∈ q.waiters))) ∧
  (∀ s im at_ v, s.copies.find? (fun c => c.1.ctx == s.arg.a && c.1.number == s.arg.c) = some (im, at_) →
    s.frontWrite im.ctx at_.toNat im.bytes = (.done, v) → Machine.exec .checkpoint s = .next { v with
      copies := v.copies.filter (fun c => c.1.number != im.number), images := v.images ++ [im]
      runs := v.runs.map (fun q => if q.ctx = im.ctx ∧ q.id = im.run then { q with checkpoint := some (at_, im.length) } else q) }) ∧
  (∀ s r c a, s.run? s.arg.a s.arg.b = some r → s.context? r.ctx = some c → c.limit ≠ 0 → r.ending = none → r.placedAt = some a →
    a + c.limit.toNat * 1000 * ticksPerNs ≤ c.vt → r.killed = none → c.leaving ≠ some .reset →
    (¬ RunStands s r → Machine.exec .watchdogExpiry s = .next s) ∧
    (RunStands s r → ¬ AccessesInFlight s r → ∃ t d im p, Machine.exec .watchdogExpiry s = .next t ∧ s.imageOf r 4 = (im, p) ∧ ImageOf s r 4 im ∧
      t.images = s.images ++ [im] ∧ t.context? r.ctx = some d ∧
      d.records = c.records ++ [{ tag := r.tag, fm := 0, troupe := 0, run := r.id, company := 0, status := 0, queue := r.queue, kind := 5 }] ∧
      (∀ k, k ∈ t.companies ↔ k ∈ s.companies ∧ ¬ (k.ctx = r.ctx ∧ k.run = r.id)) ∧ t.mem = (p.writeGreen r.ctx 4 (fun k => k.run == r.id)).mem)) ∧
  (∀ s ctx pa bs, s.mem.wf = true → pa + bs.length ≤ 2 ^ 39 → (∀ i, i < bs.length → OwnLines s ctx (place 0 (pa + i)) 1) →
    let t := s.greenWrite ctx pa bs
    (∀ i, i < bs.length → t.mem.read (place 0 (pa + i)) = bs.getD i 0) ∧
      ∀ a, (∀ i, i < bs.length → a ≠ place 0 (pa + i)) → t.mem.read a = s.mem.read a)

/-- R135, R315, R324, R337, R340, R341, R346: at the end of a slice nothing more of the context issues; what has completed as the context is pre-empted
completes first, with its records; once every company stands at a stopping point the context
is saved and its partition is free; a saved context with clusters and a key comes back on stage; a company saved for a fault is restored
once its requests are answered. -/
def Sys2Proof.Claims.PreemptionResults : Prop :=
  (∀ s c, s.context? s.arg.a = some c → c.onStage = true → c.state = .resident → s.curtain = false →
    Machine.exec .sliceExpiry s = .next (ctxWith s c.id (fun d => { d with sliceOver := true }))) ∧
  (∀ (s v : State) c e, s.context? s.arg.a = some c → c.onStage = true → c.state = .resident → s.curtain = false → c.debugHalted = false → c.records = [] →
    s.companies.Pairwise (fun k m => k.uid ≠ m.uid) → s.runs.Pairwise (fun p q => ¬ (p.ctx = q.ctx ∧ p.id = q.id)) → v = s.completions c.id →
    v.context? c.id = some e →
    (∀ k m, k ∈ s.companies → k.ctx = c.id → k.state = .running → (∀ h, h ∈ k.choruses → (h.ended = true ∨ h.halted ≠ none) ∧ h.queue = [] ∧ h.inflight = []) →
      k.engine = [] → k.ops = [] → State.company? v k.uid = some m → m.state = .complete) ∧
    (∀ r, r ∈ v.runs → r.ctx = c.id → r.ending = none → r.killed = none → r.doneTroupes = r.troupes → ∃ x, x ∈ e.records ∧ x.run = r.id ∧ x.kind = 2) ∧
    (∀ k, k ∈ s.companies → k.ctx ≠ c.id → k ∈ v.companies) ∧ v.now = s.now ∧ e.vt = c.vt) ∧
  (∀ s : State, (∀ c, s.context? s.arg.a = some c → c.records = []) →
    (∀ k, k ∈ s.companies → k.ctx = s.arg.a → k.state = .running → ∃ h, h ∈ k.choruses ∧ h.ended = false ∧ h.halted = none) →
    (∀ r, r ∈ s.runs → r.ctx = s.arg.a → (r.killed = none ∧ r.doneTroupes ≠ r.troupes) ∨ r.ending ≠ none) → s.completions s.arg.a = s) ∧
  (∀ (s v : State) b c, s.context? s.arg.a = some b → b.onStage = true → b.state = .resident → s.curtain = false → v = s.completions b.id → v.context? b.id = some c →
    (∀ k, k ∈ v.companies → k.ctx = c.id → k.state ≠ .complete → StandsStill v k) → c.debugHalted = false → c.onStage = true → c.state = .resident →
    v.curtain = false →
    ∃ (p t : State) (d : Context), Machine.exec .preemptionRequest s = .next t ∧ t = p.writeGreen c.id 1 (fun _ => true) ∧ p.mem = v.mem ∧
      t.context? c.id = some d ∧ d.state = .saved ∧ d.onStage = false ∧ d.partition = [] ∧
      LastEdge v c.id d.stopAt ∧ d.vt = c.vt + (d.stopAt - v.now) ∧ d.sliceOver = false ∧ (∀ e, e ∈ d.board → e.wasOff = true) ∧ (∀ k, k ∈ t.clusters → k.owner ≠ some c.id) ∧
      (∀ k, k ∈ v.companies → k.ctx ≠ c.id → k ∈ t.companies) ∧
      (∀ k, k ∈ t.companies → k.ctx = c.id → k.state = .preempted ∨ k.state = .complete) ∧
      (∀ k, k ∈ v.companies → k.ctx = c.id → k.state = .running → ∃ q, q ∈ t.companies ∧ q.uid = k.uid ∧ q.state = .preempted ∧ q.stage = k.stage ∧
        q.acc = k.acc ∧ q.score = k.score ∧ q.handles = k.handles ∧ q.principals = k.principals ∧ q.faulted = k.saving)) ∧
  (∀ (s v : State) b c k, s.context? s.arg.a = some b → b.onStage = true → b.state = .resident → s.curtain = false → v = s.completions b.id → v.context? b.id = some c →
    k ∈ v.companies → k.ctx = c.id → k.state = .running → ¬ StandsStill v k →
    ∃ t d, Machine.exec .preemptionRequest s = .next t ∧ t.context? c.id = some d ∧ d = { c with sliceOver := true } ∧ k ∈ t.companies ∧
      (∀ q, q ∈ t.companies → q.ctx = c.id → q.state = .running → ¬ StandsStill v q) ∧ t.mem = v.mem) ∧
  (∀ s u c rest, s.agenda = .save u :: rest → s.company? u = some c → c.saving = true → c.state = .running → StandsStill s c →
    ∃ (t p : State) (d : Company), Machine.step s = .next t ∧ t = p.writeFrame 3 d ∧ p = { { s with agenda := rest } with companies := p.companies } ∧ p.company? u = some d ∧
      d.state = .faultSaved ∧ d.faulted = true ∧ d.saving = false ∧ d.stage = c.stage ∧ d.acc = c.acc ∧ d.score = c.score ∧ d.tiles = c.tiles) ∧
  (∀ s c, s.context? s.arg.a = some c → c.state = .saved → c.destroying = false → c.leaving = none → c.partition ≠ [] → s.pcieUp = true → s.curtain = false → s.tripped = false →
    (∀ k, k ∈ c.partition → (s.cluster k).owner = some c.id ∧ (s.cluster k).power = .on) → (c.keySlot, c.id) ∈ s.keySlots →
    (∀ d, d < 8 → total ((s.contexts.filter (fun x => x.id != c.id && x.state == .resident)).map (fun x => x.quotas.getD d 0)) + c.quotas.getD d 0 ≤ (s.die d).cistern) →
    (∀ t, s.seatRuns c.id (fun _ => true) = some t →
      ∃ v d, Machine.exec .contextRestore s = .next v ∧
        v = { t with contexts := v.contexts, companies := v.companies, lines := v.lines, free := v.free } ∧ Resettled t v c ∧ v.context? c.id = some d ∧
        d = { c with state := .resident, onStage := true, board := d.board, responses := d.responses } ∧ Entered s c d) ∧
    ((∀ r, r ∈ s.runs → r.ctx ≠ c.id) → (∀ k, k ∈ s.companies → k.ctx ≠ c.id) → (∀ k, k ∈ s.troupes → k.ctx ≠ c.id) →
      ∃ v d, Machine.exec .contextRestore s = .next v ∧ v = { s with contexts := v.contexts } ∧ v.context? c.id = some d ∧
        d = { c with state := .resident, onStage := true, board := d.board, responses := d.responses } ∧ Entered s c d)) ∧
  (∀ s c x, s.company? s.arg.a = some c → c.state = .faultSaved → (∀ q, q ∈ s.requests → ∀ w, w ∈ q.waiters → w.ofCompany c.uid = false) →
    s.context? c.ctx = some x → x.onStage = true → x.debugHalted = false → s.curtain = false → s.mayRestore c s.arg.b = true →
    ∃ t d, Machine.exec .companyFaultRestore s = .next t ∧ t.company? c.uid = some d ∧ d.state = .running ∧ d.core = s.arg.b ∧ d.faulted = false ∧
      d.stage = c.stage ∧ d.acc = c.acc ∧ d.score = c.score ∧ d.handles = c.handles ∧ d.tiles = c.tiles ∧ t.mem = s.mem)

/-- R325, R328, R329, R333 to R335: a timer's deadline sets its pending bit and disarms it; the deadline of a `wev` ends it with bit 31 alone unless a
selected event has come, whose bits it then holds and consumes; that of a `wtm` ends it with 0; a correction of stage time is
slewed; a debugger halts, resumes and steps a context. -/
def Sys2Proof.Claims.TimeAndDebugResults : Prop :=
  (∀ s c h d, ActsOn s c h → QuietCompany c → s.arg.c < 4 → h.timers.getD s.arg.c none = some d → d ≤ s.deadlineVt c →
    Machine.exec .timerExpiry s = .next (s.setCompany (c.setChorus
      { h with timers := updAt h.timers s.arg.c (fun _ => none), pending := h.pending ||| (1#7 <<< s.arg.c) }))) ∧
  (∀ s c h p m d vd, ActsOn s c h → Shaped h → Apart h → OthersResident h p → p ∈ h.splits → s.arg.v.setWidth 32 = p.members → p.wait = .wev m d vd → d ≤ s.deadlineVt c →
    ∃ g, Machine.exec .wevDeadline s = .next (s.setCompany (c.setChorus g)) ∧
      Ended h g p vd (if h.pending &&& m = 0 then 0x80000000 else (h.pending &&& m).setWidth 32) (h.pending &&& ~~~m)) ∧
  (∀ s c h p d vd, ActsOn s c h → Shaped h → Apart h → OthersResident h p → p ∈ h.splits → s.arg.v.setWidth 32 = p.members → p.wait = .wtm d vd → d ≤ s.deadlineVt c →
    ∃ g, Machine.exec .wtmDeadline s = .next (s.setCompany (c.setChorus g)) ∧ Ended h g p vd 0 h.pending) ∧
  (∀ s e, s.arg.x = .error e → Machine.exec .stageTimeCorrection s = .next { s with slew := e * ticksPerNs }) ∧
  (∀ s c, s.context? s.arg.a = some c → c.onStage = true → c.debugHalted = false →
    (s.curtain = false → ∃ t, Machine.exec .debugHalt s = .next t ∧ DebugStopped s t c) ∧
    (s.curtain = true → Machine.exec .debugHalt s = .next (ctxWith s c.id (fun d => { d with debugHalted := true, stepping := none, stepped := false })))) ∧
  (∀ s c rest, s.agenda = .stepEnd c.id :: rest → s.context? c.id = some c → c.onStage = true → c.debugHalted = false → s.curtain = false →
    ∃ t, Machine.step s = .next t ∧ DebugStopped { s with agenda := rest } t c) ∧
  (∀ s c, s.context? s.arg.a = some c →
    ∃ t d, Machine.exec .debugResume s = .next t ∧ t = { s with contexts := t.contexts, companies := t.companies } ∧ Resettled s t c ∧ t.context? c.id = some d ∧
      d = { c with debugHalted := false, stepping := none, stepped := false, board := d.board, responses := d.responses } ∧ Entered s c d) ∧
  (∀ s c h x p, s.company? s.arg.a = some c → c.chorus? s.arg.b = some h → s.context? c.ctx = some x → x.debugHalted = true → x.onStage = true → s.curtain = false →
    h.splits.find? (fun q => q.state == .running) = some p → h.isReady = true →
    ∃ t d, Machine.exec .debugStep s = .next t ∧ t = { s with contexts := t.contexts, companies := t.companies } ∧ Resettled s t x ∧ t.context? x.id = some d ∧
      d = { x with debugHalted := false, stepping := some (c.uid, h.index, p.members), stepped := false, board := d.board, responses := d.responses } ∧ Entered s x d) ∧
  (∀ (h : Chorus) vt, h.halted = none → h.ended = false → h.timers.length = 4 →
    (∀ p, p ∈ h.splits → p.wait = .none) →
    ∃ g, h.passAll vt = g ∧ g = { h with timers := g.timers, pending := g.pending } ∧
      ∀ k d, k < 4 → h.timers.getD k none = some d →
        (d ≤ vt → g.timers.getD k none = none ∧ g.pending.getLsbD k = true) ∧ (vt < d → g.timers.getD k none = some d ∧ g.pending.getLsbD k = h.pending.getLsbD k)) ∧
  (∀ s d rest, s.agenda = .idle :: rest → s.curtain = false → d = idleTicks →
    ∃ t, Machine.step s = .next t ∧ Slewed { s with agenda := rest } t d)

/-- R135, R315, R324, R325, R328, R329, R333 to R338, R340 to R346: images, pre-emption, deadlines and debuggers. Beyond the rules it follows
the model's choices of log entries 12, 41, 43 to 45, 47 to 49, 54, 58, 72, 74, 76 and 78. -/
def Obligations.CheckpointPreemptionTimeAndDebugEvents : Prop := CheckpointAndWatchdogResults ∧ PreemptionResults ∧ TimeAndDebugResults

/-! ## Events of the call board, of the links and of multicast (R336, R376 to R386) -/

namespace Sys2Proof.Claims

/-- A message that has not been seen before reaches the device from another one, and is no retry. -/
structure NewMessage (s : State) (m : Message) (c : Context) : Prop where
  payload : s.arg.x = .message m
  foreign : m.srcDev ≠ s.deviceId
  fresh : s.memo? m.srcDev m.ident = none ∧ s.arg.a ≠ 1
  clocks : s.curtain = false
  context : s.context? m.destCtx.toNat = some c ∧ c.id = m.destCtx.toNat

/-- The kinds of notice: HOLD, BUSY and REFUSED (R385). -/
def Notice (m : Message) : Prop := m.kind = 2 ∨ m.kind = 3 ∨ m.kind = 4

/-- The permit of the message's channel accepts its source (R384): bit 31 opens it, and bits 30 and 29 let any device and any context
through. -/
def Permitted (c : Context) (m : Message) : Prop :=
  ∃ p, c.permits.find? (fun e => e.1 == m.channel.toNat) = some p ∧ p.2.getLsbD 31 = true ∧
    (p.2.getLsbD 30 = true ∨ p.2.extractLsb' 0 12 = m.srcDev) ∧ (p.2.getLsbD 29 = true ∨ p.2.extractLsb' 12 12 = m.srcCtx)

/-- The stamp of what arrives for a context now (R336), in ticks of `vt`. -/
def stampNow (s : State) (c : Context) : Nat := if c.onStage ∧ c.debugHalted = false ∧ s.curtain = false then c.vt else c.vt + (s.now - c.stopAt)

/-- The entry that a message makes on the board. -/
structure BoardOf (s : State) (c : Context) (m : Message) (e : BoardEntry) : Prop where
  message : e.msg = { m with stamp := BitVec.ofNat 64 (stampNow s c / ticksPerNs) }
  state : e.taken = false ∧ e.visible = false ∧ e.stampTicks = stampNow s c ∧ e.arrivedAt = s.now
  owed : e.owed = decide (m.patience ≠ 0) ∧ e.deadline = s.now + m.patience.toNat * (1000 * ticksPerNs) ∧ e.holds = 0
  off : e.wasOff = decide (c.onStage = false) ∧ e.passed = false

/-- A notice of a kind that answers `m` goes out. -/
def NoticeSent (s t : State) (m : Message) (kind : BitVec 4) (ext : BitVec 16) : Prop :=
  ∃ o r, o ∈ t.sent ∧ o.what = .message r ∧ r.kind = kind ∧ r.destDev = m.srcDev ∧ r.destCtx = m.srcCtx ∧ r.srcDev = s.deviceId ∧ r.replyTo = m.ident ∧
    r.ext = ext ∧ r.channel = m.channel ∧ r.length = 0 ∧ r.patience = 0

/-- A port serves a destination: the route table has it for that, or for every destination, it is up or degraded, and the virtual channel is
not stopped (R377, R378, R380). -/
def LiveFor (s : State) (dest : BitVec 12) (vc n : Nat) : Prop :=
  ∃ r p, r ∈ s.routes ∧ (r.1 = dest.toNat ∨ r.1 = 4096) ∧ n ∈ r.2 ∧ p ∈ s.ports ∧ p.num = n ∧ (p.state = 2 ∨ p.state = 3) ∧ p.xoff.getLsbD vc = false

/-- An answer has gone out on the response channel of a port that serves its destination, or waits for one (R377). -/
def AnswerOut (s t : State) (a : Answer) : Prop :=
  ((∀ n, ¬ LiveFor s a.dest 1 n) ∧ t.replies = s.replies ++ [a] ∧ t.outputs = s.outputs) ∨
    ∃ n, LiveFor s a.dest 1 n ∧ t.outputs = s.outputs ++ [.answer n a] ∧ t.replies = s.replies

/-- Nothing but the links have changed: an answer has gone out, or waits. -/
def OnlyAnswers (s t : State) (a : Answer) : Prop :=
  t = { s with outputs := t.outputs, ports := t.ports, replies := t.replies, free := t.free } ∧ AnswerOut s t a

/-- The answer that the memo holds (R379). -/
def answerOf (k : Memo) : Answer :=
  { dest := k.src, ident := k.ident, status := k.status, data := k.data, poisoned := k.poisoned, tag := k.tag, guarded := k.guarded }

end Sys2Proof.Claims

/-- R332, R336, R379, R384 to R386: a message that a permit accepts is stamped and stands on the call board of its context, one that none accepts is
answered with REFUSED and one that finds the board full with BUSY, and a notice that finds it full is dropped and counted; a message is visible once
`vt` reaches its stamp, with bit 5 pending in every live chorus; at its action point the board answers an owed reply with HOLD and the original
patience, or with BUSY, if its context is stopped then or has been off stage; else it acts only once the context goes off stage. Beyond the rules it
follows the model's choices of log entries 26, 35, 51 and 87. -/
def Obligations.CallBoardResults : Prop :=
  (∀ s m c, NewMessage s m c →
    (c.board.length < 64 → (Notice m ∨ Permitted c m) →
      ∃ t d e, Machine.exec .messageArrival s = .next t ∧ t.context? c.id = some d ∧ d = { c with board := c.board ++ [e] } ∧ BoardOf s c m e ∧
        (∃ k, k ∈ t.memos ∧ k.src = m.srcDev ∧ k.ident = m.ident ∧ k.status = .ok) ∧
        AnswerOut s t { dest := m.srcDev, ident := m.ident, status := .ok, data := [], poisoned := false, tag := 0, guarded := false } ∧
        t.companies = s.companies ∧ t.mem = s.mem) ∧
    (¬ Notice m → ¬ Permitted c m →
      ∃ t, Machine.exec .messageArrival s = .next t ∧ t.contexts = s.contexts ∧ NoticeSent s t m 4 0) ∧
    (¬ Notice m → Permitted c m → 64 ≤ c.board.length →
      ∃ t, Machine.exec .messageArrival s = .next t ∧ t.contexts = s.contexts ∧ NoticeSent s t m 3 0) ∧
    (Notice m → 64 ≤ c.board.length →
      ∃ t, Machine.exec .messageArrival s = .next t ∧
        t.contexts = (ctxWith s c.id (fun d => { d with noticeLost := (d.noticeLost + 1) % 2 ^ 64 })).contexts)) ∧
  (∀ s m k, s.arg.x = .message m → m.srcDev ≠ s.deviceId → s.curtain = false → s.memo? m.srcDev m.ident = some k →
    ∃ t, Machine.exec .messageArrival s = .next t ∧ OnlyAnswers s t (answerOf k)) ∧
  (∀ s m c, s.arg.x = .message m → m.srcDev = s.deviceId → s.context? m.destCtx.toNat = some c → c.id = m.destCtx.toNat → c.board.length < 64 →
    (Notice m ∨ Permitted c m) → (∀ o, o ∈ s.sent → ¬ (o.dest = m.destDev ∧ o.ident = m.ident ∧ o.plainRead = false)) →
    ∃ t d e, Machine.exec .messageArrival s = .next t ∧ t.context? c.id = some d ∧ d = { c with board := c.board ++ [e] } ∧ BoardOf s c m e) ∧
  (∀ s c st k, s.context? s.arg.a = some c → c.nextOutside = some (st, k, true) → c.onStage = true → c.debugHalted = false → s.curtain = false → st ≤ c.vt →
    (∀ d, d ∈ s.companies → d.ctx = c.id → QuietCompany d) → s.companies.Pairwise (fun d e => d.uid ≠ e.uid) →
    Machine.exec .outsideEventVisible s = .next { ctxWith s c.id (fun d => { d with board := d.board.map (fun e => if e.order = k then { e with visible := true } else e) }) with
      companies := s.companies.map (fun d => if d.ctx = c.id then { d with choruses := d.choruses.map (fun h =>
        if h.halted ≠ none ∨ h.ended = true then h else { h with pending := h.pending ||| 0x20 }) } else d) }) ∧
  (∀ s c st k r, s.context? s.arg.a = some c → c.nextOutside = some (st, k, false) → c.onStage = true → c.debugHalted = false → s.curtain = false → st ≤ c.vt →
    c.responses.find? (fun q => q.order == k) = some r →
    let u := ctxWith s c.id (fun d => { d with responses := d.responses.filter (fun q => q.order != k) })
    Machine.exec .outsideEventVisible s = .next (if r.resp.status = .indeterminate then u.lost r.answers
      else match r.ack with | some k => u.acknowledge k | none => u.deliver r.answers r.resp)) ∧
  (∀ s m, s.arg.x = .message m → m.srcDev ≠ s.deviceId → s.curtain = true →
    Machine.exec .messageArrival s = .next { s with waiting := s.waiting ++ [.event .messageArrival s.arg] }) ∧
  (∀ s c e, s.context? s.arg.a = some c → c.owedEntry? (BitVec.ofNat 12 s.arg.b) (s.arg.v.setWidth 32) = some e → e.owed = true →
    (if e.msg.patience.toNat ≤ 4 ∧ e.holds = 0 then e.deadline - e.msg.patience.toNat * (1000 * ticksPerNs) else e.deadline - 4000 * ticksPerNs) ≤ s.now →
    s.now < e.deadline → (∀ d, d ∈ s.contexts → d.id = c.id → d = c) →
    let acts : Prop := e.wasOff = true ∨ (e.passed = false ∧ ¬ (c.onStage = true ∧ c.debugHalted = false ∧ s.curtain = false))
    (¬ acts → Machine.exec .callBoardActionPoint s =
      .next (ctxWith s c.id (fun d => { d with board := d.board.map (fun f => if f.order = e.order then { f with passed := true } else f) }))) ∧
    (acts → e.msg.dilation = true → e.holds < 15 → ∃ t d f, Machine.exec .callBoardActionPoint s = .next t ∧ NoticeSent s t e.msg 2 e.msg.patience ∧
      t.context? c.id = some d ∧ f ∈ d.board ∧ f = { e with holds := e.holds + 1, deadline := e.deadline + e.msg.patience.toNat * 1000 * ticksPerNs, passed := false }) ∧
    (acts → e.msg.dilation = false ∨ 15 ≤ e.holds → ∃ t d, Machine.exec .callBoardActionPoint s = .next t ∧ NoticeSent s t e.msg 3 0 ∧ t.context? c.id = some d ∧
      ∀ f, f ∈ d.board → ¬ (f.owed = true ∧ f.msg.srcDev = e.msg.srcDev ∧ f.msg.ident = e.msg.ident)))

namespace Sys2Proof.Claims

/-- The transaction that an answer is of. -/
structure Answers (s : State) (a : LinkResponse) (o : Outstanding) : Prop where
  payload : s.arg.x = .response a
  found : s.sent.find? (fun o => o.dest == a.dest && o.ident == a.ident && o.plainRead == a.read && o.port.isSome) = some o
  nothingHeld : (∀ p, p ∈ s.sent → p.held = false) ∧ s.replies = []

/-- The transactions without one. -/
def sentWithout (s : State) (o : Outstanding) : List Outstanding := s.sent.filter (fun p => !(p.dest == o.dest && p.ident == o.ident && p.plainRead == o.plainRead))

/-- The chorus of a lost outcome has halted (R379): cause 0x10, `tval` all ones, and `epc` the instruction that sent it. -/
def HaltedLost (t : State) (u ch : Nat) (epc : Word) : Prop :=
  ∃ g, t.chorus? u ch = some g ∧ g.halted = some 0x10 ∧ g.cause = 0x10 ∧ g.tval = 0xFFFFFFFF ∧ g.epc = epc

/-- A peer's transaction reaches the device. -/
structure PeerAsks (s : State) (r : LinkRequest) : Prop where
  payload : s.arg.x = .request r
  clocks : s.curtain = false
  context : s.context? r.ctx ≠ none

/-- A peer's transaction with an effect has not been seen before, and is no retry. -/
def NewAsk (s : State) (r : LinkRequest) : Prop := s.memo? r.src r.ident = none ∧ r.retry = false

/-- The outcome of a transaction is remembered and answered, under the tag and G of the request (R261, R379). -/
def Remembered (s t : State) (k : Memo) : Prop := k ∈ t.memos ∧ k.at_ = s.now ∧ AnswerOut s t (answerOf k)

/-- The outcome of a peer's request, and that of a multicast write, as the memo keeps it. -/
def outcome (s : State) (r : LinkRequest) (st : LinkStatus) (data : List Byte) : Memo :=
  { src := r.src, ident := r.ident, status := st, data := data, poisoned := false, tag := r.tag, guarded := r.guarded, at_ := s.now }
def mcastOutcome (s : State) (m : MulticastWrite) (st : LinkStatus) (data : List Byte) : Memo :=
  { src := m.src, ident := m.ident, status := st, data := data, poisoned := false, tag := 0, guarded := false, at_ := s.now }

/-- The answer to a peer's read. -/
def readAnswer (r : LinkRequest) (st : LinkStatus) (data : List Byte) (bad : Bool) : Answer :=
  { dest := r.src, ident := r.ident, status := st, data := data, poisoned := bad, tag := r.tag, guarded := r.guarded }

end Sys2Proof.Claims

/-- R258, R261, R376, R379: an answer ends its transaction, and its data goes where the element's own access would have put it, zero when it was
denied; a lost outcome halts the chorus that asked; a peer's read, write and atomic act on a context, a denied read gives zeros, and a
transaction that is remembered is answered again without effect; an entry of the memo goes after 1 ms. -/
def Sys2Proof.Claims.LinkTransactionResults : Prop :=
  (∀ s a o u ch k x c d f e bit cell wr va pr ow tg g n, Answers s a o → o.asker = .fly u ch k x → o.what = .access wr va pr ow tg g (.read n) →
    (a.status = .ok ∨ a.status = .denied) → s.company? u = some c → QuietCompany c → s.context? c.ctx = some d →
    d.onStage = true → d.debugHalted = false → s.curtain = false →
    (ch, f) ∈ c.engine → f.uid = k → f.state ≠ .done → (∀ q, q ∈ c.engine → q.2.uid = k → q = (ch, f)) → (f.op = .inn ∨ f.op = .gth) →
    (f.elems c).find? (fun q => q.idx == x) = some e → e.bit = some bit → e.cell = some cell → n = (bit + e.width - 1) / 8 + 1 - bit / 8 → f.denials = [] →
    ∃ t w b, Machine.exec .linkResponseArrival s = .next t ∧ t = { s with sent := sentWithout s o, companies := t.companies } ∧ t.company? u = some w ∧
      w = { c with
        stage := c.stage.writeBits cell e.width (if a.status = .denied then 0 else ofBytesLE a.data / 2 ^ (bit % 8) % 2 ^ e.width)
        stagePoison := w.stagePoison, engine := engineWith c f b } ∧
      b = { f with
        remote := f.remote.filter (· != x), todo := f.todo.filter (· != x), denied := f.denied || decide (a.status = .denied)
        stained := b.stained, stainedScore := b.stainedScore }) ∧
  (∀ s a o u ch k x c d, Answers s a o → o.asker = .fly u ch k x → s.company? u = some c → QuietCompany c → s.context? c.ctx = some d → d.id = c.ctx →
    ¬ (d.onStage = true ∧ d.debugHalted = false ∧ s.curtain = false) →
    ∃ t e, Machine.exec .linkResponseArrival s = .next t ∧ t = { s with sent := sentWithout s o, contexts := t.contexts, uid := s.uid + 1 } ∧ t.context? c.ctx = some e ∧
      e = { d with responses := d.responses ++ [{ resp := a, ack := none, answers := o, stampTicks := d.vt + (s.now - d.stopAt), arrivedAt := s.now, order := s.uid }] }) ∧
  (∀ s a o ctx u ch epc c, Answers s a o → o.asker = .message ctx u ch epc → a.status = .indeterminate → s.company? u = some c → QuietTroupe s c →
    (∃ h, c.chorus? ch = some h ∧ h.halted = none) → ∃ t, Machine.exec .linkResponseArrival s = .next t ∧ HaltedLost t u ch epc ∧ t.sent = sentWithout s o) ∧
  (∀ s o ctx u ch epc c, s.sent.find? (fun o => o.dest.toNat == s.arg.a && o.ident == s.arg.v.setWidth 32 && o.plainRead == (s.arg.b == 1)) = some o →
    o.sentAt + 900000 * ticksPerNs ≤ s.now → (∀ p, p ∈ s.sent → p.held = false) → o.asker = .message ctx u ch epc → s.company? u = some c → QuietTroupe s c →
    (∃ h, c.chorus? ch = some h ∧ h.halted = none) → ∃ t, Machine.exec .linkResponseTimeout s = .next t ∧ HaltedLost t u ch epc ∧ t.sent = sentWithout s o) ∧
  (∀ s r n ps u v, PeerAsks s r → r.op = .read n → s.peerPlace r r.addr.toNat n .read = (some ps, u) →
    let locs := ps.flatMap (fun p => p.2)
    (∀ l, l ∈ locs → OwnKey v r.ctx l) →
    (u.peerCheck r ps = (some true, v) → ∃ t, Machine.exec .linkRequestArrival s = .next t ∧
      OnlyAnswers { v with lines := t.lines } t (readAnswer r .ok (locs.map v.mem.read) (locs.any (fun l => poisoned v.memPoison l 1)))) ∧
    (u.peerCheck r ps = (some false, v) → ∃ t, Machine.exec .linkRequestArrival s = .next t ∧
      OnlyAnswers (ctxWith v r.ctx (fun c => { c with denyCnt := (c.denyCnt + 1) % 2 ^ 64 })) t (readAnswer r .denied (List.replicate n 0) false))) ∧
  (∀ s r bs bad e locs u, PeerAsks s r → NewAsk s r → r.op = .write bs bad → s.peerPlace r r.addr.toNat bs.length .write = (some [(e, locs)], u) →
    locs.Nodup → locs.length = bs.length → (∀ l, l ∈ locs → OwnKey u r.ctx l) → u.mem.wf = true →
    (e.g = false ∨ (r.owner = true ∧ r.principal = 0) → ∃ t, Machine.exec .linkRequestArrival s = .next t ∧
      (∀ j, j < bs.length → t.mem.read (locs.getD j 0) = bs.getD j 0) ∧ (∀ x, x ∉ locs → t.mem.read x = u.mem.read x) ∧ Remembered s t (outcome s r .ok []) ∧
      (∀ l q, l ∈ locs → isHbm l = true → q ∈ t.lines → q.line = l / 128 → q.tag = r.tag ∧ q.g = r.guarded ∧ q.key = some r.ctx) ∧
      t.companies = s.companies ∧ t.contexts = s.contexts) ∧
    (e.g = true → ¬ (r.owner = true ∧ r.principal = 0) → ∃ t, Machine.exec .linkRequestArrival s = .next t ∧ t.mem = u.mem ∧
      Remembered s t (outcome s r .negative []))) ∧
  (∀ s r aop b x e loc u, PeerAsks s r → NewAsk s r → r.op = .atomic aop b x → s.peerPlace r r.addr.toNat 4 .rmw = (some [(e, [loc, loc + 1, loc + 2, loc + 3])], u) →
    (e.g = false ∨ (r.owner = true ∧ r.principal = 0)) → (∀ j, j < 4 → OwnKey u r.ctx (loc + j) ∧ poisoned u.memPoison (loc + j) 1 = false) → u.mem.wf = true →
    (∀ j, j < 4 → u.keptTag e (128 * ((loc + j) / 128)) = none) →
    ∃ t, Machine.exec .linkRequestArrival s = .next t ∧ t.mem.readWord loc = atomNew aop (u.mem.readWord loc) b x ∧
      (∀ y, (y < loc ∨ loc + 4 ≤ y) → t.mem.read y = u.mem.read y) ∧ Remembered s t (outcome s r .ok (u.mem.readBytes loc 4))) ∧
  (∀ s r k, s.arg.x = .request r → s.curtain = false → (∀ n, r.op ≠ .read n) → s.memo? r.src r.ident = some k →
    ∃ t, Machine.exec .linkRequestArrival s = .next t ∧ OnlyAnswers s t (answerOf k)) ∧
  (∀ s r, s.arg.x = .request r → s.curtain = true →
    Machine.exec .linkRequestArrival s = .next { s with waiting := s.waiting ++ [.event .linkRequestArrival s.arg] }) ∧
  (∀ s r, s.arg.x = .request r → s.curtain = false → (∀ n, r.op ≠ .read n) → s.memo? r.src r.ident = none → r.retry = true →
    ∃ t, Machine.exec .linkRequestArrival s = .next t ∧ OnlyAnswers s t (readAnswer r .indeterminate [] false)) ∧
  (∀ s, Machine.exec .memoEntryExpiry s = .next { s with
    memos := s.memos.filter (fun m => !(m.src.toNat == s.arg.a && m.ident == s.arg.v.setWidth 32 && decide (m.at_ + 1000000 * ticksPerNs ≤ s.now))) })

namespace Sys2Proof.Claims

/-- The state with a port changed. -/
def portWith (s : State) (n : Nat) (f : Port → Port) : State := { s with ports := s.ports.map (fun p => if p.num = n then f p else p) }

/-- The transaction `o` has gone out as `p` on a port that serves its destination, other than port `out`, with the retry flag where it is sent again
and is no read; or, where there is none, it waits for one (R377, R380). -/
def SentOn (s t : State) (o p : Outstanding) (out : Option Nat) (again : Bool) : Prop :=
  p ∈ t.sent ∧
    (((∀ n, LiveFor s o.dest o.what.vc n → some n = out) ∧ p = { o with held := true, port := none, retried := o.retried || again }) ∨
      ∃ n new, LiveFor s o.dest o.what.vc n ∧ some n ≠ out ∧ p = { o with held := false, port := some n, retried := o.retried || again, sentAt := p.sentAt } ∧
        (again = true → p.sentAt = o.sentAt) ∧ t.outputs = s.outputs ++ new ∧ .transaction n o.dest o.ident (again && !o.plainRead) o.what ∈ new)

/-- A transaction is no message to the device itself. -/
def Abroad (s : State) (o : Outstanding) : Prop := ∀ m, o.what = .message m → m.destDev ≠ s.deviceId

/-- A member of the group `e` answers a multicast write with a reason, and does nothing else (R381). -/
def Declines (s : State) (m : MulticastWrite) (reason : Byte) : Prop :=
  ∃ t, Machine.exec .multicastWriteArrival s = .next t ∧
    t = { s with memos := t.memos, outputs := t.outputs, ports := t.ports, replies := t.replies, free := t.free } ∧ Remembered s t (mcastOutcome s m .negative [reason])

/-- A multicast write of one element reaches the device, which has an entry of its group for a context that exists. -/
structure Reaches (s : State) (m : MulticastWrite) (e : GroupEntry) (off width code : Nat) : Prop where
  payload : s.arg.x = .multicast m ∧ s.curtain = false
  fresh : s.memo? m.src m.ident = none ∧ s.arg.a ≠ 1
  entry : s.groups.find? (fun g => g.group == m.group) = some e ∧ s.context? e.ctx ≠ none ∧ ∀ r, r ∈ s.revoked → r.1.group = m.group → r.2 ≠ s.now
  element : m.writes = [(off, width, code)] ∧ 0 < width ∧ width ≤ 32

end Sys2Proof.Claims

/-- R377, R378, R380 to R382, R391: a replayed flit goes out again and counts, and the eighth replay of one flit and 1 µs without lock fail the port,
whose transactions without an answer are sent again with the retry flag; XOFF and XON stop and
release a virtual channel; a trained port comes up with its partner and its route; a lost lane degrades it; group entries are written
and removed, and a member applies a multicast write once, or answers the reason why not. -/
def Sys2Proof.Claims.PortAndMulticastResults : Prop :=
  (∀ s, ∃ again, Machine.exec .linkFlitReplay s = .next (portWith { s with outputs := s.outputs ++ again } s.arg.a (fun p =>
    { p with
      crc := min (p.crc + 1) (2 ^ 64 - 1), replay := min (p.replay + 1) (2 ^ 64 - 1)
      errBeat := BitVec.ofNat 64 (s.arg.d % 8 + s.arg.b % 4 * 2 ^ 8 + s.arg.c % 4096 * 2 ^ 32)
      row := if p.rowSeq = s.arg.c ∧ p.row ≠ 0 then p.row + 1 else 1, rowSeq := s.arg.c })) ∧
    (∀ p b o, s.port? s.arg.a = some p → p.buffer.find? (fun b => b.1 == BitVec.ofNat 12 s.arg.c) = some b → s.outputs[b.2]? = some o → again = [o]) ∧
    ((∀ p b, s.port? s.arg.a = some p → b ∈ p.buffer → b.1 ≠ BitVec.ofNat 12 s.arg.c) → again = [])) ∧
  (∀ s p, s.port? s.arg.a = some p → p.state ≠ 4 → (8 ≤ p.row ∨ ∃ d, p.lockLost = some d ∧ d + 1000 * ticksPerNs ≤ s.now) → s.curtain = false →
    s.sent.Pairwise (fun o q => ¬ (o.dest = q.dest ∧ o.ident = q.ident ∧ o.plainRead = q.plainRead)) →
    ((∀ o, o ∈ s.sent → o.port ≠ some p.num) → Machine.exec .linkPortFail s = .next (portWith s p.num (fun q => { q with state := 4, lanes := 0, buffer := [] }))) ∧
    ∃ t, Machine.exec .linkPortFail s = .next t ∧
      t = { s with sent := t.sent, ports := t.ports, outputs := t.outputs, free := t.free, agenda := t.agenda } ∧ t.sent.length = s.sent.length ∧
      (∀ q, q ∈ t.ports → q.num = p.num → q.state = 4 ∧ q.lanes = 0) ∧
      (∀ o, o ∈ s.sent → o.port = some p.num → s.now < o.sentAt + 900000 * ticksPerNs → Abroad s o → ∃ q, SentOn s t o q (some p.num) true) ∧
      ∀ o, o ∈ s.sent → o.port ≠ some p.num ∨ o.sentAt + 900000 * ticksPerNs ≤ s.now → o ∈ t.sent) ∧
  (∀ s, Machine.exec .linkXoff s = .next (portWith s s.arg.a (fun p => { p with xoff := p.xoff ||| (1#4 <<< (s.arg.b % 4)) }))) ∧
  (∀ s, (∀ o, o ∈ s.sent → o.held = false) → s.replies = [] →
    Machine.exec .linkXon s = .next (portWith s s.arg.a (fun p => { p with xoff := p.xoff &&& ~~~(1#4 <<< (s.arg.b % 4)) }))) ∧
  (∀ s o n, s.sent = [o] → o.held = true → Abroad s o → s.replies = [] → s.curtain = false →
    let u := portWith s s.arg.a (fun p => { p with xoff := p.xoff &&& ~~~(1#4 <<< (s.arg.b % 4)) })
    LiveFor u o.dest o.what.vc n → ∃ t q, Machine.exec .linkXon s = .next t ∧ SentOn u t o q none o.retried) ∧
  (∀ s p, s.port? s.arg.a = some p → p.state ≠ 2 → p.state ≠ 3 → 0 < s.arg.b → s.arg.b ≤ 8 → (∀ o, o ∈ s.sent → o.held = false) → s.replies = [] →
    ∃ t, Machine.exec .linkTrainingComplete s = .next t ∧ t = { s with ports := t.ports, routes := t.routes } ∧
      t.ports = (portWith s p.num (fun q => { q with
        state := if s.arg.b = 8 then 2 else 3, lanes := s.arg.b, xoff := 0, peer := s.arg.v &&& 0x8FFF, row := 0, lockLost := none
        seq := 0, acked := 0, buffer := [] })).ports ∧
      (s.arg.v.getLsbD 15 = false → ∃ r, r ∈ t.routes ∧ r.1 = s.arg.v.toNat % 4096 ∧ p.num ∈ r.2)) ∧
  (∀ s, Machine.exec .linkLaneLoss s = .next (portWith s s.arg.a (fun p =>
    if (p.state = 2 ∨ p.state = 3) ∧ s.arg.b ≠ 0 ∧ s.arg.b < p.lanes then { p with state := 3, lanes := s.arg.b } else p))) ∧
  (∀ s, s.arg.b = 1 → Machine.exec .linkLockLoss s = .next (portWith s s.arg.a (fun p =>
    if p.state ≠ 4 ∧ (8 ≤ p.row ∨ ∃ d, p.lockLost = some d ∧ d + 1000 * ticksPerNs ≤ s.now) then p else { p with lockLost := none }))) ∧
  (∀ s, s.arg.b ≠ 1 → Machine.exec .linkLockLoss s = .next (portWith s s.arg.a (fun p =>
    if (p.state = 2 ∨ p.state = 3) ∧ p.lockLost = none then { p with lockLost := some s.now } else p))) ∧
  (∀ s e, s.arg.x = .group e false → ∃ t, Machine.exec .multicastGroupEntryWrite s = .next t ∧ t = { s with groups := t.groups, revoked := t.revoked } ∧
    t.groups = s.groups.filter (fun g => g.group != e.group) ∧ ∀ g, g ∈ s.groups → g.group = e.group → (g, s.now) ∈ t.revoked) ∧
  (∀ s e, s.arg.x = .group e true → e.base.toNat % 4096 = 0 → s.groups.length < 1024 →
    ∃ t, Machine.exec .multicastGroupEntryWrite s = .next t ∧ t = { s with groups := t.groups, revoked := t.revoked } ∧
      t.groups = s.groups.filter (fun g => g.group != e.group) ++ [e]) ∧
  (∀ s e, s.arg.x = .group e true → e.base.toNat % 4096 ≠ 0 → Machine.exec .multicastGroupEntryWrite s = .next s) ∧
  (∀ s m e off width code p loc u, Reaches s m e off width code → m.poisoned = false →
    let n := (off % 8 + width + 7) / 8
    let q : LinkRequest := mcastRequest m e (off, width, code)
    off / 8 + n ≤ e.length * 4096 → e.base.toNat + off / 8 < 2 ^ 64 →
    s.peerPlace q (e.base.toNat + off / 8) n .write = (some [(p, (List.range n).map (loc + ·))], u) → (p.g = false ∨ (m.owner = true ∧ m.principal = 0)) →
    (∀ j, j < n → OwnKey u e.ctx (loc + j)) → u.mem.wf = true →
    ∃ t, Machine.exec .multicastWriteArrival s = .next t ∧ t.mem.readBits (8 * loc + off % 8) width = code % 2 ^ width ∧
      (∀ b, b < 8 * n → (b < off % 8 ∨ off % 8 + width ≤ b) → t.mem.readBits (8 * loc + b) 1 = u.mem.readBits (8 * loc + b) 1) ∧
      (∀ x, (x < loc ∨ loc + n ≤ x) → t.mem.read x = u.mem.read x) ∧ Remembered s t (mcastOutcome s m .ok [])) ∧
  (∀ s m, s.arg.x = .multicast m → s.curtain = false → s.memo? m.src m.ident = none → s.arg.a ≠ 1 →
    (∀ g, g ∈ s.groups → g.group = m.group → s.context? g.ctx = none) → (∀ r, r ∈ s.revoked → r.1.group = m.group → r.2 ≠ s.now) → Declines s m 1) ∧
  (∀ s m e off width code ps u, Reaches s m e off width code →
    let n := (off % 8 + width + 7) / 8
    let q : LinkRequest := mcastRequest m e (off, width, code)
    (e.length * 4096 < off / 8 + n → Declines s m 3) ∧
    (off / 8 + n ≤ e.length * 4096 → s.peerPlace q (e.base.toNat + off / 8) n .write = (none, u) → Declines s m 3) ∧
    (off / 8 + n ≤ e.length * 4096 → s.peerPlace q (e.base.toNat + off / 8) n .write = (some ps, u) → (∃ p, p ∈ ps ∧ p.1.g = true) →
      ¬ (m.owner = true ∧ m.principal = 0) → Declines s m 2) ∧
    (off / 8 + n ≤ e.length * 4096 → s.peerPlace q (e.base.toNat + off / 8) n .write = (some ps, u) →
      ((∀ p, p ∈ ps → p.1.g = false) ∨ (m.owner = true ∧ m.principal = 0)) → m.poisoned = true → Declines s m 5)) ∧
  (∀ s m e r, s.arg.x = .multicast m → s.curtain = false → s.memo? m.src m.ident = none → s.arg.a ≠ 1 → m.writes = [] → m.poisoned = false →
    s.revoked = [(e, r)] → r = s.now → e.group = m.group → s.context? e.ctx ≠ none →
    ∃ t, Machine.exec .multicastWriteArrival s = .next t ∧ Remembered s t (mcastOutcome s m .ok []))

/-- R258, R261, R376 to R382, R391: link transactions, ports and multicast. Beyond the rules it follows the model's choices of log entries 21, 26,
50, 87, 93, 110 and 111. -/
def Obligations.LinkAndMulticastEvents : Prop := LinkTransactionResults ∧ PortAndMulticastResults

/-! ## Events of power, reset, firmware, the curtain, debuggers and errors (R220, R221, R262, R263, R348, R351, R352, R360 to R373) -/

namespace Sys2Proof.Claims

/-- The state with a die, and with a cluster, changed. -/
def dieWith (s : State) (n : Nat) (f : Die → Die) : State := { s with dies := s.dies.map (fun d => if d.num = n then f d else d) }
def clusterWith (s : State) (n : Nat) (f : Cluster → Cluster) : State := { s with clusters := s.clusters.map (fun c => if c.num = n then f c else c) }

/-- The die of the event. -/
def DieOf (s : State) (d : Die) : Prop := s.dies.find? (fun d => d.num == s.arg.a) = some d ∧ (∀ e, e ∈ s.dies → e.num = d.num → e = d) ∧ s.arg.a < 8

/-- The context has begun to halt (R24, R340, R352, R372): every run of it that may end has ended with a record of kind 6 and status 0x10, any
other is to end so once it may; and with no run left it is halted, off the stage and without clusters. -/
structure HaltedWhole (s t : State) (id : Nat) : Prop where
  companies : ∀ k, k ∈ t.companies → ∀ r, r ∈ s.runs → r.ctx = id → r.ending = none → r.killed = none → MayEnd s r → ¬ (k.ctx = id ∧ k.run = r.id)
  waits : ∀ r, r ∈ s.runs → r.ctx = id → r.ending = none → r.killed = none → ¬ MayEnd s r → { r with killed := some (6, 0x10) } ∈ t.runs
  context : ∀ c, s.context? id = some c → c.leaving ≠ some .reset → ∃ d, t.context? id = some d ∧
    (∀ r, r ∈ s.runs → r.ctx = id → r.ending = none → r.killed = none → MayEnd s r →
      ∃ e, e ∈ d.records ∧ e.kind = 6 ∧ e.status = 0x10 ∧ e.run = r.id ∧ e.tag = r.tag) ∧
    ((∀ r, r ∈ s.runs → r.ctx = id → r.ending = none → r.killed = none ∧ MayEnd s r) → (c.state = .resident ∨ c.state = .saved) →
      d.state = .halted ∧ d.onStage = false ∧ d.partition = []) ∧
    ((∃ r, r ∈ s.runs ∧ r.ctx = id ∧ r.ending = none ∧ ¬ (r.killed = none ∧ MayEnd s r)) →
      d.leaving = some .halt ∧ d.state = c.state ∧ d.onStage = c.onStage)

/-- The context has halted at once (R364, R372): every run of it has ended with the record that was to end it, or one of kind 6 and
status 0x10, and it is off the stage and without clusters. -/
structure CutWhole (s t : State) (id : Nat) : Prop where
  companies : ∀ k, k ∈ t.companies → ∀ r, r ∈ s.runs → r.ctx = id → r.ending = none → ¬ (k.ctx = id ∧ k.run = r.id)
  context : ∀ c, s.context? id = some c → c.leaving ≠ some .reset → ∃ d, t.context? id = some d ∧
    (∀ r, r ∈ s.runs → r.ctx = id → r.ending = none →
      ∃ e, e ∈ d.records ∧ (e.kind, e.status) = r.killed.getD (6, 0x10) ∧ e.run = r.id ∧ e.tag = r.tag) ∧
    ((c.state = .resident ∨ c.state = .saved) → d.state = .halted ∧ d.onStage = false ∧ d.partition = [])

/-- An operation at the edge where the clock of its array stops: it keeps the arithmetic cycles that it has left (R361). -/
def opStopped (s : State) (k : Company) (o : MxOp) : MxOp := { o with left := (o.due - s.vtTicks k.ctx) / s.arithTicks k.core }

/-- An operation as the clock of its array starts: a step under way takes the cycles that it had left, each `a` ticks. -/
def opStarted (s : State) (k : Company) (a : Nat) (o : MxOp) : MxOp :=
  if o.started = true ∧ o.finished = false ∧ o.paused = false then { o with due := s.vtTicks k.ctx + o.left * a } else o

/-- The companies of a die whose clocks stop. -/
def clocksStopped (s : State) (die : Nat) : List Company :=
  s.companies.map (fun k => if k.core / 48 = die then { k with ops := k.ops.map (opStopped s k) } else k)

/-- A cluster at the edge where its arithmetic clock stops: the cycle that it is in has ended. -/
def windowEdge (s : State) (k : Cluster) : Cluster :=
  let a := s.arithTicks (8 * k.num)
  { k with windowAt := (k.windowAt + a - 1) / a * a }

/-- No core of the die is in the middle of a cycle. -/
def AtEdges (s : State) (die : Nat) : Prop := ∀ k, k ∈ s.cores → k.num / 48 = die → k.bay = 0

/-- The die is `f` of what it was, and its clocks stop each at its next edge (R361). -/
def PointChanges (s t : State) (die : Nat) (f : Die → Die) : Prop :=
  t.dies = (dieWith s die f).dies ∧ t.mem = s.mem ∧ t.contexts.map (fun c => c.id) = s.contexts.map (fun c => c.id) ∧
    (AtEdges s die → t = { s with
      dies := t.dies, companies := clocksStopped s die, outputs := t.outputs, thermalTrips := t.thermalTrips
      clusters := s.clusters.map (fun k => if k.num / 6 = die then windowEdge s k else k) })

end Sys2Proof.Claims

/-- R360, R361, R364: a change of point stops the clocks of its die for at most 2 µs and what the array had under way goes on at the new
length; firmware steps a die by one point at 95 °C and back below 90 °C; at 105 °C the hardware moves it to VF3 and the trip is
reported; at 115 °C every stage die loses its power and every context ends, until the trip is cleared, when the stacks hold zero. -/
def Sys2Proof.Claims.PointAndThermalResults : Prop :=
  (∀ s d, DieOf s d → d.powered = true → d.changing = none → s.arg.b < 4 → d.point ≠ s.arg.b →
    ∃ t, Machine.exec .vfPointChange s = .next t ∧ PointChanges s t s.arg.a (fun e => { e with changing := some (s.arg.b, s.now + 2000 * ticksPerNs) }) ∧
      t.outputs = s.outputs ∧ t.thermalTrips = s.thermalTrips) ∧
  (∀ s d p e, DieOf s d → d.changing = some (p, e) → ∃ t, Machine.exec .vfChangeComplete s = .next t ∧
    t = { s with dies := t.dies, companies := t.companies, clusters := t.clusters } ∧ t.dies = (dieWith s s.arg.a (fun x => { x with point := p, changing := none })).dies ∧
    t.clusters = s.clusters.map (fun k => if k.num / 6 = s.arg.a then { k with windowAt := k.windowAt * pointFactor p / pointFactor d.point } else k) ∧
    t.companies = s.companies.map (fun k => if k.core / 48 = s.arg.a ∧ k.state = .running then
      { k with ops := k.ops.map (opStarted s k (20000 * pointFactor p / 100)) } else k)) ∧
  (∀ s d, DieOf s d → d.powered = true → d.changing = none → (∀ k, d.lastStep = some k → k + 1000000 * ticksPerNs ≤ s.now) →
    (95 ≤ s.arg.b → d.point < 3 → ∃ t, Machine.exec .thermalStep s = .next t ∧ PointChanges s t s.arg.a (fun e =>
      { e with temp := s.arg.b, changing := some (d.point + 1, s.now + 2000 * ticksPerNs), lastStep := some s.now }) ∧ t.outputs = s.outputs) ∧
    (s.arg.b < 90 → 0 < d.point → ∃ t, Machine.exec .thermalStep s = .next t ∧ PointChanges s t s.arg.a (fun e =>
      { e with temp := s.arg.b, changing := some (d.point - 1, s.now + 2000 * ticksPerNs), lastStep := some s.now }) ∧ t.outputs = s.outputs) ∧
    (90 ≤ s.arg.b → s.arg.b < 95 → Machine.exec .thermalStep s = .next (dieWith s s.arg.a (fun e => { e with temp := s.arg.b })))) ∧
  (∀ s d, DieOf s d → d.powered = true → 105 ≤ s.arg.b →
    (d.changing = none → d.point = 3 → Machine.exec .thermalTrip105 s = .next { dieWith s s.arg.a (fun e => { e with temp := s.arg.b }) with
      thermalTrips := s.thermalTrips + 1, outputs := s.outputs ++ [.tripReport s.arg.a] }) ∧
    (∀ p e, d.changing = some (p, e) → Machine.exec .thermalTrip105 s = .next { dieWith s s.arg.a (fun x => { x with temp := s.arg.b, changing := some (3, e) }) with
      thermalTrips := s.thermalTrips + 1, outputs := s.outputs ++ [.tripReport s.arg.a] }) ∧
    (d.changing = none → d.point ≠ 3 → ∃ t, Machine.exec .thermalTrip105 s = .next t ∧
      PointChanges s t s.arg.a (fun e => { e with temp := s.arg.b, changing := some (3, s.now + 2000 * ticksPerNs) }) ∧
      t.thermalTrips = s.thermalTrips + 1 ∧ t.outputs = s.outputs ++ [.tripReport s.arg.a])) ∧
  (∀ s, 115 ≤ s.arg.b → s.arg.a < 8 → s.tripped = false → Numbered s →
    ∃ t, Machine.exec .thermalTrip115 s = .next t ∧ t.tripped = true ∧ t.thermalTrips = s.thermalTrips + 1 ∧ t.companies = [] ∧ t.troupes = [] ∧
      (∀ d, d ∈ t.dies → d.powered = false ∧ d.changing = none ∧ d.pwc = []) ∧ (∀ k, k ∈ t.clusters → k.power = .gated ∧ k.l2 = []) ∧
      (∀ l, l ∈ t.lines → l.cached = false) ∧ (∀ c, c ∈ s.contexts → CutWhole s t c.id) ∧ t.mem = s.mem) ∧
  (∀ s, s.tripped = true → Machine.exec .thermalTripClear s = .next { s with
    tripped := false, mem := s.mem.filter (fun c => decide (2 ^ 39 ≤ c.1)), memPoison := [], lines := []
    dies := s.dies.map (fun d => { d with powered := true, point := 0, cistern := 48 * 1048576, lastStep := none }) })

/-- R362, R363: a free cluster loses its power at the end of its hold, with all that it held; a wake within the hold is at once, and ends a hold
that began as the cluster woke; a gated cluster takes its ramp of 2.5 µs, no more than four of a die at a time and the rest in order, and 1 µs later it is
on; a cluster that becomes free begins its hold of 20 µs then, or has it from then on once it is awake. -/
def Sys2Proof.Claims.ClusterPowerResults : Prop :=
  (∀ s c d, s.clusters.find? (fun c => c.num == s.arg.a) = some c → c.power = .hold d → d ≤ s.now → c.owner = none →
    s.cores.Pairwise (fun p q => p.num ≠ q.num) →
    ∃ t, Machine.exec .clusterGate s = .next t ∧ t = { s with clusters := t.clusters, cores := t.cores } ∧
      t.clusters = (clusterWith s s.arg.a (fun k => { k with power := .gated, l2 := [] })).clusters ∧
      (∀ n, n / 8 ≠ s.arg.a → t.core n = s.core n) ∧ ∀ n, n / 8 = s.arg.a → (s.core n).outOfService = false → t.core n = Core.init n) ∧
  (∀ s c, s.clusters.find? (fun c => c.num == s.arg.a) = some c → s.arg.a < 48 → c.available = true → (s.die (s.arg.a / 6)).powered = true →
    (∀ d, c.power = .hold d → Machine.exec .clusterWakeRequest s = .next (clusterWith s s.arg.a (fun k => { k with freed := none, power := .on }))) ∧
    (c.power = .on ∨ c.power = .queued ∨ (∃ d, c.power = .ramp d ∨ c.power = .settle d) →
      Machine.exec .clusterWakeRequest s = .next (clusterWith s s.arg.a (fun k => { k with freed := none }))) ∧
    (c.power = .gated → (s.clusters.filter (fun k => k.num / 6 == s.arg.a / 6 && k.power.isRamp)).length < 4 →
      Machine.exec .clusterWakeRequest s = .next (clusterWith s s.arg.a (fun k => { k with freed := none, power := .ramp (s.now + 2500 * ticksPerNs) }))) ∧
    (c.power = .gated → 4 ≤ (s.clusters.filter (fun k => k.num / 6 == s.arg.a / 6 && k.power.isRamp)).length →
      Machine.exec .clusterWakeRequest s = .next { clusterWith s s.arg.a (fun k => { k with freed := none, power := .queued, wakeOrder := s.uid }) with uid := s.uid + 1 })) ∧
  (∀ s c d, s.clusters.find? (fun c => c.num == s.arg.a) = some c → c.power = .ramp d → d ≤ s.now →
    ((∀ k, k ∈ s.clusters → k.num / 6 = s.arg.a / 6 → k.power ≠ .queued) →
      Machine.exec .wakeRampEnd s = .next (clusterWith s s.arg.a (fun k => { k with power := .settle (d + 1000 * ticksPerNs) }))) ∧
    (∀ q, q ∈ s.clusters → q.num / 6 = s.arg.a / 6 → q.num ≠ s.arg.a → q.power = .queued →
      (∀ k, k ∈ s.clusters → k.num / 6 = s.arg.a / 6 → k.power = .queued → k = q ∨ q.wakeOrder < k.wakeOrder) →
      Machine.exec .wakeRampEnd s = .next (clusterWith (clusterWith s s.arg.a (fun k => { k with power := .settle (d + 1000 * ticksPerNs) })) q.num
        (fun k => { k with power := .ramp (d + 2500 * ticksPerNs) })))) ∧
  (∀ s c d, s.clusters.find? (fun c => c.num == s.arg.a) = some c → c.power = .settle d → d ≤ s.now →
    Machine.exec .clusterWakeComplete s = .next (clusterWith s s.arg.a (fun k =>
      { k with power := (match k.freed with | some h => .hold h | none => .on), freed := none, windowAt := 0, record := 0 }))) ∧
  (∀ (k : Cluster) now,
    (k.power = .on ∨ (∃ d, k.power = .hold d) → k.free now = { k with owner := none, power := .hold (now + 20000 * ticksPerNs) }) ∧
    (k.power = .gated → k.free now = { k with owner := none }) ∧
    (k.power = .queued ∨ (∃ d, k.power = .ramp d ∨ k.power = .settle d) → k.free now = { k with owner := none, freed := some (now + 20000 * ticksPerNs) }))

/-- R360 to R364: points, heat and the power of clusters. Beyond the rules it follows the model's choices of log entries 6, 44, 47, 53 and 58. -/
def Obligations.PowerAndThermalEvents : Prop := PointAndThermalResults ∧ ClusterPowerResults

/-- The context is one that a reset of the function `s.arg.a` ends: of the physical function, every context (R365). -/
def Sys2Proof.Claims.OfReset (s : State) (c : Context) : Prop := s.arg.a = 0 ∨ (c.id ≠ 0 ∧ c.fn = s.arg.a)

/-- A run of the context has accesses in flight or is to end early, for which its reset waits (R24). -/
def Sys2Proof.Claims.Lingers (s : State) (c : Context) : Prop := ∃ r, r ∈ s.runs ∧ r.ctx = c.id ∧ r.ending = none ∧ (r.killed ≠ none ∨ AccessesInFlight s r)

/-- The plug-in of a tenant has been stopped, and a manager that ran it is back in S mode (R366). -/
def Sys2Proof.Claims.PluginStopped (s t : State) (k : Nat) : Prop :=
  t = { s with plugins := t.plugins, managers := t.managers } ∧ t.plugins = s.plugins.map (fun p => if p.tenant = k then { p with stopped := true } else p) ∧
    t.managers = s.managers.map (fun m => if m.call.any (fun c => c.1 == k) then { m with mode := .s, call := none } else m)

/-- R365, R373: a cold reset takes the power of everything but the always-on domain, and until bring-up is complete only a cold reset and requests to
the management port reach the device (log 97); a hot reset takes contexts off the stage, and at the link's return the physical function alone is
enabled; a function-level reset frees every context of the function without a record, each once no access of it is in flight; virtual functions 1 to
the count appear. -/
def Sys2Proof.Claims.ResetEventResults : Prop :=
  (∀ s, Machine.exec .coldReset s = .next { State.reset with
    agenda := s.agenda, free := s.free, uid := s.uid, outputs := s.outputs, mem := s.mem, flash := s.flash, fuses := s.fuses
    firmware := [], managers := (List.range 8).map (fun n => { Manager.init n with mode := .m, pmp := false })
    dies := (List.range 8).map (fun n => { Die.init n with powered := false, cistern := 0 })
    clusters := (List.range 48).map (fun k => { Cluster.init k with power := .gated }), pcieUp := false, funcs := [], bootStep := 0 }) ∧
  (∀ s i a rest, s.bootStep < 7 → s.agenda = .event i a :: rest → i ≠ .coldReset → i ≠ .spdmRequest → i ≠ .pldmRequest →
    Machine.step s = .next { s with agenda := rest }) ∧
  (∀ s, s.pcieUp = true → Machine.exec .pcieHotReset s = .next { s with
    pcieUp := false, contexts := s.contexts.map (fun c => if c.onStage = true then { c with sliceOver := true } else c) }) ∧
  (∀ s, s.pcieUp = false → Machine.exec .pcieHotReset s = .next { s with
    pcieUp := true, funcs := s.funcs.map (fun f => { f with enabled := f.num == 0, ring1 := { f.ring1 with vec := 0 }, ring2 := { f.ring2 with vec := 0 } }) }) ∧
  (∀ s, FnOn s s.arg.a → Numbered s →
    ∃ t f, Machine.exec .functionLevelReset s = .next t ∧ (∀ c, c ∈ s.contexts → ¬ OfReset s c → c ∈ t.contexts) ∧
      (∀ c, c ∈ s.contexts → OfReset s c → Lingers s c → ∃ d, t.context? c.id = some d ∧
        d = { c with leaving := some .reset, records := [], queues := List.replicate 16 Queue.init }) ∧
      (∀ c, c ∈ s.contexts → OfReset s c → ¬ Lingers s c → t.context? c.id = (if c.id = 0 then some Context.firmware else none) ∧
        (∀ k, k ∈ t.companies → k.ctx ≠ c.id) ∧ ∀ k, k ∈ t.clusters → k.owner ≠ some c.id) ∧
      t.func? s.arg.a = some f ∧ f.enabled = true ∧ f.xlinvCtl = 0 ∧ f.ring1 = Ring.init ∧ f.msix = [] ∧
      (∀ g, s.func? s.arg.a = some g → f.s2root = g.s2root ∧ f.ring2 = if s.arg.a = 0 then Ring.init else g.ring2) ∧
      (s.arg.a = 0 → ∀ g, g ∈ t.funcs → g.ring2.vec = 0) ∧
      (∀ q, q ∈ t.requests → s.arg.a ≠ 0 ∧ q.fn ≠ s.arg.a) ∧ t.mem = s.mem) ∧
  (∀ s, s.pcieUp = true → s.arg.a ≤ 127 →
    ∃ t, Machine.exec .virtualFunctionEnable s = .next t ∧ t = { s with funcs := t.funcs, free := t.free } ∧
      (∀ n, 1 ≤ n → n ≤ s.arg.a → FnOn t n) ∧ (∀ n, (n = 0 ∨ s.arg.a < n) → t.func? n = s.func? n) ∧
      (∀ n f, 1 ≤ n → n ≤ s.arg.a → s.func? n = some f → (∀ roots, s.arg.x = .ids roots → roots.length < n) → t.func? n = some { f with enabled := true }) ∧
      ∀ n roots, 1 ≤ n → n ≤ s.arg.a → s.arg.x = .ids roots → n ≤ roots.length →
        ∃ g, t.func? n = some g ∧ g.enabled = true ∧ g.s2root = BitVec.ofNat 64 (roots.getD (n - 1) 0) &&& 0xFFFFFFFFF000)

/-- An image may be loaded (R367): both signatures verify, and its security version is at least the one in fuses. -/
def Sys2Proof.Claims.Verifies (s : State) (index : Nat) (im : FirmwareImage) : Prop :=
  im.ecdsa = true ∧ im.lms = true ∧ ∀ f, s.fuses.find? (fun f => f.1 == index) = some f → f.2 ≤ im.version

/-- When the ramp of a cluster, or its settling, ends (R363). -/
def Sys2Proof.Claims.Waking (k : Cluster) : Option Nat := match k.power with | .ramp e => some e | .settle e => some e | _ => none

/-- The turn of bring-up has come, and the step is `n`. -/
def Sys2Proof.Claims.Boots (s u : State) (n : Nat) : Prop := ∃ rest, s.agenda = .boot :: rest ∧ s.bootStep = n ∧ u = { s with agenda := rest }

/-- R365, R367: bring-up goes step by step: the root and the monitor are loaded when their images verify, and else the device stays in recovery and
reports the step and the image; the dies get their power one by one at VF3; the stacks are initialised to zero; stage time begins; the link comes up with
the physical function; and the cisterns and points are set and every cluster is in its hold. -/
def Sys2Proof.Claims.BringUpResults : Prop :=
  (∀ s u n index f, Boots s u n → (n = 0 ∧ index = 2) ∨ (n = 1 ∧ index = 3) → s.flash.find? (fun f => f.1 == index) = some f →
    (∀ g, g ∈ s.flash → g.1 = index → g = f) →
    (Verifies s index f.2 → ∃ t, Machine.step s = .next t ∧ t = { u with bootStep := n + 1, firmware := s.firmware ++ [f], managers := t.managers } ∧
      t.managers = if n = 1 then s.managers.map (fun m => { m with mode := .s, pmp := true }) else s.managers) ∧
    (¬ Verifies s index f.2 → Machine.step s = .next { u with
      recovery := some (n + 1, index), outputs := s.outputs ++ [.recovery (n + 1) index], pcieUp := true, funcs := [Func.init 0] })) ∧
  (∀ s u d, Boots s u 2 → s.dies.find? (fun d => !d.powered) = some d → s.clusters.map (fun k => k.num) = List.range 48 →
    (∀ k, k ∈ s.clusters → Waking k = none) → (∀ k, k ∈ s.clusters → k.num / 6 = d.num → k.power = .gated) → d.num < 8 →
    ∃ t, Machine.step s = .next t ∧ t = { u with dies := t.dies, clusters := t.clusters, uid := s.uid + 2 } ∧
      t.dies = (dieWith s d.num (fun d => { d with powered := true, point := 3 })).dies ∧
      t.clusters = s.clusters.map (fun k => if k.num / 6 = d.num then
        (if k.num % 6 < 4 then { k with freed := none, power := .ramp (s.now + 2500 * ticksPerNs) }
          else { k with freed := none, power := .queued, wakeOrder := s.uid + (k.num % 6 - 4) }) else k)) ∧
  (∀ s u k e, Boots s u 2 → s.clusters.find? (fun k => (Waking k).any (fun e => decide (e ≤ s.now))) = some k → Waking k = some e →
    ∃ t, Machine.exec (if k.power = .ramp e then .wakeRampEnd else .clusterWakeComplete) { u with arg := { s.arg with a := k.num } } = .next t ∧
      Machine.step s = .next { t with arg := s.arg }) ∧
  (∀ s u k e, Boots s u 2 → k ∈ s.clusters → Waking k = some e → s.now < e → (∀ j f, j ∈ s.clusters → Waking j = some f → e ≤ f) →
    Machine.step s = .next (u.advance (e - s.now))) ∧
  (∀ s u, Boots s u 2 → (∀ k, k ∈ s.clusters → Waking k = none) → (∀ d, d ∈ s.dies → d.powered = true) → Machine.step s = .next { u with bootStep := 3 }) ∧
  (∀ s u, Boots s u 3 → Machine.step s = .next { u with bootStep := 4, mem := s.mem.filter (fun c => decide (2 ^ 39 ≤ c.1)), memPoison := [] }) ∧
  (∀ s u, Boots s u 4 → Machine.step s = .next { u with bootStep := 5, now := 0, slew := 0 }) ∧
  (∀ s u, Boots s u 5 → Machine.step s = .next { u with bootStep := 6, pcieUp := true, funcs := [Func.init 0] }) ∧
  (∀ s u, Boots s u 6 → s.companies = [] → (∀ k, k ∈ s.cores → k.bay = 0) → (∀ d, d ∈ s.dies → d.num < 8 ∧ d.changing = none) →
    s.dies.Pairwise (fun d e => d.num ≠ e.num) → Machine.step s = .next { u with
      bootStep := 7, dies := s.dies.map (fun d => { d with cistern := 48 * 1048576, changing := some (0, s.now + 2000 * ticksPerNs) })
      clusters := s.clusters.map (fun k => { k with power := .hold (s.now + 20000 * ticksPerNs), windowAt := 0 }) })

/-- A manager sees the contexts and the memory of a tenant: a plug-in only those of its own (R366). -/
def Sys2Proof.Claims.Sees (m : Manager) (tenant : Nat) : Prop := m.mode = .u → ∃ v, m.call = some (tenant, v)

/-- The physical memory protection opens `n` bytes at `a` to a manager (R366): all to the monitor, to the scheduler what no tenant has, to a plug-in
what its tenant has. -/
def Sys2Proof.Claims.Opened (m : Manager) (a n : Nat) : Prop := m.mode = .m ∨ ∃ r, r ∈ m.regions ∧ r.base ≤ a ∧ a + n ≤ r.base + r.size ∧
  ((m.mode = .s ∧ r.tenant = none) ∨ (m.mode = .u ∧ ∃ k, r.tenant = some k ∧ Sees m k))

/-- R366: the scheduler calls the plug-in of a tenant in U mode; its return, its trap, what goes beyond its reach and the end of its budget of 50 µs
bring the manager back to S mode, and all but the return stop the plug-in until a new image is loaded; the monitor sets the protection. What an
instruction of RV64GC leaves in the registers is an input of the model, and the tenant of a context is its constant (log 95). -/
def Sys2Proof.Claims.PluginResults : Prop :=
  (∀ s n k rest p, s.agenda = .firmware n (.call k) :: rest → p ∈ s.plugins → p.tenant = k → p.stopped = false → (∀ q, q ∈ s.plugins → q.tenant = k → q = p) →
    Machine.step s = .next { s with
      agenda := rest, managers := s.managers.map (fun m => if m.num = n ∧ m.mode = .s then { m with mode := .u, call := some (k, s.now) } else m) }) ∧
  (∀ s n k rest, s.agenda = .firmware n (.call k) :: rest → (∀ p, p ∈ s.plugins → p.tenant = k → p.stopped = true) → Machine.step s = .next { s with agenda := rest }) ∧
  (∀ s n rest, s.agenda = .firmware n .ret :: rest → Machine.step s = .next { s with
    agenda := rest, managers := s.managers.map (fun m => if m.num = n ∧ m.mode = .u then { m with mode := .s, call := none } else m) }) ∧
  (∀ s n l rest, s.agenda = .firmware n (.protect l) :: rest → Machine.step s = .next { s with
    agenda := rest, managers := s.managers.map (fun m => if m.num = n ∧ m.mode = .m then { m with pmp := true, regions := l } else m) }) ∧
  (∀ s n pc x f c rest, s.agenda = .firmware n (.run pc x f c) :: rest → Machine.step s = .next { s with
    agenda := rest, managers := s.managers.map (fun m => if m.num = n then { m with pc := pc, x := x.take 31, f := f.take 32, fcsr := c } else m) }) ∧
  (∀ s n m a b rest, s.agenda = .firmware n (.access a b) :: rest → s.managers.find? (fun m => m.num == n) = some m →
    (Opened m a b → Machine.step s = .next { s with agenda := rest }) ∧
    (∀ k v, ¬ Opened m a b → m.call = some (k, v) → ∃ t, Machine.step s = .next t ∧ PluginStopped { s with agenda := rest } t k)) ∧
  (∀ s n m ctx w rest, s.agenda = .firmware n (.weigh ctx w) :: rest → s.managers.find? (fun m => m.num == n) = some m →
    (Sees m (Config.tenantOf ctx) → Machine.step s = .next (ctxWith { s with agenda := rest } ctx (fun c => { c with weight := w }))) ∧
    (∀ k v, ¬ Sees m (Config.tenantOf ctx) → m.call = some (k, v) → ∃ t, Machine.step s = .next t ∧ PluginStopped { s with agenda := rest } t k)) ∧
  (∀ s n m k a rest, s.agenda = .firmware n .trap :: rest → s.managers.find? (fun m => m.num == n) = some m → m.call = some (k, a) →
    ∃ t, Machine.step s = .next t ∧ PluginStopped { s with agenda := rest } t k) ∧
  (∀ s m k a, m ∈ s.managers → m.call = some (k, a) → s.arg.a = k → a + 50000 * ticksPerNs < s.now →
    ∃ t, Machine.exec .pluginBudgetExpiry s = .next t ∧ PluginStopped s t k) ∧
  (∀ s, (∀ m k a, m ∈ s.managers → m.call = some (k, a) → k = s.arg.a → s.now ≤ a + 50000 * ticksPerNs) → Machine.exec .pluginBudgetExpiry s = .next s)

/-- A line of the reservoir that an access of others leaves: as it was, or evicted (R222). -/
def Sys2Proof.Claims.LineLeft (s : State) (l : LineTag) : Prop := l ∈ s.lines ∨ ∃ k, k ∈ s.lines ∧ l = { k with cached := false }

/-- The line of an address of HBM4 after an access of the host: its key is the one it had (R222, R262). -/
def Sys2Proof.Claims.HostLine (s : State) (loc : Nat) (l : LineTag) : Prop :=
  loc < 2 ^ 39 ∧ l.line = loc / 128 ∧ ((∃ k, s.lineOf loc = some k ∧ l.key = k.key) ∨ (s.lineOf loc = none ∧ l.key = none))

/-- R222, R262, R263, R366 to R370: a verified image becomes its tenant's plug-in; the device answers its identity certificate, a measurement, signed,
and a sensor that exist; a free slot takes the key of a context, generated or imported, and a retired one leaves its lines under no key; the host
reads and writes memory under the swizzle of its access, whose lines pass through the reservoir. -/
def Sys2Proof.Claims.FirmwareEventResults : Prop :=
  (∀ s im, s.arg.x = .image im → s.arg.a < 112 →
    (Verifies s (16 + s.arg.a) im → Machine.exec .pluginImageLoad s = .next { s with
      plugins := s.plugins.filter (fun p => p.tenant != s.arg.a) ++ [{ tenant := s.arg.a, image := im, stopped := false }] }) ∧
    (¬ Verifies s (16 + s.arg.a) im → Machine.exec .pluginImageLoad s = .next s)) ∧
  (∀ s, s.arg.b = 1 → Machine.exec .spdmRequest s =
    .next { s with outputs := s.outputs ++ [.certificate Config.certificate Config.certificateEcdsa Config.certificateLms] }) ∧
  (∀ s, s.arg.b ≠ 1 → ((1 ≤ s.arg.a ∧ s.arg.a ≤ 5) ∨ (16 ≤ s.arg.a ∧ s.arg.a < 128)) → ∃ n, Machine.exec .spdmRequest s =
      .next { s with outputs := s.outputs ++ [.spdm s.arg.a (Config.measurement n) (Config.signature n)] } ∧ n % 256 = s.arg.a ∧
    (s.arg.a = 5 → n / 256 = 2 * s.curtainCount + (if s.debugState then 1 else 0)) ∧
    (∀ p, s.plugins.find? (fun p => 16 + p.tenant == s.arg.a) = some p → 16 ≤ s.arg.a → n / 256 = p.image.digest + 1) ∧
    (∀ f, s.firmware.find? (fun f => f.1 == s.arg.a) = some f → (s.arg.a = 2 ∨ s.arg.a = 3) → n / 256 = f.2.digest + 1)) ∧
  (∀ s c, 0 < s.arg.a → s.arg.a < 1024 → s.arg.b ≠ 0 → s.context? s.arg.b = some c → (∀ k, k ∈ s.keySlots → k.1 ≠ s.arg.a ∧ k.2 ≠ s.arg.b) →
    (s.arg.x = .none → Machine.exec .keySlotLoad s = .next { s with keySlots := s.keySlots ++ [(s.arg.a, s.arg.b)] }) ∧
    (s.arg.x = .flag true → Machine.exec .keySlotLoad s =
      .next { s with keySlots := s.keySlots ++ [(s.arg.a, s.arg.b)], imported := s.imported ++ [s.arg.a] }) ∧
    (s.arg.x = .flag false → Machine.exec .keySlotLoad s = .next s)) ∧
  (∀ s c, s.keySlots.find? (fun k => k.1 == s.arg.a) = some (s.arg.a, c) → s.arg.a ≠ 0 → (∀ x, s.context? c = some x → x.state ≠ .resident) →
    Machine.exec .keySlotRetire s = .next { s with
      uid := s.uid + 1, keySlots := s.keySlots.filter (fun k => k.2 != c)
      imported := s.imported.filter (fun n => s.keySlots.any (fun k => k.1 == n && k.2 != c))
      lines := s.lines.map (fun l => if l.key = some c then { l with cached := false, key := some (4096 + s.uid) } else l) }) ∧
  (∀ s,
    (s.arg.a = 0 → s.arg.b < 8 → Machine.exec .pldmRequest s = .next { s with outputs := s.outputs ++ [.pldm 0 s.arg.b (s.die s.arg.b).temp] }) ∧
    (s.arg.a = 0 → s.arg.b = 8 → ∃ v, Machine.exec .pldmRequest s = .next { s with free := s.free + 1, outputs := s.outputs ++ [.pldm 0 8 v] }) ∧
    (s.arg.a = 1 → s.arg.b < 10 → ∃ v, Machine.exec .pldmRequest s = .next { s with free := s.free + 1, outputs := s.outputs ++ [.pldm 1 s.arg.b v] }) ∧
    (s.arg.a = 2 → s.arg.b < 8 → Machine.exec .pldmRequest s = .next { s with outputs := s.outputs ++ [.pldm 2 s.arg.b (s.die s.arg.b).point] }) ∧
    (s.arg.a = 3 → s.arg.b < 8 → Machine.exec .pldmRequest s = .next { s with outputs := s.outputs ++ [.pldm 3 s.arg.b (s.die s.arg.b).corrected] }) ∧
    (s.arg.a = 3 → s.arg.b = 8 → Machine.exec .pldmRequest s = .next { s with outputs := s.outputs ++ [.pldm 3 8 s.fohCorrected] }) ∧
    (s.arg.a = 4 → s.arg.b < 8 → Machine.exec .pldmRequest s = .next { s with outputs := s.outputs ++ [.pldm 4 s.arg.b (s.die s.arg.b).uncorrectable] }) ∧
    (s.arg.a = 4 → s.arg.b = 8 → Machine.exec .pldmRequest s = .next { s with outputs := s.outputs ++ [.pldm 4 8 s.fohUncorrectable] }) ∧
    (s.arg.a = 5 → s.arg.b = 9 → Machine.exec .pldmRequest s = .next { s with outputs := s.outputs ++ [.pldm 5 9 s.thermalTrips] }) ∧
    (s.arg.a = 6 → s.arg.b < 8 → Machine.exec .pldmRequest s = .next { s with outputs := s.outputs ++ [.pldm 6 s.arg.b (s.die s.arg.b).stackCorrected] })) ∧
  (∀ s h, s.arg.x = .host h → s.pcieUp = true → h.pa < 2 ^ 47 →
    (h.write = false → ∃ t, Machine.exec .hostMemoryAccess s = .next t ∧ t = { s with outputs := t.outputs, lines := t.lines, free := t.free } ∧
      t.outputs = s.outputs ++ [.hostRead ((List.range h.length).map (fun k => s.mem.read (place h.swizzle.toNat (h.pa + k))))] ∧
      ∀ l, l ∈ t.lines → LineLeft s l ∨ ∃ j, j < h.length ∧ HostLine s (place h.swizzle.toNat (h.pa + j)) l) ∧
    (h.write = true → s.mem.wf = true →
      (∀ j k, j < h.data.length → k < h.data.length → place h.swizzle.toNat (h.pa + j) = place h.swizzle.toNat (h.pa + k) → j = k) →
      ∃ t, Machine.exec .hostMemoryAccess s = .next t ∧
        t = { s with mem := t.mem, memPoison := t.memPoison, runs := t.runs, lines := t.lines, free := t.free } ∧ noNotes t.runs = noNotes s.runs ∧
        (∀ l, l ∈ t.lines → LineLeft s l ∨ ∃ j, j < h.data.length ∧ HostLine s (place h.swizzle.toNat (h.pa + j)) l) ∧
        (∀ j, j < h.data.length → t.mem.read (place h.swizzle.toNat (h.pa + j)) = h.data.getD j 0) ∧
        ∀ a, (∀ j, j < h.data.length → a ≠ place h.swizzle.toNat (h.pa + j)) → t.mem.read a = s.mem.read a))

/-- R222, R262, R263, R365 to R370, R373: resets, firmware, keys, the management port and the host. Beyond the rules it follows the model's choices
of log entries 30, 33, 44, 52, 53, 56, 86, 95, 96 and 97. -/
def Obligations.ResetAndFirmwareEvents : Prop := ResetEventResults ∧ BringUpResults ∧ PluginResults ∧ FirmwareEventResults

/-- The clocks of a die run. -/
abbrev Sys2Proof.Claims.Ticks (s : State) (die : Nat) : Prop := (s.die die).changing = none

/-- R328, R329, R371, R372: the curtain stops every clock at its next edge and lets it go on; a debug token both of whose signatures verify retires every
key slot but 0 and halts every resident context; a scan under the curtain ends every context that was resident or saved; a saved context that migrates
leaves with its `vt` and its companies, and one that arrives is saved with the `vt` it came with, under numbers of its own (log 76). -/
def Sys2Proof.Claims.CurtainResults : Prop :=
  (∀ s, s.curtain = false → s.contexts.Pairwise (fun c d => c.id ≠ d.id) → ∃ t e, Machine.exec .curtainAssert s = .next t ∧ t.curtain = true ∧
    t.curtainAt = s.now ∧ t.curtainCount = s.curtainCount + 1 ∧ t.mem = s.mem ∧
    t.clusters = s.clusters.map (fun k => if Ticks s (k.num / 6) then windowEdge s k else k) ∧
    let b := s.endCycles s.ticking
    ((∀ k, k ∈ s.cores → Ticks s (k.num / 48) → k.bay = 0) → b = s ∧ ∀ k, k ∈ s.companies → ∃ q, q ∈ t.companies ∧ q.uid = k.uid ∧
      q.ops = if Ticks s (k.core / 48) then k.ops.map (opStopped s k) else k.ops) ∧
    (b.now ≤ e ∧ (∀ k, k ∈ b.cores → b.coreRuns k.num = true → k.at_ ≤ e) ∧ (e = b.now ∨ ∃ k, k ∈ b.cores ∧ b.coreRuns k.num = true ∧ e = k.at_)) ∧
    let u := b.advance (e - b.now)
    t.now = u.now ∧ ∀ c, c ∈ u.contexts → (¬ (c.onStage = true ∧ c.debugHalted = false) → t.context? c.id = some c) ∧
      (c.onStage = true → c.debugHalted = false → ∃ d, t.context? c.id = some d ∧
        d = { c with
          stopAt := d.stopAt, vt := d.vt
          board := c.board.map (fun e => if e.visible = false ∧ e.taken = false ∧ e.stampTicks ≤ d.vt then { e with visible := true } else e) } ∧
        LastEdge u c.id d.stopAt ∧ d.vt = c.vt + (d.stopAt - u.now))) ∧
  (∀ s, s.curtain = true → s.curtainAt + 14400 ≤ s.now → Numbered s → (∀ o, o ∈ s.sent → o.held = false) → s.replies = [] →
    ∃ t, Machine.exec .curtainRelease s = .next t ∧
    t = { s with curtain := false, agenda := s.waiting ++ s.agenda, waiting := [], contexts := t.contexts, companies := t.companies } ∧
    t.companies.map (fun k => k.uid) = s.companies.map (fun k => k.uid) ∧
    (∀ k, k ∈ s.companies → (∀ c, s.context? k.ctx = some c → c.onStage = false ∨ c.debugHalted = true) ∨ QuietCompany k →
      (if Ticks s (k.core / 48) ∧ k.state = .running then { k with ops := k.ops.map (opStarted s k (s.arithTicks k.core)) } else k) ∈ t.companies) ∧
    ∀ c, c ∈ s.contexts → ∃ d, t.context? c.id = some d ∧ d = { c with board := d.board, responses := d.responses } ∧
      (c.onStage = true → c.debugHalted = false → Entered s c d) ∧ (¬ (c.onStage = true ∧ c.debugHalted = false) → d = c)) ∧
  (∀ s, s.curtain = true → s.now < s.curtainAt + 14400 → Machine.exec .curtainRelease s = .next s) ∧
  (∀ s, s.arg.a = 1 → s.arg.b = 1 → Numbered s → ∃ t, Machine.exec .debugTokenAccept s = .next t ∧ t.debugOpen = true ∧ t.debugState = true ∧
    (∀ k, k ∈ t.keySlots → k.1 = 0) ∧ (∀ c, c ∈ s.contexts → c.state = .resident → HaltedWhole s t c.id) ∧ t.mem = s.mem) ∧
  (∀ s, ¬ (s.arg.a = 1 ∧ s.arg.b = 1) → Machine.exec .debugTokenAccept s = .next s) ∧
  (∀ s, s.curtain = true → s.debugOpen = true → Numbered s → ∃ t, Machine.exec .catwalkRead s = .next t ∧ t.outputs = s.outputs ++ [.scan] ∧
    (∀ c, c ∈ s.contexts → (c.state = .resident ∨ c.state = .saved) → CutWhole s t c.id) ∧ t.mem = s.mem) ∧
  (∀ s c, s.context? s.arg.a = some c → c.state = .saved → c.destroying = false → c.leaving = none → c.id ≠ 0 →
    ∃ t, Machine.exec .contextMigration s = .next t ∧ t.outputs = s.outputs ++ [.migrated
        { context := c, runs := s.runs.filter (fun r => r.ctx == c.id), troupes := s.troupes.filter (fun t => t.ctx == c.id)
          companies := s.companies.filter (fun k => k.ctx == c.id), next := s.uid }] ∧
      t.contexts = s.contexts.filter (fun d => d.id != c.id) ∧ (∀ k, k ∈ t.companies → k.ctx ≠ c.id) ∧ t.mem = s.mem) ∧
  (∀ s m rest, s.agenda = .arrive m :: rest → 7 ≤ s.bootStep → s.context? m.context.id = none → m.context.id ≠ 0 → (∀ k, k ∈ m.companies → k.uid < m.next) →
    ∃ t d, Machine.step s = .next t ∧ t = { s with
        agenda := rest, uid := s.uid + m.next, contexts := t.contexts, runs := t.runs, troupes := t.troupes, companies := t.companies } ∧
      t.context? m.context.id = some d ∧ d = { m.context with state := .saved, onStage := false, partition := [], stopAt := s.now } ∧ d.vt = m.context.vt ∧
      (∀ k, k ∈ s.companies → k ∈ t.companies) ∧ ∀ k, k ∈ m.companies → ∃ q, q ∈ t.companies ∧
        q = { k with uid := s.uid + k.uid, ctx := m.context.id, state := if k.state = .complete then .complete else .preempted })

namespace Sys2Proof.Claims

/-- The marks with one more. -/
def marksWith {α : Type} [BEq α] (l : List α) (g : α) : List α := if l.contains g then l else l ++ [g]

/-- The core beside a router of a die; column 4 holds the hubs of the clusters (R219, R351). -/
def coreBeside (die col row : Nat) : Nat := 48 * die + 8 * row + (if col < 4 then col else col - 1)

end Sys2Proof.Claims

/-- R220, R221, R348, R351, R352: a corrected error is counted; an uncorrectable one counts on its die and marks its granule poisoned, wherever it lies; a context whose image is under way
halts whole; a router that fails takes its core, or with a hub its cluster, out of service and its die's contexts off the stage; a hub that
fails takes its cluster; the cistern of a die changes its size while it holds no window. -/
def Sys2Proof.Claims.ErrorAndRepairResults : Prop :=
  (∀ s loc, s.arg.x = .place (.hbm loc) → Machine.exec .eccUncorrectable s = .next
    { dieWith s (loc / 2 ^ 36) (fun d => { d with uncorrectable := d.uncorrectable + 1 }) with memPoison := marksWith s.memPoison (loc / 32) }) ∧
  (∀ s u a c, s.company? u = some c → c.uid = u →
    (s.arg.x = .place (.stage u a) → Machine.exec .eccUncorrectable s = .next
      ((dieWith s (c.core / 48) (fun d => { d with uncorrectable := d.uncorrectable + 1 })).setCompany { c with stagePoison := marksWith c.stagePoison (a / 32) })) ∧
    (s.arg.x = .place (.score u a) → Machine.exec .eccUncorrectable s = .next
      ((dieWith s (c.core / 48) (fun d => { d with uncorrectable := d.uncorrectable + 1 })).setCompany { c with scorePoison := marksWith c.scorePoison (a / 32) }))) ∧
  (∀ s ctx run die a, s.arg.x = .place (.cistern ctx run die a) → Machine.exec .eccUncorrectable s = .next
    { dieWith s die (fun d => { d with uncorrectable := d.uncorrectable + 1 }) with runs := s.runs.map (fun r =>
      if r.ctx = ctx ∧ r.id = run ∧ (∃ w, w ∈ r.windows ∧ w.1 = die) then { r with windowPoison := marksWith r.windowPoison (die, a / 32) } else r) }) ∧
  (∀ s u ch row g c, s.arg.x = .place (.register u ch row g) → s.company? u = some c → Machine.exec .eccUncorrectable s = .next
    ((dieWith s (c.core / 48) (fun d => { d with uncorrectable := d.uncorrectable + 1 })).setCompany
      { c with choruses := c.choruses.map (fun h => if h.index = ch then { h with poison := marksWith h.poison (row, g) } else h) })) ∧
  (∀ s u g c, s.arg.x = .place (.pit u g) → s.company? u = some c → c.uid = u → Machine.exec .eccUncorrectable s = .next
    ((dieWith s (c.core / 48) (fun d => { d with uncorrectable := d.uncorrectable + 1 })).setCompany { c with accPoison := marksWith c.accPoison g })) ∧
  (∀ s u ch k c h q, s.arg.x = .place (.queue u ch k) → s.company? u = some c → c.chorus? ch = some h → h.queue[k]? = some q →
    ∃ t g, Machine.exec .eccUncorrectable s = .next t ∧ t = { s with dies := t.dies, companies := t.companies } ∧ t.chorus? u ch = some g ∧
      g = { h with queuePoison := marksWith h.queuePoison q.name.1 }) ∧
  (∀ s, s.arg.x = .place .foh → Machine.exec .eccUncorrectable s = .next { s with fohUncorrectable := s.fohUncorrectable + 1 }) ∧
  (∀ s ctx loc, s.arg.x = .place (.image ctx loc) → Numbered s → ∃ t, Machine.exec .eccUncorrectable s = .next t ∧
    t.dies = (dieWith s (loc / 2 ^ 36) (fun d => { d with uncorrectable := d.uncorrectable + 1 })).dies ∧ HaltedWhole s t ctx ∧ t.mem = s.mem) ∧
  (∀ s k q, s.arg.x = .place (.clusterFabric k q) →
    ((∀ c, c ∈ s.companies → c.core / 8 = k → c.core % 4 / 2 = q → ∀ o, o ∈ c.ops → o.kind = .spr → o.started = true → o.finished = false → o.paused = true) →
      Machine.exec .eccUncorrectable s = .next (dieWith s (k / 6) (fun d => { d with uncorrectable := d.uncorrectable + 1 })))) ∧
  (∀ s stack rest, s.agenda = .corrected 8 stack :: rest → Machine.step s = .next { s with agenda := rest, fohCorrected := s.fohCorrected + 1 }) ∧
  (∀ s n stack rest, s.agenda = .corrected n stack :: rest → n ≠ 8 → Machine.step s = .next (dieWith { s with agenda := rest } n (fun d =>
    if stack then { d with stackCorrected := d.stackCorrected + 1 } else { d with corrected := d.corrected + 1 }))) ∧
  (∀ s, s.arg.a < 8 → s.arg.b < 9 → s.arg.c < 6 →
    ∃ t, Machine.exec .routerFail s = .next t ∧ t = { s with contexts := t.contexts, dies := t.dies, clusters := t.clusters, cores := t.cores } ∧
      (∀ d, d ∈ s.dies → d.num = s.arg.a → ∃ e, e ∈ t.dies ∧ e = { d with failedRouters := marksWith d.failedRouters (s.arg.b, s.arg.c), outOfService := e.outOfService } ∧
        (d.outOfService = true → e.outOfService = true)) ∧
      t.contexts = s.contexts.map (fun c => if c.onStage = true ∧ (∃ k, k ∈ s.clusters ∧ k.owner = some c.id ∧ k.num / 6 = s.arg.a)
        then { c with sliceOver := true } else c) ∧
      (s.arg.b = 4 → t.cores = s.cores ∧ t.clusters = (clusterWith s (6 * s.arg.a + s.arg.c) (fun k => { k with available := false })).clusters) ∧
      (s.arg.b ≠ 4 → t.clusters = s.clusters ∧ t.core (coreBeside s.arg.a s.arg.b s.arg.c) =
        { s.core (coreBeside s.arg.a s.arg.b s.arg.c) with outOfService := true } ∧ ∀ n, n ≠ coreBeside s.arg.a s.arg.b s.arg.c → t.core n = s.core n)) ∧
  (∀ s, Machine.exec .hubFail s = .next { clusterWith s s.arg.a (fun k => { k with available := false }) with
    contexts := s.contexts.map (fun c => if c.onStage = true ∧ (∃ k, k ∈ s.clusters ∧ k.owner = some c.id ∧ k.num = s.arg.a)
      then { c with sliceOver := true } else c) }) ∧
  (∀ s, s.arg.a < 8 → s.arg.b % (8 * 1048576) = 0 → s.arg.b ≤ 96 * 1048576 →
    total ((s.contexts.filter (fun c => c.state == .resident)).map (fun c => c.quotas.getD s.arg.a 0)) ≤ s.arg.b →
    (∀ r, r ∈ s.runs → (∃ c, s.context? r.ctx = some c ∧ c.state = .resident) → ∀ w, w ∈ r.windows → w.1 ≠ s.arg.a) →
    Machine.exec .cisternSizeChange s = .next { dieWith s s.arg.a (fun d => { d with cistern := s.arg.b }) with
      lines := s.lines.map (fun l => if l.line / 2 ^ 29 = s.arg.a then { l with cached := false } else l) })

/-- R220, R221, R328, R329, R348, R351, R352, R371, R372: the curtain, errors and broken parts. Beyond the rules it follows the model's choices of
log entries 30, 44, 47, 52, 55, 58, 76, 85 and 87. -/
def Obligations.CurtainErrorAndRepairEvents : Prop := CurtainResults ∧ ErrorAndRepairResults

/-! ## The step, decoding, reset, memory, and what every step keeps -/

namespace Sys2Proof.Claims

/-- The turn that a step takes, and the state in which it takes it: the first of the agenda, or with an empty agenda what the device's own order
of things gives, which uses up a free value. -/
def turnOf (s : State) : Turn × State :=
  match s.agenda with
  | t :: rest => (t, { s with agenda := rest })
  | [] => (s.nextTurn, { s with free := s.free + 1 })

/-- The chorus `r` has its turn: the state in which it issues, with the pick of its bay noted (R152), and the site of its running split. -/
structure IssueTurn (s : State) (r : ChorusRef) (s0 : State) (x : Site) : Prop where
  turn : turnOf s = (.issue r, (turnOf s).2)
  state : s0 = { (turnOf s).2.notePick r with cur := r }
  site : s0.site? = some x
  inCode : x.sp.pc.toNat + 4 ≤ x.co.playbill.codeLength

/-- The bytes at the PC of the site decode to `i`. -/
def HoldsAtPc (x : Site) (i : Instr) : Prop :=
  ∃ rest, decodeBytes [x.co.code.read x.sp.pc.toNat, x.co.code.read (x.sp.pc.toNat + 1), x.co.code.read (x.sp.pc.toNat + 2), x.co.code.read (x.sp.pc.toNat + 3)] = .ok (i, rest)

/-- The address lies in a pool extent of the playbill (R47). -/
def InPool (x : Site) (a : Nat) : Prop := ∃ p, p ∈ x.co.playbill.pools ∧ p.1 ≤ a ∧ a < p.1 + 4 * p.2

/-- An instruction of the encodings: neither an event nor a reserved word. -/
def Encoded (i : Instr) : Prop := encode i ≠ .none ∧ ∀ w, i ≠ .reservedEncoding w

end Sys2Proof.Claims

/-- R22, R28, R47: when the bytes at the PC of the chorus whose turn it is decode to an instruction that lies in no pool extent, the step is
that instruction, executed at the state in which the bay's pick is noted; inside a chain the member that stands there; at its member 0 once
no member has a decode-time cause, the rows of the whole chain are resident and its data is there, and with a cause the first in rank and then in
address traps before the chain; a fetch inside an extent traps; an event's turn is the
event. Beyond the rules it follows the model's choices of log entries 10 and 34. -/
def Obligations.StepRunsTheDecodedInstruction : Prop :=
  (∀ s r s0 x i, IssueTurn s r s0 x → HoldsAtPc x i → x.ch.chain = none → chBit i = false → ¬ InPool x x.sp.pc.toNat →
    ((encode i).length = 4 → ¬ InPool x (x.sp.pc.toNat + 2)) → Machine.step s = Machine.exec i s0) ∧
  (∀ s r s0 x i, IssueTurn s r s0 x → HoldsAtPc x i → x.ch.chain ≠ none → Machine.step s = Machine.exec i s0) ∧
  (∀ s r s0 x i, IssueTurn s r s0 x → HoldsAtPc x i → x.ch.chain = none → chBit i = true →
    let ms := chainFrom x.co s0.peek x.sp.pc.toNat x.sp.pc.toNat 5
    (∀ n m, (n, m) ∈ numbered 0 ms → memberCause x x.sp.pc.toNat n m = none) → x.ch.resident (chainRows x ms) = true →
    (∀ m, m ∈ ms → x.loading m.2 = []) → Machine.step s = Machine.exec i s0) ∧
  (∀ s r s0 x i c tv, IssueTurn s r s0 x → HoldsAtPc x i → x.ch.chain = none → chBit i = true → QuietTroupe s0 x.co →
    let ms := chainFrom x.co s0.peek x.sp.pc.toNat x.sp.pc.toNat 5
    let causes := (numbered 0 ms).map (fun m => memberCause x x.sp.pc.toNat m.1 m.2)
    (∃ n, n < causes.length ∧ causes.getD n none = some (c, tv) ∧
      ∀ m a, causes.getD m none = some a → causeRank c < causeRank a.1 ∨ (causeRank c = causeRank a.1 ∧ n ≤ m)) →
    ∃ t, Machine.step s = .next t ∧ TrapTaken s0 t x c tv) ∧
  (∀ s r s0 x i, IssueTurn s r s0 x → HoldsAtPc x i → x.ch.chain = none → chBit i = false → InPool x x.sp.pc.toNat →
    QuietTroupe s0 x.co → ∃ t, Machine.step s = .next t ∧ TrapTaken s0 t x 0x05 x.sp.pc) ∧
  (∀ s e a, (turnOf s).1 = .event e a → 7 ≤ s.bootStep → Machine.step s = Machine.exec e { (turnOf s).2 with arg := a })

/-- R28, R31 to R46: words written out from the encodings decode to the instructions that they stand for. -/
def Obligations.WordsDecodeAsWritten : Prop :=
  decodeBytes [0x31, 0x93, 0x84, 0x02] = .ok (.cmplti 0 0 20 18 19, []) ∧
  decodeBytes [0x47, 0x15, 0x05, 0x00] = .ok (.scan 0 0 20 21, []) ∧
  decodeBytes [0xF9, 0x11, 0x00, 0x50] = .ok (.mfs 0 17, []) ∧
  decodeBytes [0xB1, 0x14, 0xC0, 0x00] = .ok (.barC 3 0 20, []) ∧
  decodeBytes [0xEF, 0x20, 0x18, 0x50] = .ok (.flyMc 0 40 3 4 0, []) ∧
  decodeBytes [0xA4, 0x52] = .ok (.sub16 20 21, [])

/-- R28: bit 0 of the first halfword gives the length, two bytes when it is clear and four when it is set, and every pair of halfwords decodes
to an instruction; what was written as an instruction of the encodings takes as many bytes as its length says. Beyond the rules it follows
the model's choices of log entry 4. -/
def Obligations.LengthIsInBitZero : Prop :=
  (∀ b0 b1 b2 b3 rest, (b0.getLsbD 0 = false → ∃ i, decodeBytes (b0 :: b1 :: b2 :: b3 :: rest) = .ok (i, b2 :: b3 :: rest)) ∧
    (b0.getLsbD 0 = true → ∃ i, decodeBytes (b0 :: b1 :: b2 :: b3 :: rest) = .ok (i, rest))) ∧
  (∀ i, Encoded i → (encode i).bytes.length = (encode i).length ∧ ((encode i).length = 2 ∨ (encode i).length = 4) ∧
    (((encode i).bytes.headD 0).getLsbD 0 = decide ((encode i).length = 4)))

/-- R28 to R48: decoding the word of any instruction of the encodings, with every field at any value, gives it back, and encoding what a word
decodes to gives the word back. Beyond the rules it follows the model's choices of log entry 4. -/
def Obligations.DecodeAndEncodeAgree : Prop :=
  (∀ i, Encoded i → decodeBytes (encode i).bytes = .ok (i, [])) ∧
  (∀ w : BitVec 32, w.getLsbD 0 = true → encode (decode32 w) = .long w) ∧
  (∀ w : BitVec 16, w.getLsbD 0 = false → encode (decode16 w) = .short w)

/-- R365: what a cold reset leaves: stage time 0, every stage die at VF0 with a cistern of 48 MiB, the physical function alone enabled, memory
zero, no context but firmware's, no run, no company, and no mark of poison. Beyond the rules it follows the model's choices of log entry 3. -/
def Obligations.ResetLeavesTheDeviceAsSpecified : Prop :=
  let s := State.reset
  s.now = 0 ∧ (∀ a, s.mem.read a = 0) ∧ s.memPoison = [] ∧ s.dies.length = 8 ∧
    (∀ d, d ∈ s.dies → d.point = 0 ∧ d.cistern = 48 * 1048576 ∧ d.changing = none ∧ d.powered = true) ∧
    (∀ f, f ∈ s.funcs → f.num = 0 ∧ f.enabled = true) ∧ s.contexts.map (fun c => c.id) = [0] ∧ s.runs = [] ∧ s.companies = [] ∧ s.curtain = false

/-- The laws of memory (R161, R222, R365): a byte stored is read back and every other stays; a memory keeps its canonical form; two canonical
memories that read alike are equal; a number stored in some bytes is read back, and a field of bits stored is read back with its neighbours
kept. The list form of a memory is the model's own. -/
def Obligations.MemoryReadsBackWhatWasStored : Prop :=
  (∀ (m : Memory) a v b, m.wf = true → (m.write a v).read b = if b = a then v else m.read b) ∧
  (∀ (m : Memory) a v, m.wf = true → (m.write a v).wf = true) ∧
  (∀ m n : Memory, m.wf = true → n.wf = true → (∀ a, m.read a = n.read a) → m = n) ∧
  (∀ (m : Memory) a n v, m.wf = true → (m.writeLE a n v).wf = true ∧ (m.writeLE a n v).readLE a n = v % 2 ^ (8 * n) ∧
    ∀ b, (b < a ∨ a + n ≤ b) → (m.writeLE a n v).read b = m.read b) ∧
  (∀ (m : Memory) a n v, m.wf = true → n ≤ 32 → (m.writeBits a n v).wf = true ∧ (m.writeBits a n v).readBits a n = v % 2 ^ n ∧
    ∀ b k, k ≤ 32 → (b + k ≤ a ∨ a + n ≤ b) → (m.writeBits a n v).readBits b k = m.readBits b k)

namespace Sys2Proof.Claims

/-- Every memory of a company is in canonical form. -/
def CompanyCanonical (c : Company) : Prop := c.stage.wf = true ∧ c.score.wf = true ∧ c.code.wf = true

/-- Every memory of a run is in canonical form. -/
def RunCanonical (r : Run) : Prop := r.code.wf = true ∧ ∀ w, w ∈ r.windows → w.2.wf = true

/-- An image that the device has sealed, or is copying to memory; and a context that is to arrive from another device. -/
def Kept (s : State) (m : Image) : Prop := m ∈ s.images ∨ ∃ a, (m, a) ∈ s.copies
def Comes (s : State) (m : Migrant) : Prop := .arrive m ∈ s.agenda ∨ .arrive m ∈ s.waiting

/-- Every memory of the device, of the images it has sealed and of the contexts that arrive is in canonical form. -/
structure MemoriesCanonical (s : State) : Prop where
  main : s.mem.wf = true
  companies : ∀ c, c ∈ s.companies → CompanyCanonical c
  runs : ∀ r, r ∈ s.runs → RunCanonical r
  images : ∀ m, Kept s m → RunCanonical m.runState ∧ ∀ c, c ∈ m.companies → CompanyCanonical c
  migrants : ∀ m, Comes s m → (∀ r, r ∈ m.runs → RunCanonical r) ∧ ∀ c, c ∈ m.companies → CompanyCanonical c

/-- A playbill asks for a ring of 32 to 240 rows (R306). -/
def RingLegal (p : Playbill) : Prop := 32 ≤ p.ring ∧ p.ring ≤ 240

/-- The registers and slots of every chorus have their full length, in companies and in images (R10, R306). -/
structure AllShaped (s : State) : Prop where
  companies : ∀ c, c ∈ s.companies → ∀ h, h ∈ c.choruses → Shaped h
  runs : ∀ r, r ∈ s.runs → RingLegal r.playbill
  images : ∀ m, Kept s m → RingLegal m.runState.playbill ∧ ∀ c, c ∈ m.companies → ∀ h, h ∈ c.choruses → Shaped h
  migrants : ∀ m, Comes s m → (∀ r, r ∈ m.runs → RingLegal r.playbill) ∧ ∀ c, c ∈ m.companies → ∀ h, h ∈ c.choruses → Shaped h

/-- No two companies share a number, no two choruses of a company an index, no two contexts an id and no two runs of a context a number;
every run and every image is of a context that is there. -/
structure AllDistinct (s : State) : Prop where
  companies : s.companies.Pairwise (fun c d => c.uid ≠ d.uid) ∧ ∀ c, c ∈ s.companies → c.uid < s.uid
  choruses : ∀ c, c ∈ s.companies → c.choruses.Pairwise (fun g h => g.index ≠ h.index)
  contexts : s.contexts.Pairwise (fun c d => c.id ≠ d.id) ∧ ∀ c, c ∈ s.contexts → c.state ≠ .free
  runs : s.runs.Pairwise (fun p q => ¬ (p.ctx = q.ctx ∧ p.id = q.id)) ∧ ∀ r, r ∈ s.runs → ∃ c, c ∈ s.contexts ∧ c.id = r.ctx ∧ r.id ≤ c.lastRun
  images : ∀ m, Kept s m → (∃ c, c ∈ s.contexts ∧ c.id = m.ctx) ∧
    ∀ c, c ∈ m.companies → c.choruses.Pairwise (fun g h => g.index ≠ h.index)
  migrants : ∀ m, Comes s m → (m.companies.Pairwise (fun c d => c.uid ≠ d.uid) ∧ ∀ c, c ∈ m.companies → c.uid < m.next) ∧
    (∀ c, c ∈ m.companies → c.choruses.Pairwise (fun g h => g.index ≠ h.index)) ∧
    m.runs.Pairwise (fun p q => p.id ≠ q.id) ∧ ∀ r, r ∈ m.runs → r.id ≤ m.context.lastRun

/-- Every happening of the agenda, and of what waits for the curtain's release, is an event, not an instruction. -/
def EventsOnly (s : State) : Prop := ∀ i a, (.event i a ∈ s.agenda ∨ .event i a ∈ s.waiting) → encode i = .none

end Sys2Proof.Claims

/-- Every step keeps every memory of the device in its canonical form. The list form of a memory is the model's own. -/
def Obligations.StepsKeepMemoriesCanonical : Prop := ∀ s t, MemoriesCanonical s → Machine.step s = .next t → MemoriesCanonical t

/-- Every step keeps the registers, the ring and the slots of every chorus at their full length (R10). The lists of registers are the model's
own form of them. -/
def Obligations.StepsKeepRegistersWhole : Prop := ∀ s t, AllShaped s → Machine.step s = .next t → AllShaped t

/-- Every step keeps the numbers of companies, choruses, contexts and runs apart. The numbers that tell companies apart are the model's own. -/
def Obligations.StepsKeepNumbersApart : Prop := ∀ s t, AllDistinct s → Machine.step s = .next t → AllDistinct t

/-- A step of the device never stops: it answers a next state, whose agenda again holds events only. Beyond the rules it follows the model's
choices of log entries 13 and 14. -/
def Obligations.StepsAlwaysAnswer : Prop := ∀ s, EventsOnly s → ∃ t, Machine.step s = .next t ∧ EventsOnly t

/-- The state after reset meets the invariants. The invariants are the model's own. -/
def Obligations.ResetMeetsTheInvariants : Prop :=
  MemoriesCanonical State.reset ∧ AllShaped State.reset ∧ AllDistinct State.reset ∧ EventsOnly State.reset
end

