-- ==== Sys2Proof/Laws/Memory.lean ====
section
/-!
SUPPORT. The laws of memory: every store keeps the canonical form, and a byte stored is the byte read.
-/
namespace Sys2Proof.Machine

/-! ## The canonical form -/

/-- The form from a higher bound is the form from a lower one. -/
theorem Memory.wfFrom_mono {n k : Nat} (h : n ≤ k) : ∀ {m : Memory}, Memory.wfFrom k m = true → Memory.wfFrom n m = true
  | [], _ => rfl
  | (a, b) :: t, hm => by
    simp only [Memory.wfFrom, Bool.and_eq_true, decide_eq_true_eq] at hm ⊢
    exact ⟨⟨by omega, hm.1.2⟩, hm.2⟩

/-- A canonical memory holds nothing below its bound. -/
theorem Memory.read_below : ∀ {m : Memory} {n a : Nat}, Memory.wfFrom n m = true → a < n → m.read a = emptyByte
  | [], _, _, _, _ => rfl
  | (k, b) :: t, n, a, hm, ha => by
    simp only [Memory.wfFrom, Bool.and_eq_true, decide_eq_true_eq] at hm
    rw [Memory.read, if_neg (by omega)]
    exact Memory.read_below hm.2 (by omega)

/-- A byte stored at or above the bound keeps the form. -/
theorem Memory.wfFrom_write : ∀ {m : Memory} {n a : Nat} (v : Byte), Memory.wfFrom n m = true → n ≤ a →
    Memory.wfFrom n (m.write a v) = true
  | [], n, a, v, _, ha => by
    by_cases hv : v = emptyByte <;> simp [Memory.write, Memory.wfFrom, hv, ha]
  | (k, b) :: t, n, a, v, hm, ha => by
    simp only [Memory.wfFrom, Bool.and_eq_true, decide_eq_true_eq] at hm
    simp only [Memory.write]
    split
    · split
      · simp [Memory.wfFrom, hm]
      · simp only [Memory.wfFrom, Bool.and_eq_true, decide_eq_true_eq]
        exact ⟨⟨ha, by simpa using ‹¬ v = emptyByte›⟩, ⟨by omega, hm.1.2⟩, hm.2⟩
    · split
      · split
        · exact Memory.wfFrom_mono (by omega) hm.2
        · simp only [Memory.wfFrom, Bool.and_eq_true, decide_eq_true_eq]
          refine ⟨⟨ha, by simpa using ‹¬ v = emptyByte›⟩, ?_⟩
          subst ‹a = k›
          exact hm.2
      · simp only [Memory.wfFrom, Bool.and_eq_true, decide_eq_true_eq]
        exact ⟨hm.1, Memory.wfFrom_write v hm.2 (by omega)⟩

/-- A byte stored keeps the canonical form. -/
theorem Memory.wf_write {m : Memory} (a : Nat) (v : Byte) (h : m.wf = true) : (m.write a v).wf = true :=
  Memory.wfFrom_write v h (Nat.zero_le a)

/-- Bytes stored keep it. -/
theorem Memory.wf_writeBytes : ∀ (l : List Byte) {m : Memory} (a : Nat), m.wf = true → (m.writeBytes a l).wf = true
  | [], _, _, h => h
  | _ :: r, _, a, h => Memory.wf_writeBytes r (a + 1) (Memory.wf_write a _ h)

/-- A number stored keeps it. -/
theorem Memory.wf_writeLE {m : Memory} (a n v : Nat) (h : m.wf = true) : (m.writeLE a n v).wf = true :=
  Memory.wf_writeBytes _ a h

/-- A word stored keeps it. -/
theorem Memory.wf_writeWord {m : Memory} (a : Nat) (w : Word) (h : m.wf = true) : (m.writeWord a w).wf = true :=
  Memory.wf_writeLE a 4 _ h

/-- A field of bits stored keeps it. -/
theorem Memory.wf_writeBits {m : Memory} (a n v : Nat) (h : m.wf = true) : (m.writeBits a n v).wf = true :=
  Memory.wf_writeLE _ _ _ h

/-- A part of a canonical memory is canonical. -/
theorem Memory.wfFrom_filter (p : Nat × Byte → Bool) : ∀ {m : Memory} {n : Nat}, Memory.wfFrom n m = true → Memory.wfFrom n (m.filter p) = true
  | [], _, _ => rfl
  | (k, b) :: t, n, hm => by
    simp only [Memory.wfFrom, Bool.and_eq_true, decide_eq_true_eq] at hm
    have ih := Memory.wfFrom_filter p hm.2
    rw [List.filter_cons]
    split
    · simp only [Memory.wfFrom, Bool.and_eq_true, decide_eq_true_eq]
      exact ⟨hm.1, ih⟩
    · exact Memory.wfFrom_mono (by omega) ih

/-- The part from an address on has that bound. -/
theorem Memory.wfFrom_from (e : Nat) : ∀ {m : Memory} {n : Nat}, Memory.wfFrom n m = true →
    Memory.wfFrom e (m.filter (fun c => decide (e ≤ c.1))) = true
  | [], _, _ => rfl
  | (k, b) :: t, n, hm => by
    simp only [Memory.wfFrom, Bool.and_eq_true, decide_eq_true_eq] at hm
    rw [List.filter_cons]
    split
    · simp only [Memory.wfFrom, Bool.and_eq_true, decide_eq_true_eq]
      exact ⟨⟨by simpa using ‹decide (e ≤ k) = true›, hm.1.2⟩, Memory.wfFrom_filter _ hm.2⟩
    · exact Memory.wfFrom_from e hm.2

/-- The entries of some bytes are canonical and lie in their range. -/
theorem blockCells_wf : ∀ (bs : List Byte) (a : Nat), Memory.wfFrom a (blockCells a bs) = true ∧ ∀ c ∈ blockCells a bs, c.1 < a + bs.length
  | [], a => by simp [blockCells, Memory.wfFrom]
  | b :: r, a => by
    have ih := blockCells_wf r (a + 1)
    rw [blockCells]
    split
    · refine ⟨Memory.wfFrom_mono (by omega) ih.1, fun c hc => ?_⟩
      have := ih.2 c hc
      simp only [List.length_cons]; omega
    · refine ⟨?_, fun c hc => ?_⟩
      · simp only [Memory.wfFrom, Bool.and_eq_true, decide_eq_true_eq]
        exact ⟨⟨by omega, by simpa using ‹¬ b = emptyByte›⟩, ih.1⟩
      · simp only [List.mem_cons] at hc
        simp only [List.length_cons]
        rcases hc with rfl | hc
        · simp
        · have := ih.2 c hc
          omega

/-- A memory below an address and one from it on make one. -/
theorem Memory.wfFrom_append : ∀ {l m : Memory} {n k : Nat}, Memory.wfFrom n l = true → (∀ c ∈ l, c.1 < k) → n ≤ k →
    Memory.wfFrom k m = true → Memory.wfFrom n (l ++ m) = true
  | [], _, _, _, _, _, h, hm => Memory.wfFrom_mono h hm
  | (a, b) :: t, m, n, k, hl, hk, h, hm => by
    simp only [Memory.wfFrom, Bool.and_eq_true, decide_eq_true_eq, List.cons_append] at hl ⊢
    have := hk (a, b) (by simp)
    exact ⟨hl.1, Memory.wfFrom_append hl.2 (fun c hc => hk c (by simp [hc])) (by simpa using this) hm⟩

/-- Many bytes stored at once keep it. -/
theorem Memory.wf_writeBlock {m : Memory} (a : Nat) (bs : List Byte) (h : m.wf = true) : (m.writeBlock a bs).wf = true := by
  have hb := blockCells_wf bs a
  have low : Memory.wfFrom 0 (m.filter (fun c => decide (c.1 < a)) ++ blockCells a bs) = true :=
    Memory.wfFrom_append (Memory.wfFrom_filter _ h) (fun c hc => by simpa using (List.mem_filter.1 hc).2) (Nat.zero_le a) hb.1
  refine Memory.wfFrom_append low (fun c hc => ?_) (Nat.zero_le _) (Memory.wfFrom_from (a + bs.length) h)
  rcases List.mem_append.1 hc with hc | hc
  · have : c.1 < a := by simpa using (List.mem_filter.1 hc).2
    omega
  · exact hb.2 c hc

/-- Nothing stored is canonical, as after reset. -/
theorem Memory.wf_nil : Memory.wf [] = true := rfl

theorem reset_mem_wf : State.reset.mem.wf = true := rfl

/-! ## What is read -/

/-- A byte reads as what was stored there last. -/
theorem Memory.read_writeFrom : ∀ {m : Memory} {n : Nat} (a : Nat) (v : Byte) (c : Nat), Memory.wfFrom n m = true →
    (m.write a v).read c = if c = a then v else m.read c
  | [], n, a, v, c, _ => by
    by_cases hv : v = emptyByte
    · simp [Memory.write, Memory.read, hv]
    · by_cases hc : c = a
      · simp [Memory.write, Memory.read, hv, hc]
      · have : ¬ a = c := fun h => hc h.symm
        simp [Memory.write, Memory.read, hv, hc, this]
  | (k, b) :: t, n, a, v, c, hm => by
    simp only [Memory.wfFrom, Bool.and_eq_true, decide_eq_true_eq] at hm
    have below : ∀ x, x ≤ k → Memory.read t x = emptyByte := fun x hx => Memory.read_below hm.2 (by omega)
    simp only [Memory.write]
    split
    · split
      · by_cases hc : c = a
        · subst hc
          rw [Memory.read, if_neg (by omega), below c (by omega), if_pos rfl, ‹v = emptyByte›]
        · rw [if_neg hc]
      · by_cases hc : c = a
        · simp [Memory.read, hc]
        · rw [Memory.read, if_neg (fun h => hc h.symm), if_neg hc]
    · split
      · subst ‹a = k›
        split
        · by_cases hc : c = a
          · rw [if_pos hc, hc, below a (Nat.le_refl a), ‹v = emptyByte›]
          · rw [if_neg hc, Memory.read, if_neg (fun h => hc h.symm)]
        · by_cases hc : c = a
          · simp [Memory.read, hc]
          · have : ¬ a = c := fun h => hc h.symm
            simp [Memory.read, hc, this]
      · by_cases hk : k = c
        · rw [Memory.read, if_pos hk, Memory.read, if_pos hk, if_neg (by omega)]
        · rw [Memory.read, if_neg hk, Memory.read, if_neg hk]
          exact Memory.read_writeFrom a v c hm.2

/-- A byte reads as what was stored there last, in a canonical memory. -/
theorem Memory.read_write {m : Memory} (h : m.wf = true) (a : Nat) (v : Byte) (c : Nat) :
    (m.write a v).read c = if c = a then v else m.read c := Memory.read_writeFrom a v c h

/-- Bytes stored at `a` read back, and every other byte is what it was. -/
theorem Memory.read_writeBytes : ∀ (l : List Byte) {m : Memory} (a c : Nat), m.wf = true →
    (m.writeBytes a l).read c = if a ≤ c ∧ c < a + l.length then l.getD (c - a) emptyByte else m.read c
  | [], m, a, c, _ => by simp [Memory.writeBytes]
  | b :: r, m, a, c, h => by
    rw [Memory.writeBytes, Memory.read_writeBytes r (a + 1) c (Memory.wf_write a b h), Memory.read_write h]
    by_cases hc : c = a
    · subst hc
      rw [if_neg (by omega), if_pos rfl, if_pos (by simp)]
      simp
    · by_cases hr : a + 1 ≤ c ∧ c < a + 1 + r.length
      · rw [if_pos hr, if_pos (by simp; omega)]
        obtain ⟨d, rfl⟩ : ∃ d, c = a + 1 + d := ⟨c - (a + 1), by omega⟩
        have h1 : a + 1 + d - (a + 1) = d := by omega
        have h2 : a + 1 + d - a = d + 1 := by omega
        rw [h1, h2, List.getD_cons_succ]
      · rw [if_neg hr, if_neg hc, if_neg (by simp; omega)]

/-- A number gives as many bytes as are asked for. -/
theorem bytesLE_length : ∀ n v, (bytesLE n v).length = n
  | 0, _ => rfl
  | n + 1, v => by rw [bytesLE, List.length_cons, bytesLE_length n]

/-- The number that the bytes of a number stand for. -/
theorem ofBytesLE_bytesLE : ∀ n v, ofBytesLE (bytesLE n v) = v % 256 ^ n
  | 0, v => by simp [bytesLE, ofBytesLE, Nat.mod_one]
  | n + 1, v => by
    rw [bytesLE, ofBytesLE, ofBytesLE_bytesLE n, BitVec.toNat_ofNat, show 256 ^ (n + 1) = 256 * 256 ^ n by omega, Nat.mod_mul]

end Sys2Proof.Machine
end

