-- ==== Sys2Proof/Laws/State.lean ====
section
/-!
SUPPORT. What each update of the state, of a company and of a chorus leaves alone: one lemma per field.
-/
set_option Elab.async false

namespace Sys2Proof.Machine

@[simp] theorem State.setCompany_agenda (s : State) (c : Company) : (s.setCompany c).agenda = s.agenda := rfl
@[simp] theorem State.setCompany_arg (s : State) (c : Company) : (s.setCompany c).arg = s.arg := rfl
@[simp] theorem State.setCompany_cur (s : State) (c : Company) : (s.setCompany c).cur = s.cur := rfl
@[simp] theorem State.setCompany_free (s : State) (c : Company) : (s.setCompany c).free = s.free := rfl
@[simp] theorem State.setCompany_uid (s : State) (c : Company) : (s.setCompany c).uid = s.uid := rfl
@[simp] theorem State.setCompany_now (s : State) (c : Company) : (s.setCompany c).now = s.now := rfl
@[simp] theorem State.setCompany_slew (s : State) (c : Company) : (s.setCompany c).slew = s.slew := rfl
@[simp] theorem State.setCompany_slewPart (s : State) (c : Company) : (s.setCompany c).slewPart = s.slewPart := rfl
@[simp] theorem State.setCompany_mem (s : State) (c : Company) : (s.setCompany c).mem = s.mem := rfl
@[simp] theorem State.setCompany_memPoison (s : State) (c : Company) : (s.setCompany c).memPoison = s.memPoison := rfl
@[simp] theorem State.setCompany_lines (s : State) (c : Company) : (s.setCompany c).lines = s.lines := rfl
@[simp] theorem State.setCompany_dies (s : State) (c : Company) : (s.setCompany c).dies = s.dies := rfl
@[simp] theorem State.setCompany_clusters (s : State) (c : Company) : (s.setCompany c).clusters = s.clusters := rfl
@[simp] theorem State.setCompany_cores (s : State) (c : Company) : (s.setCompany c).cores = s.cores := rfl
@[simp] theorem State.setCompany_contexts (s : State) (c : Company) : (s.setCompany c).contexts = s.contexts := rfl
@[simp] theorem State.setCompany_funcs (s : State) (c : Company) : (s.setCompany c).funcs = s.funcs := rfl
@[simp] theorem State.setCompany_runs (s : State) (c : Company) : (s.setCompany c).runs = s.runs := rfl
@[simp] theorem State.setCompany_troupes (s : State) (c : Company) : (s.setCompany c).troupes = s.troupes := rfl
@[simp] theorem State.setCompany_walks (s : State) (c : Company) : (s.setCompany c).walks = s.walks := rfl
@[simp] theorem State.setCompany_requests (s : State) (c : Company) : (s.setCompany c).requests = s.requests := rfl
@[simp] theorem State.setCompany_keySlots (s : State) (c : Company) : (s.setCompany c).keySlots = s.keySlots := rfl
@[simp] theorem State.setCompany_imported (s : State) (c : Company) : (s.setCompany c).imported = s.imported := rfl
@[simp] theorem State.setCompany_images (s : State) (c : Company) : (s.setCompany c).images = s.images := rfl
@[simp] theorem State.setCompany_copies (s : State) (c : Company) : (s.setCompany c).copies = s.copies := rfl
@[simp] theorem State.setCompany_permitSel (s : State) (c : Company) : (s.setCompany c).permitSel = s.permitSel := rfl
@[simp] theorem State.setCompany_apertures (s : State) (c : Company) : (s.setCompany c).apertures = s.apertures := rfl
@[simp] theorem State.setCompany_ports (s : State) (c : Company) : (s.setCompany c).ports = s.ports := rfl
@[simp] theorem State.setCompany_routes (s : State) (c : Company) : (s.setCompany c).routes = s.routes := rfl
@[simp] theorem State.setCompany_deviceId (s : State) (c : Company) : (s.setCompany c).deviceId = s.deviceId := rfl
@[simp] theorem State.setCompany_idents (s : State) (c : Company) : (s.setCompany c).idents = s.idents := rfl
@[simp] theorem State.setCompany_sent (s : State) (c : Company) : (s.setCompany c).sent = s.sent := rfl
@[simp] theorem State.setCompany_memos (s : State) (c : Company) : (s.setCompany c).memos = s.memos := rfl
@[simp] theorem State.setCompany_groups (s : State) (c : Company) : (s.setCompany c).groups = s.groups := rfl
@[simp] theorem State.setCompany_revoked (s : State) (c : Company) : (s.setCompany c).revoked = s.revoked := rfl
@[simp] theorem State.setCompany_replies (s : State) (c : Company) : (s.setCompany c).replies = s.replies := rfl
@[simp] theorem State.setCompany_outputs (s : State) (c : Company) : (s.setCompany c).outputs = s.outputs := rfl
@[simp] theorem State.setCompany_curtain (s : State) (c : Company) : (s.setCompany c).curtain = s.curtain := rfl
@[simp] theorem State.setCompany_curtainCount (s : State) (c : Company) : (s.setCompany c).curtainCount = s.curtainCount := rfl
@[simp] theorem State.setCompany_curtainAt (s : State) (c : Company) : (s.setCompany c).curtainAt = s.curtainAt := rfl
@[simp] theorem State.setCompany_waiting (s : State) (c : Company) : (s.setCompany c).waiting = s.waiting := rfl
@[simp] theorem State.setCompany_pcieUp (s : State) (c : Company) : (s.setCompany c).pcieUp = s.pcieUp := rfl
@[simp] theorem State.setCompany_debugOpen (s : State) (c : Company) : (s.setCompany c).debugOpen = s.debugOpen := rfl
@[simp] theorem State.setCompany_debugState (s : State) (c : Company) : (s.setCompany c).debugState = s.debugState := rfl
@[simp] theorem State.setCompany_managers (s : State) (c : Company) : (s.setCompany c).managers = s.managers := rfl
@[simp] theorem State.setCompany_plugins (s : State) (c : Company) : (s.setCompany c).plugins = s.plugins := rfl
@[simp] theorem State.setCompany_firmware (s : State) (c : Company) : (s.setCompany c).firmware = s.firmware := rfl
@[simp] theorem State.setCompany_flash (s : State) (c : Company) : (s.setCompany c).flash = s.flash := rfl
@[simp] theorem State.setCompany_fuses (s : State) (c : Company) : (s.setCompany c).fuses = s.fuses := rfl
@[simp] theorem State.setCompany_thermalTrips (s : State) (c : Company) : (s.setCompany c).thermalTrips = s.thermalTrips := rfl
@[simp] theorem State.setCompany_fohCorrected (s : State) (c : Company) : (s.setCompany c).fohCorrected = s.fohCorrected := rfl
@[simp] theorem State.setCompany_fohUncorrectable (s : State) (c : Company) : (s.setCompany c).fohUncorrectable = s.fohUncorrectable := rfl
@[simp] theorem State.setCompany_tripped (s : State) (c : Company) : (s.setCompany c).tripped = s.tripped := rfl
@[simp] theorem State.setCompany_bootStep (s : State) (c : Company) : (s.setCompany c).bootStep = s.bootStep := rfl
@[simp] theorem State.setCompany_recovery (s : State) (c : Company) : (s.setCompany c).recovery = s.recovery := rfl

@[simp] theorem State.modCompany_agenda (s : State) (u : Nat) (f : Company → Company) : (s.modCompany u f).agenda = s.agenda := rfl
@[simp] theorem State.modCompany_arg (s : State) (u : Nat) (f : Company → Company) : (s.modCompany u f).arg = s.arg := rfl
@[simp] theorem State.modCompany_cur (s : State) (u : Nat) (f : Company → Company) : (s.modCompany u f).cur = s.cur := rfl
@[simp] theorem State.modCompany_free (s : State) (u : Nat) (f : Company → Company) : (s.modCompany u f).free = s.free := rfl
@[simp] theorem State.modCompany_uid (s : State) (u : Nat) (f : Company → Company) : (s.modCompany u f).uid = s.uid := rfl
@[simp] theorem State.modCompany_now (s : State) (u : Nat) (f : Company → Company) : (s.modCompany u f).now = s.now := rfl
@[simp] theorem State.modCompany_slew (s : State) (u : Nat) (f : Company → Company) : (s.modCompany u f).slew = s.slew := rfl
@[simp] theorem State.modCompany_slewPart (s : State) (u : Nat) (f : Company → Company) : (s.modCompany u f).slewPart = s.slewPart := rfl
@[simp] theorem State.modCompany_mem (s : State) (u : Nat) (f : Company → Company) : (s.modCompany u f).mem = s.mem := rfl
@[simp] theorem State.modCompany_memPoison (s : State) (u : Nat) (f : Company → Company) : (s.modCompany u f).memPoison = s.memPoison := rfl
@[simp] theorem State.modCompany_lines (s : State) (u : Nat) (f : Company → Company) : (s.modCompany u f).lines = s.lines := rfl
@[simp] theorem State.modCompany_dies (s : State) (u : Nat) (f : Company → Company) : (s.modCompany u f).dies = s.dies := rfl
@[simp] theorem State.modCompany_clusters (s : State) (u : Nat) (f : Company → Company) : (s.modCompany u f).clusters = s.clusters := rfl
@[simp] theorem State.modCompany_cores (s : State) (u : Nat) (f : Company → Company) : (s.modCompany u f).cores = s.cores := rfl
@[simp] theorem State.modCompany_contexts (s : State) (u : Nat) (f : Company → Company) : (s.modCompany u f).contexts = s.contexts := rfl
@[simp] theorem State.modCompany_funcs (s : State) (u : Nat) (f : Company → Company) : (s.modCompany u f).funcs = s.funcs := rfl
@[simp] theorem State.modCompany_runs (s : State) (u : Nat) (f : Company → Company) : (s.modCompany u f).runs = s.runs := rfl
@[simp] theorem State.modCompany_troupes (s : State) (u : Nat) (f : Company → Company) : (s.modCompany u f).troupes = s.troupes := rfl
@[simp] theorem State.modCompany_walks (s : State) (u : Nat) (f : Company → Company) : (s.modCompany u f).walks = s.walks := rfl
@[simp] theorem State.modCompany_requests (s : State) (u : Nat) (f : Company → Company) : (s.modCompany u f).requests = s.requests := rfl
@[simp] theorem State.modCompany_keySlots (s : State) (u : Nat) (f : Company → Company) : (s.modCompany u f).keySlots = s.keySlots := rfl
@[simp] theorem State.modCompany_imported (s : State) (u : Nat) (f : Company → Company) : (s.modCompany u f).imported = s.imported := rfl
@[simp] theorem State.modCompany_images (s : State) (u : Nat) (f : Company → Company) : (s.modCompany u f).images = s.images := rfl
@[simp] theorem State.modCompany_copies (s : State) (u : Nat) (f : Company → Company) : (s.modCompany u f).copies = s.copies := rfl
@[simp] theorem State.modCompany_permitSel (s : State) (u : Nat) (f : Company → Company) : (s.modCompany u f).permitSel = s.permitSel := rfl
@[simp] theorem State.modCompany_apertures (s : State) (u : Nat) (f : Company → Company) : (s.modCompany u f).apertures = s.apertures := rfl
@[simp] theorem State.modCompany_ports (s : State) (u : Nat) (f : Company → Company) : (s.modCompany u f).ports = s.ports := rfl
@[simp] theorem State.modCompany_routes (s : State) (u : Nat) (f : Company → Company) : (s.modCompany u f).routes = s.routes := rfl
@[simp] theorem State.modCompany_deviceId (s : State) (u : Nat) (f : Company → Company) : (s.modCompany u f).deviceId = s.deviceId := rfl
@[simp] theorem State.modCompany_idents (s : State) (u : Nat) (f : Company → Company) : (s.modCompany u f).idents = s.idents := rfl
@[simp] theorem State.modCompany_sent (s : State) (u : Nat) (f : Company → Company) : (s.modCompany u f).sent = s.sent := rfl
@[simp] theorem State.modCompany_memos (s : State) (u : Nat) (f : Company → Company) : (s.modCompany u f).memos = s.memos := rfl
@[simp] theorem State.modCompany_groups (s : State) (u : Nat) (f : Company → Company) : (s.modCompany u f).groups = s.groups := rfl
@[simp] theorem State.modCompany_revoked (s : State) (u : Nat) (f : Company → Company) : (s.modCompany u f).revoked = s.revoked := rfl
@[simp] theorem State.modCompany_replies (s : State) (u : Nat) (f : Company → Company) : (s.modCompany u f).replies = s.replies := rfl
@[simp] theorem State.modCompany_outputs (s : State) (u : Nat) (f : Company → Company) : (s.modCompany u f).outputs = s.outputs := rfl
@[simp] theorem State.modCompany_curtain (s : State) (u : Nat) (f : Company → Company) : (s.modCompany u f).curtain = s.curtain := rfl
@[simp] theorem State.modCompany_curtainCount (s : State) (u : Nat) (f : Company → Company) : (s.modCompany u f).curtainCount = s.curtainCount := rfl
@[simp] theorem State.modCompany_curtainAt (s : State) (u : Nat) (f : Company → Company) : (s.modCompany u f).curtainAt = s.curtainAt := rfl
@[simp] theorem State.modCompany_waiting (s : State) (u : Nat) (f : Company → Company) : (s.modCompany u f).waiting = s.waiting := rfl
@[simp] theorem State.modCompany_pcieUp (s : State) (u : Nat) (f : Company → Company) : (s.modCompany u f).pcieUp = s.pcieUp := rfl
@[simp] theorem State.modCompany_debugOpen (s : State) (u : Nat) (f : Company → Company) : (s.modCompany u f).debugOpen = s.debugOpen := rfl
@[simp] theorem State.modCompany_debugState (s : State) (u : Nat) (f : Company → Company) : (s.modCompany u f).debugState = s.debugState := rfl
@[simp] theorem State.modCompany_managers (s : State) (u : Nat) (f : Company → Company) : (s.modCompany u f).managers = s.managers := rfl
@[simp] theorem State.modCompany_plugins (s : State) (u : Nat) (f : Company → Company) : (s.modCompany u f).plugins = s.plugins := rfl
@[simp] theorem State.modCompany_firmware (s : State) (u : Nat) (f : Company → Company) : (s.modCompany u f).firmware = s.firmware := rfl
@[simp] theorem State.modCompany_flash (s : State) (u : Nat) (f : Company → Company) : (s.modCompany u f).flash = s.flash := rfl
@[simp] theorem State.modCompany_fuses (s : State) (u : Nat) (f : Company → Company) : (s.modCompany u f).fuses = s.fuses := rfl
@[simp] theorem State.modCompany_thermalTrips (s : State) (u : Nat) (f : Company → Company) : (s.modCompany u f).thermalTrips = s.thermalTrips := rfl
@[simp] theorem State.modCompany_fohCorrected (s : State) (u : Nat) (f : Company → Company) : (s.modCompany u f).fohCorrected = s.fohCorrected := rfl
@[simp] theorem State.modCompany_fohUncorrectable (s : State) (u : Nat) (f : Company → Company) : (s.modCompany u f).fohUncorrectable = s.fohUncorrectable := rfl
@[simp] theorem State.modCompany_tripped (s : State) (u : Nat) (f : Company → Company) : (s.modCompany u f).tripped = s.tripped := rfl
@[simp] theorem State.modCompany_bootStep (s : State) (u : Nat) (f : Company → Company) : (s.modCompany u f).bootStep = s.bootStep := rfl
@[simp] theorem State.modCompany_recovery (s : State) (u : Nat) (f : Company → Company) : (s.modCompany u f).recovery = s.recovery := rfl

@[simp] theorem State.modChorus_agenda (s : State) (u i : Nat) (f : Chorus → Chorus) : (s.modChorus u i f).agenda = s.agenda := rfl
@[simp] theorem State.modChorus_arg (s : State) (u i : Nat) (f : Chorus → Chorus) : (s.modChorus u i f).arg = s.arg := rfl
@[simp] theorem State.modChorus_cur (s : State) (u i : Nat) (f : Chorus → Chorus) : (s.modChorus u i f).cur = s.cur := rfl
@[simp] theorem State.modChorus_free (s : State) (u i : Nat) (f : Chorus → Chorus) : (s.modChorus u i f).free = s.free := rfl
@[simp] theorem State.modChorus_uid (s : State) (u i : Nat) (f : Chorus → Chorus) : (s.modChorus u i f).uid = s.uid := rfl
@[simp] theorem State.modChorus_now (s : State) (u i : Nat) (f : Chorus → Chorus) : (s.modChorus u i f).now = s.now := rfl
@[simp] theorem State.modChorus_slew (s : State) (u i : Nat) (f : Chorus → Chorus) : (s.modChorus u i f).slew = s.slew := rfl
@[simp] theorem State.modChorus_slewPart (s : State) (u i : Nat) (f : Chorus → Chorus) : (s.modChorus u i f).slewPart = s.slewPart := rfl
@[simp] theorem State.modChorus_mem (s : State) (u i : Nat) (f : Chorus → Chorus) : (s.modChorus u i f).mem = s.mem := rfl
@[simp] theorem State.modChorus_memPoison (s : State) (u i : Nat) (f : Chorus → Chorus) : (s.modChorus u i f).memPoison = s.memPoison := rfl
@[simp] theorem State.modChorus_lines (s : State) (u i : Nat) (f : Chorus → Chorus) : (s.modChorus u i f).lines = s.lines := rfl
@[simp] theorem State.modChorus_dies (s : State) (u i : Nat) (f : Chorus → Chorus) : (s.modChorus u i f).dies = s.dies := rfl
@[simp] theorem State.modChorus_clusters (s : State) (u i : Nat) (f : Chorus → Chorus) : (s.modChorus u i f).clusters = s.clusters := rfl
@[simp] theorem State.modChorus_cores (s : State) (u i : Nat) (f : Chorus → Chorus) : (s.modChorus u i f).cores = s.cores := rfl
@[simp] theorem State.modChorus_contexts (s : State) (u i : Nat) (f : Chorus → Chorus) : (s.modChorus u i f).contexts = s.contexts := rfl
@[simp] theorem State.modChorus_funcs (s : State) (u i : Nat) (f : Chorus → Chorus) : (s.modChorus u i f).funcs = s.funcs := rfl
@[simp] theorem State.modChorus_runs (s : State) (u i : Nat) (f : Chorus → Chorus) : (s.modChorus u i f).runs = s.runs := rfl
@[simp] theorem State.modChorus_troupes (s : State) (u i : Nat) (f : Chorus → Chorus) : (s.modChorus u i f).troupes = s.troupes := rfl
@[simp] theorem State.modChorus_walks (s : State) (u i : Nat) (f : Chorus → Chorus) : (s.modChorus u i f).walks = s.walks := rfl
@[simp] theorem State.modChorus_requests (s : State) (u i : Nat) (f : Chorus → Chorus) : (s.modChorus u i f).requests = s.requests := rfl
@[simp] theorem State.modChorus_keySlots (s : State) (u i : Nat) (f : Chorus → Chorus) : (s.modChorus u i f).keySlots = s.keySlots := rfl
@[simp] theorem State.modChorus_imported (s : State) (u i : Nat) (f : Chorus → Chorus) : (s.modChorus u i f).imported = s.imported := rfl
@[simp] theorem State.modChorus_images (s : State) (u i : Nat) (f : Chorus → Chorus) : (s.modChorus u i f).images = s.images := rfl
@[simp] theorem State.modChorus_copies (s : State) (u i : Nat) (f : Chorus → Chorus) : (s.modChorus u i f).copies = s.copies := rfl
@[simp] theorem State.modChorus_permitSel (s : State) (u i : Nat) (f : Chorus → Chorus) : (s.modChorus u i f).permitSel = s.permitSel := rfl
@[simp] theorem State.modChorus_apertures (s : State) (u i : Nat) (f : Chorus → Chorus) : (s.modChorus u i f).apertures = s.apertures := rfl
@[simp] theorem State.modChorus_ports (s : State) (u i : Nat) (f : Chorus → Chorus) : (s.modChorus u i f).ports = s.ports := rfl
@[simp] theorem State.modChorus_routes (s : State) (u i : Nat) (f : Chorus → Chorus) : (s.modChorus u i f).routes = s.routes := rfl
@[simp] theorem State.modChorus_deviceId (s : State) (u i : Nat) (f : Chorus → Chorus) : (s.modChorus u i f).deviceId = s.deviceId := rfl
@[simp] theorem State.modChorus_idents (s : State) (u i : Nat) (f : Chorus → Chorus) : (s.modChorus u i f).idents = s.idents := rfl
@[simp] theorem State.modChorus_sent (s : State) (u i : Nat) (f : Chorus → Chorus) : (s.modChorus u i f).sent = s.sent := rfl
@[simp] theorem State.modChorus_memos (s : State) (u i : Nat) (f : Chorus → Chorus) : (s.modChorus u i f).memos = s.memos := rfl
@[simp] theorem State.modChorus_groups (s : State) (u i : Nat) (f : Chorus → Chorus) : (s.modChorus u i f).groups = s.groups := rfl
@[simp] theorem State.modChorus_revoked (s : State) (u i : Nat) (f : Chorus → Chorus) : (s.modChorus u i f).revoked = s.revoked := rfl
@[simp] theorem State.modChorus_replies (s : State) (u i : Nat) (f : Chorus → Chorus) : (s.modChorus u i f).replies = s.replies := rfl
@[simp] theorem State.modChorus_outputs (s : State) (u i : Nat) (f : Chorus → Chorus) : (s.modChorus u i f).outputs = s.outputs := rfl
@[simp] theorem State.modChorus_curtain (s : State) (u i : Nat) (f : Chorus → Chorus) : (s.modChorus u i f).curtain = s.curtain := rfl
@[simp] theorem State.modChorus_curtainCount (s : State) (u i : Nat) (f : Chorus → Chorus) : (s.modChorus u i f).curtainCount = s.curtainCount := rfl
@[simp] theorem State.modChorus_curtainAt (s : State) (u i : Nat) (f : Chorus → Chorus) : (s.modChorus u i f).curtainAt = s.curtainAt := rfl
@[simp] theorem State.modChorus_waiting (s : State) (u i : Nat) (f : Chorus → Chorus) : (s.modChorus u i f).waiting = s.waiting := rfl
@[simp] theorem State.modChorus_pcieUp (s : State) (u i : Nat) (f : Chorus → Chorus) : (s.modChorus u i f).pcieUp = s.pcieUp := rfl
@[simp] theorem State.modChorus_debugOpen (s : State) (u i : Nat) (f : Chorus → Chorus) : (s.modChorus u i f).debugOpen = s.debugOpen := rfl
@[simp] theorem State.modChorus_debugState (s : State) (u i : Nat) (f : Chorus → Chorus) : (s.modChorus u i f).debugState = s.debugState := rfl
@[simp] theorem State.modChorus_managers (s : State) (u i : Nat) (f : Chorus → Chorus) : (s.modChorus u i f).managers = s.managers := rfl
@[simp] theorem State.modChorus_plugins (s : State) (u i : Nat) (f : Chorus → Chorus) : (s.modChorus u i f).plugins = s.plugins := rfl
@[simp] theorem State.modChorus_firmware (s : State) (u i : Nat) (f : Chorus → Chorus) : (s.modChorus u i f).firmware = s.firmware := rfl
@[simp] theorem State.modChorus_flash (s : State) (u i : Nat) (f : Chorus → Chorus) : (s.modChorus u i f).flash = s.flash := rfl
@[simp] theorem State.modChorus_fuses (s : State) (u i : Nat) (f : Chorus → Chorus) : (s.modChorus u i f).fuses = s.fuses := rfl
@[simp] theorem State.modChorus_thermalTrips (s : State) (u i : Nat) (f : Chorus → Chorus) : (s.modChorus u i f).thermalTrips = s.thermalTrips := rfl
@[simp] theorem State.modChorus_fohCorrected (s : State) (u i : Nat) (f : Chorus → Chorus) : (s.modChorus u i f).fohCorrected = s.fohCorrected := rfl
@[simp] theorem State.modChorus_fohUncorrectable (s : State) (u i : Nat) (f : Chorus → Chorus) : (s.modChorus u i f).fohUncorrectable = s.fohUncorrectable := rfl
@[simp] theorem State.modChorus_tripped (s : State) (u i : Nat) (f : Chorus → Chorus) : (s.modChorus u i f).tripped = s.tripped := rfl
@[simp] theorem State.modChorus_bootStep (s : State) (u i : Nat) (f : Chorus → Chorus) : (s.modChorus u i f).bootStep = s.bootStep := rfl
@[simp] theorem State.modChorus_recovery (s : State) (u i : Nat) (f : Chorus → Chorus) : (s.modChorus u i f).recovery = s.recovery := rfl

@[simp] theorem State.modContext_agenda (s : State) (i : Nat) (f : Context → Context) : (s.modContext i f).agenda = s.agenda := rfl
@[simp] theorem State.modContext_arg (s : State) (i : Nat) (f : Context → Context) : (s.modContext i f).arg = s.arg := rfl
@[simp] theorem State.modContext_cur (s : State) (i : Nat) (f : Context → Context) : (s.modContext i f).cur = s.cur := rfl
@[simp] theorem State.modContext_free (s : State) (i : Nat) (f : Context → Context) : (s.modContext i f).free = s.free := rfl
@[simp] theorem State.modContext_uid (s : State) (i : Nat) (f : Context → Context) : (s.modContext i f).uid = s.uid := rfl
@[simp] theorem State.modContext_now (s : State) (i : Nat) (f : Context → Context) : (s.modContext i f).now = s.now := rfl
@[simp] theorem State.modContext_slew (s : State) (i : Nat) (f : Context → Context) : (s.modContext i f).slew = s.slew := rfl
@[simp] theorem State.modContext_slewPart (s : State) (i : Nat) (f : Context → Context) : (s.modContext i f).slewPart = s.slewPart := rfl
@[simp] theorem State.modContext_mem (s : State) (i : Nat) (f : Context → Context) : (s.modContext i f).mem = s.mem := rfl
@[simp] theorem State.modContext_memPoison (s : State) (i : Nat) (f : Context → Context) : (s.modContext i f).memPoison = s.memPoison := rfl
@[simp] theorem State.modContext_lines (s : State) (i : Nat) (f : Context → Context) : (s.modContext i f).lines = s.lines := rfl
@[simp] theorem State.modContext_dies (s : State) (i : Nat) (f : Context → Context) : (s.modContext i f).dies = s.dies := rfl
@[simp] theorem State.modContext_clusters (s : State) (i : Nat) (f : Context → Context) : (s.modContext i f).clusters = s.clusters := rfl
@[simp] theorem State.modContext_cores (s : State) (i : Nat) (f : Context → Context) : (s.modContext i f).cores = s.cores := rfl
@[simp] theorem State.modContext_funcs (s : State) (i : Nat) (f : Context → Context) : (s.modContext i f).funcs = s.funcs := rfl
@[simp] theorem State.modContext_runs (s : State) (i : Nat) (f : Context → Context) : (s.modContext i f).runs = s.runs := rfl
@[simp] theorem State.modContext_troupes (s : State) (i : Nat) (f : Context → Context) : (s.modContext i f).troupes = s.troupes := rfl
@[simp] theorem State.modContext_companies (s : State) (i : Nat) (f : Context → Context) : (s.modContext i f).companies = s.companies := rfl
@[simp] theorem State.modContext_walks (s : State) (i : Nat) (f : Context → Context) : (s.modContext i f).walks = s.walks := rfl
@[simp] theorem State.modContext_requests (s : State) (i : Nat) (f : Context → Context) : (s.modContext i f).requests = s.requests := rfl
@[simp] theorem State.modContext_keySlots (s : State) (i : Nat) (f : Context → Context) : (s.modContext i f).keySlots = s.keySlots := rfl
@[simp] theorem State.modContext_imported (s : State) (i : Nat) (f : Context → Context) : (s.modContext i f).imported = s.imported := rfl
@[simp] theorem State.modContext_images (s : State) (i : Nat) (f : Context → Context) : (s.modContext i f).images = s.images := rfl
@[simp] theorem State.modContext_copies (s : State) (i : Nat) (f : Context → Context) : (s.modContext i f).copies = s.copies := rfl
@[simp] theorem State.modContext_permitSel (s : State) (i : Nat) (f : Context → Context) : (s.modContext i f).permitSel = s.permitSel := rfl
@[simp] theorem State.modContext_apertures (s : State) (i : Nat) (f : Context → Context) : (s.modContext i f).apertures = s.apertures := rfl
@[simp] theorem State.modContext_ports (s : State) (i : Nat) (f : Context → Context) : (s.modContext i f).ports = s.ports := rfl
@[simp] theorem State.modContext_routes (s : State) (i : Nat) (f : Context → Context) : (s.modContext i f).routes = s.routes := rfl
@[simp] theorem State.modContext_deviceId (s : State) (i : Nat) (f : Context → Context) : (s.modContext i f).deviceId = s.deviceId := rfl
@[simp] theorem State.modContext_idents (s : State) (i : Nat) (f : Context → Context) : (s.modContext i f).idents = s.idents := rfl
@[simp] theorem State.modContext_sent (s : State) (i : Nat) (f : Context → Context) : (s.modContext i f).sent = s.sent := rfl
@[simp] theorem State.modContext_memos (s : State) (i : Nat) (f : Context → Context) : (s.modContext i f).memos = s.memos := rfl
@[simp] theorem State.modContext_groups (s : State) (i : Nat) (f : Context → Context) : (s.modContext i f).groups = s.groups := rfl
@[simp] theorem State.modContext_revoked (s : State) (i : Nat) (f : Context → Context) : (s.modContext i f).revoked = s.revoked := rfl
@[simp] theorem State.modContext_replies (s : State) (i : Nat) (f : Context → Context) : (s.modContext i f).replies = s.replies := rfl
@[simp] theorem State.modContext_outputs (s : State) (i : Nat) (f : Context → Context) : (s.modContext i f).outputs = s.outputs := rfl
@[simp] theorem State.modContext_curtain (s : State) (i : Nat) (f : Context → Context) : (s.modContext i f).curtain = s.curtain := rfl
@[simp] theorem State.modContext_curtainCount (s : State) (i : Nat) (f : Context → Context) : (s.modContext i f).curtainCount = s.curtainCount := rfl
@[simp] theorem State.modContext_curtainAt (s : State) (i : Nat) (f : Context → Context) : (s.modContext i f).curtainAt = s.curtainAt := rfl
@[simp] theorem State.modContext_waiting (s : State) (i : Nat) (f : Context → Context) : (s.modContext i f).waiting = s.waiting := rfl
@[simp] theorem State.modContext_pcieUp (s : State) (i : Nat) (f : Context → Context) : (s.modContext i f).pcieUp = s.pcieUp := rfl
@[simp] theorem State.modContext_debugOpen (s : State) (i : Nat) (f : Context → Context) : (s.modContext i f).debugOpen = s.debugOpen := rfl
@[simp] theorem State.modContext_debugState (s : State) (i : Nat) (f : Context → Context) : (s.modContext i f).debugState = s.debugState := rfl
@[simp] theorem State.modContext_managers (s : State) (i : Nat) (f : Context → Context) : (s.modContext i f).managers = s.managers := rfl
@[simp] theorem State.modContext_plugins (s : State) (i : Nat) (f : Context → Context) : (s.modContext i f).plugins = s.plugins := rfl
@[simp] theorem State.modContext_firmware (s : State) (i : Nat) (f : Context → Context) : (s.modContext i f).firmware = s.firmware := rfl
@[simp] theorem State.modContext_flash (s : State) (i : Nat) (f : Context → Context) : (s.modContext i f).flash = s.flash := rfl
@[simp] theorem State.modContext_fuses (s : State) (i : Nat) (f : Context → Context) : (s.modContext i f).fuses = s.fuses := rfl
@[simp] theorem State.modContext_thermalTrips (s : State) (i : Nat) (f : Context → Context) : (s.modContext i f).thermalTrips = s.thermalTrips := rfl
@[simp] theorem State.modContext_fohCorrected (s : State) (i : Nat) (f : Context → Context) : (s.modContext i f).fohCorrected = s.fohCorrected := rfl
@[simp] theorem State.modContext_fohUncorrectable (s : State) (i : Nat) (f : Context → Context) : (s.modContext i f).fohUncorrectable = s.fohUncorrectable := rfl
@[simp] theorem State.modContext_tripped (s : State) (i : Nat) (f : Context → Context) : (s.modContext i f).tripped = s.tripped := rfl
@[simp] theorem State.modContext_bootStep (s : State) (i : Nat) (f : Context → Context) : (s.modContext i f).bootStep = s.bootStep := rfl
@[simp] theorem State.modContext_recovery (s : State) (i : Nat) (f : Context → Context) : (s.modContext i f).recovery = s.recovery := rfl

@[simp] theorem State.modRun_agenda (s : State) (c r : Nat) (f : Run → Run) : (s.modRun c r f).agenda = s.agenda := rfl
@[simp] theorem State.modRun_arg (s : State) (c r : Nat) (f : Run → Run) : (s.modRun c r f).arg = s.arg := rfl
@[simp] theorem State.modRun_cur (s : State) (c r : Nat) (f : Run → Run) : (s.modRun c r f).cur = s.cur := rfl
@[simp] theorem State.modRun_free (s : State) (c r : Nat) (f : Run → Run) : (s.modRun c r f).free = s.free := rfl
@[simp] theorem State.modRun_uid (s : State) (c r : Nat) (f : Run → Run) : (s.modRun c r f).uid = s.uid := rfl
@[simp] theorem State.modRun_now (s : State) (c r : Nat) (f : Run → Run) : (s.modRun c r f).now = s.now := rfl
@[simp] theorem State.modRun_slew (s : State) (c r : Nat) (f : Run → Run) : (s.modRun c r f).slew = s.slew := rfl
@[simp] theorem State.modRun_slewPart (s : State) (c r : Nat) (f : Run → Run) : (s.modRun c r f).slewPart = s.slewPart := rfl
@[simp] theorem State.modRun_mem (s : State) (c r : Nat) (f : Run → Run) : (s.modRun c r f).mem = s.mem := rfl
@[simp] theorem State.modRun_memPoison (s : State) (c r : Nat) (f : Run → Run) : (s.modRun c r f).memPoison = s.memPoison := rfl
@[simp] theorem State.modRun_lines (s : State) (c r : Nat) (f : Run → Run) : (s.modRun c r f).lines = s.lines := rfl
@[simp] theorem State.modRun_dies (s : State) (c r : Nat) (f : Run → Run) : (s.modRun c r f).dies = s.dies := rfl
@[simp] theorem State.modRun_clusters (s : State) (c r : Nat) (f : Run → Run) : (s.modRun c r f).clusters = s.clusters := rfl
@[simp] theorem State.modRun_cores (s : State) (c r : Nat) (f : Run → Run) : (s.modRun c r f).cores = s.cores := rfl
@[simp] theorem State.modRun_contexts (s : State) (c r : Nat) (f : Run → Run) : (s.modRun c r f).contexts = s.contexts := rfl
@[simp] theorem State.modRun_funcs (s : State) (c r : Nat) (f : Run → Run) : (s.modRun c r f).funcs = s.funcs := rfl
@[simp] theorem State.modRun_troupes (s : State) (c r : Nat) (f : Run → Run) : (s.modRun c r f).troupes = s.troupes := rfl
@[simp] theorem State.modRun_companies (s : State) (c r : Nat) (f : Run → Run) : (s.modRun c r f).companies = s.companies := rfl
@[simp] theorem State.modRun_walks (s : State) (c r : Nat) (f : Run → Run) : (s.modRun c r f).walks = s.walks := rfl
@[simp] theorem State.modRun_requests (s : State) (c r : Nat) (f : Run → Run) : (s.modRun c r f).requests = s.requests := rfl
@[simp] theorem State.modRun_keySlots (s : State) (c r : Nat) (f : Run → Run) : (s.modRun c r f).keySlots = s.keySlots := rfl
@[simp] theorem State.modRun_imported (s : State) (c r : Nat) (f : Run → Run) : (s.modRun c r f).imported = s.imported := rfl
@[simp] theorem State.modRun_images (s : State) (c r : Nat) (f : Run → Run) : (s.modRun c r f).images = s.images := rfl
@[simp] theorem State.modRun_copies (s : State) (c r : Nat) (f : Run → Run) : (s.modRun c r f).copies = s.copies := rfl
@[simp] theorem State.modRun_permitSel (s : State) (c r : Nat) (f : Run → Run) : (s.modRun c r f).permitSel = s.permitSel := rfl
@[simp] theorem State.modRun_apertures (s : State) (c r : Nat) (f : Run → Run) : (s.modRun c r f).apertures = s.apertures := rfl
@[simp] theorem State.modRun_ports (s : State) (c r : Nat) (f : Run → Run) : (s.modRun c r f).ports = s.ports := rfl
@[simp] theorem State.modRun_routes (s : State) (c r : Nat) (f : Run → Run) : (s.modRun c r f).routes = s.routes := rfl
@[simp] theorem State.modRun_deviceId (s : State) (c r : Nat) (f : Run → Run) : (s.modRun c r f).deviceId = s.deviceId := rfl
@[simp] theorem State.modRun_idents (s : State) (c r : Nat) (f : Run → Run) : (s.modRun c r f).idents = s.idents := rfl
@[simp] theorem State.modRun_sent (s : State) (c r : Nat) (f : Run → Run) : (s.modRun c r f).sent = s.sent := rfl
@[simp] theorem State.modRun_memos (s : State) (c r : Nat) (f : Run → Run) : (s.modRun c r f).memos = s.memos := rfl
@[simp] theorem State.modRun_groups (s : State) (c r : Nat) (f : Run → Run) : (s.modRun c r f).groups = s.groups := rfl
@[simp] theorem State.modRun_revoked (s : State) (c r : Nat) (f : Run → Run) : (s.modRun c r f).revoked = s.revoked := rfl
@[simp] theorem State.modRun_replies (s : State) (c r : Nat) (f : Run → Run) : (s.modRun c r f).replies = s.replies := rfl
@[simp] theorem State.modRun_outputs (s : State) (c r : Nat) (f : Run → Run) : (s.modRun c r f).outputs = s.outputs := rfl
@[simp] theorem State.modRun_curtain (s : State) (c r : Nat) (f : Run → Run) : (s.modRun c r f).curtain = s.curtain := rfl
@[simp] theorem State.modRun_curtainCount (s : State) (c r : Nat) (f : Run → Run) : (s.modRun c r f).curtainCount = s.curtainCount := rfl
@[simp] theorem State.modRun_curtainAt (s : State) (c r : Nat) (f : Run → Run) : (s.modRun c r f).curtainAt = s.curtainAt := rfl
@[simp] theorem State.modRun_waiting (s : State) (c r : Nat) (f : Run → Run) : (s.modRun c r f).waiting = s.waiting := rfl
@[simp] theorem State.modRun_pcieUp (s : State) (c r : Nat) (f : Run → Run) : (s.modRun c r f).pcieUp = s.pcieUp := rfl
@[simp] theorem State.modRun_debugOpen (s : State) (c r : Nat) (f : Run → Run) : (s.modRun c r f).debugOpen = s.debugOpen := rfl
@[simp] theorem State.modRun_debugState (s : State) (c r : Nat) (f : Run → Run) : (s.modRun c r f).debugState = s.debugState := rfl
@[simp] theorem State.modRun_managers (s : State) (c r : Nat) (f : Run → Run) : (s.modRun c r f).managers = s.managers := rfl
@[simp] theorem State.modRun_plugins (s : State) (c r : Nat) (f : Run → Run) : (s.modRun c r f).plugins = s.plugins := rfl
@[simp] theorem State.modRun_firmware (s : State) (c r : Nat) (f : Run → Run) : (s.modRun c r f).firmware = s.firmware := rfl
@[simp] theorem State.modRun_flash (s : State) (c r : Nat) (f : Run → Run) : (s.modRun c r f).flash = s.flash := rfl
@[simp] theorem State.modRun_fuses (s : State) (c r : Nat) (f : Run → Run) : (s.modRun c r f).fuses = s.fuses := rfl
@[simp] theorem State.modRun_thermalTrips (s : State) (c r : Nat) (f : Run → Run) : (s.modRun c r f).thermalTrips = s.thermalTrips := rfl
@[simp] theorem State.modRun_fohCorrected (s : State) (c r : Nat) (f : Run → Run) : (s.modRun c r f).fohCorrected = s.fohCorrected := rfl
@[simp] theorem State.modRun_fohUncorrectable (s : State) (c r : Nat) (f : Run → Run) : (s.modRun c r f).fohUncorrectable = s.fohUncorrectable := rfl
@[simp] theorem State.modRun_tripped (s : State) (c r : Nat) (f : Run → Run) : (s.modRun c r f).tripped = s.tripped := rfl
@[simp] theorem State.modRun_bootStep (s : State) (c r : Nat) (f : Run → Run) : (s.modRun c r f).bootStep = s.bootStep := rfl
@[simp] theorem State.modRun_recovery (s : State) (c r : Nat) (f : Run → Run) : (s.modRun c r f).recovery = s.recovery := rfl

@[simp] theorem State.modTroupe_agenda (s : State) (c r k : Nat) (f : Troupe → Troupe) : (s.modTroupe c r k f).agenda = s.agenda := rfl
@[simp] theorem State.modTroupe_arg (s : State) (c r k : Nat) (f : Troupe → Troupe) : (s.modTroupe c r k f).arg = s.arg := rfl
@[simp] theorem State.modTroupe_cur (s : State) (c r k : Nat) (f : Troupe → Troupe) : (s.modTroupe c r k f).cur = s.cur := rfl
@[simp] theorem State.modTroupe_free (s : State) (c r k : Nat) (f : Troupe → Troupe) : (s.modTroupe c r k f).free = s.free := rfl
@[simp] theorem State.modTroupe_uid (s : State) (c r k : Nat) (f : Troupe → Troupe) : (s.modTroupe c r k f).uid = s.uid := rfl
@[simp] theorem State.modTroupe_now (s : State) (c r k : Nat) (f : Troupe → Troupe) : (s.modTroupe c r k f).now = s.now := rfl
@[simp] theorem State.modTroupe_slew (s : State) (c r k : Nat) (f : Troupe → Troupe) : (s.modTroupe c r k f).slew = s.slew := rfl
@[simp] theorem State.modTroupe_slewPart (s : State) (c r k : Nat) (f : Troupe → Troupe) : (s.modTroupe c r k f).slewPart = s.slewPart := rfl
@[simp] theorem State.modTroupe_mem (s : State) (c r k : Nat) (f : Troupe → Troupe) : (s.modTroupe c r k f).mem = s.mem := rfl
@[simp] theorem State.modTroupe_memPoison (s : State) (c r k : Nat) (f : Troupe → Troupe) : (s.modTroupe c r k f).memPoison = s.memPoison := rfl
@[simp] theorem State.modTroupe_lines (s : State) (c r k : Nat) (f : Troupe → Troupe) : (s.modTroupe c r k f).lines = s.lines := rfl
@[simp] theorem State.modTroupe_dies (s : State) (c r k : Nat) (f : Troupe → Troupe) : (s.modTroupe c r k f).dies = s.dies := rfl
@[simp] theorem State.modTroupe_clusters (s : State) (c r k : Nat) (f : Troupe → Troupe) : (s.modTroupe c r k f).clusters = s.clusters := rfl
@[simp] theorem State.modTroupe_cores (s : State) (c r k : Nat) (f : Troupe → Troupe) : (s.modTroupe c r k f).cores = s.cores := rfl
@[simp] theorem State.modTroupe_contexts (s : State) (c r k : Nat) (f : Troupe → Troupe) : (s.modTroupe c r k f).contexts = s.contexts := rfl
@[simp] theorem State.modTroupe_funcs (s : State) (c r k : Nat) (f : Troupe → Troupe) : (s.modTroupe c r k f).funcs = s.funcs := rfl
@[simp] theorem State.modTroupe_runs (s : State) (c r k : Nat) (f : Troupe → Troupe) : (s.modTroupe c r k f).runs = s.runs := rfl
@[simp] theorem State.modTroupe_companies (s : State) (c r k : Nat) (f : Troupe → Troupe) : (s.modTroupe c r k f).companies = s.companies := rfl
@[simp] theorem State.modTroupe_walks (s : State) (c r k : Nat) (f : Troupe → Troupe) : (s.modTroupe c r k f).walks = s.walks := rfl
@[simp] theorem State.modTroupe_requests (s : State) (c r k : Nat) (f : Troupe → Troupe) : (s.modTroupe c r k f).requests = s.requests := rfl
@[simp] theorem State.modTroupe_keySlots (s : State) (c r k : Nat) (f : Troupe → Troupe) : (s.modTroupe c r k f).keySlots = s.keySlots := rfl
@[simp] theorem State.modTroupe_imported (s : State) (c r k : Nat) (f : Troupe → Troupe) : (s.modTroupe c r k f).imported = s.imported := rfl
@[simp] theorem State.modTroupe_images (s : State) (c r k : Nat) (f : Troupe → Troupe) : (s.modTroupe c r k f).images = s.images := rfl
@[simp] theorem State.modTroupe_copies (s : State) (c r k : Nat) (f : Troupe → Troupe) : (s.modTroupe c r k f).copies = s.copies := rfl
@[simp] theorem State.modTroupe_permitSel (s : State) (c r k : Nat) (f : Troupe → Troupe) : (s.modTroupe c r k f).permitSel = s.permitSel := rfl
@[simp] theorem State.modTroupe_apertures (s : State) (c r k : Nat) (f : Troupe → Troupe) : (s.modTroupe c r k f).apertures = s.apertures := rfl
@[simp] theorem State.modTroupe_ports (s : State) (c r k : Nat) (f : Troupe → Troupe) : (s.modTroupe c r k f).ports = s.ports := rfl
@[simp] theorem State.modTroupe_routes (s : State) (c r k : Nat) (f : Troupe → Troupe) : (s.modTroupe c r k f).routes = s.routes := rfl
@[simp] theorem State.modTroupe_deviceId (s : State) (c r k : Nat) (f : Troupe → Troupe) : (s.modTroupe c r k f).deviceId = s.deviceId := rfl
@[simp] theorem State.modTroupe_idents (s : State) (c r k : Nat) (f : Troupe → Troupe) : (s.modTroupe c r k f).idents = s.idents := rfl
@[simp] theorem State.modTroupe_sent (s : State) (c r k : Nat) (f : Troupe → Troupe) : (s.modTroupe c r k f).sent = s.sent := rfl
@[simp] theorem State.modTroupe_memos (s : State) (c r k : Nat) (f : Troupe → Troupe) : (s.modTroupe c r k f).memos = s.memos := rfl
@[simp] theorem State.modTroupe_groups (s : State) (c r k : Nat) (f : Troupe → Troupe) : (s.modTroupe c r k f).groups = s.groups := rfl
@[simp] theorem State.modTroupe_revoked (s : State) (c r k : Nat) (f : Troupe → Troupe) : (s.modTroupe c r k f).revoked = s.revoked := rfl
@[simp] theorem State.modTroupe_replies (s : State) (c r k : Nat) (f : Troupe → Troupe) : (s.modTroupe c r k f).replies = s.replies := rfl
@[simp] theorem State.modTroupe_outputs (s : State) (c r k : Nat) (f : Troupe → Troupe) : (s.modTroupe c r k f).outputs = s.outputs := rfl
@[simp] theorem State.modTroupe_curtain (s : State) (c r k : Nat) (f : Troupe → Troupe) : (s.modTroupe c r k f).curtain = s.curtain := rfl
@[simp] theorem State.modTroupe_curtainCount (s : State) (c r k : Nat) (f : Troupe → Troupe) : (s.modTroupe c r k f).curtainCount = s.curtainCount := rfl
@[simp] theorem State.modTroupe_curtainAt (s : State) (c r k : Nat) (f : Troupe → Troupe) : (s.modTroupe c r k f).curtainAt = s.curtainAt := rfl
@[simp] theorem State.modTroupe_waiting (s : State) (c r k : Nat) (f : Troupe → Troupe) : (s.modTroupe c r k f).waiting = s.waiting := rfl
@[simp] theorem State.modTroupe_pcieUp (s : State) (c r k : Nat) (f : Troupe → Troupe) : (s.modTroupe c r k f).pcieUp = s.pcieUp := rfl
@[simp] theorem State.modTroupe_debugOpen (s : State) (c r k : Nat) (f : Troupe → Troupe) : (s.modTroupe c r k f).debugOpen = s.debugOpen := rfl
@[simp] theorem State.modTroupe_debugState (s : State) (c r k : Nat) (f : Troupe → Troupe) : (s.modTroupe c r k f).debugState = s.debugState := rfl
@[simp] theorem State.modTroupe_managers (s : State) (c r k : Nat) (f : Troupe → Troupe) : (s.modTroupe c r k f).managers = s.managers := rfl
@[simp] theorem State.modTroupe_plugins (s : State) (c r k : Nat) (f : Troupe → Troupe) : (s.modTroupe c r k f).plugins = s.plugins := rfl
@[simp] theorem State.modTroupe_firmware (s : State) (c r k : Nat) (f : Troupe → Troupe) : (s.modTroupe c r k f).firmware = s.firmware := rfl
@[simp] theorem State.modTroupe_flash (s : State) (c r k : Nat) (f : Troupe → Troupe) : (s.modTroupe c r k f).flash = s.flash := rfl
@[simp] theorem State.modTroupe_fuses (s : State) (c r k : Nat) (f : Troupe → Troupe) : (s.modTroupe c r k f).fuses = s.fuses := rfl
@[simp] theorem State.modTroupe_thermalTrips (s : State) (c r k : Nat) (f : Troupe → Troupe) : (s.modTroupe c r k f).thermalTrips = s.thermalTrips := rfl
@[simp] theorem State.modTroupe_fohCorrected (s : State) (c r k : Nat) (f : Troupe → Troupe) : (s.modTroupe c r k f).fohCorrected = s.fohCorrected := rfl
@[simp] theorem State.modTroupe_fohUncorrectable (s : State) (c r k : Nat) (f : Troupe → Troupe) : (s.modTroupe c r k f).fohUncorrectable = s.fohUncorrectable := rfl
@[simp] theorem State.modTroupe_tripped (s : State) (c r k : Nat) (f : Troupe → Troupe) : (s.modTroupe c r k f).tripped = s.tripped := rfl
@[simp] theorem State.modTroupe_bootStep (s : State) (c r k : Nat) (f : Troupe → Troupe) : (s.modTroupe c r k f).bootStep = s.bootStep := rfl
@[simp] theorem State.modTroupe_recovery (s : State) (c r k : Nat) (f : Troupe → Troupe) : (s.modTroupe c r k f).recovery = s.recovery := rfl

@[simp] theorem State.modFunc_agenda (s : State) (n : Nat) (f : Func → Func) : (s.modFunc n f).agenda = s.agenda := rfl
@[simp] theorem State.modFunc_arg (s : State) (n : Nat) (f : Func → Func) : (s.modFunc n f).arg = s.arg := rfl
@[simp] theorem State.modFunc_cur (s : State) (n : Nat) (f : Func → Func) : (s.modFunc n f).cur = s.cur := rfl
@[simp] theorem State.modFunc_free (s : State) (n : Nat) (f : Func → Func) : (s.modFunc n f).free = s.free := rfl
@[simp] theorem State.modFunc_uid (s : State) (n : Nat) (f : Func → Func) : (s.modFunc n f).uid = s.uid := rfl
@[simp] theorem State.modFunc_now (s : State) (n : Nat) (f : Func → Func) : (s.modFunc n f).now = s.now := rfl
@[simp] theorem State.modFunc_slew (s : State) (n : Nat) (f : Func → Func) : (s.modFunc n f).slew = s.slew := rfl
@[simp] theorem State.modFunc_slewPart (s : State) (n : Nat) (f : Func → Func) : (s.modFunc n f).slewPart = s.slewPart := rfl
@[simp] theorem State.modFunc_mem (s : State) (n : Nat) (f : Func → Func) : (s.modFunc n f).mem = s.mem := rfl
@[simp] theorem State.modFunc_memPoison (s : State) (n : Nat) (f : Func → Func) : (s.modFunc n f).memPoison = s.memPoison := rfl
@[simp] theorem State.modFunc_lines (s : State) (n : Nat) (f : Func → Func) : (s.modFunc n f).lines = s.lines := rfl
@[simp] theorem State.modFunc_dies (s : State) (n : Nat) (f : Func → Func) : (s.modFunc n f).dies = s.dies := rfl
@[simp] theorem State.modFunc_clusters (s : State) (n : Nat) (f : Func → Func) : (s.modFunc n f).clusters = s.clusters := rfl
@[simp] theorem State.modFunc_cores (s : State) (n : Nat) (f : Func → Func) : (s.modFunc n f).cores = s.cores := rfl
@[simp] theorem State.modFunc_contexts (s : State) (n : Nat) (f : Func → Func) : (s.modFunc n f).contexts = s.contexts := rfl
@[simp] theorem State.modFunc_runs (s : State) (n : Nat) (f : Func → Func) : (s.modFunc n f).runs = s.runs := rfl
@[simp] theorem State.modFunc_troupes (s : State) (n : Nat) (f : Func → Func) : (s.modFunc n f).troupes = s.troupes := rfl
@[simp] theorem State.modFunc_companies (s : State) (n : Nat) (f : Func → Func) : (s.modFunc n f).companies = s.companies := rfl
@[simp] theorem State.modFunc_walks (s : State) (n : Nat) (f : Func → Func) : (s.modFunc n f).walks = s.walks := rfl
@[simp] theorem State.modFunc_requests (s : State) (n : Nat) (f : Func → Func) : (s.modFunc n f).requests = s.requests := rfl
@[simp] theorem State.modFunc_keySlots (s : State) (n : Nat) (f : Func → Func) : (s.modFunc n f).keySlots = s.keySlots := rfl
@[simp] theorem State.modFunc_imported (s : State) (n : Nat) (f : Func → Func) : (s.modFunc n f).imported = s.imported := rfl
@[simp] theorem State.modFunc_images (s : State) (n : Nat) (f : Func → Func) : (s.modFunc n f).images = s.images := rfl
@[simp] theorem State.modFunc_copies (s : State) (n : Nat) (f : Func → Func) : (s.modFunc n f).copies = s.copies := rfl
@[simp] theorem State.modFunc_permitSel (s : State) (n : Nat) (f : Func → Func) : (s.modFunc n f).permitSel = s.permitSel := rfl
@[simp] theorem State.modFunc_apertures (s : State) (n : Nat) (f : Func → Func) : (s.modFunc n f).apertures = s.apertures := rfl
@[simp] theorem State.modFunc_ports (s : State) (n : Nat) (f : Func → Func) : (s.modFunc n f).ports = s.ports := rfl
@[simp] theorem State.modFunc_routes (s : State) (n : Nat) (f : Func → Func) : (s.modFunc n f).routes = s.routes := rfl
@[simp] theorem State.modFunc_deviceId (s : State) (n : Nat) (f : Func → Func) : (s.modFunc n f).deviceId = s.deviceId := rfl
@[simp] theorem State.modFunc_idents (s : State) (n : Nat) (f : Func → Func) : (s.modFunc n f).idents = s.idents := rfl
@[simp] theorem State.modFunc_sent (s : State) (n : Nat) (f : Func → Func) : (s.modFunc n f).sent = s.sent := rfl
@[simp] theorem State.modFunc_memos (s : State) (n : Nat) (f : Func → Func) : (s.modFunc n f).memos = s.memos := rfl
@[simp] theorem State.modFunc_groups (s : State) (n : Nat) (f : Func → Func) : (s.modFunc n f).groups = s.groups := rfl
@[simp] theorem State.modFunc_revoked (s : State) (n : Nat) (f : Func → Func) : (s.modFunc n f).revoked = s.revoked := rfl
@[simp] theorem State.modFunc_replies (s : State) (n : Nat) (f : Func → Func) : (s.modFunc n f).replies = s.replies := rfl
@[simp] theorem State.modFunc_outputs (s : State) (n : Nat) (f : Func → Func) : (s.modFunc n f).outputs = s.outputs := rfl
@[simp] theorem State.modFunc_curtain (s : State) (n : Nat) (f : Func → Func) : (s.modFunc n f).curtain = s.curtain := rfl
@[simp] theorem State.modFunc_curtainCount (s : State) (n : Nat) (f : Func → Func) : (s.modFunc n f).curtainCount = s.curtainCount := rfl
@[simp] theorem State.modFunc_curtainAt (s : State) (n : Nat) (f : Func → Func) : (s.modFunc n f).curtainAt = s.curtainAt := rfl
@[simp] theorem State.modFunc_waiting (s : State) (n : Nat) (f : Func → Func) : (s.modFunc n f).waiting = s.waiting := rfl
@[simp] theorem State.modFunc_pcieUp (s : State) (n : Nat) (f : Func → Func) : (s.modFunc n f).pcieUp = s.pcieUp := rfl
@[simp] theorem State.modFunc_debugOpen (s : State) (n : Nat) (f : Func → Func) : (s.modFunc n f).debugOpen = s.debugOpen := rfl
@[simp] theorem State.modFunc_debugState (s : State) (n : Nat) (f : Func → Func) : (s.modFunc n f).debugState = s.debugState := rfl
@[simp] theorem State.modFunc_managers (s : State) (n : Nat) (f : Func → Func) : (s.modFunc n f).managers = s.managers := rfl
@[simp] theorem State.modFunc_plugins (s : State) (n : Nat) (f : Func → Func) : (s.modFunc n f).plugins = s.plugins := rfl
@[simp] theorem State.modFunc_firmware (s : State) (n : Nat) (f : Func → Func) : (s.modFunc n f).firmware = s.firmware := rfl
@[simp] theorem State.modFunc_flash (s : State) (n : Nat) (f : Func → Func) : (s.modFunc n f).flash = s.flash := rfl
@[simp] theorem State.modFunc_fuses (s : State) (n : Nat) (f : Func → Func) : (s.modFunc n f).fuses = s.fuses := rfl
@[simp] theorem State.modFunc_thermalTrips (s : State) (n : Nat) (f : Func → Func) : (s.modFunc n f).thermalTrips = s.thermalTrips := rfl
@[simp] theorem State.modFunc_fohCorrected (s : State) (n : Nat) (f : Func → Func) : (s.modFunc n f).fohCorrected = s.fohCorrected := rfl
@[simp] theorem State.modFunc_fohUncorrectable (s : State) (n : Nat) (f : Func → Func) : (s.modFunc n f).fohUncorrectable = s.fohUncorrectable := rfl
@[simp] theorem State.modFunc_tripped (s : State) (n : Nat) (f : Func → Func) : (s.modFunc n f).tripped = s.tripped := rfl
@[simp] theorem State.modFunc_bootStep (s : State) (n : Nat) (f : Func → Func) : (s.modFunc n f).bootStep = s.bootStep := rfl
@[simp] theorem State.modFunc_recovery (s : State) (n : Nat) (f : Func → Func) : (s.modFunc n f).recovery = s.recovery := rfl

@[simp] theorem State.modCluster_agenda (s : State) (n : Nat) (f : Cluster → Cluster) : (s.modCluster n f).agenda = s.agenda := rfl
@[simp] theorem State.modCluster_arg (s : State) (n : Nat) (f : Cluster → Cluster) : (s.modCluster n f).arg = s.arg := rfl
@[simp] theorem State.modCluster_cur (s : State) (n : Nat) (f : Cluster → Cluster) : (s.modCluster n f).cur = s.cur := rfl
@[simp] theorem State.modCluster_free (s : State) (n : Nat) (f : Cluster → Cluster) : (s.modCluster n f).free = s.free := rfl
@[simp] theorem State.modCluster_uid (s : State) (n : Nat) (f : Cluster → Cluster) : (s.modCluster n f).uid = s.uid := rfl
@[simp] theorem State.modCluster_now (s : State) (n : Nat) (f : Cluster → Cluster) : (s.modCluster n f).now = s.now := rfl
@[simp] theorem State.modCluster_slew (s : State) (n : Nat) (f : Cluster → Cluster) : (s.modCluster n f).slew = s.slew := rfl
@[simp] theorem State.modCluster_slewPart (s : State) (n : Nat) (f : Cluster → Cluster) : (s.modCluster n f).slewPart = s.slewPart := rfl
@[simp] theorem State.modCluster_mem (s : State) (n : Nat) (f : Cluster → Cluster) : (s.modCluster n f).mem = s.mem := rfl
@[simp] theorem State.modCluster_memPoison (s : State) (n : Nat) (f : Cluster → Cluster) : (s.modCluster n f).memPoison = s.memPoison := rfl
@[simp] theorem State.modCluster_lines (s : State) (n : Nat) (f : Cluster → Cluster) : (s.modCluster n f).lines = s.lines := rfl
@[simp] theorem State.modCluster_dies (s : State) (n : Nat) (f : Cluster → Cluster) : (s.modCluster n f).dies = s.dies := rfl
@[simp] theorem State.modCluster_cores (s : State) (n : Nat) (f : Cluster → Cluster) : (s.modCluster n f).cores = s.cores := rfl
@[simp] theorem State.modCluster_contexts (s : State) (n : Nat) (f : Cluster → Cluster) : (s.modCluster n f).contexts = s.contexts := rfl
@[simp] theorem State.modCluster_funcs (s : State) (n : Nat) (f : Cluster → Cluster) : (s.modCluster n f).funcs = s.funcs := rfl
@[simp] theorem State.modCluster_runs (s : State) (n : Nat) (f : Cluster → Cluster) : (s.modCluster n f).runs = s.runs := rfl
@[simp] theorem State.modCluster_troupes (s : State) (n : Nat) (f : Cluster → Cluster) : (s.modCluster n f).troupes = s.troupes := rfl
@[simp] theorem State.modCluster_companies (s : State) (n : Nat) (f : Cluster → Cluster) : (s.modCluster n f).companies = s.companies := rfl
@[simp] theorem State.modCluster_walks (s : State) (n : Nat) (f : Cluster → Cluster) : (s.modCluster n f).walks = s.walks := rfl
@[simp] theorem State.modCluster_requests (s : State) (n : Nat) (f : Cluster → Cluster) : (s.modCluster n f).requests = s.requests := rfl
@[simp] theorem State.modCluster_keySlots (s : State) (n : Nat) (f : Cluster → Cluster) : (s.modCluster n f).keySlots = s.keySlots := rfl
@[simp] theorem State.modCluster_imported (s : State) (n : Nat) (f : Cluster → Cluster) : (s.modCluster n f).imported = s.imported := rfl
@[simp] theorem State.modCluster_images (s : State) (n : Nat) (f : Cluster → Cluster) : (s.modCluster n f).images = s.images := rfl
@[simp] theorem State.modCluster_copies (s : State) (n : Nat) (f : Cluster → Cluster) : (s.modCluster n f).copies = s.copies := rfl
@[simp] theorem State.modCluster_permitSel (s : State) (n : Nat) (f : Cluster → Cluster) : (s.modCluster n f).permitSel = s.permitSel := rfl
@[simp] theorem State.modCluster_apertures (s : State) (n : Nat) (f : Cluster → Cluster) : (s.modCluster n f).apertures = s.apertures := rfl
@[simp] theorem State.modCluster_ports (s : State) (n : Nat) (f : Cluster → Cluster) : (s.modCluster n f).ports = s.ports := rfl
@[simp] theorem State.modCluster_routes (s : State) (n : Nat) (f : Cluster → Cluster) : (s.modCluster n f).routes = s.routes := rfl
@[simp] theorem State.modCluster_deviceId (s : State) (n : Nat) (f : Cluster → Cluster) : (s.modCluster n f).deviceId = s.deviceId := rfl
@[simp] theorem State.modCluster_idents (s : State) (n : Nat) (f : Cluster → Cluster) : (s.modCluster n f).idents = s.idents := rfl
@[simp] theorem State.modCluster_sent (s : State) (n : Nat) (f : Cluster → Cluster) : (s.modCluster n f).sent = s.sent := rfl
@[simp] theorem State.modCluster_memos (s : State) (n : Nat) (f : Cluster → Cluster) : (s.modCluster n f).memos = s.memos := rfl
@[simp] theorem State.modCluster_groups (s : State) (n : Nat) (f : Cluster → Cluster) : (s.modCluster n f).groups = s.groups := rfl
@[simp] theorem State.modCluster_revoked (s : State) (n : Nat) (f : Cluster → Cluster) : (s.modCluster n f).revoked = s.revoked := rfl
@[simp] theorem State.modCluster_replies (s : State) (n : Nat) (f : Cluster → Cluster) : (s.modCluster n f).replies = s.replies := rfl
@[simp] theorem State.modCluster_outputs (s : State) (n : Nat) (f : Cluster → Cluster) : (s.modCluster n f).outputs = s.outputs := rfl
@[simp] theorem State.modCluster_curtain (s : State) (n : Nat) (f : Cluster → Cluster) : (s.modCluster n f).curtain = s.curtain := rfl
@[simp] theorem State.modCluster_curtainCount (s : State) (n : Nat) (f : Cluster → Cluster) : (s.modCluster n f).curtainCount = s.curtainCount := rfl
@[simp] theorem State.modCluster_curtainAt (s : State) (n : Nat) (f : Cluster → Cluster) : (s.modCluster n f).curtainAt = s.curtainAt := rfl
@[simp] theorem State.modCluster_waiting (s : State) (n : Nat) (f : Cluster → Cluster) : (s.modCluster n f).waiting = s.waiting := rfl
@[simp] theorem State.modCluster_pcieUp (s : State) (n : Nat) (f : Cluster → Cluster) : (s.modCluster n f).pcieUp = s.pcieUp := rfl
@[simp] theorem State.modCluster_debugOpen (s : State) (n : Nat) (f : Cluster → Cluster) : (s.modCluster n f).debugOpen = s.debugOpen := rfl
@[simp] theorem State.modCluster_debugState (s : State) (n : Nat) (f : Cluster → Cluster) : (s.modCluster n f).debugState = s.debugState := rfl
@[simp] theorem State.modCluster_managers (s : State) (n : Nat) (f : Cluster → Cluster) : (s.modCluster n f).managers = s.managers := rfl
@[simp] theorem State.modCluster_plugins (s : State) (n : Nat) (f : Cluster → Cluster) : (s.modCluster n f).plugins = s.plugins := rfl
@[simp] theorem State.modCluster_firmware (s : State) (n : Nat) (f : Cluster → Cluster) : (s.modCluster n f).firmware = s.firmware := rfl
@[simp] theorem State.modCluster_flash (s : State) (n : Nat) (f : Cluster → Cluster) : (s.modCluster n f).flash = s.flash := rfl
@[simp] theorem State.modCluster_fuses (s : State) (n : Nat) (f : Cluster → Cluster) : (s.modCluster n f).fuses = s.fuses := rfl
@[simp] theorem State.modCluster_thermalTrips (s : State) (n : Nat) (f : Cluster → Cluster) : (s.modCluster n f).thermalTrips = s.thermalTrips := rfl
@[simp] theorem State.modCluster_fohCorrected (s : State) (n : Nat) (f : Cluster → Cluster) : (s.modCluster n f).fohCorrected = s.fohCorrected := rfl
@[simp] theorem State.modCluster_fohUncorrectable (s : State) (n : Nat) (f : Cluster → Cluster) : (s.modCluster n f).fohUncorrectable = s.fohUncorrectable := rfl
@[simp] theorem State.modCluster_tripped (s : State) (n : Nat) (f : Cluster → Cluster) : (s.modCluster n f).tripped = s.tripped := rfl
@[simp] theorem State.modCluster_bootStep (s : State) (n : Nat) (f : Cluster → Cluster) : (s.modCluster n f).bootStep = s.bootStep := rfl
@[simp] theorem State.modCluster_recovery (s : State) (n : Nat) (f : Cluster → Cluster) : (s.modCluster n f).recovery = s.recovery := rfl

@[simp] theorem State.modDie_agenda (s : State) (n : Nat) (f : Die → Die) : (s.modDie n f).agenda = s.agenda := rfl
@[simp] theorem State.modDie_arg (s : State) (n : Nat) (f : Die → Die) : (s.modDie n f).arg = s.arg := rfl
@[simp] theorem State.modDie_cur (s : State) (n : Nat) (f : Die → Die) : (s.modDie n f).cur = s.cur := rfl
@[simp] theorem State.modDie_free (s : State) (n : Nat) (f : Die → Die) : (s.modDie n f).free = s.free := rfl
@[simp] theorem State.modDie_uid (s : State) (n : Nat) (f : Die → Die) : (s.modDie n f).uid = s.uid := rfl
@[simp] theorem State.modDie_now (s : State) (n : Nat) (f : Die → Die) : (s.modDie n f).now = s.now := rfl
@[simp] theorem State.modDie_slew (s : State) (n : Nat) (f : Die → Die) : (s.modDie n f).slew = s.slew := rfl
@[simp] theorem State.modDie_slewPart (s : State) (n : Nat) (f : Die → Die) : (s.modDie n f).slewPart = s.slewPart := rfl
@[simp] theorem State.modDie_mem (s : State) (n : Nat) (f : Die → Die) : (s.modDie n f).mem = s.mem := rfl
@[simp] theorem State.modDie_memPoison (s : State) (n : Nat) (f : Die → Die) : (s.modDie n f).memPoison = s.memPoison := rfl
@[simp] theorem State.modDie_lines (s : State) (n : Nat) (f : Die → Die) : (s.modDie n f).lines = s.lines := rfl
@[simp] theorem State.modDie_clusters (s : State) (n : Nat) (f : Die → Die) : (s.modDie n f).clusters = s.clusters := rfl
@[simp] theorem State.modDie_cores (s : State) (n : Nat) (f : Die → Die) : (s.modDie n f).cores = s.cores := rfl
@[simp] theorem State.modDie_contexts (s : State) (n : Nat) (f : Die → Die) : (s.modDie n f).contexts = s.contexts := rfl
@[simp] theorem State.modDie_funcs (s : State) (n : Nat) (f : Die → Die) : (s.modDie n f).funcs = s.funcs := rfl
@[simp] theorem State.modDie_runs (s : State) (n : Nat) (f : Die → Die) : (s.modDie n f).runs = s.runs := rfl
@[simp] theorem State.modDie_troupes (s : State) (n : Nat) (f : Die → Die) : (s.modDie n f).troupes = s.troupes := rfl
@[simp] theorem State.modDie_companies (s : State) (n : Nat) (f : Die → Die) : (s.modDie n f).companies = s.companies := rfl
@[simp] theorem State.modDie_walks (s : State) (n : Nat) (f : Die → Die) : (s.modDie n f).walks = s.walks := rfl
@[simp] theorem State.modDie_requests (s : State) (n : Nat) (f : Die → Die) : (s.modDie n f).requests = s.requests := rfl
@[simp] theorem State.modDie_keySlots (s : State) (n : Nat) (f : Die → Die) : (s.modDie n f).keySlots = s.keySlots := rfl
@[simp] theorem State.modDie_imported (s : State) (n : Nat) (f : Die → Die) : (s.modDie n f).imported = s.imported := rfl
@[simp] theorem State.modDie_images (s : State) (n : Nat) (f : Die → Die) : (s.modDie n f).images = s.images := rfl
@[simp] theorem State.modDie_copies (s : State) (n : Nat) (f : Die → Die) : (s.modDie n f).copies = s.copies := rfl
@[simp] theorem State.modDie_permitSel (s : State) (n : Nat) (f : Die → Die) : (s.modDie n f).permitSel = s.permitSel := rfl
@[simp] theorem State.modDie_apertures (s : State) (n : Nat) (f : Die → Die) : (s.modDie n f).apertures = s.apertures := rfl
@[simp] theorem State.modDie_ports (s : State) (n : Nat) (f : Die → Die) : (s.modDie n f).ports = s.ports := rfl
@[simp] theorem State.modDie_routes (s : State) (n : Nat) (f : Die → Die) : (s.modDie n f).routes = s.routes := rfl
@[simp] theorem State.modDie_deviceId (s : State) (n : Nat) (f : Die → Die) : (s.modDie n f).deviceId = s.deviceId := rfl
@[simp] theorem State.modDie_idents (s : State) (n : Nat) (f : Die → Die) : (s.modDie n f).idents = s.idents := rfl
@[simp] theorem State.modDie_sent (s : State) (n : Nat) (f : Die → Die) : (s.modDie n f).sent = s.sent := rfl
@[simp] theorem State.modDie_memos (s : State) (n : Nat) (f : Die → Die) : (s.modDie n f).memos = s.memos := rfl
@[simp] theorem State.modDie_groups (s : State) (n : Nat) (f : Die → Die) : (s.modDie n f).groups = s.groups := rfl
@[simp] theorem State.modDie_revoked (s : State) (n : Nat) (f : Die → Die) : (s.modDie n f).revoked = s.revoked := rfl
@[simp] theorem State.modDie_replies (s : State) (n : Nat) (f : Die → Die) : (s.modDie n f).replies = s.replies := rfl
@[simp] theorem State.modDie_outputs (s : State) (n : Nat) (f : Die → Die) : (s.modDie n f).outputs = s.outputs := rfl
@[simp] theorem State.modDie_curtain (s : State) (n : Nat) (f : Die → Die) : (s.modDie n f).curtain = s.curtain := rfl
@[simp] theorem State.modDie_curtainCount (s : State) (n : Nat) (f : Die → Die) : (s.modDie n f).curtainCount = s.curtainCount := rfl
@[simp] theorem State.modDie_curtainAt (s : State) (n : Nat) (f : Die → Die) : (s.modDie n f).curtainAt = s.curtainAt := rfl
@[simp] theorem State.modDie_waiting (s : State) (n : Nat) (f : Die → Die) : (s.modDie n f).waiting = s.waiting := rfl
@[simp] theorem State.modDie_pcieUp (s : State) (n : Nat) (f : Die → Die) : (s.modDie n f).pcieUp = s.pcieUp := rfl
@[simp] theorem State.modDie_debugOpen (s : State) (n : Nat) (f : Die → Die) : (s.modDie n f).debugOpen = s.debugOpen := rfl
@[simp] theorem State.modDie_debugState (s : State) (n : Nat) (f : Die → Die) : (s.modDie n f).debugState = s.debugState := rfl
@[simp] theorem State.modDie_managers (s : State) (n : Nat) (f : Die → Die) : (s.modDie n f).managers = s.managers := rfl
@[simp] theorem State.modDie_plugins (s : State) (n : Nat) (f : Die → Die) : (s.modDie n f).plugins = s.plugins := rfl
@[simp] theorem State.modDie_firmware (s : State) (n : Nat) (f : Die → Die) : (s.modDie n f).firmware = s.firmware := rfl
@[simp] theorem State.modDie_flash (s : State) (n : Nat) (f : Die → Die) : (s.modDie n f).flash = s.flash := rfl
@[simp] theorem State.modDie_fuses (s : State) (n : Nat) (f : Die → Die) : (s.modDie n f).fuses = s.fuses := rfl
@[simp] theorem State.modDie_thermalTrips (s : State) (n : Nat) (f : Die → Die) : (s.modDie n f).thermalTrips = s.thermalTrips := rfl
@[simp] theorem State.modDie_fohCorrected (s : State) (n : Nat) (f : Die → Die) : (s.modDie n f).fohCorrected = s.fohCorrected := rfl
@[simp] theorem State.modDie_fohUncorrectable (s : State) (n : Nat) (f : Die → Die) : (s.modDie n f).fohUncorrectable = s.fohUncorrectable := rfl
@[simp] theorem State.modDie_tripped (s : State) (n : Nat) (f : Die → Die) : (s.modDie n f).tripped = s.tripped := rfl
@[simp] theorem State.modDie_bootStep (s : State) (n : Nat) (f : Die → Die) : (s.modDie n f).bootStep = s.bootStep := rfl
@[simp] theorem State.modDie_recovery (s : State) (n : Nat) (f : Die → Die) : (s.modDie n f).recovery = s.recovery := rfl

@[simp] theorem State.setCore_agenda (s : State) (c : Core) : (s.setCore c).agenda = s.agenda := by unfold State.setCore; split <;> rfl
@[simp] theorem State.setCore_arg (s : State) (c : Core) : (s.setCore c).arg = s.arg := by unfold State.setCore; split <;> rfl
@[simp] theorem State.setCore_cur (s : State) (c : Core) : (s.setCore c).cur = s.cur := by unfold State.setCore; split <;> rfl
@[simp] theorem State.setCore_free (s : State) (c : Core) : (s.setCore c).free = s.free := by unfold State.setCore; split <;> rfl
@[simp] theorem State.setCore_uid (s : State) (c : Core) : (s.setCore c).uid = s.uid := by unfold State.setCore; split <;> rfl
@[simp] theorem State.setCore_now (s : State) (c : Core) : (s.setCore c).now = s.now := by unfold State.setCore; split <;> rfl
@[simp] theorem State.setCore_slew (s : State) (c : Core) : (s.setCore c).slew = s.slew := by unfold State.setCore; split <;> rfl
@[simp] theorem State.setCore_slewPart (s : State) (c : Core) : (s.setCore c).slewPart = s.slewPart := by unfold State.setCore; split <;> rfl
@[simp] theorem State.setCore_mem (s : State) (c : Core) : (s.setCore c).mem = s.mem := by unfold State.setCore; split <;> rfl
@[simp] theorem State.setCore_memPoison (s : State) (c : Core) : (s.setCore c).memPoison = s.memPoison := by unfold State.setCore; split <;> rfl
@[simp] theorem State.setCore_lines (s : State) (c : Core) : (s.setCore c).lines = s.lines := by unfold State.setCore; split <;> rfl
@[simp] theorem State.setCore_dies (s : State) (c : Core) : (s.setCore c).dies = s.dies := by unfold State.setCore; split <;> rfl
@[simp] theorem State.setCore_clusters (s : State) (c : Core) : (s.setCore c).clusters = s.clusters := by unfold State.setCore; split <;> rfl
@[simp] theorem State.setCore_contexts (s : State) (c : Core) : (s.setCore c).contexts = s.contexts := by unfold State.setCore; split <;> rfl
@[simp] theorem State.setCore_funcs (s : State) (c : Core) : (s.setCore c).funcs = s.funcs := by unfold State.setCore; split <;> rfl
@[simp] theorem State.setCore_runs (s : State) (c : Core) : (s.setCore c).runs = s.runs := by unfold State.setCore; split <;> rfl
@[simp] theorem State.setCore_troupes (s : State) (c : Core) : (s.setCore c).troupes = s.troupes := by unfold State.setCore; split <;> rfl
@[simp] theorem State.setCore_companies (s : State) (c : Core) : (s.setCore c).companies = s.companies := by unfold State.setCore; split <;> rfl
@[simp] theorem State.setCore_walks (s : State) (c : Core) : (s.setCore c).walks = s.walks := by unfold State.setCore; split <;> rfl
@[simp] theorem State.setCore_requests (s : State) (c : Core) : (s.setCore c).requests = s.requests := by unfold State.setCore; split <;> rfl
@[simp] theorem State.setCore_keySlots (s : State) (c : Core) : (s.setCore c).keySlots = s.keySlots := by unfold State.setCore; split <;> rfl
@[simp] theorem State.setCore_imported (s : State) (c : Core) : (s.setCore c).imported = s.imported := by unfold State.setCore; split <;> rfl
@[simp] theorem State.setCore_images (s : State) (c : Core) : (s.setCore c).images = s.images := by unfold State.setCore; split <;> rfl
@[simp] theorem State.setCore_copies (s : State) (c : Core) : (s.setCore c).copies = s.copies := by unfold State.setCore; split <;> rfl
@[simp] theorem State.setCore_permitSel (s : State) (c : Core) : (s.setCore c).permitSel = s.permitSel := by unfold State.setCore; split <;> rfl
@[simp] theorem State.setCore_apertures (s : State) (c : Core) : (s.setCore c).apertures = s.apertures := by unfold State.setCore; split <;> rfl
@[simp] theorem State.setCore_ports (s : State) (c : Core) : (s.setCore c).ports = s.ports := by unfold State.setCore; split <;> rfl
@[simp] theorem State.setCore_routes (s : State) (c : Core) : (s.setCore c).routes = s.routes := by unfold State.setCore; split <;> rfl
@[simp] theorem State.setCore_deviceId (s : State) (c : Core) : (s.setCore c).deviceId = s.deviceId := by unfold State.setCore; split <;> rfl
@[simp] theorem State.setCore_idents (s : State) (c : Core) : (s.setCore c).idents = s.idents := by unfold State.setCore; split <;> rfl
@[simp] theorem State.setCore_sent (s : State) (c : Core) : (s.setCore c).sent = s.sent := by unfold State.setCore; split <;> rfl
@[simp] theorem State.setCore_memos (s : State) (c : Core) : (s.setCore c).memos = s.memos := by unfold State.setCore; split <;> rfl
@[simp] theorem State.setCore_groups (s : State) (c : Core) : (s.setCore c).groups = s.groups := by unfold State.setCore; split <;> rfl
@[simp] theorem State.setCore_revoked (s : State) (c : Core) : (s.setCore c).revoked = s.revoked := by unfold State.setCore; split <;> rfl
@[simp] theorem State.setCore_replies (s : State) (c : Core) : (s.setCore c).replies = s.replies := by unfold State.setCore; split <;> rfl
@[simp] theorem State.setCore_outputs (s : State) (c : Core) : (s.setCore c).outputs = s.outputs := by unfold State.setCore; split <;> rfl
@[simp] theorem State.setCore_curtain (s : State) (c : Core) : (s.setCore c).curtain = s.curtain := by unfold State.setCore; split <;> rfl
@[simp] theorem State.setCore_curtainCount (s : State) (c : Core) : (s.setCore c).curtainCount = s.curtainCount := by unfold State.setCore; split <;> rfl
@[simp] theorem State.setCore_curtainAt (s : State) (c : Core) : (s.setCore c).curtainAt = s.curtainAt := by unfold State.setCore; split <;> rfl
@[simp] theorem State.setCore_waiting (s : State) (c : Core) : (s.setCore c).waiting = s.waiting := by unfold State.setCore; split <;> rfl
@[simp] theorem State.setCore_pcieUp (s : State) (c : Core) : (s.setCore c).pcieUp = s.pcieUp := by unfold State.setCore; split <;> rfl
@[simp] theorem State.setCore_debugOpen (s : State) (c : Core) : (s.setCore c).debugOpen = s.debugOpen := by unfold State.setCore; split <;> rfl
@[simp] theorem State.setCore_debugState (s : State) (c : Core) : (s.setCore c).debugState = s.debugState := by unfold State.setCore; split <;> rfl
@[simp] theorem State.setCore_managers (s : State) (c : Core) : (s.setCore c).managers = s.managers := by unfold State.setCore; split <;> rfl
@[simp] theorem State.setCore_plugins (s : State) (c : Core) : (s.setCore c).plugins = s.plugins := by unfold State.setCore; split <;> rfl
@[simp] theorem State.setCore_firmware (s : State) (c : Core) : (s.setCore c).firmware = s.firmware := by unfold State.setCore; split <;> rfl
@[simp] theorem State.setCore_flash (s : State) (c : Core) : (s.setCore c).flash = s.flash := by unfold State.setCore; split <;> rfl
@[simp] theorem State.setCore_fuses (s : State) (c : Core) : (s.setCore c).fuses = s.fuses := by unfold State.setCore; split <;> rfl
@[simp] theorem State.setCore_thermalTrips (s : State) (c : Core) : (s.setCore c).thermalTrips = s.thermalTrips := by unfold State.setCore; split <;> rfl
@[simp] theorem State.setCore_fohCorrected (s : State) (c : Core) : (s.setCore c).fohCorrected = s.fohCorrected := by unfold State.setCore; split <;> rfl
@[simp] theorem State.setCore_fohUncorrectable (s : State) (c : Core) : (s.setCore c).fohUncorrectable = s.fohUncorrectable := by unfold State.setCore; split <;> rfl
@[simp] theorem State.setCore_tripped (s : State) (c : Core) : (s.setCore c).tripped = s.tripped := by unfold State.setCore; split <;> rfl
@[simp] theorem State.setCore_bootStep (s : State) (c : Core) : (s.setCore c).bootStep = s.bootStep := by unfold State.setCore; split <;> rfl
@[simp] theorem State.setCore_recovery (s : State) (c : Core) : (s.setCore c).recovery = s.recovery := by unfold State.setCore; split <;> rfl

@[simp] theorem State.put_agenda (s : State) (x : Site) : (s.put x).agenda = s.agenda := rfl
@[simp] theorem State.put_arg (s : State) (x : Site) : (s.put x).arg = s.arg := rfl
@[simp] theorem State.put_cur (s : State) (x : Site) : (s.put x).cur = s.cur := rfl
@[simp] theorem State.put_free (s : State) (x : Site) : (s.put x).free = s.free := rfl
@[simp] theorem State.put_uid (s : State) (x : Site) : (s.put x).uid = s.uid := rfl
@[simp] theorem State.put_now (s : State) (x : Site) : (s.put x).now = s.now := rfl
@[simp] theorem State.put_slew (s : State) (x : Site) : (s.put x).slew = s.slew := rfl
@[simp] theorem State.put_slewPart (s : State) (x : Site) : (s.put x).slewPart = s.slewPart := rfl
@[simp] theorem State.put_mem (s : State) (x : Site) : (s.put x).mem = s.mem := rfl
@[simp] theorem State.put_memPoison (s : State) (x : Site) : (s.put x).memPoison = s.memPoison := rfl
@[simp] theorem State.put_lines (s : State) (x : Site) : (s.put x).lines = s.lines := rfl
@[simp] theorem State.put_dies (s : State) (x : Site) : (s.put x).dies = s.dies := rfl
@[simp] theorem State.put_clusters (s : State) (x : Site) : (s.put x).clusters = s.clusters := rfl
@[simp] theorem State.put_cores (s : State) (x : Site) : (s.put x).cores = s.cores := rfl
@[simp] theorem State.put_contexts (s : State) (x : Site) : (s.put x).contexts = s.contexts := rfl
@[simp] theorem State.put_funcs (s : State) (x : Site) : (s.put x).funcs = s.funcs := rfl
@[simp] theorem State.put_runs (s : State) (x : Site) : (s.put x).runs = s.runs := rfl
@[simp] theorem State.put_troupes (s : State) (x : Site) : (s.put x).troupes = s.troupes := rfl
@[simp] theorem State.put_walks (s : State) (x : Site) : (s.put x).walks = s.walks := rfl
@[simp] theorem State.put_requests (s : State) (x : Site) : (s.put x).requests = s.requests := rfl
@[simp] theorem State.put_keySlots (s : State) (x : Site) : (s.put x).keySlots = s.keySlots := rfl
@[simp] theorem State.put_imported (s : State) (x : Site) : (s.put x).imported = s.imported := rfl
@[simp] theorem State.put_images (s : State) (x : Site) : (s.put x).images = s.images := rfl
@[simp] theorem State.put_copies (s : State) (x : Site) : (s.put x).copies = s.copies := rfl
@[simp] theorem State.put_permitSel (s : State) (x : Site) : (s.put x).permitSel = s.permitSel := rfl
@[simp] theorem State.put_apertures (s : State) (x : Site) : (s.put x).apertures = s.apertures := rfl
@[simp] theorem State.put_ports (s : State) (x : Site) : (s.put x).ports = s.ports := rfl
@[simp] theorem State.put_routes (s : State) (x : Site) : (s.put x).routes = s.routes := rfl
@[simp] theorem State.put_deviceId (s : State) (x : Site) : (s.put x).deviceId = s.deviceId := rfl
@[simp] theorem State.put_idents (s : State) (x : Site) : (s.put x).idents = s.idents := rfl
@[simp] theorem State.put_sent (s : State) (x : Site) : (s.put x).sent = s.sent := rfl
@[simp] theorem State.put_memos (s : State) (x : Site) : (s.put x).memos = s.memos := rfl
@[simp] theorem State.put_groups (s : State) (x : Site) : (s.put x).groups = s.groups := rfl
@[simp] theorem State.put_revoked (s : State) (x : Site) : (s.put x).revoked = s.revoked := rfl
@[simp] theorem State.put_replies (s : State) (x : Site) : (s.put x).replies = s.replies := rfl
@[simp] theorem State.put_outputs (s : State) (x : Site) : (s.put x).outputs = s.outputs := rfl
@[simp] theorem State.put_curtain (s : State) (x : Site) : (s.put x).curtain = s.curtain := rfl
@[simp] theorem State.put_curtainCount (s : State) (x : Site) : (s.put x).curtainCount = s.curtainCount := rfl
@[simp] theorem State.put_curtainAt (s : State) (x : Site) : (s.put x).curtainAt = s.curtainAt := rfl
@[simp] theorem State.put_waiting (s : State) (x : Site) : (s.put x).waiting = s.waiting := rfl
@[simp] theorem State.put_pcieUp (s : State) (x : Site) : (s.put x).pcieUp = s.pcieUp := rfl
@[simp] theorem State.put_debugOpen (s : State) (x : Site) : (s.put x).debugOpen = s.debugOpen := rfl
@[simp] theorem State.put_debugState (s : State) (x : Site) : (s.put x).debugState = s.debugState := rfl
@[simp] theorem State.put_managers (s : State) (x : Site) : (s.put x).managers = s.managers := rfl
@[simp] theorem State.put_plugins (s : State) (x : Site) : (s.put x).plugins = s.plugins := rfl
@[simp] theorem State.put_firmware (s : State) (x : Site) : (s.put x).firmware = s.firmware := rfl
@[simp] theorem State.put_flash (s : State) (x : Site) : (s.put x).flash = s.flash := rfl
@[simp] theorem State.put_fuses (s : State) (x : Site) : (s.put x).fuses = s.fuses := rfl
@[simp] theorem State.put_thermalTrips (s : State) (x : Site) : (s.put x).thermalTrips = s.thermalTrips := rfl
@[simp] theorem State.put_fohCorrected (s : State) (x : Site) : (s.put x).fohCorrected = s.fohCorrected := rfl
@[simp] theorem State.put_fohUncorrectable (s : State) (x : Site) : (s.put x).fohUncorrectable = s.fohUncorrectable := rfl
@[simp] theorem State.put_tripped (s : State) (x : Site) : (s.put x).tripped = s.tripped := rfl
@[simp] theorem State.put_bootStep (s : State) (x : Site) : (s.put x).bootStep = s.bootStep := rfl
@[simp] theorem State.put_recovery (s : State) (x : Site) : (s.put x).recovery = s.recovery := rfl

@[simp] theorem State.charge_agenda (s : State) (k n : Nat) : (s.charge k n).agenda = s.agenda := rfl
@[simp] theorem State.charge_arg (s : State) (k n : Nat) : (s.charge k n).arg = s.arg := rfl
@[simp] theorem State.charge_cur (s : State) (k n : Nat) : (s.charge k n).cur = s.cur := rfl
@[simp] theorem State.charge_free (s : State) (k n : Nat) : (s.charge k n).free = s.free := rfl
@[simp] theorem State.charge_uid (s : State) (k n : Nat) : (s.charge k n).uid = s.uid := rfl
@[simp] theorem State.charge_now (s : State) (k n : Nat) : (s.charge k n).now = s.now := rfl
@[simp] theorem State.charge_slew (s : State) (k n : Nat) : (s.charge k n).slew = s.slew := rfl
@[simp] theorem State.charge_slewPart (s : State) (k n : Nat) : (s.charge k n).slewPart = s.slewPart := rfl
@[simp] theorem State.charge_mem (s : State) (k n : Nat) : (s.charge k n).mem = s.mem := rfl
@[simp] theorem State.charge_memPoison (s : State) (k n : Nat) : (s.charge k n).memPoison = s.memPoison := rfl
@[simp] theorem State.charge_lines (s : State) (k n : Nat) : (s.charge k n).lines = s.lines := rfl
@[simp] theorem State.charge_dies (s : State) (k n : Nat) : (s.charge k n).dies = s.dies := rfl
@[simp] theorem State.charge_cores (s : State) (k n : Nat) : (s.charge k n).cores = s.cores := rfl
@[simp] theorem State.charge_contexts (s : State) (k n : Nat) : (s.charge k n).contexts = s.contexts := rfl
@[simp] theorem State.charge_funcs (s : State) (k n : Nat) : (s.charge k n).funcs = s.funcs := rfl
@[simp] theorem State.charge_runs (s : State) (k n : Nat) : (s.charge k n).runs = s.runs := rfl
@[simp] theorem State.charge_troupes (s : State) (k n : Nat) : (s.charge k n).troupes = s.troupes := rfl
@[simp] theorem State.charge_companies (s : State) (k n : Nat) : (s.charge k n).companies = s.companies := rfl
@[simp] theorem State.charge_walks (s : State) (k n : Nat) : (s.charge k n).walks = s.walks := rfl
@[simp] theorem State.charge_requests (s : State) (k n : Nat) : (s.charge k n).requests = s.requests := rfl
@[simp] theorem State.charge_keySlots (s : State) (k n : Nat) : (s.charge k n).keySlots = s.keySlots := rfl
@[simp] theorem State.charge_imported (s : State) (k n : Nat) : (s.charge k n).imported = s.imported := rfl
@[simp] theorem State.charge_images (s : State) (k n : Nat) : (s.charge k n).images = s.images := rfl
@[simp] theorem State.charge_copies (s : State) (k n : Nat) : (s.charge k n).copies = s.copies := rfl
@[simp] theorem State.charge_permitSel (s : State) (k n : Nat) : (s.charge k n).permitSel = s.permitSel := rfl
@[simp] theorem State.charge_apertures (s : State) (k n : Nat) : (s.charge k n).apertures = s.apertures := rfl
@[simp] theorem State.charge_ports (s : State) (k n : Nat) : (s.charge k n).ports = s.ports := rfl
@[simp] theorem State.charge_routes (s : State) (k n : Nat) : (s.charge k n).routes = s.routes := rfl
@[simp] theorem State.charge_deviceId (s : State) (k n : Nat) : (s.charge k n).deviceId = s.deviceId := rfl
@[simp] theorem State.charge_idents (s : State) (k n : Nat) : (s.charge k n).idents = s.idents := rfl
@[simp] theorem State.charge_sent (s : State) (k n : Nat) : (s.charge k n).sent = s.sent := rfl
@[simp] theorem State.charge_memos (s : State) (k n : Nat) : (s.charge k n).memos = s.memos := rfl
@[simp] theorem State.charge_groups (s : State) (k n : Nat) : (s.charge k n).groups = s.groups := rfl
@[simp] theorem State.charge_revoked (s : State) (k n : Nat) : (s.charge k n).revoked = s.revoked := rfl
@[simp] theorem State.charge_replies (s : State) (k n : Nat) : (s.charge k n).replies = s.replies := rfl
@[simp] theorem State.charge_outputs (s : State) (k n : Nat) : (s.charge k n).outputs = s.outputs := rfl
@[simp] theorem State.charge_curtain (s : State) (k n : Nat) : (s.charge k n).curtain = s.curtain := rfl
@[simp] theorem State.charge_curtainCount (s : State) (k n : Nat) : (s.charge k n).curtainCount = s.curtainCount := rfl
@[simp] theorem State.charge_curtainAt (s : State) (k n : Nat) : (s.charge k n).curtainAt = s.curtainAt := rfl
@[simp] theorem State.charge_waiting (s : State) (k n : Nat) : (s.charge k n).waiting = s.waiting := rfl
@[simp] theorem State.charge_pcieUp (s : State) (k n : Nat) : (s.charge k n).pcieUp = s.pcieUp := rfl
@[simp] theorem State.charge_debugOpen (s : State) (k n : Nat) : (s.charge k n).debugOpen = s.debugOpen := rfl
@[simp] theorem State.charge_debugState (s : State) (k n : Nat) : (s.charge k n).debugState = s.debugState := rfl
@[simp] theorem State.charge_managers (s : State) (k n : Nat) : (s.charge k n).managers = s.managers := rfl
@[simp] theorem State.charge_plugins (s : State) (k n : Nat) : (s.charge k n).plugins = s.plugins := rfl
@[simp] theorem State.charge_firmware (s : State) (k n : Nat) : (s.charge k n).firmware = s.firmware := rfl
@[simp] theorem State.charge_flash (s : State) (k n : Nat) : (s.charge k n).flash = s.flash := rfl
@[simp] theorem State.charge_fuses (s : State) (k n : Nat) : (s.charge k n).fuses = s.fuses := rfl
@[simp] theorem State.charge_thermalTrips (s : State) (k n : Nat) : (s.charge k n).thermalTrips = s.thermalTrips := rfl
@[simp] theorem State.charge_fohCorrected (s : State) (k n : Nat) : (s.charge k n).fohCorrected = s.fohCorrected := rfl
@[simp] theorem State.charge_fohUncorrectable (s : State) (k n : Nat) : (s.charge k n).fohUncorrectable = s.fohUncorrectable := rfl
@[simp] theorem State.charge_tripped (s : State) (k n : Nat) : (s.charge k n).tripped = s.tripped := rfl
@[simp] theorem State.charge_bootStep (s : State) (k n : Nat) : (s.charge k n).bootStep = s.bootStep := rfl
@[simp] theorem State.charge_recovery (s : State) (k n : Nat) : (s.charge k n).recovery = s.recovery := rfl

@[simp] theorem State.noteIssue_agenda (s : State) (n : Nat) (k : TClass) : (s.noteIssue n k).agenda = s.agenda := by simp [State.noteIssue]
@[simp] theorem State.noteIssue_arg (s : State) (n : Nat) (k : TClass) : (s.noteIssue n k).arg = s.arg := by simp [State.noteIssue]
@[simp] theorem State.noteIssue_cur (s : State) (n : Nat) (k : TClass) : (s.noteIssue n k).cur = s.cur := by simp [State.noteIssue]
@[simp] theorem State.noteIssue_free (s : State) (n : Nat) (k : TClass) : (s.noteIssue n k).free = s.free := by simp [State.noteIssue]
@[simp] theorem State.noteIssue_uid (s : State) (n : Nat) (k : TClass) : (s.noteIssue n k).uid = s.uid := by simp [State.noteIssue]
@[simp] theorem State.noteIssue_now (s : State) (n : Nat) (k : TClass) : (s.noteIssue n k).now = s.now := by simp [State.noteIssue]
@[simp] theorem State.noteIssue_slew (s : State) (n : Nat) (k : TClass) : (s.noteIssue n k).slew = s.slew := by simp [State.noteIssue]
@[simp] theorem State.noteIssue_slewPart (s : State) (n : Nat) (k : TClass) : (s.noteIssue n k).slewPart = s.slewPart := by simp [State.noteIssue]
@[simp] theorem State.noteIssue_mem (s : State) (n : Nat) (k : TClass) : (s.noteIssue n k).mem = s.mem := by simp [State.noteIssue]
@[simp] theorem State.noteIssue_memPoison (s : State) (n : Nat) (k : TClass) : (s.noteIssue n k).memPoison = s.memPoison := by simp [State.noteIssue]
@[simp] theorem State.noteIssue_lines (s : State) (n : Nat) (k : TClass) : (s.noteIssue n k).lines = s.lines := by simp [State.noteIssue]
@[simp] theorem State.noteIssue_dies (s : State) (n : Nat) (k : TClass) : (s.noteIssue n k).dies = s.dies := by simp [State.noteIssue]
@[simp] theorem State.noteIssue_clusters (s : State) (n : Nat) (k : TClass) : (s.noteIssue n k).clusters = s.clusters := by simp [State.noteIssue]
@[simp] theorem State.noteIssue_contexts (s : State) (n : Nat) (k : TClass) : (s.noteIssue n k).contexts = s.contexts := by simp [State.noteIssue]
@[simp] theorem State.noteIssue_funcs (s : State) (n : Nat) (k : TClass) : (s.noteIssue n k).funcs = s.funcs := by simp [State.noteIssue]
@[simp] theorem State.noteIssue_runs (s : State) (n : Nat) (k : TClass) : (s.noteIssue n k).runs = s.runs := by simp [State.noteIssue]
@[simp] theorem State.noteIssue_troupes (s : State) (n : Nat) (k : TClass) : (s.noteIssue n k).troupes = s.troupes := by simp [State.noteIssue]
@[simp] theorem State.noteIssue_companies (s : State) (n : Nat) (k : TClass) : (s.noteIssue n k).companies = s.companies := by simp [State.noteIssue]
@[simp] theorem State.noteIssue_walks (s : State) (n : Nat) (k : TClass) : (s.noteIssue n k).walks = s.walks := by simp [State.noteIssue]
@[simp] theorem State.noteIssue_requests (s : State) (n : Nat) (k : TClass) : (s.noteIssue n k).requests = s.requests := by simp [State.noteIssue]
@[simp] theorem State.noteIssue_keySlots (s : State) (n : Nat) (k : TClass) : (s.noteIssue n k).keySlots = s.keySlots := by simp [State.noteIssue]
@[simp] theorem State.noteIssue_imported (s : State) (n : Nat) (k : TClass) : (s.noteIssue n k).imported = s.imported := by simp [State.noteIssue]
@[simp] theorem State.noteIssue_images (s : State) (n : Nat) (k : TClass) : (s.noteIssue n k).images = s.images := by simp [State.noteIssue]
@[simp] theorem State.noteIssue_copies (s : State) (n : Nat) (k : TClass) : (s.noteIssue n k).copies = s.copies := by simp [State.noteIssue]
@[simp] theorem State.noteIssue_permitSel (s : State) (n : Nat) (k : TClass) : (s.noteIssue n k).permitSel = s.permitSel := by simp [State.noteIssue]
@[simp] theorem State.noteIssue_apertures (s : State) (n : Nat) (k : TClass) : (s.noteIssue n k).apertures = s.apertures := by simp [State.noteIssue]
@[simp] theorem State.noteIssue_ports (s : State) (n : Nat) (k : TClass) : (s.noteIssue n k).ports = s.ports := by simp [State.noteIssue]
@[simp] theorem State.noteIssue_routes (s : State) (n : Nat) (k : TClass) : (s.noteIssue n k).routes = s.routes := by simp [State.noteIssue]
@[simp] theorem State.noteIssue_deviceId (s : State) (n : Nat) (k : TClass) : (s.noteIssue n k).deviceId = s.deviceId := by simp [State.noteIssue]
@[simp] theorem State.noteIssue_idents (s : State) (n : Nat) (k : TClass) : (s.noteIssue n k).idents = s.idents := by simp [State.noteIssue]
@[simp] theorem State.noteIssue_sent (s : State) (n : Nat) (k : TClass) : (s.noteIssue n k).sent = s.sent := by simp [State.noteIssue]
@[simp] theorem State.noteIssue_memos (s : State) (n : Nat) (k : TClass) : (s.noteIssue n k).memos = s.memos := by simp [State.noteIssue]
@[simp] theorem State.noteIssue_groups (s : State) (n : Nat) (k : TClass) : (s.noteIssue n k).groups = s.groups := by simp [State.noteIssue]
@[simp] theorem State.noteIssue_revoked (s : State) (n : Nat) (k : TClass) : (s.noteIssue n k).revoked = s.revoked := by simp [State.noteIssue]
@[simp] theorem State.noteIssue_replies (s : State) (n : Nat) (k : TClass) : (s.noteIssue n k).replies = s.replies := by simp [State.noteIssue]
@[simp] theorem State.noteIssue_outputs (s : State) (n : Nat) (k : TClass) : (s.noteIssue n k).outputs = s.outputs := by simp [State.noteIssue]
@[simp] theorem State.noteIssue_curtain (s : State) (n : Nat) (k : TClass) : (s.noteIssue n k).curtain = s.curtain := by simp [State.noteIssue]
@[simp] theorem State.noteIssue_curtainCount (s : State) (n : Nat) (k : TClass) : (s.noteIssue n k).curtainCount = s.curtainCount := by simp [State.noteIssue]
@[simp] theorem State.noteIssue_curtainAt (s : State) (n : Nat) (k : TClass) : (s.noteIssue n k).curtainAt = s.curtainAt := by simp [State.noteIssue]
@[simp] theorem State.noteIssue_waiting (s : State) (n : Nat) (k : TClass) : (s.noteIssue n k).waiting = s.waiting := by simp [State.noteIssue]
@[simp] theorem State.noteIssue_pcieUp (s : State) (n : Nat) (k : TClass) : (s.noteIssue n k).pcieUp = s.pcieUp := by simp [State.noteIssue]
@[simp] theorem State.noteIssue_debugOpen (s : State) (n : Nat) (k : TClass) : (s.noteIssue n k).debugOpen = s.debugOpen := by simp [State.noteIssue]
@[simp] theorem State.noteIssue_debugState (s : State) (n : Nat) (k : TClass) : (s.noteIssue n k).debugState = s.debugState := by simp [State.noteIssue]
@[simp] theorem State.noteIssue_managers (s : State) (n : Nat) (k : TClass) : (s.noteIssue n k).managers = s.managers := by simp [State.noteIssue]
@[simp] theorem State.noteIssue_plugins (s : State) (n : Nat) (k : TClass) : (s.noteIssue n k).plugins = s.plugins := by simp [State.noteIssue]
@[simp] theorem State.noteIssue_firmware (s : State) (n : Nat) (k : TClass) : (s.noteIssue n k).firmware = s.firmware := by simp [State.noteIssue]
@[simp] theorem State.noteIssue_flash (s : State) (n : Nat) (k : TClass) : (s.noteIssue n k).flash = s.flash := by simp [State.noteIssue]
@[simp] theorem State.noteIssue_fuses (s : State) (n : Nat) (k : TClass) : (s.noteIssue n k).fuses = s.fuses := by simp [State.noteIssue]
@[simp] theorem State.noteIssue_thermalTrips (s : State) (n : Nat) (k : TClass) : (s.noteIssue n k).thermalTrips = s.thermalTrips := by simp [State.noteIssue]
@[simp] theorem State.noteIssue_fohCorrected (s : State) (n : Nat) (k : TClass) : (s.noteIssue n k).fohCorrected = s.fohCorrected := by simp [State.noteIssue]
@[simp] theorem State.noteIssue_fohUncorrectable (s : State) (n : Nat) (k : TClass) : (s.noteIssue n k).fohUncorrectable = s.fohUncorrectable := by simp [State.noteIssue]
@[simp] theorem State.noteIssue_tripped (s : State) (n : Nat) (k : TClass) : (s.noteIssue n k).tripped = s.tripped := by simp [State.noteIssue]
@[simp] theorem State.noteIssue_bootStep (s : State) (n : Nat) (k : TClass) : (s.noteIssue n k).bootStep = s.bootStep := by simp [State.noteIssue]
@[simp] theorem State.noteIssue_recovery (s : State) (n : Nat) (k : TClass) : (s.noteIssue n k).recovery = s.recovery := by simp [State.noteIssue]

@[simp] theorem State.bill_agenda (s : State) (i : Instr) (x : Site) : (s.bill i x).agenda = s.agenda := by simp [State.bill]
@[simp] theorem State.bill_arg (s : State) (i : Instr) (x : Site) : (s.bill i x).arg = s.arg := by simp [State.bill]
@[simp] theorem State.bill_cur (s : State) (i : Instr) (x : Site) : (s.bill i x).cur = s.cur := by simp [State.bill]
@[simp] theorem State.bill_free (s : State) (i : Instr) (x : Site) : (s.bill i x).free = s.free := by simp [State.bill]
@[simp] theorem State.bill_uid (s : State) (i : Instr) (x : Site) : (s.bill i x).uid = s.uid := by simp [State.bill]
@[simp] theorem State.bill_now (s : State) (i : Instr) (x : Site) : (s.bill i x).now = s.now := by simp [State.bill]
@[simp] theorem State.bill_slew (s : State) (i : Instr) (x : Site) : (s.bill i x).slew = s.slew := by simp [State.bill]
@[simp] theorem State.bill_slewPart (s : State) (i : Instr) (x : Site) : (s.bill i x).slewPart = s.slewPart := by simp [State.bill]
@[simp] theorem State.bill_mem (s : State) (i : Instr) (x : Site) : (s.bill i x).mem = s.mem := by simp [State.bill]
@[simp] theorem State.bill_memPoison (s : State) (i : Instr) (x : Site) : (s.bill i x).memPoison = s.memPoison := by simp [State.bill]
@[simp] theorem State.bill_lines (s : State) (i : Instr) (x : Site) : (s.bill i x).lines = s.lines := by simp [State.bill]
@[simp] theorem State.bill_dies (s : State) (i : Instr) (x : Site) : (s.bill i x).dies = s.dies := by simp [State.bill]
@[simp] theorem State.bill_contexts (s : State) (i : Instr) (x : Site) : (s.bill i x).contexts = s.contexts := by simp [State.bill]
@[simp] theorem State.bill_funcs (s : State) (i : Instr) (x : Site) : (s.bill i x).funcs = s.funcs := by simp [State.bill]
@[simp] theorem State.bill_runs (s : State) (i : Instr) (x : Site) : (s.bill i x).runs = s.runs := by simp [State.bill]
@[simp] theorem State.bill_troupes (s : State) (i : Instr) (x : Site) : (s.bill i x).troupes = s.troupes := by simp [State.bill]
@[simp] theorem State.bill_companies (s : State) (i : Instr) (x : Site) : (s.bill i x).companies = s.companies := by simp [State.bill]
@[simp] theorem State.bill_walks (s : State) (i : Instr) (x : Site) : (s.bill i x).walks = s.walks := by simp [State.bill]
@[simp] theorem State.bill_requests (s : State) (i : Instr) (x : Site) : (s.bill i x).requests = s.requests := by simp [State.bill]
@[simp] theorem State.bill_keySlots (s : State) (i : Instr) (x : Site) : (s.bill i x).keySlots = s.keySlots := by simp [State.bill]
@[simp] theorem State.bill_imported (s : State) (i : Instr) (x : Site) : (s.bill i x).imported = s.imported := by simp [State.bill]
@[simp] theorem State.bill_images (s : State) (i : Instr) (x : Site) : (s.bill i x).images = s.images := by simp [State.bill]
@[simp] theorem State.bill_copies (s : State) (i : Instr) (x : Site) : (s.bill i x).copies = s.copies := by simp [State.bill]
@[simp] theorem State.bill_permitSel (s : State) (i : Instr) (x : Site) : (s.bill i x).permitSel = s.permitSel := by simp [State.bill]
@[simp] theorem State.bill_apertures (s : State) (i : Instr) (x : Site) : (s.bill i x).apertures = s.apertures := by simp [State.bill]
@[simp] theorem State.bill_ports (s : State) (i : Instr) (x : Site) : (s.bill i x).ports = s.ports := by simp [State.bill]
@[simp] theorem State.bill_routes (s : State) (i : Instr) (x : Site) : (s.bill i x).routes = s.routes := by simp [State.bill]
@[simp] theorem State.bill_deviceId (s : State) (i : Instr) (x : Site) : (s.bill i x).deviceId = s.deviceId := by simp [State.bill]
@[simp] theorem State.bill_idents (s : State) (i : Instr) (x : Site) : (s.bill i x).idents = s.idents := by simp [State.bill]
@[simp] theorem State.bill_sent (s : State) (i : Instr) (x : Site) : (s.bill i x).sent = s.sent := by simp [State.bill]
@[simp] theorem State.bill_memos (s : State) (i : Instr) (x : Site) : (s.bill i x).memos = s.memos := by simp [State.bill]
@[simp] theorem State.bill_groups (s : State) (i : Instr) (x : Site) : (s.bill i x).groups = s.groups := by simp [State.bill]
@[simp] theorem State.bill_revoked (s : State) (i : Instr) (x : Site) : (s.bill i x).revoked = s.revoked := by simp [State.bill]
@[simp] theorem State.bill_replies (s : State) (i : Instr) (x : Site) : (s.bill i x).replies = s.replies := by simp [State.bill]
@[simp] theorem State.bill_outputs (s : State) (i : Instr) (x : Site) : (s.bill i x).outputs = s.outputs := by simp [State.bill]
@[simp] theorem State.bill_curtain (s : State) (i : Instr) (x : Site) : (s.bill i x).curtain = s.curtain := by simp [State.bill]
@[simp] theorem State.bill_curtainCount (s : State) (i : Instr) (x : Site) : (s.bill i x).curtainCount = s.curtainCount := by simp [State.bill]
@[simp] theorem State.bill_curtainAt (s : State) (i : Instr) (x : Site) : (s.bill i x).curtainAt = s.curtainAt := by simp [State.bill]
@[simp] theorem State.bill_waiting (s : State) (i : Instr) (x : Site) : (s.bill i x).waiting = s.waiting := by simp [State.bill]
@[simp] theorem State.bill_pcieUp (s : State) (i : Instr) (x : Site) : (s.bill i x).pcieUp = s.pcieUp := by simp [State.bill]
@[simp] theorem State.bill_debugOpen (s : State) (i : Instr) (x : Site) : (s.bill i x).debugOpen = s.debugOpen := by simp [State.bill]
@[simp] theorem State.bill_debugState (s : State) (i : Instr) (x : Site) : (s.bill i x).debugState = s.debugState := by simp [State.bill]
@[simp] theorem State.bill_managers (s : State) (i : Instr) (x : Site) : (s.bill i x).managers = s.managers := by simp [State.bill]
@[simp] theorem State.bill_plugins (s : State) (i : Instr) (x : Site) : (s.bill i x).plugins = s.plugins := by simp [State.bill]
@[simp] theorem State.bill_firmware (s : State) (i : Instr) (x : Site) : (s.bill i x).firmware = s.firmware := by simp [State.bill]
@[simp] theorem State.bill_flash (s : State) (i : Instr) (x : Site) : (s.bill i x).flash = s.flash := by simp [State.bill]
@[simp] theorem State.bill_fuses (s : State) (i : Instr) (x : Site) : (s.bill i x).fuses = s.fuses := by simp [State.bill]
@[simp] theorem State.bill_thermalTrips (s : State) (i : Instr) (x : Site) : (s.bill i x).thermalTrips = s.thermalTrips := by simp [State.bill]
@[simp] theorem State.bill_fohCorrected (s : State) (i : Instr) (x : Site) : (s.bill i x).fohCorrected = s.fohCorrected := by simp [State.bill]
@[simp] theorem State.bill_fohUncorrectable (s : State) (i : Instr) (x : Site) : (s.bill i x).fohUncorrectable = s.fohUncorrectable := by simp [State.bill]
@[simp] theorem State.bill_tripped (s : State) (i : Instr) (x : Site) : (s.bill i x).tripped = s.tripped := by simp [State.bill]
@[simp] theorem State.bill_bootStep (s : State) (i : Instr) (x : Site) : (s.bill i x).bootStep = s.bootStep := by simp [State.bill]
@[simp] theorem State.bill_recovery (s : State) (i : Instr) (x : Site) : (s.bill i x).recovery = s.recovery := by simp [State.bill]

@[simp] theorem State.retire_agenda (s : State) (i : Instr) (x0 x : Site) : (s.retire i x0 x).agenda = s.agenda := by simp [State.retire]
@[simp] theorem State.retire_arg (s : State) (i : Instr) (x0 x : Site) : (s.retire i x0 x).arg = s.arg := by simp [State.retire]
@[simp] theorem State.retire_cur (s : State) (i : Instr) (x0 x : Site) : (s.retire i x0 x).cur = s.cur := by simp [State.retire]
@[simp] theorem State.retire_free (s : State) (i : Instr) (x0 x : Site) : (s.retire i x0 x).free = s.free := by simp [State.retire]
@[simp] theorem State.retire_uid (s : State) (i : Instr) (x0 x : Site) : (s.retire i x0 x).uid = s.uid := by simp [State.retire]
@[simp] theorem State.retire_now (s : State) (i : Instr) (x0 x : Site) : (s.retire i x0 x).now = s.now := by simp [State.retire]
@[simp] theorem State.retire_slew (s : State) (i : Instr) (x0 x : Site) : (s.retire i x0 x).slew = s.slew := by simp [State.retire]
@[simp] theorem State.retire_slewPart (s : State) (i : Instr) (x0 x : Site) : (s.retire i x0 x).slewPart = s.slewPart := by simp [State.retire]
@[simp] theorem State.retire_mem (s : State) (i : Instr) (x0 x : Site) : (s.retire i x0 x).mem = s.mem := by simp [State.retire]
@[simp] theorem State.retire_memPoison (s : State) (i : Instr) (x0 x : Site) : (s.retire i x0 x).memPoison = s.memPoison := by simp [State.retire]
@[simp] theorem State.retire_lines (s : State) (i : Instr) (x0 x : Site) : (s.retire i x0 x).lines = s.lines := by simp [State.retire]
@[simp] theorem State.retire_dies (s : State) (i : Instr) (x0 x : Site) : (s.retire i x0 x).dies = s.dies := by simp [State.retire]
@[simp] theorem State.retire_contexts (s : State) (i : Instr) (x0 x : Site) : (s.retire i x0 x).contexts = s.contexts := by simp [State.retire]
@[simp] theorem State.retire_funcs (s : State) (i : Instr) (x0 x : Site) : (s.retire i x0 x).funcs = s.funcs := by simp [State.retire]
@[simp] theorem State.retire_runs (s : State) (i : Instr) (x0 x : Site) : (s.retire i x0 x).runs = s.runs := by simp [State.retire]
@[simp] theorem State.retire_troupes (s : State) (i : Instr) (x0 x : Site) : (s.retire i x0 x).troupes = s.troupes := by simp [State.retire]
@[simp] theorem State.retire_walks (s : State) (i : Instr) (x0 x : Site) : (s.retire i x0 x).walks = s.walks := by simp [State.retire]
@[simp] theorem State.retire_requests (s : State) (i : Instr) (x0 x : Site) : (s.retire i x0 x).requests = s.requests := by simp [State.retire]
@[simp] theorem State.retire_keySlots (s : State) (i : Instr) (x0 x : Site) : (s.retire i x0 x).keySlots = s.keySlots := by simp [State.retire]
@[simp] theorem State.retire_imported (s : State) (i : Instr) (x0 x : Site) : (s.retire i x0 x).imported = s.imported := by simp [State.retire]
@[simp] theorem State.retire_images (s : State) (i : Instr) (x0 x : Site) : (s.retire i x0 x).images = s.images := by simp [State.retire]
@[simp] theorem State.retire_copies (s : State) (i : Instr) (x0 x : Site) : (s.retire i x0 x).copies = s.copies := by simp [State.retire]
@[simp] theorem State.retire_permitSel (s : State) (i : Instr) (x0 x : Site) : (s.retire i x0 x).permitSel = s.permitSel := by simp [State.retire]
@[simp] theorem State.retire_apertures (s : State) (i : Instr) (x0 x : Site) : (s.retire i x0 x).apertures = s.apertures := by simp [State.retire]
@[simp] theorem State.retire_ports (s : State) (i : Instr) (x0 x : Site) : (s.retire i x0 x).ports = s.ports := by simp [State.retire]
@[simp] theorem State.retire_routes (s : State) (i : Instr) (x0 x : Site) : (s.retire i x0 x).routes = s.routes := by simp [State.retire]
@[simp] theorem State.retire_deviceId (s : State) (i : Instr) (x0 x : Site) : (s.retire i x0 x).deviceId = s.deviceId := by simp [State.retire]
@[simp] theorem State.retire_idents (s : State) (i : Instr) (x0 x : Site) : (s.retire i x0 x).idents = s.idents := by simp [State.retire]
@[simp] theorem State.retire_sent (s : State) (i : Instr) (x0 x : Site) : (s.retire i x0 x).sent = s.sent := by simp [State.retire]
@[simp] theorem State.retire_memos (s : State) (i : Instr) (x0 x : Site) : (s.retire i x0 x).memos = s.memos := by simp [State.retire]
@[simp] theorem State.retire_groups (s : State) (i : Instr) (x0 x : Site) : (s.retire i x0 x).groups = s.groups := by simp [State.retire]
@[simp] theorem State.retire_revoked (s : State) (i : Instr) (x0 x : Site) : (s.retire i x0 x).revoked = s.revoked := by simp [State.retire]
@[simp] theorem State.retire_replies (s : State) (i : Instr) (x0 x : Site) : (s.retire i x0 x).replies = s.replies := by simp [State.retire]
@[simp] theorem State.retire_outputs (s : State) (i : Instr) (x0 x : Site) : (s.retire i x0 x).outputs = s.outputs := by simp [State.retire]
@[simp] theorem State.retire_curtain (s : State) (i : Instr) (x0 x : Site) : (s.retire i x0 x).curtain = s.curtain := by simp [State.retire]
@[simp] theorem State.retire_curtainCount (s : State) (i : Instr) (x0 x : Site) : (s.retire i x0 x).curtainCount = s.curtainCount := by simp [State.retire]
@[simp] theorem State.retire_curtainAt (s : State) (i : Instr) (x0 x : Site) : (s.retire i x0 x).curtainAt = s.curtainAt := by simp [State.retire]
@[simp] theorem State.retire_waiting (s : State) (i : Instr) (x0 x : Site) : (s.retire i x0 x).waiting = s.waiting := by simp [State.retire]
@[simp] theorem State.retire_pcieUp (s : State) (i : Instr) (x0 x : Site) : (s.retire i x0 x).pcieUp = s.pcieUp := by simp [State.retire]
@[simp] theorem State.retire_debugOpen (s : State) (i : Instr) (x0 x : Site) : (s.retire i x0 x).debugOpen = s.debugOpen := by simp [State.retire]
@[simp] theorem State.retire_debugState (s : State) (i : Instr) (x0 x : Site) : (s.retire i x0 x).debugState = s.debugState := by simp [State.retire]
@[simp] theorem State.retire_managers (s : State) (i : Instr) (x0 x : Site) : (s.retire i x0 x).managers = s.managers := by simp [State.retire]
@[simp] theorem State.retire_plugins (s : State) (i : Instr) (x0 x : Site) : (s.retire i x0 x).plugins = s.plugins := by simp [State.retire]
@[simp] theorem State.retire_firmware (s : State) (i : Instr) (x0 x : Site) : (s.retire i x0 x).firmware = s.firmware := by simp [State.retire]
@[simp] theorem State.retire_flash (s : State) (i : Instr) (x0 x : Site) : (s.retire i x0 x).flash = s.flash := by simp [State.retire]
@[simp] theorem State.retire_fuses (s : State) (i : Instr) (x0 x : Site) : (s.retire i x0 x).fuses = s.fuses := by simp [State.retire]
@[simp] theorem State.retire_thermalTrips (s : State) (i : Instr) (x0 x : Site) : (s.retire i x0 x).thermalTrips = s.thermalTrips := by simp [State.retire]
@[simp] theorem State.retire_fohCorrected (s : State) (i : Instr) (x0 x : Site) : (s.retire i x0 x).fohCorrected = s.fohCorrected := by simp [State.retire]
@[simp] theorem State.retire_fohUncorrectable (s : State) (i : Instr) (x0 x : Site) : (s.retire i x0 x).fohUncorrectable = s.fohUncorrectable := by simp [State.retire]
@[simp] theorem State.retire_tripped (s : State) (i : Instr) (x0 x : Site) : (s.retire i x0 x).tripped = s.tripped := by simp [State.retire]
@[simp] theorem State.retire_bootStep (s : State) (i : Instr) (x0 x : Site) : (s.retire i x0 x).bootStep = s.bootStep := by simp [State.retire]
@[simp] theorem State.retire_recovery (s : State) (i : Instr) (x0 x : Site) : (s.retire i x0 x).recovery = s.recovery := by simp [State.retire]

@[simp] theorem Company.setChorus_uid (c : Company) (h : Chorus) : (c.setChorus h).uid = c.uid := rfl
@[simp] theorem Company.setChorus_ctx (c : Company) (h : Chorus) : (c.setChorus h).ctx = c.ctx := rfl
@[simp] theorem Company.setChorus_run (c : Company) (h : Chorus) : (c.setChorus h).run = c.run := rfl
@[simp] theorem Company.setChorus_troupe (c : Company) (h : Chorus) : (c.setChorus h).troupe = c.troupe := rfl
@[simp] theorem Company.setChorus_index (c : Company) (h : Chorus) : (c.setChorus h).index = c.index := rfl
@[simp] theorem Company.setChorus_core (c : Company) (h : Chorus) : (c.setChorus h).core = c.core := rfl
@[simp] theorem Company.setChorus_state (c : Company) (h : Chorus) : (c.setChorus h).state = c.state := rfl
@[simp] theorem Company.setChorus_faulted (c : Company) (h : Chorus) : (c.setChorus h).faulted = c.faulted := rfl
@[simp] theorem Company.setChorus_saving (c : Company) (h : Chorus) : (c.setChorus h).saving = c.saving := rfl
@[simp] theorem Company.setChorus_cyc (c : Company) (h : Chorus) : (c.setChorus h).cyc = c.cyc := rfl
@[simp] theorem Company.setChorus_playbill (c : Company) (h : Chorus) : (c.setChorus h).playbill = c.playbill := rfl
@[simp] theorem Company.setChorus_code (c : Company) (h : Chorus) : (c.setChorus h).code = c.code := rfl
@[simp] theorem Company.setChorus_stage (c : Company) (h : Chorus) : (c.setChorus h).stage = c.stage := rfl
@[simp] theorem Company.setChorus_stagePoison (c : Company) (h : Chorus) : (c.setChorus h).stagePoison = c.stagePoison := rfl
@[simp] theorem Company.setChorus_tiles (c : Company) (h : Chorus) : (c.setChorus h).tiles = c.tiles := rfl
@[simp] theorem Company.setChorus_handles (c : Company) (h : Chorus) : (c.setChorus h).handles = c.handles := rfl
@[simp] theorem Company.setChorus_barriers (c : Company) (h : Chorus) : (c.setChorus h).barriers = c.barriers := rfl
@[simp] theorem Company.setChorus_abandoned (c : Company) (h : Chorus) : (c.setChorus h).abandoned = c.abandoned := rfl
@[simp] theorem Company.setChorus_pit (c : Company) (h : Chorus) : (c.setChorus h).pit = c.pit := rfl
@[simp] theorem Company.setChorus_acc (c : Company) (h : Chorus) : (c.setChorus h).acc = c.acc := rfl
@[simp] theorem Company.setChorus_accPoison (c : Company) (h : Chorus) : (c.setChorus h).accPoison = c.accPoison := rfl
@[simp] theorem Company.setChorus_score (c : Company) (h : Chorus) : (c.setChorus h).score = c.score := rfl
@[simp] theorem Company.setChorus_scorePoison (c : Company) (h : Chorus) : (c.setChorus h).scorePoison = c.scorePoison := rfl
@[simp] theorem Company.setChorus_principals (c : Company) (h : Chorus) : (c.setChorus h).principals = c.principals := rfl
@[simp] theorem Company.setChorus_engine (c : Company) (h : Chorus) : (c.setChorus h).engine = c.engine := rfl
@[simp] theorem Company.setChorus_ops (c : Company) (h : Chorus) : (c.setChorus h).ops = c.ops := rfl
@[simp] theorem Company.setChorus_mxUpset (c : Company) (h : Chorus) : (c.setChorus h).mxUpset = c.mxUpset := rfl
@[simp] theorem Company.setChorus_keepsCore (c : Company) (h : Chorus) : (c.setChorus h).keepsCore = c.keepsCore := rfl
@[simp] theorem Company.setChorus_firstHalt (c : Company) (h : Chorus) : (c.setChorus h).firstHalt = c.firstHalt := rfl
@[simp] theorem Company.setChorus_frame (c : Company) (h : Chorus) : (c.setChorus h).frame = c.frame := rfl

@[simp] theorem Company.modChorus_uid (c : Company) (i : Nat) (f : Chorus → Chorus) : (c.modChorus i f).uid = c.uid := rfl
@[simp] theorem Company.modChorus_ctx (c : Company) (i : Nat) (f : Chorus → Chorus) : (c.modChorus i f).ctx = c.ctx := rfl
@[simp] theorem Company.modChorus_run (c : Company) (i : Nat) (f : Chorus → Chorus) : (c.modChorus i f).run = c.run := rfl
@[simp] theorem Company.modChorus_troupe (c : Company) (i : Nat) (f : Chorus → Chorus) : (c.modChorus i f).troupe = c.troupe := rfl
@[simp] theorem Company.modChorus_index (c : Company) (i : Nat) (f : Chorus → Chorus) : (c.modChorus i f).index = c.index := rfl
@[simp] theorem Company.modChorus_core (c : Company) (i : Nat) (f : Chorus → Chorus) : (c.modChorus i f).core = c.core := rfl
@[simp] theorem Company.modChorus_state (c : Company) (i : Nat) (f : Chorus → Chorus) : (c.modChorus i f).state = c.state := rfl
@[simp] theorem Company.modChorus_faulted (c : Company) (i : Nat) (f : Chorus → Chorus) : (c.modChorus i f).faulted = c.faulted := rfl
@[simp] theorem Company.modChorus_saving (c : Company) (i : Nat) (f : Chorus → Chorus) : (c.modChorus i f).saving = c.saving := rfl
@[simp] theorem Company.modChorus_cyc (c : Company) (i : Nat) (f : Chorus → Chorus) : (c.modChorus i f).cyc = c.cyc := rfl
@[simp] theorem Company.modChorus_playbill (c : Company) (i : Nat) (f : Chorus → Chorus) : (c.modChorus i f).playbill = c.playbill := rfl
@[simp] theorem Company.modChorus_code (c : Company) (i : Nat) (f : Chorus → Chorus) : (c.modChorus i f).code = c.code := rfl
@[simp] theorem Company.modChorus_stage (c : Company) (i : Nat) (f : Chorus → Chorus) : (c.modChorus i f).stage = c.stage := rfl
@[simp] theorem Company.modChorus_stagePoison (c : Company) (i : Nat) (f : Chorus → Chorus) : (c.modChorus i f).stagePoison = c.stagePoison := rfl
@[simp] theorem Company.modChorus_tiles (c : Company) (i : Nat) (f : Chorus → Chorus) : (c.modChorus i f).tiles = c.tiles := rfl
@[simp] theorem Company.modChorus_handles (c : Company) (i : Nat) (f : Chorus → Chorus) : (c.modChorus i f).handles = c.handles := rfl
@[simp] theorem Company.modChorus_barriers (c : Company) (i : Nat) (f : Chorus → Chorus) : (c.modChorus i f).barriers = c.barriers := rfl
@[simp] theorem Company.modChorus_abandoned (c : Company) (i : Nat) (f : Chorus → Chorus) : (c.modChorus i f).abandoned = c.abandoned := rfl
@[simp] theorem Company.modChorus_pit (c : Company) (i : Nat) (f : Chorus → Chorus) : (c.modChorus i f).pit = c.pit := rfl
@[simp] theorem Company.modChorus_acc (c : Company) (i : Nat) (f : Chorus → Chorus) : (c.modChorus i f).acc = c.acc := rfl
@[simp] theorem Company.modChorus_accPoison (c : Company) (i : Nat) (f : Chorus → Chorus) : (c.modChorus i f).accPoison = c.accPoison := rfl
@[simp] theorem Company.modChorus_score (c : Company) (i : Nat) (f : Chorus → Chorus) : (c.modChorus i f).score = c.score := rfl
@[simp] theorem Company.modChorus_scorePoison (c : Company) (i : Nat) (f : Chorus → Chorus) : (c.modChorus i f).scorePoison = c.scorePoison := rfl
@[simp] theorem Company.modChorus_principals (c : Company) (i : Nat) (f : Chorus → Chorus) : (c.modChorus i f).principals = c.principals := rfl
@[simp] theorem Company.modChorus_engine (c : Company) (i : Nat) (f : Chorus → Chorus) : (c.modChorus i f).engine = c.engine := rfl
@[simp] theorem Company.modChorus_ops (c : Company) (i : Nat) (f : Chorus → Chorus) : (c.modChorus i f).ops = c.ops := rfl
@[simp] theorem Company.modChorus_mxUpset (c : Company) (i : Nat) (f : Chorus → Chorus) : (c.modChorus i f).mxUpset = c.mxUpset := rfl
@[simp] theorem Company.modChorus_keepsCore (c : Company) (i : Nat) (f : Chorus → Chorus) : (c.modChorus i f).keepsCore = c.keepsCore := rfl
@[simp] theorem Company.modChorus_firstHalt (c : Company) (i : Nat) (f : Chorus → Chorus) : (c.modChorus i f).firstHalt = c.firstHalt := rfl
@[simp] theorem Company.modChorus_frame (c : Company) (i : Nat) (f : Chorus → Chorus) : (c.modChorus i f).frame = c.frame := rfl

@[simp] theorem Chorus.setSplit_index (h : Chorus) (p : Split) : (h.setSplit p).index = h.index := rfl
@[simp] theorem Chorus.setSplit_populated (h : Chorus) (p : Split) : (h.setSplit p).populated = h.populated := rfl
@[simp] theorem Chorus.setSplit_exited (h : Chorus) (p : Split) : (h.setSplit p).exited = h.exited := rfl
@[simp] theorem Chorus.setSplit_pli (h : Chorus) (p : Split) : (h.setSplit p).pli = h.pli := rfl
@[simp] theorem Chorus.setSplit_house (h : Chorus) (p : Split) : (h.setSplit p).house = h.house := rfl
@[simp] theorem Chorus.setSplit_ring (h : Chorus) (p : Split) : (h.setSplit p).ring = h.ring := rfl
@[simp] theorem Chorus.setSplit_low (h : Chorus) (p : Split) : (h.setSplit p).low = h.low := rfl
@[simp] theorem Chorus.setSplit_high (h : Chorus) (p : Split) : (h.setSplit p).high = h.high := rfl
@[simp] theorem Chorus.setSplit_top (h : Chorus) (p : Split) : (h.setSplit p).top = h.top := rfl
@[simp] theorem Chorus.setSplit_joins (h : Chorus) (p : Split) : (h.setSplit p).joins = h.joins := rfl
@[simp] theorem Chorus.setSplit_cues (h : Chorus) (p : Split) : (h.setSplit p).cues = h.cues := rfl
@[simp] theorem Chorus.setSplit_latches (h : Chorus) (p : Split) : (h.setSplit p).latches = h.latches := rfl
@[simp] theorem Chorus.setSplit_chain (h : Chorus) (p : Split) : (h.setSplit p).chain = h.chain := rfl
@[simp] theorem Chorus.setSplit_wellp (h : Chorus) (p : Split) : (h.setSplit p).wellp = h.wellp := rfl
@[simp] theorem Chorus.setSplit_wellBase (h : Chorus) (p : Split) : (h.setSplit p).wellBase = h.wellBase := rfl
@[simp] theorem Chorus.setSplit_inflight (h : Chorus) (p : Split) : (h.setSplit p).inflight = h.inflight := rfl
@[simp] theorem Chorus.setSplit_slots (h : Chorus) (p : Split) : (h.setSplit p).slots = h.slots := rfl
@[simp] theorem Chorus.setSplit_counters (h : Chorus) (p : Split) : (h.setSplit p).counters = h.counters := rfl
@[simp] theorem Chorus.setSplit_phases (h : Chorus) (p : Split) : (h.setSplit p).phases = h.phases := rfl
@[simp] theorem Chorus.setSplit_timers (h : Chorus) (p : Split) : (h.setSplit p).timers = h.timers := rfl
@[simp] theorem Chorus.setSplit_pending (h : Chorus) (p : Split) : (h.setSplit p).pending = h.pending := rfl
@[simp] theorem Chorus.setSplit_queue (h : Chorus) (p : Split) : (h.setSplit p).queue = h.queue := rfl
@[simp] theorem Chorus.setSplit_queuePoison (h : Chorus) (p : Split) : (h.setSplit p).queuePoison = h.queuePoison := rfl
@[simp] theorem Chorus.setSplit_collectives (h : Chorus) (p : Split) : (h.setSplit p).collectives = h.collectives := rfl
@[simp] theorem Chorus.setSplit_events (h : Chorus) (p : Split) : (h.setSplit p).events = h.events := rfl
@[simp] theorem Chorus.setSplit_cause (h : Chorus) (p : Split) : (h.setSplit p).cause = h.cause := rfl
@[simp] theorem Chorus.setSplit_epc (h : Chorus) (p : Split) : (h.setSplit p).epc = h.epc := rfl
@[simp] theorem Chorus.setSplit_tval (h : Chorus) (p : Split) : (h.setSplit p).tval = h.tval := rfl
@[simp] theorem Chorus.setSplit_fm (h : Chorus) (p : Split) : (h.setSplit p).fm = h.fm := rfl
@[simp] theorem Chorus.setSplit_handler (h : Chorus) (p : Split) : (h.setSplit p).handler = h.handler := rfl
@[simp] theorem Chorus.setSplit_cycHi (h : Chorus) (p : Split) : (h.setSplit p).cycHi = h.cycHi := rfl
@[simp] theorem Chorus.setSplit_vtHi (h : Chorus) (p : Split) : (h.setSplit p).vtHi = h.vtHi := rfl
@[simp] theorem Chorus.setSplit_msgvt (h : Chorus) (p : Split) : (h.setSplit p).msgvt = h.msgvt := rfl
@[simp] theorem Chorus.setSplit_msgvtHi (h : Chorus) (p : Split) : (h.setSplit p).msgvtHi = h.msgvtHi := rfl
@[simp] theorem Chorus.setSplit_stageHi (h : Chorus) (p : Split) : (h.setSplit p).stageHi = h.stageHi := rfl
@[simp] theorem Chorus.setSplit_traps (h : Chorus) (p : Split) : (h.setSplit p).traps = h.traps := rfl
@[simp] theorem Chorus.setSplit_pump (h : Chorus) (p : Split) : (h.setSplit p).pump = h.pump := rfl
@[simp] theorem Chorus.setSplit_requests (h : Chorus) (p : Split) : (h.setSplit p).requests = h.requests := rfl
@[simp] theorem Chorus.setSplit_failed (h : Chorus) (p : Split) : (h.setSplit p).failed = h.failed := rfl
@[simp] theorem Chorus.setSplit_served (h : Chorus) (p : Split) : (h.setSplit p).served = h.served := rfl
@[simp] theorem Chorus.setSplit_slot (h : Chorus) (p : Split) : (h.setSplit p).slot = h.slot := rfl
@[simp] theorem Chorus.setSplit_readyAge (h : Chorus) (p : Split) : (h.setSplit p).readyAge = h.readyAge := rfl
@[simp] theorem Chorus.setSplit_bandWait (h : Chorus) (p : Split) : (h.setSplit p).bandWait = h.bandWait := rfl
@[simp] theorem Chorus.setSplit_issued (h : Chorus) (p : Split) : (h.setSplit p).issued = h.issued := rfl
@[simp] theorem Chorus.setSplit_refused (h : Chorus) (p : Split) : (h.setSplit p).refused = h.refused := rfl
@[simp] theorem Chorus.setSplit_fetching (h : Chorus) (p : Split) : (h.setSplit p).fetching = h.fetching := rfl
@[simp] theorem Chorus.setSplit_memWait (h : Chorus) (p : Split) : (h.setSplit p).memWait = h.memWait := rfl
@[simp] theorem Chorus.setSplit_halted (h : Chorus) (p : Split) : (h.setSplit p).halted = h.halted := rfl
@[simp] theorem Chorus.setSplit_ended (h : Chorus) (p : Split) : (h.setSplit p).ended = h.ended := rfl
@[simp] theorem Chorus.setSplit_swept (h : Chorus) (p : Split) : (h.setSplit p).swept = h.swept := rfl
@[simp] theorem Chorus.setSplit_poison (h : Chorus) (p : Split) : (h.setSplit p).poison = h.poison := rfl
@[simp] theorem Chorus.setSplit_upset (h : Chorus) (p : Split) : (h.setSplit p).upset = h.upset := rfl

@[simp] theorem Chorus.setRow_index (h : Chorus) (wb n : Nat) (m : Mask) (f : Nat → Word) : (h.setRow wb n m f).index = h.index := by unfold Chorus.setRow; split <;> [rfl; split <;> rfl]
@[simp] theorem Chorus.setRow_populated (h : Chorus) (wb n : Nat) (m : Mask) (f : Nat → Word) : (h.setRow wb n m f).populated = h.populated := by unfold Chorus.setRow; split <;> [rfl; split <;> rfl]
@[simp] theorem Chorus.setRow_exited (h : Chorus) (wb n : Nat) (m : Mask) (f : Nat → Word) : (h.setRow wb n m f).exited = h.exited := by unfold Chorus.setRow; split <;> [rfl; split <;> rfl]
@[simp] theorem Chorus.setRow_pli (h : Chorus) (wb n : Nat) (m : Mask) (f : Nat → Word) : (h.setRow wb n m f).pli = h.pli := by unfold Chorus.setRow; split <;> [rfl; split <;> rfl]
@[simp] theorem Chorus.setRow_low (h : Chorus) (wb n : Nat) (m : Mask) (f : Nat → Word) : (h.setRow wb n m f).low = h.low := by unfold Chorus.setRow; split <;> [rfl; split <;> rfl]
@[simp] theorem Chorus.setRow_high (h : Chorus) (wb n : Nat) (m : Mask) (f : Nat → Word) : (h.setRow wb n m f).high = h.high := by unfold Chorus.setRow; split <;> [rfl; split <;> rfl]
@[simp] theorem Chorus.setRow_top (h : Chorus) (wb n : Nat) (m : Mask) (f : Nat → Word) : (h.setRow wb n m f).top = h.top := by unfold Chorus.setRow; split <;> [rfl; split <;> rfl]
@[simp] theorem Chorus.setRow_splits (h : Chorus) (wb n : Nat) (m : Mask) (f : Nat → Word) : (h.setRow wb n m f).splits = h.splits := by unfold Chorus.setRow; split <;> [rfl; split <;> rfl]
@[simp] theorem Chorus.setRow_joins (h : Chorus) (wb n : Nat) (m : Mask) (f : Nat → Word) : (h.setRow wb n m f).joins = h.joins := by unfold Chorus.setRow; split <;> [rfl; split <;> rfl]
@[simp] theorem Chorus.setRow_cues (h : Chorus) (wb n : Nat) (m : Mask) (f : Nat → Word) : (h.setRow wb n m f).cues = h.cues := by unfold Chorus.setRow; split <;> [rfl; split <;> rfl]
@[simp] theorem Chorus.setRow_latches (h : Chorus) (wb n : Nat) (m : Mask) (f : Nat → Word) : (h.setRow wb n m f).latches = h.latches := by unfold Chorus.setRow; split <;> [rfl; split <;> rfl]
@[simp] theorem Chorus.setRow_chain (h : Chorus) (wb n : Nat) (m : Mask) (f : Nat → Word) : (h.setRow wb n m f).chain = h.chain := by unfold Chorus.setRow; split <;> [rfl; split <;> rfl]
@[simp] theorem Chorus.setRow_wellp (h : Chorus) (wb n : Nat) (m : Mask) (f : Nat → Word) : (h.setRow wb n m f).wellp = h.wellp := by unfold Chorus.setRow; split <;> [rfl; split <;> rfl]
@[simp] theorem Chorus.setRow_wellBase (h : Chorus) (wb n : Nat) (m : Mask) (f : Nat → Word) : (h.setRow wb n m f).wellBase = h.wellBase := by unfold Chorus.setRow; split <;> [rfl; split <;> rfl]
@[simp] theorem Chorus.setRow_inflight (h : Chorus) (wb n : Nat) (m : Mask) (f : Nat → Word) : (h.setRow wb n m f).inflight = h.inflight := by unfold Chorus.setRow; split <;> [rfl; split <;> rfl]
@[simp] theorem Chorus.setRow_slots (h : Chorus) (wb n : Nat) (m : Mask) (f : Nat → Word) : (h.setRow wb n m f).slots = h.slots := by unfold Chorus.setRow; split <;> [rfl; split <;> rfl]
@[simp] theorem Chorus.setRow_counters (h : Chorus) (wb n : Nat) (m : Mask) (f : Nat → Word) : (h.setRow wb n m f).counters = h.counters := by unfold Chorus.setRow; split <;> [rfl; split <;> rfl]
@[simp] theorem Chorus.setRow_phases (h : Chorus) (wb n : Nat) (m : Mask) (f : Nat → Word) : (h.setRow wb n m f).phases = h.phases := by unfold Chorus.setRow; split <;> [rfl; split <;> rfl]
@[simp] theorem Chorus.setRow_timers (h : Chorus) (wb n : Nat) (m : Mask) (f : Nat → Word) : (h.setRow wb n m f).timers = h.timers := by unfold Chorus.setRow; split <;> [rfl; split <;> rfl]
@[simp] theorem Chorus.setRow_pending (h : Chorus) (wb n : Nat) (m : Mask) (f : Nat → Word) : (h.setRow wb n m f).pending = h.pending := by unfold Chorus.setRow; split <;> [rfl; split <;> rfl]
@[simp] theorem Chorus.setRow_queue (h : Chorus) (wb n : Nat) (m : Mask) (f : Nat → Word) : (h.setRow wb n m f).queue = h.queue := by unfold Chorus.setRow; split <;> [rfl; split <;> rfl]
@[simp] theorem Chorus.setRow_queuePoison (h : Chorus) (wb n : Nat) (m : Mask) (f : Nat → Word) : (h.setRow wb n m f).queuePoison = h.queuePoison := by unfold Chorus.setRow; split <;> [rfl; split <;> rfl]
@[simp] theorem Chorus.setRow_collectives (h : Chorus) (wb n : Nat) (m : Mask) (f : Nat → Word) : (h.setRow wb n m f).collectives = h.collectives := by unfold Chorus.setRow; split <;> [rfl; split <;> rfl]
@[simp] theorem Chorus.setRow_events (h : Chorus) (wb n : Nat) (m : Mask) (f : Nat → Word) : (h.setRow wb n m f).events = h.events := by unfold Chorus.setRow; split <;> [rfl; split <;> rfl]
@[simp] theorem Chorus.setRow_cause (h : Chorus) (wb n : Nat) (m : Mask) (f : Nat → Word) : (h.setRow wb n m f).cause = h.cause := by unfold Chorus.setRow; split <;> [rfl; split <;> rfl]
@[simp] theorem Chorus.setRow_epc (h : Chorus) (wb n : Nat) (m : Mask) (f : Nat → Word) : (h.setRow wb n m f).epc = h.epc := by unfold Chorus.setRow; split <;> [rfl; split <;> rfl]
@[simp] theorem Chorus.setRow_tval (h : Chorus) (wb n : Nat) (m : Mask) (f : Nat → Word) : (h.setRow wb n m f).tval = h.tval := by unfold Chorus.setRow; split <;> [rfl; split <;> rfl]
@[simp] theorem Chorus.setRow_fm (h : Chorus) (wb n : Nat) (m : Mask) (f : Nat → Word) : (h.setRow wb n m f).fm = h.fm := by unfold Chorus.setRow; split <;> [rfl; split <;> rfl]
@[simp] theorem Chorus.setRow_handler (h : Chorus) (wb n : Nat) (m : Mask) (f : Nat → Word) : (h.setRow wb n m f).handler = h.handler := by unfold Chorus.setRow; split <;> [rfl; split <;> rfl]
@[simp] theorem Chorus.setRow_cycHi (h : Chorus) (wb n : Nat) (m : Mask) (f : Nat → Word) : (h.setRow wb n m f).cycHi = h.cycHi := by unfold Chorus.setRow; split <;> [rfl; split <;> rfl]
@[simp] theorem Chorus.setRow_vtHi (h : Chorus) (wb n : Nat) (m : Mask) (f : Nat → Word) : (h.setRow wb n m f).vtHi = h.vtHi := by unfold Chorus.setRow; split <;> [rfl; split <;> rfl]
@[simp] theorem Chorus.setRow_msgvt (h : Chorus) (wb n : Nat) (m : Mask) (f : Nat → Word) : (h.setRow wb n m f).msgvt = h.msgvt := by unfold Chorus.setRow; split <;> [rfl; split <;> rfl]
@[simp] theorem Chorus.setRow_msgvtHi (h : Chorus) (wb n : Nat) (m : Mask) (f : Nat → Word) : (h.setRow wb n m f).msgvtHi = h.msgvtHi := by unfold Chorus.setRow; split <;> [rfl; split <;> rfl]
@[simp] theorem Chorus.setRow_stageHi (h : Chorus) (wb n : Nat) (m : Mask) (f : Nat → Word) : (h.setRow wb n m f).stageHi = h.stageHi := by unfold Chorus.setRow; split <;> [rfl; split <;> rfl]
@[simp] theorem Chorus.setRow_traps (h : Chorus) (wb n : Nat) (m : Mask) (f : Nat → Word) : (h.setRow wb n m f).traps = h.traps := by unfold Chorus.setRow; split <;> [rfl; split <;> rfl]
@[simp] theorem Chorus.setRow_pump (h : Chorus) (wb n : Nat) (m : Mask) (f : Nat → Word) : (h.setRow wb n m f).pump = h.pump := by unfold Chorus.setRow; split <;> [rfl; split <;> rfl]
@[simp] theorem Chorus.setRow_requests (h : Chorus) (wb n : Nat) (m : Mask) (f : Nat → Word) : (h.setRow wb n m f).requests = h.requests := by unfold Chorus.setRow; split <;> [rfl; split <;> rfl]
@[simp] theorem Chorus.setRow_failed (h : Chorus) (wb n : Nat) (m : Mask) (f : Nat → Word) : (h.setRow wb n m f).failed = h.failed := by unfold Chorus.setRow; split <;> [rfl; split <;> rfl]
@[simp] theorem Chorus.setRow_served (h : Chorus) (wb n : Nat) (m : Mask) (f : Nat → Word) : (h.setRow wb n m f).served = h.served := by unfold Chorus.setRow; split <;> [rfl; split <;> rfl]
@[simp] theorem Chorus.setRow_slot (h : Chorus) (wb n : Nat) (m : Mask) (f : Nat → Word) : (h.setRow wb n m f).slot = h.slot := by unfold Chorus.setRow; split <;> [rfl; split <;> rfl]
@[simp] theorem Chorus.setRow_readyAge (h : Chorus) (wb n : Nat) (m : Mask) (f : Nat → Word) : (h.setRow wb n m f).readyAge = h.readyAge := by unfold Chorus.setRow; split <;> [rfl; split <;> rfl]
@[simp] theorem Chorus.setRow_bandWait (h : Chorus) (wb n : Nat) (m : Mask) (f : Nat → Word) : (h.setRow wb n m f).bandWait = h.bandWait := by unfold Chorus.setRow; split <;> [rfl; split <;> rfl]
@[simp] theorem Chorus.setRow_issued (h : Chorus) (wb n : Nat) (m : Mask) (f : Nat → Word) : (h.setRow wb n m f).issued = h.issued := by unfold Chorus.setRow; split <;> [rfl; split <;> rfl]
@[simp] theorem Chorus.setRow_refused (h : Chorus) (wb n : Nat) (m : Mask) (f : Nat → Word) : (h.setRow wb n m f).refused = h.refused := by unfold Chorus.setRow; split <;> [rfl; split <;> rfl]
@[simp] theorem Chorus.setRow_fetching (h : Chorus) (wb n : Nat) (m : Mask) (f : Nat → Word) : (h.setRow wb n m f).fetching = h.fetching := by unfold Chorus.setRow; split <;> [rfl; split <;> rfl]
@[simp] theorem Chorus.setRow_memWait (h : Chorus) (wb n : Nat) (m : Mask) (f : Nat → Word) : (h.setRow wb n m f).memWait = h.memWait := by unfold Chorus.setRow; split <;> [rfl; split <;> rfl]
@[simp] theorem Chorus.setRow_halted (h : Chorus) (wb n : Nat) (m : Mask) (f : Nat → Word) : (h.setRow wb n m f).halted = h.halted := by unfold Chorus.setRow; split <;> [rfl; split <;> rfl]
@[simp] theorem Chorus.setRow_ended (h : Chorus) (wb n : Nat) (m : Mask) (f : Nat → Word) : (h.setRow wb n m f).ended = h.ended := by unfold Chorus.setRow; split <;> [rfl; split <;> rfl]
@[simp] theorem Chorus.setRow_swept (h : Chorus) (wb n : Nat) (m : Mask) (f : Nat → Word) : (h.setRow wb n m f).swept = h.swept := by unfold Chorus.setRow; split <;> [rfl; split <;> rfl]
@[simp] theorem Chorus.setRow_upset (h : Chorus) (wb n : Nat) (m : Mask) (f : Nat → Word) : (h.setRow wb n m f).upset = h.upset := by unfold Chorus.setRow; split <;> [rfl; split <;> rfl]

end Sys2Proof.Machine
end

