-- ==== Sys2Proof/Laws/Ops.lean ====
section
/-!
SUPPORT. What each shared operation can do, said once: lists, lanes, registers, sites, the beginning and the end of an
instruction, and traps.
-/
namespace Sys2Proof.Machine

/-! ## Lists -/

@[simp] theorem updAt_length {α : Type} (f : α → α) : ∀ (l : List α) (n : Nat), (updAt l n f).length = l.length
  | [], _ => rfl
  | _ :: _, 0 => rfl
  | _ :: r, n + 1 => by simp [updAt, updAt_length f r n]

/-- Element `k` of a list with element `n` changed. -/
theorem updAt_getElem? {α : Type} (f : α → α) : ∀ (l : List α) (n k : Nat), (updAt l n f)[k]? = if k = n then l[k]?.map f else l[k]?
  | [], n, k => by simp [updAt]
  | a :: r, 0, 0 => by simp [updAt]
  | a :: r, 0, k + 1 => by simp [updAt]
  | a :: r, n + 1, 0 => by simp [updAt]
  | a :: r, n + 1, k + 1 => by simp [updAt, updAt_getElem? f r n k]

theorem updAt_getD_self {α : Type} (f : α → α) (l : List α) (n : Nat) (z : α) (h : n < l.length) :
    (updAt l n f).getD n z = f (l.getD n z) := by
  simp [List.getD_eq_getElem?_getD, updAt_getElem?, List.getElem?_eq_getElem h]

theorem updAt_getD_ne {α : Type} (f : α → α) (l : List α) (n k : Nat) (z : α) (h : k ≠ n) :
    (updAt l n f).getD k z = l.getD k z := by
  simp [List.getD_eq_getElem?_getD, updAt_getElem?, h]

/-- A search by a key that a change keeps finds the changed element. -/
theorem find?_updWhere {α : Type} (p q : α → Bool) (f : α → α) (h : ∀ a, q (f a) = q a) :
    ∀ l : List α, (updWhere p f l).find? q = (l.find? q).map (fun a => if p a then f a else a)
  | [] => rfl
  | a :: r => by
    have ih := find?_updWhere p q f h r
    simp only [updWhere, List.map_cons, List.find?_cons] at ih ⊢
    by_cases hp : p a = true
    · simp only [hp, if_true, h]
      cases hq : q a
      · exact ih
      · simp [hp]
    · simp only [hp]
      cases hq : q a
      · simpa [hq] using ih
      · simp [hp, hq]

/-- Replacing the elements of one key by an element of that key: a search by that key finds it, and one by another key
what it found before. -/
theorem find?_replace {α : Type} (key : α → Nat) (b : α) (u : Nat) :
    ∀ l : List α, (updWhere (fun a => key a == key b) (fun _ => b) l).find? (fun a => key a == u) =
      if u = key b then (l.find? (fun a => key a == u)).map (fun _ => b) else l.find? (fun a => key a == u)
  | [] => by simp [updWhere]
  | a :: r => by
    have ih := find?_replace key b u r
    simp only [updWhere] at ih
    rw [updWhere, List.map_cons]
    by_cases ha : key a = key b
    · rw [if_pos (by simpa using ha)]
      by_cases hu : u = key b
      · rw [List.find?_cons_of_pos (by simp [hu]), if_pos hu, List.find?_cons_of_pos (by simp [hu, ha])]
        rfl
      · rw [if_neg hu] at ih ⊢
        rw [List.find?_cons_of_neg (by simpa using fun e => hu e.symm), ih,
          List.find?_cons_of_neg (by simpa [ha] using fun e => hu e.symm)]
    · rw [if_neg (by simpa using ha)]
      by_cases h2 : key a = u
      · have hu : ¬ u = key b := fun e => ha (h2.trans e)
        rw [List.find?_cons_of_pos (by simp [h2]), if_neg hu, List.find?_cons_of_pos (by simp [h2])]
      · rw [List.find?_cons_of_neg (by simp [h2]), ih, List.find?_cons_of_neg (by simp [h2])]

/-! ## Lanes and register rows (R11, R14) -/

theorem laneIds_getElem? {l : Nat} (h : l < 32) : laneIds[l]? = some l := by
  have : ∀ k, k < 32 → laneIds[k]? = some k := by decide
  exact this l h

@[simp] theorem Lanes.at_ofFn (f : Nat → Word) {l : Nat} (h : l < 32) : (Lanes.ofFn f).at l = f l := by
  simp [Lanes.at, Lanes.ofFn, List.getD_eq_getElem?_getD, laneIds_getElem? h]

/-- Past the last lane a row reads 0. -/
theorem Lanes.at_ofFn_ge (f : Nat → Word) {l : Nat} (h : 32 ≤ l) : (Lanes.ofFn f).at l = 0 := by
  have : laneIds[l]? = none := List.getElem?_eq_none (by simpa [laneIds] using h)
  simp [Lanes.at, Lanes.ofFn, List.getD_eq_getElem?_getD, this]

@[simp] theorem Lanes.at_zero (l : Nat) : Lanes.zero.at l = 0 := by
  by_cases h : l < 32
  · simp [Lanes.zero, h]
  · exact Lanes.at_ofFn_ge _ (by omega)

/-- v0 reads zero (R11). -/
@[simp] theorem Chorus.row_zero (h : Chorus) (wb : Nat) : h.row wb 0 = Lanes.zero := rfl

@[simp] theorem Site.reg_zero (x : Site) (l : Nat) : x.reg 0 l = 0 := by simp [Site.reg]

/-- A write to v0 changes nothing (R11). -/
@[simp] theorem Chorus.setRow_zero (h : Chorus) (wb : Nat) (m : Mask) (f : Nat → Word) : h.setRow wb 0 m f = h := rfl

/-- Where a register's row stands: a house row, or a row of the ring. -/
def rowAt (h : Chorus) (wb n : Nat) : Nat := if n < 16 then n else 16 + (wb + n - 16) % h.ring.length

/-- What a lane of a register reads after a write: the new value in the written lanes of the written row, else the old. -/
theorem Chorus.row_setRow (h : Chorus) (wb d : Nat) (m : Mask) (f : Nat → Word) (n l : Nat) (hh : h.house.length = 16)
    (hr : 0 < h.ring.length) (hl : l < 32) :
    ((h.setRow wb d m f).row wb n).at l =
      if d ≠ 0 ∧ n ≠ 0 ∧ rowAt h wb n = rowAt h wb d ∧ m.has l = true then f l else (h.row wb n).at l := by
  by_cases d0 : d = 0
  · subst d0; simp
  by_cases n0 : n = 0
  · subst n0; simp
  have hd := Nat.mod_lt (wb + d - 16) hr
  have hn := Nat.mod_lt (wb + n - 16) hr
  by_cases dl : d < 16 <;> by_cases nl : n < 16
  · by_cases e : n = d
    · subst e
      have hp : n < h.house.length := by omega
      simp [Chorus.setRow, Chorus.row, rowAt, d0, dl, updAt_getElem?, List.getElem?_eq_getElem hp, Lanes.at_ofFn _ hl]
    · simp [Chorus.setRow, Chorus.row, rowAt, d0, n0, dl, nl, e, updAt_getElem?]
  · have e : ¬ 16 + (wb + n - 16) % h.ring.length = d := by omega
    simp [Chorus.setRow, Chorus.row, rowAt, d0, n0, dl, nl, e]
  · have e : ¬ n = 16 + (wb + d - 16) % h.ring.length := by omega
    simp [Chorus.setRow, Chorus.row, rowAt, d0, n0, dl, nl, e]
  · by_cases e : (wb + n - 16) % h.ring.length = (wb + d - 16) % h.ring.length
    · simp [Chorus.setRow, Chorus.row, rowAt, d0, n0, dl, nl, e, updAt_getElem?, List.getElem?_eq_getElem hd, Lanes.at_ofFn _ hl]
    · have e2 : ¬ 16 + (wb + n - 16) % h.ring.length = 16 + (wb + d - 16) % h.ring.length := by omega
      simp [Chorus.setRow, Chorus.row, rowAt, d0, n0, dl, nl, e, updAt_getElem?]

/-- Every row keeps its place. -/
@[simp] theorem Chorus.setRow_house_length (h : Chorus) (wb n : Nat) (m : Mask) (f : Nat → Word) :
    (h.setRow wb n m f).house.length = h.house.length := by
  unfold Chorus.setRow; split <;> [rfl; split <;> simp]

@[simp] theorem Chorus.setRow_ring_length (h : Chorus) (wb n : Nat) (m : Mask) (f : Nat → Word) :
    (h.setRow wb n m f).ring.length = h.ring.length := by
  unfold Chorus.setRow; split <;> [rfl; split <;> simp]

/-! ## Finding what has been put (R4) -/

/-- The company that was set is the one found by its number; every other is found as before. -/
theorem State.company?_setCompany (s : State) (c : Company) (u : Nat) :
    (s.setCompany c).company? u = if u = c.uid then (s.company? u).map (fun _ => c) else s.company? u :=
  find?_replace (fun (d : Company) => d.uid) c u s.companies

/-- The chorus that was set is the one found by its index; every other is found as before. -/
theorem Company.chorus?_setChorus (c : Company) (h : Chorus) (i : Nat) :
    (c.setChorus h).chorus? i = if i = h.index then (c.chorus? i).map (fun _ => h) else c.chorus? i :=
  find?_replace (fun (g : Chorus) => g.index) h i c.choruses

/-- The cores that no core was set over. -/
theorem State.core_setCore_ne (s : State) (c : Core) (n : Nat) (h : n ≠ c.num) : (s.setCore c).core n = s.core n := by
  unfold State.core State.setCore
  split
  · have e := find?_replace (fun (d : Core) => d.num) c n s.cores
    rw [if_neg h] at e
    exact congrArg (fun o => o.getD (Core.init n)) e
  · have hn : ¬ c.num = n := fun e => h e.symm
    simp [List.find?_append, hn]

/-! ## The site that issues -/

/-- What the site of a state is: the company and the chorus that `cur` names, which run, and the running split. -/
theorem State.site?_some {s : State} {x : Site} (h : s.site? = some x) :
    s.company? s.cur.co = some x.co ∧ x.co.chorus? s.cur.ch = some x.ch ∧ x.co.state = .running ∧ x.ch.halted = none ∧
      x.ch.ended = false ∧ x.ch.splits.find? (fun p => p.state == .running) = some x.sp := by
  unfold State.site? at h
  split at h
  · cases h
  · rename_i co hco
    split at h
    · cases h
    · rename_i ch hch
      split at h
      · rename_i hc
        obtain ⟨sp, hsp, rfl⟩ := Option.map_eq_some_iff.1 h
        simp only [Bool.and_eq_true, beq_iff_eq, Option.isNone_iff_eq_none, Bool.not_eq_true'] at hc
        exact ⟨hco, hch, hc.1.1, hc.1.2, hc.2, hsp⟩
      · cases h

/-- A company is found under its own number, and a chorus under its own index. -/
theorem State.company?_uid {s : State} {u : Nat} {c : Company} (h : s.company? u = some c) : c.uid = u := by
  simpa using List.find?_some h

theorem Company.chorus?_index {c : Company} {i : Nat} {h : Chorus} (e : c.chorus? i = some h) : h.index = i := by
  simpa using List.find?_some e

/-- What is put back at the site of a state is its site, while the chorus runs and its running split is that of the site. -/
theorem State.site?_put {s : State} {x y : Site} (h : s.site? = some x) (hu : y.co.uid = x.co.uid) (hr : y.co.state = .running)
    (hi : y.ch.index = x.ch.index) (hc : (y.co.chorus? y.ch.index).isSome = true) (hh : y.ch.halted = none) (he : y.ch.ended = false)
    (hs : (y.ch.setSplit y.sp).splits.find? (fun p => p.state == .running) = some y.sp) :
    (s.put y).site? = some { co := y.co.setChorus (y.ch.setSplit y.sp), ch := y.ch.setSplit y.sp, sp := y.sp } := by
  obtain ⟨hco, hch, -⟩ := State.site?_some h
  have uid := State.company?_uid hco
  have idx := Company.chorus?_index hch
  obtain ⟨g, hg⟩ := Option.isSome_iff_exists.1 hc
  have e1 : (s.put y).company? s.cur.co = some (y.co.setChorus (y.ch.setSplit y.sp)) := by
    rw [State.put, State.company?_setCompany, hco, if_pos (by rw [Company.setChorus_uid, hu, uid])]
    rfl
  have e2 : (y.co.setChorus (y.ch.setSplit y.sp)).chorus? s.cur.ch = some (y.ch.setSplit y.sp) := by
    rw [Company.chorus?_setChorus, Chorus.setSplit_index, if_pos (by rw [hi, idx]), ← idx, ← hi, hg]
    rfl
  unfold State.site?
  simp [e1, e2, hr, hh, he, hs]

/-! ## The beginning of an instruction (R49, R126, R151, R348) -/

/-- Where nothing stands in its way an instruction runs at its site. -/
theorem issue_runs {i : Instr} {s : State} {x : Site} (k : Site → Out) (hs : s.site? = some x) (hc : ownCause x i = none)
    (ho : x.overflowRow (regsNamed x i) = none) (hr : x.ch.resident (x.neededBy (regsNamed x i)) = true)
    (hl : x.loading i = []) (hp : poisonedLane x i = none) : issue i s k = k x := by
  simp [issue, hs, hc, ho, hr, hl, hp]

/-- All that the beginning of an instruction can do. -/
theorem issue_cases (i : Instr) (s : State) (k : Site → Out) :
    (s.site? = none ∧ issue i s k = .fault .noIssuer) ∨
    ∃ x, s.site? = some x ∧
      ((∃ c tv, ownCause x i = some (c, tv) ∧ issue i s k = .next (s.refuse x c tv)) ∨
       (∃ row, ownCause x i = none ∧ x.overflowRow (regsNamed x i) = some row ∧ issue i s k = .next (s.refuse x 0x07 (BitVec.ofNat 32 row))) ∨
       (ownCause x i = none ∧ x.ch.resident (x.neededBy (regsNamed x i)) = false ∧
        issue i s k = .next (s.stall x (.window (x.neededBy (regsNamed x i)).1 (x.neededBy (regsNamed x i)).2) .waitWindow)) ∨
       (ownCause x i = none ∧ x.loading i ≠ [] ∧ issue i s k = .next (s.stall x (.data (x.loading i)) .waitMemory)) ∨
       (∃ l, poisonedLane x i = some l ∧ issue i s k = .next (s.failHalt i x 0x10 (laneWord l))) ∨
       (ownCause x i = none ∧ x.loading i = [] ∧ poisonedLane x i = none ∧ issue i s k = k x)) := by
  cases hs : s.site? with
  | none => exact .inl ⟨rfl, by simp [issue, hs]⟩
  | some x =>
    refine .inr ⟨x, rfl, ?_⟩
    cases hc : ownCause x i with
    | some p => exact .inl ⟨p.1, p.2, rfl, by simp [issue, hs, hc]⟩
    | none =>
      cases ho : x.overflowRow (regsNamed x i) with
      | some row => exact .inr (.inl ⟨row, rfl, rfl, by simp [issue, hs, hc, ho]⟩)
      | none =>
        cases hr : x.ch.resident (x.neededBy (regsNamed x i)) with
        | false => exact .inr (.inr (.inl ⟨rfl, rfl, by simp [issue, hs, hc, ho, hr]⟩))
        | true =>
          cases hl : x.loading i with
          | cons a r => exact .inr (.inr (.inr (.inl ⟨rfl, by simp, by simp [issue, hs, hc, ho, hr, hl]⟩)))
          | nil =>
            cases hp : poisonedLane x i with
            | some l => exact .inr (.inr (.inr (.inr (.inl ⟨l, rfl, by simp [issue, hs, hc, ho, hr, hl, hp]⟩))))
            | none => exact .inr (.inr (.inr (.inr (.inr ⟨rfl, rfl, rfl, by simp [issue, hs, hc, ho, hr, hl, hp]⟩))))

/-- An instruction whose meaning answers a next state at every site answers one wherever a chorus issues. -/
theorem issue_answers {i : Instr} {s : State} {x : Site} {k : Site → Out} (hs : s.site? = some x)
    (hk : ∃ t, k x = .next t) : ∃ t, issue i s k = .next t := by
  obtain ⟨hn, _⟩ | ⟨y, hy, h⟩ := issue_cases i s k
  · simp [hs] at hn
  · rw [hs] at hy
    cases hy
    obtain ⟨_, _, _, h⟩ | ⟨_, _, _, h⟩ | ⟨_, _, h⟩ | ⟨_, _, h⟩ | ⟨_, _, h⟩ | ⟨_, _, _, h⟩ := h
    · exact ⟨_, h⟩
    · exact ⟨_, h⟩
    · exact ⟨_, h⟩
    · exact ⟨_, h⟩
    · exact ⟨_, h⟩
    · exact h ▸ hk

/-! ## The understudy (R347) -/

/-- A right result never mismatches. -/
@[simp] theorem Fmt.differs_self (f : Fmt) (a : Nat) : f.differs a a = false := by simp [Fmt.differs]

@[simp] theorem elemsDiffer_self (es : List (Nat × Fmt)) (a : Word) : elemsDiffer es a a = false := by simp [elemsDiffer]

/-- Without an upset the vector unit computes what is right, and no lane mismatches. -/
theorem Site.computed_quiet {x : Site} (i : Instr) (f : Nat → Word) (h : x.ch.upset = Lanes.zero) : x.computed i f = f := by
  funext l
  simp [Site.computed, h]

theorem Site.mismatchLane_quiet {x : Site} (i : Instr) (f : Nat → Word) (h : x.ch.upset = Lanes.zero) : x.mismatchLane i f = none := by
  simp [Site.mismatchLane, Site.computed_quiet i f h]

theorem Site.spent_quiet {x : Site} (i : Instr) (h : x.ch.upset = Lanes.zero) : x.spent i = x := by
  unfold Site.spent
  rw [← h]
  split <;> rfl

/-- Where it runs, and no upset stands, a lane operation ends with its results written (R67). -/
theorem laneOp_runs {i : Instr} {s : State} {x : Site} (w : BitVec 1) (d : BitVec 6) (f : Site → Nat → Word)
    (hs : s.site? = some x) (hc : ownCause x i = none) (ho : x.overflowRow (regsNamed x i) = none)
    (hr : x.ch.resident (x.neededBy (regsNamed x i)) = true) (hl : x.loading i = []) (hp : poisonedLane x i = none)
    (hu : x.ch.upset = Lanes.zero) : laneOp i w d f s = .next (s.retire i x (x.result i w d (f x))) := by
  rw [laneOp, issue_runs _ hs hc ho hr hl hp, Site.mismatchLane_quiet i _ hu, Site.spent_quiet i hu, Site.computed_quiet i _ hu]

/-! ## Taking a trap (R26, R50, R350) -/

/-- A trap either enters the handler of the playbill or halts the chorus, and both write the saved registers first. -/
theorem State.takeTrap_cases (s : State) (x : Site) (c : Nat) (epc tv : Word) (sch : Bool) :
    let g := { x.ch with cause := BitVec.ofNat 32 c, epc := epc, tval := tv, chain := none }
    (∃ pc, x.co.playbill.handler = some pc ∧ sch = false ∧ x.ch.handler = false ∧ c ≠ 0x0F ∧ c ≠ 0x10 ∧
      s.takeTrap x c epc tv sch = s.put { x with
        ch := { g with handler := true }, sp := { x.sp with pc := BitVec.ofNat 32 pc, state := .running, wait := .none } }) ∨
    s.takeTrap x c epc tv sch = (s.put { x with ch := g }).halt x.co.uid x.ch.index c := by
  intro g
  cases hh : x.co.playbill.handler with
  | none => exact .inr (by simp [State.takeTrap, hh, g])
  | some pc =>
    by_cases hb : (sch || x.ch.handler || c == 0x0F || c == 0x10) = true
    · exact .inr (by simp only [State.takeTrap, hh, hb, if_true]; rfl)
    · simp only [Bool.or_eq_true, not_or, Bool.not_eq_true, beq_iff_eq] at hb
      refine .inl ⟨pc, rfl, hb.1.1.1, hb.1.1.2, ?_, ?_, ?_⟩
      · simpa using hb.1.2
      · simpa using hb.2
      · have : (sch || x.ch.handler || c == 0x0F || c == 0x10) = false := by simp [hb]
        simp only [State.takeTrap, hh, this]; rfl

end Sys2Proof.Machine
end

