-- ==== Sys2Proof/Laws/PerInstr.lean ====
section
/-!
SUPPORT. Facts about every instruction, one lemma per constructor.
-/
set_option Elab.async false

namespace Sys2Proof.Laws.LengthBit

/-- Bit 0 of a concatenation is that of its last part. -/
theorem low_bit {n m : Nat} (x : BitVec n) (y : BitVec m) (h : 0 < m) : (x ++ y).getLsbD 0 = y.getLsbD 0 := by
  rw [BitVec.getLsbD_append, if_pos h]

/-- Bit 0 of the first halfword of an instruction says its length (R28); a reserved word is what it is. -/
def Statement (i : Instr) : Prop :=
  match encode i with
  | .none => True
  | .short w => w.getLsbD 0 = false
  | .long w => w.getLsbD 0 = true ∨ ∃ v, i = .reservedEncoding v

theorem add (c : BitVec 1) (w : BitVec 1) (b : BitVec 7) (a : BitVec 7) (d : BitVec 6) : Statement (.add c w b a d) := Or.inl ((low_bit _ _ (by decide)).trans rfl)
theorem sub (c : BitVec 1) (w : BitVec 1) (b : BitVec 7) (a : BitVec 7) (d : BitVec 6) : Statement (.sub c w b a d) := Or.inl ((low_bit _ _ (by decide)).trans rfl)
theorem adds (c : BitVec 1) (w : BitVec 1) (b : BitVec 7) (a : BitVec 7) (d : BitVec 6) : Statement (.adds c w b a d) := Or.inl ((low_bit _ _ (by decide)).trans rfl)
theorem subs (c : BitVec 1) (w : BitVec 1) (b : BitVec 7) (a : BitVec 7) (d : BitVec 6) : Statement (.subs c w b a d) := Or.inl ((low_bit _ _ (by decide)).trans rfl)
theorem mul (c : BitVec 1) (w : BitVec 1) (b : BitVec 7) (a : BitVec 7) (d : BitVec 6) : Statement (.mul c w b a d) := Or.inl ((low_bit _ _ (by decide)).trans rfl)
theorem mulhs (c : BitVec 1) (w : BitVec 1) (b : BitVec 7) (a : BitVec 7) (d : BitVec 6) : Statement (.mulhs c w b a d) := Or.inl ((low_bit _ _ (by decide)).trans rfl)
theorem mulhu (c : BitVec 1) (w : BitVec 1) (b : BitVec 7) (a : BitVec 7) (d : BitVec 6) : Statement (.mulhu c w b a d) := Or.inl ((low_bit _ _ (by decide)).trans rfl)
theorem mad (c : BitVec 1) (w : BitVec 1) (b : BitVec 7) (a : BitVec 7) (d : BitVec 6) : Statement (.mad c w b a d) := Or.inl ((low_bit _ _ (by decide)).trans rfl)
theorem min (c : BitVec 1) (w : BitVec 1) (b : BitVec 7) (a : BitVec 7) (d : BitVec 6) : Statement (.min c w b a d) := Or.inl ((low_bit _ _ (by decide)).trans rfl)
theorem max (c : BitVec 1) (w : BitVec 1) (b : BitVec 7) (a : BitVec 7) (d : BitVec 6) : Statement (.max c w b a d) := Or.inl ((low_bit _ _ (by decide)).trans rfl)
theorem minu (c : BitVec 1) (w : BitVec 1) (b : BitVec 7) (a : BitVec 7) (d : BitVec 6) : Statement (.minu c w b a d) := Or.inl ((low_bit _ _ (by decide)).trans rfl)
theorem maxu (c : BitVec 1) (w : BitVec 1) (b : BitVec 7) (a : BitVec 7) (d : BitVec 6) : Statement (.maxu c w b a d) := Or.inl ((low_bit _ _ (by decide)).trans rfl)
theorem and (c : BitVec 1) (w : BitVec 1) (b : BitVec 7) (a : BitVec 7) (d : BitVec 6) : Statement (.and c w b a d) := Or.inl ((low_bit _ _ (by decide)).trans rfl)
theorem or (c : BitVec 1) (w : BitVec 1) (b : BitVec 7) (a : BitVec 7) (d : BitVec 6) : Statement (.or c w b a d) := Or.inl ((low_bit _ _ (by decide)).trans rfl)
theorem xor (c : BitVec 1) (w : BitVec 1) (b : BitVec 7) (a : BitVec 7) (d : BitVec 6) : Statement (.xor c w b a d) := Or.inl ((low_bit _ _ (by decide)).trans rfl)
theorem andn (c : BitVec 1) (w : BitVec 1) (b : BitVec 7) (a : BitVec 7) (d : BitVec 6) : Statement (.andn c w b a d) := Or.inl ((low_bit _ _ (by decide)).trans rfl)
theorem shl (c : BitVec 1) (w : BitVec 1) (b : BitVec 7) (a : BitVec 7) (d : BitVec 6) : Statement (.shl c w b a d) := Or.inl ((low_bit _ _ (by decide)).trans rfl)
theorem shr (c : BitVec 1) (w : BitVec 1) (b : BitVec 7) (a : BitVec 7) (d : BitVec 6) : Statement (.shr c w b a d) := Or.inl ((low_bit _ _ (by decide)).trans rfl)
theorem sar (c : BitVec 1) (w : BitVec 1) (b : BitVec 7) (a : BitVec 7) (d : BitVec 6) : Statement (.sar c w b a d) := Or.inl ((low_bit _ _ (by decide)).trans rfl)
theorem rot (c : BitVec 1) (w : BitVec 1) (b : BitVec 7) (a : BitVec 7) (d : BitVec 6) : Statement (.rot c w b a d) := Or.inl ((low_bit _ _ (by decide)).trans rfl)
theorem cmpeq (c : BitVec 1) (w : BitVec 1) (b : BitVec 7) (a : BitVec 7) (d : BitVec 6) : Statement (.cmpeq c w b a d) := Or.inl ((low_bit _ _ (by decide)).trans rfl)
theorem cmpne (c : BitVec 1) (w : BitVec 1) (b : BitVec 7) (a : BitVec 7) (d : BitVec 6) : Statement (.cmpne c w b a d) := Or.inl ((low_bit _ _ (by decide)).trans rfl)
theorem cmplt (c : BitVec 1) (w : BitVec 1) (b : BitVec 7) (a : BitVec 7) (d : BitVec 6) : Statement (.cmplt c w b a d) := Or.inl ((low_bit _ _ (by decide)).trans rfl)
theorem cmple (c : BitVec 1) (w : BitVec 1) (b : BitVec 7) (a : BitVec 7) (d : BitVec 6) : Statement (.cmple c w b a d) := Or.inl ((low_bit _ _ (by decide)).trans rfl)
theorem cmpltu (c : BitVec 1) (w : BitVec 1) (b : BitVec 7) (a : BitVec 7) (d : BitVec 6) : Statement (.cmpltu c w b a d) := Or.inl ((low_bit _ _ (by decide)).trans rfl)
theorem cmpleu (c : BitVec 1) (w : BitVec 1) (b : BitVec 7) (a : BitVec 7) (d : BitVec 6) : Statement (.cmpleu c w b a d) := Or.inl ((low_bit _ _ (by decide)).trans rfl)
theorem tst (c : BitVec 1) (w : BitVec 1) (b : BitVec 7) (a : BitVec 7) (d : BitVec 6) : Statement (.tst c w b a d) := Or.inl ((low_bit _ _ (by decide)).trans rfl)
theorem absd (c : BitVec 1) (w : BitVec 1) (b : BitVec 7) (a : BitVec 7) (d : BitVec 6) : Statement (.absd c w b a d) := Or.inl ((low_bit _ _ (by decide)).trans rfl)
theorem sel (c : BitVec 1) (w : BitVec 1) (b : BitVec 7) (a : BitVec 7) (d : BitVec 6) : Statement (.sel c w b a d) := Or.inl ((low_bit _ _ (by decide)).trans rfl)
theorem bfx (c : BitVec 1) (w : BitVec 1) (b : BitVec 7) (a : BitVec 7) (d : BitVec 6) : Statement (.bfx c w b a d) := Or.inl ((low_bit _ _ (by decide)).trans rfl)
theorem bfi (c : BitVec 1) (w : BitVec 1) (b : BitVec 7) (a : BitVec 7) (d : BitVec 6) : Statement (.bfi c w b a d) := Or.inl ((low_bit _ _ (by decide)).trans rfl)
theorem lea (c : BitVec 1) (w : BitVec 1) (b : BitVec 7) (a : BitVec 7) (d : BitVec 6) : Statement (.lea c w b a d) := Or.inl ((low_bit _ _ (by decide)).trans rfl)
theorem popc (c : BitVec 1) (w : BitVec 1) (a : BitVec 7) (d : BitVec 6) : Statement (.popc c w a d) := Or.inl ((low_bit _ _ (by decide)).trans rfl)
theorem clz (c : BitVec 1) (w : BitVec 1) (a : BitVec 7) (d : BitVec 6) : Statement (.clz c w a d) := Or.inl ((low_bit _ _ (by decide)).trans rfl)
theorem ctz (c : BitVec 1) (w : BitVec 1) (a : BitVec 7) (d : BitVec 6) : Statement (.ctz c w a d) := Or.inl ((low_bit _ _ (by decide)).trans rfl)
theorem brev (c : BitVec 1) (w : BitVec 1) (a : BitVec 7) (d : BitVec 6) : Statement (.brev c w a d) := Or.inl ((low_bit _ _ (by decide)).trans rfl)
theorem divs (c : BitVec 1) (w : BitVec 1) (b : BitVec 7) (a : BitVec 7) (d : BitVec 6) : Statement (.divs c w b a d) := Or.inl ((low_bit _ _ (by decide)).trans rfl)
theorem divu (c : BitVec 1) (w : BitVec 1) (b : BitVec 7) (a : BitVec 7) (d : BitVec 6) : Statement (.divu c w b a d) := Or.inl ((low_bit _ _ (by decide)).trans rfl)
theorem rems (c : BitVec 1) (w : BitVec 1) (b : BitVec 7) (a : BitVec 7) (d : BitVec 6) : Statement (.rems c w b a d) := Or.inl ((low_bit _ _ (by decide)).trans rfl)
theorem remu (c : BitVec 1) (w : BitVec 1) (b : BitVec 7) (a : BitVec 7) (d : BitVec 6) : Statement (.remu c w b a d) := Or.inl ((low_bit _ _ (by decide)).trans rfl)
theorem mov (c : BitVec 1) (w : BitVec 1) (a : BitVec 7) (d : BitVec 6) : Statement (.mov c w a d) := Or.inl ((low_bit _ _ (by decide)).trans rfl)
theorem zxb (c : BitVec 1) (w : BitVec 1) (a : BitVec 7) (d : BitVec 6) : Statement (.zxb c w a d) := Or.inl ((low_bit _ _ (by decide)).trans rfl)
theorem sxb (c : BitVec 1) (w : BitVec 1) (a : BitVec 7) (d : BitVec 6) : Statement (.sxb c w a d) := Or.inl ((low_bit _ _ (by decide)).trans rfl)
theorem sxh (c : BitVec 1) (w : BitVec 1) (a : BitVec 7) (d : BitVec 6) : Statement (.sxh c w a d) := Or.inl ((low_bit _ _ (by decide)).trans rfl)
theorem zxh (c : BitVec 1) (w : BitVec 1) (a : BitVec 7) (d : BitVec 6) : Statement (.zxh c w a d) := Or.inl ((low_bit _ _ (by decide)).trans rfl)
theorem pack (c : BitVec 1) (w : BitVec 1) (b : BitVec 7) (a : BitVec 7) (d : BitVec 6) : Statement (.pack c w b a d) := Or.inl ((low_bit _ _ (by decide)).trans rfl)
theorem bsw (c : BitVec 1) (w : BitVec 1) (a : BitVec 7) (d : BitVec 6) : Statement (.bsw c w a d) := Or.inl ((low_bit _ _ (by decide)).trans rfl)
theorem addi (c : BitVec 1) (w : BitVec 1) (i : BitVec 9) (a : BitVec 7) (d : BitVec 6) : Statement (.addi c w i a d) := Or.inl ((low_bit _ _ (by decide)).trans rfl)
theorem andi (c : BitVec 1) (w : BitVec 1) (i : BitVec 9) (a : BitVec 7) (d : BitVec 6) : Statement (.andi c w i a d) := Or.inl ((low_bit _ _ (by decide)).trans rfl)
theorem ori (c : BitVec 1) (w : BitVec 1) (i : BitVec 9) (a : BitVec 7) (d : BitVec 6) : Statement (.ori c w i a d) := Or.inl ((low_bit _ _ (by decide)).trans rfl)
theorem xori (c : BitVec 1) (w : BitVec 1) (i : BitVec 9) (a : BitVec 7) (d : BitVec 6) : Statement (.xori c w i a d) := Or.inl ((low_bit _ _ (by decide)).trans rfl)
theorem shli (c : BitVec 1) (w : BitVec 1) (i : BitVec 5) (a : BitVec 7) (d : BitVec 6) : Statement (.shli c w i a d) := Or.inl ((low_bit _ _ (by decide)).trans rfl)
theorem shri (c : BitVec 1) (w : BitVec 1) (i : BitVec 5) (a : BitVec 7) (d : BitVec 6) : Statement (.shri c w i a d) := Or.inl ((low_bit _ _ (by decide)).trans rfl)
theorem sari (c : BitVec 1) (w : BitVec 1) (i : BitVec 5) (a : BitVec 7) (d : BitVec 6) : Statement (.sari c w i a d) := Or.inl ((low_bit _ _ (by decide)).trans rfl)
theorem cmpeqi (c : BitVec 1) (w : BitVec 1) (i : BitVec 9) (a : BitVec 7) (d : BitVec 6) : Statement (.cmpeqi c w i a d) := Or.inl ((low_bit _ _ (by decide)).trans rfl)
theorem cmplti (c : BitVec 1) (w : BitVec 1) (i : BitVec 9) (a : BitVec 7) (d : BitVec 6) : Statement (.cmplti c w i a d) := Or.inl ((low_bit _ _ (by decide)).trans rfl)
theorem cmpltui (c : BitVec 1) (w : BitVec 1) (i : BitVec 9) (a : BitVec 7) (d : BitVec 6) : Statement (.cmpltui c w i a d) := Or.inl ((low_bit _ _ (by decide)).trans rfl)
theorem muli (c : BitVec 1) (w : BitVec 1) (i : BitVec 9) (a : BitVec 7) (d : BitVec 6) : Statement (.muli c w i a d) := Or.inl ((low_bit _ _ (by decide)).trans rfl)
theorem ldp (i : BitVec 9) (a : BitVec 6) (d : BitVec 6) : Statement (.ldp i a d) := Or.inl ((low_bit _ _ (by decide)).trans rfl)
theorem movi (c : BitVec 1) (w : BitVec 1) (i : BitVec 16) (d : BitVec 6) : Statement (.movi c w i d) := Or.inl ((low_bit _ _ (by decide)).trans rfl)
theorem movh (c : BitVec 1) (w : BitVec 1) (i : BitVec 16) (d : BitVec 6) : Statement (.movh c w i d) := Or.inl ((low_bit _ _ (by decide)).trans rfl)
theorem lit (i : BitVec 16) (d : BitVec 6) : Statement (.lit i d) := Or.inl ((low_bit _ _ (by decide)).trans rfl)
theorem shfl (c : BitVec 1) (w : BitVec 1) (b : BitVec 7) (a : BitVec 7) (d : BitVec 6) : Statement (.shfl c w b a d) := Or.inl ((low_bit _ _ (by decide)).trans rfl)
theorem shup (c : BitVec 1) (w : BitVec 1) (b : BitVec 7) (a : BitVec 7) (d : BitVec 6) : Statement (.shup c w b a d) := Or.inl ((low_bit _ _ (by decide)).trans rfl)
theorem shdn (c : BitVec 1) (w : BitVec 1) (b : BitVec 7) (a : BitVec 7) (d : BitVec 6) : Statement (.shdn c w b a d) := Or.inl ((low_bit _ _ (by decide)).trans rfl)
theorem shxor (c : BitVec 1) (w : BitVec 1) (b : BitVec 7) (a : BitVec 7) (d : BitVec 6) : Statement (.shxor c w b a d) := Or.inl ((low_bit _ _ (by decide)).trans rfl)
theorem vany (c : BitVec 1) (w : BitVec 1) (a : BitVec 7) (d : BitVec 6) : Statement (.vany c w a d) := Or.inl ((low_bit _ _ (by decide)).trans rfl)
theorem vall (c : BitVec 1) (w : BitVec 1) (a : BitVec 7) (d : BitVec 6) : Statement (.vall c w a d) := Or.inl ((low_bit _ _ (by decide)).trans rfl)
theorem ballot (c : BitVec 1) (w : BitVec 1) (a : BitVec 7) (d : BitVec 6) : Statement (.ballot c w a d) := Or.inl ((low_bit _ _ (by decide)).trans rfl)
theorem leader (c : BitVec 1) (w : BitVec 1) (a : BitVec 7) (d : BitVec 6) : Statement (.leader c w a d) := Or.inl ((low_bit _ _ (by decide)).trans rfl)
theorem redadd (c : BitVec 1) (w : BitVec 1) (a : BitVec 7) (d : BitVec 6) : Statement (.redadd c w a d) := Or.inl ((low_bit _ _ (by decide)).trans rfl)
theorem redmin (c : BitVec 1) (w : BitVec 1) (a : BitVec 7) (d : BitVec 6) : Statement (.redmin c w a d) := Or.inl ((low_bit _ _ (by decide)).trans rfl)
theorem redmax (c : BitVec 1) (w : BitVec 1) (a : BitVec 7) (d : BitVec 6) : Statement (.redmax c w a d) := Or.inl ((low_bit _ _ (by decide)).trans rfl)
theorem redminu (c : BitVec 1) (w : BitVec 1) (a : BitVec 7) (d : BitVec 6) : Statement (.redminu c w a d) := Or.inl ((low_bit _ _ (by decide)).trans rfl)
theorem scan (c : BitVec 1) (w : BitVec 1) (a : BitVec 7) (d : BitVec 6) : Statement (.scan c w a d) := Or.inl ((low_bit _ _ (by decide)).trans rfl)
theorem rank (c : BitVec 1) (w : BitVec 1) (a : BitVec 7) (d : BitVec 6) : Statement (.rank c w a d) := Or.inl ((low_bit _ _ (by decide)).trans rfl)
theorem matchLanes (c : BitVec 1) (w : BitVec 1) (a : BitVec 7) (d : BitVec 6) : Statement (.matchLanes c w a d) := Or.inl ((low_bit _ _ (by decide)).trans rfl)
theorem fadd (c : BitVec 1) (w : BitVec 1) (b : BitVec 7) (a : BitVec 7) (d : BitVec 6) : Statement (.fadd c w b a d) := Or.inl ((low_bit _ _ (by decide)).trans rfl)
theorem fsub (c : BitVec 1) (w : BitVec 1) (b : BitVec 7) (a : BitVec 7) (d : BitVec 6) : Statement (.fsub c w b a d) := Or.inl ((low_bit _ _ (by decide)).trans rfl)
theorem fmul (c : BitVec 1) (w : BitVec 1) (b : BitVec 7) (a : BitVec 7) (d : BitVec 6) : Statement (.fmul c w b a d) := Or.inl ((low_bit _ _ (by decide)).trans rfl)
theorem fdiv (c : BitVec 1) (w : BitVec 1) (b : BitVec 7) (a : BitVec 7) (d : BitVec 6) : Statement (.fdiv c w b a d) := Or.inl ((low_bit _ _ (by decide)).trans rfl)
theorem fma (c : BitVec 1) (w : BitVec 1) (b : BitVec 7) (a : BitVec 7) (d : BitVec 6) : Statement (.fma c w b a d) := Or.inl ((low_bit _ _ (by decide)).trans rfl)
theorem fms (c : BitVec 1) (w : BitVec 1) (b : BitVec 7) (a : BitVec 7) (d : BitVec 6) : Statement (.fms c w b a d) := Or.inl ((low_bit _ _ (by decide)).trans rfl)
theorem fnma (c : BitVec 1) (w : BitVec 1) (b : BitVec 7) (a : BitVec 7) (d : BitVec 6) : Statement (.fnma c w b a d) := Or.inl ((low_bit _ _ (by decide)).trans rfl)
theorem fnms (c : BitVec 1) (w : BitVec 1) (b : BitVec 7) (a : BitVec 7) (d : BitVec 6) : Statement (.fnms c w b a d) := Or.inl ((low_bit _ _ (by decide)).trans rfl)
theorem fmin (c : BitVec 1) (w : BitVec 1) (b : BitVec 7) (a : BitVec 7) (d : BitVec 6) : Statement (.fmin c w b a d) := Or.inl ((low_bit _ _ (by decide)).trans rfl)
theorem fmax (c : BitVec 1) (w : BitVec 1) (b : BitVec 7) (a : BitVec 7) (d : BitVec 6) : Statement (.fmax c w b a d) := Or.inl ((low_bit _ _ (by decide)).trans rfl)
theorem fminnum (c : BitVec 1) (w : BitVec 1) (b : BitVec 7) (a : BitVec 7) (d : BitVec 6) : Statement (.fminnum c w b a d) := Or.inl ((low_bit _ _ (by decide)).trans rfl)
theorem fmaxnum (c : BitVec 1) (w : BitVec 1) (b : BitVec 7) (a : BitVec 7) (d : BitVec 6) : Statement (.fmaxnum c w b a d) := Or.inl ((low_bit _ _ (by decide)).trans rfl)
theorem fcmpeq (c : BitVec 1) (w : BitVec 1) (b : BitVec 7) (a : BitVec 7) (d : BitVec 6) : Statement (.fcmpeq c w b a d) := Or.inl ((low_bit _ _ (by decide)).trans rfl)
theorem fcmplt (c : BitVec 1) (w : BitVec 1) (b : BitVec 7) (a : BitVec 7) (d : BitVec 6) : Statement (.fcmplt c w b a d) := Or.inl ((low_bit _ _ (by decide)).trans rfl)
theorem fcmple (c : BitVec 1) (w : BitVec 1) (b : BitVec 7) (a : BitVec 7) (d : BitVec 6) : Statement (.fcmple c w b a d) := Or.inl ((low_bit _ _ (by decide)).trans rfl)
theorem fcmpun (c : BitVec 1) (w : BitVec 1) (b : BitVec 7) (a : BitVec 7) (d : BitVec 6) : Statement (.fcmpun c w b a d) := Or.inl ((low_bit _ _ (by decide)).trans rfl)
theorem frcp (c : BitVec 1) (w : BitVec 1) (a : BitVec 7) (d : BitVec 6) : Statement (.frcp c w a d) := Or.inl ((low_bit _ _ (by decide)).trans rfl)
theorem frsq (c : BitVec 1) (w : BitVec 1) (a : BitVec 7) (d : BitVec 6) : Statement (.frsq c w a d) := Or.inl ((low_bit _ _ (by decide)).trans rfl)
theorem fsqrt (c : BitVec 1) (w : BitVec 1) (a : BitVec 7) (d : BitVec 6) : Statement (.fsqrt c w a d) := Or.inl ((low_bit _ _ (by decide)).trans rfl)
theorem fclass (c : BitVec 1) (w : BitVec 1) (a : BitVec 7) (d : BitVec 6) : Statement (.fclass c w a d) := Or.inl ((low_bit _ _ (by decide)).trans rfl)
theorem fexp2 (c : BitVec 1) (w : BitVec 1) (a : BitVec 7) (d : BitVec 6) : Statement (.fexp2 c w a d) := Or.inl ((low_bit _ _ (by decide)).trans rfl)
theorem flog2 (c : BitVec 1) (w : BitVec 1) (a : BitVec 7) (d : BitVec 6) : Statement (.flog2 c w a d) := Or.inl ((low_bit _ _ (by decide)).trans rfl)
theorem fsinpi (c : BitVec 1) (w : BitVec 1) (a : BitVec 7) (d : BitVec 6) : Statement (.fsinpi c w a d) := Or.inl ((low_bit _ _ (by decide)).trans rfl)
theorem fcospi (c : BitVec 1) (w : BitVec 1) (a : BitVec 7) (d : BitVec 6) : Statement (.fcospi c w a d) := Or.inl ((low_bit _ _ (by decide)).trans rfl)
theorem frnd (c : BitVec 1) (w : BitVec 1) (m : BitVec 2) (a : BitVec 7) (d : BitVec 6) : Statement (.frnd c w m a d) := Or.inl ((low_bit _ _ (by decide)).trans rfl)
theorem hadd2 (c : BitVec 1) (w : BitVec 1) (b : BitVec 7) (a : BitVec 7) (d : BitVec 6) : Statement (.hadd2 c w b a d) := Or.inl ((low_bit _ _ (by decide)).trans rfl)
theorem hmul2 (c : BitVec 1) (w : BitVec 1) (b : BitVec 7) (a : BitVec 7) (d : BitVec 6) : Statement (.hmul2 c w b a d) := Or.inl ((low_bit _ _ (by decide)).trans rfl)
theorem hfma2 (c : BitVec 1) (w : BitVec 1) (b : BitVec 7) (a : BitVec 7) (d : BitVec 6) : Statement (.hfma2 c w b a d) := Or.inl ((low_bit _ _ (by decide)).trans rfl)
theorem bfma2 (c : BitVec 1) (w : BitVec 1) (b : BitVec 7) (a : BitVec 7) (d : BitVec 6) : Statement (.bfma2 c w b a d) := Or.inl ((low_bit _ _ (by decide)).trans rfl)
theorem cvt (c : BitVec 1) (w : BitVec 1) (m : BitVec 2) (k : BitVec 7) (a : BitVec 7) (d : BitVec 6) : Statement (.cvt c w m k a d) := Or.inl ((low_bit _ _ (by decide)).trans rfl)
theorem cvtsr (c : BitVec 1) (w : BitVec 1) (t : BitVec 2) (b : BitVec 7) (a : BitVec 7) (d : BitVec 6) : Statement (.cvtsr c w t b a d) := Or.inl ((low_bit _ _ (by decide)).trans rfl)
theorem dp4 (c : BitVec 1) (w : BitVec 1) (b : BitVec 7) (a : BitVec 7) (d : BitVec 6) : Statement (.dp4 c w b a d) := Or.inl ((low_bit _ _ (by decide)).trans rfl)
theorem dp8 (c : BitVec 1) (w : BitVec 1) (b : BitVec 7) (a : BitVec 7) (d : BitVec 6) : Statement (.dp8 c w b a d) := Or.inl ((low_bit _ _ (by decide)).trans rfl)
theorem dp2 (c : BitVec 1) (w : BitVec 1) (b : BitVec 7) (a : BitVec 7) (d : BitVec 6) : Statement (.dp2 c w b a d) := Or.inl ((low_bit _ _ (by decide)).trans rfl)
theorem dp4u (c : BitVec 1) (w : BitVec 1) (b : BitVec 7) (a : BitVec 7) (d : BitVec 6) : Statement (.dp4u c w b a d) := Or.inl ((low_bit _ _ (by decide)).trans rfl)
theorem scl (c : BitVec 1) (w : BitVec 1) (b : BitVec 7) (a : BitVec 7) (d : BitVec 6) : Statement (.scl c w b a d) := Or.inl ((low_bit _ _ (by decide)).trans rfl)
theorem pk8 (c : BitVec 1) (w : BitVec 1) (b : BitVec 7) (a : BitVec 7) (d : BitVec 6) : Statement (.pk8 c w b a d) := Or.inl ((low_bit _ _ (by decide)).trans rfl)
theorem upk (c : BitVec 1) (w : BitVec 1) (b : BitVec 7) (a : BitVec 7) (d : BitVec 6) : Statement (.upk c w b a d) := Or.inl ((low_bit _ _ (by decide)).trans rfl)
theorem mxs (c : BitVec 1) (w : BitVec 1) (a : BitVec 7) (d : BitVec 6) : Statement (.mxs c w a d) := Or.inl ((low_bit _ _ (by decide)).trans rfl)
theorem mov16 (s : BitVec 6) (d : BitVec 5) : Statement (.mov16 s d) := (low_bit _ _ (by decide)).trans rfl
theorem add16 (s : BitVec 6) (d : BitVec 5) : Statement (.add16 s d) := (low_bit _ _ (by decide)).trans rfl
theorem sub16 (s : BitVec 6) (d : BitVec 5) : Statement (.sub16 s d) := (low_bit _ _ (by decide)).trans rfl
theorem and16 (s : BitVec 6) (d : BitVec 5) : Statement (.and16 s d) := (low_bit _ _ (by decide)).trans rfl
theorem or16 (s : BitVec 6) (d : BitVec 5) : Statement (.or16 s d) := (low_bit _ _ (by decide)).trans rfl
theorem xor16 (s : BitVec 6) (d : BitVec 5) : Statement (.xor16 s d) := (low_bit _ _ (by decide)).trans rfl
theorem shl16 (s : BitVec 6) (d : BitVec 5) : Statement (.shl16 s d) := (low_bit _ _ (by decide)).trans rfl
theorem shr16 (s : BitVec 6) (d : BitVec 5) : Statement (.shr16 s d) := (low_bit _ _ (by decide)).trans rfl
theorem sar16 (s : BitVec 6) (d : BitVec 5) : Statement (.sar16 s d) := (low_bit _ _ (by decide)).trans rfl
theorem mul16 (s : BitVec 6) (d : BitVec 5) : Statement (.mul16 s d) := (low_bit _ _ (by decide)).trans rfl
theorem min16 (s : BitVec 6) (d : BitVec 5) : Statement (.min16 s d) := (low_bit _ _ (by decide)).trans rfl
theorem max16 (s : BitVec 6) (d : BitVec 5) : Statement (.max16 s d) := (low_bit _ _ (by decide)).trans rfl
theorem fadd16 (s : BitVec 6) (d : BitVec 5) : Statement (.fadd16 s d) := (low_bit _ _ (by decide)).trans rfl
theorem fsub16 (s : BitVec 6) (d : BitVec 5) : Statement (.fsub16 s d) := (low_bit _ _ (by decide)).trans rfl
theorem fmul16 (s : BitVec 6) (d : BitVec 5) : Statement (.fmul16 s d) := (low_bit _ _ (by decide)).trans rfl
theorem addi16 (i : BitVec 6) (d : BitVec 5) : Statement (.addi16 i d) := (low_bit _ _ (by decide)).trans rfl
theorem ldWl (h : BitVec 2) (o : BitVec 10) (b : BitVec 6) (d : BitVec 6) : Statement (.ldWl h o b d) := Or.inl ((low_bit _ _ (by decide)).trans rfl)
theorem stWl (h : BitVec 2) (o : BitVec 10) (b : BitVec 6) (s : BitVec 6) : Statement (.stWl h o b s) := Or.inl ((low_bit _ _ (by decide)).trans rfl)
theorem ldSb (h : BitVec 2) (o : BitVec 10) (b : BitVec 6) (d : BitVec 6) : Statement (.ldSb h o b d) := Or.inl ((low_bit _ _ (by decide)).trans rfl)
theorem ldSh (h : BitVec 2) (o : BitVec 10) (b : BitVec 6) (d : BitVec 6) : Statement (.ldSh h o b d) := Or.inl ((low_bit _ _ (by decide)).trans rfl)
theorem ldSw (h : BitVec 2) (o : BitVec 10) (b : BitVec 6) (d : BitVec 6) : Statement (.ldSw h o b d) := Or.inl ((low_bit _ _ (by decide)).trans rfl)
theorem ldSq (h : BitVec 2) (o : BitVec 10) (b : BitVec 6) (d : BitVec 4) : Statement (.ldSq h o b d) := Or.inl ((low_bit _ _ (by decide)).trans rfl)
theorem stSb (h : BitVec 2) (o : BitVec 10) (b : BitVec 6) (s : BitVec 6) : Statement (.stSb h o b s) := Or.inl ((low_bit _ _ (by decide)).trans rfl)
theorem stSh (h : BitVec 2) (o : BitVec 10) (b : BitVec 6) (s : BitVec 6) : Statement (.stSh h o b s) := Or.inl ((low_bit _ _ (by decide)).trans rfl)
theorem stSw (h : BitVec 2) (o : BitVec 10) (b : BitVec 6) (s : BitVec 6) : Statement (.stSw h o b s) := Or.inl ((low_bit _ _ (by decide)).trans rfl)
theorem stSq (h : BitVec 2) (o : BitVec 10) (b : BitVec 6) (s : BitVec 4) : Statement (.stSq h o b s) := Or.inl ((low_bit _ _ (by decide)).trans rfl)
theorem ldSa (h : BitVec 2) (o : BitVec 10) (b : BitVec 6) (d : BitVec 6) : Statement (.ldSa h o b d) := Or.inl ((low_bit _ _ (by decide)).trans rfl)
theorem stSr (h : BitVec 2) (o : BitVec 10) (b : BitVec 6) (s : BitVec 6) : Statement (.stSr h o b s) := Or.inl ((low_bit _ _ (by decide)).trans rfl)
theorem ldT (k : BitVec 4) (i : BitVec 6) (t : BitVec 8) (d : BitVec 6) : Statement (.ldT k i t d) := Or.inl ((low_bit _ _ (by decide)).trans rfl)
theorem stT (k : BitVec 4) (i : BitVec 6) (t : BitVec 8) (s : BitVec 6) : Statement (.stT k i t s) := Or.inl ((low_bit _ _ (by decide)).trans rfl)
theorem ldTq (k : BitVec 4) (i : BitVec 6) (t : BitVec 8) (d : BitVec 4) : Statement (.ldTq k i t d) := Or.inl ((low_bit _ _ (by decide)).trans rfl)
theorem stTq (k : BitVec 4) (i : BitVec 6) (t : BitVec 8) (s : BitVec 4) : Statement (.stTq k i t s) := Or.inl ((low_bit _ _ (by decide)).trans rfl)
theorem atomS (q : BitVec 2) (p : BitVec 4) (r : BitVec 6) (a : BitVec 6) (d : BitVec 6) : Statement (.atomS q p r a d) := Or.inl ((low_bit _ _ (by decide)).trans rfl)
theorem atomC (q : BitVec 2) (p : BitVec 4) (r : BitVec 6) (a : BitVec 6) (d : BitVec 6) : Statement (.atomC q p r a d) := Or.inl ((low_bit _ _ (by decide)).trans rfl)
theorem ldCw (h : BitVec 2) (o : BitVec 10) (b : BitVec 6) (d : BitVec 6) : Statement (.ldCw h o b d) := Or.inl ((low_bit _ _ (by decide)).trans rfl)
theorem stCw (h : BitVec 2) (o : BitVec 10) (b : BitVec 6) (s : BitVec 6) : Statement (.stCw h o b s) := Or.inl ((low_bit _ _ (by decide)).trans rfl)
theorem ldCq (h : BitVec 2) (o : BitVec 10) (b : BitVec 6) (d : BitVec 4) : Statement (.ldCq h o b d) := Or.inl ((low_bit _ _ (by decide)).trans rfl)
theorem stCq (h : BitVec 2) (o : BitVec 10) (b : BitVec 6) (s : BitVec 4) : Statement (.stCq h o b s) := Or.inl ((low_bit _ _ (by decide)).trans rfl)
theorem ldCa (h : BitVec 2) (o : BitVec 10) (b : BitVec 6) (d : BitVec 6) : Statement (.ldCa h o b d) := Or.inl ((low_bit _ _ (by decide)).trans rfl)
theorem stCr (h : BitVec 2) (o : BitVec 10) (b : BitVec 6) (s : BitVec 6) : Statement (.stCr h o b s) := Or.inl ((low_bit _ _ (by decide)).trans rfl)
theorem barC (i : BitVec 6) (n : BitVec 8) (d : BitVec 6) : Statement (.barC i n d) := Or.inl ((low_bit _ _ (by decide)).trans rfl)
theorem barT (i : BitVec 6) (n : BitVec 8) (d : BitVec 6) : Statement (.barT i n d) := Or.inl ((low_bit _ _ (by decide)).trans rfl)
theorem arvC (b : BitVec 7) (a : BitVec 7) (d : BitVec 6) : Statement (.arvC b a d) := Or.inl ((low_bit _ _ (by decide)).trans rfl)
theorem awtC (b : BitVec 7) (a : BitVec 7) (d : BitVec 6) : Statement (.awtC b a d) := Or.inl ((low_bit _ _ (by decide)).trans rfl)
theorem arvT (b : BitVec 7) (a : BitVec 7) (d : BitVec 6) : Statement (.arvT b a d) := Or.inl ((low_bit _ _ (by decide)).trans rfl)
theorem awtT (b : BitVec 7) (a : BitVec 7) (d : BitVec 6) : Statement (.awtT b a d) := Or.inl ((low_bit _ _ (by decide)).trans rfl)
theorem fenceR (s : BitVec 3) (k : BitVec 2) (m : BitVec 8) : Statement (.fenceR s k m) := Or.inl ((low_bit _ _ (by decide)).trans rfl)
theorem fenceX (s : BitVec 3) (k : BitVec 2) (t : BitVec 4) (f : BitVec 4) : Statement (.fenceX s k t f) := Or.inl ((low_bit _ _ (by decide)).trans rfl)
theorem rngSet (b : BitVec 7) (a : BitVec 7) (k : BitVec 6) : Statement (.rngSet b a k) := Or.inl ((low_bit _ _ (by decide)).trans rfl)
theorem rngSetH (h : BitVec 6) (k : BitVec 6) : Statement (.rngSetH h k) := Or.inl ((low_bit _ _ (by decide)).trans rfl)
theorem cueSet (a : BitVec 7) (k : BitVec 6) : Statement (.cueSet a k) := Or.inl ((low_bit _ _ (by decide)).trans rfl)
theorem cueClr (k : BitVec 6) : Statement (.cueClr k) := Or.inl ((low_bit _ _ (by decide)).trans rfl)
theorem cueRd (k : BitVec 3) (d : BitVec 6) : Statement (.cueRd k d) := Or.inl ((low_bit _ _ (by decide)).trans rfl)
theorem tlRel (t : BitVec 8) : Statement (.tlRel t) := Or.inl ((low_bit _ _ (by decide)).trans rfl)
theorem tlWait (t : BitVec 8) : Statement (.tlWait t) := Or.inl ((low_bit _ _ (by decide)).trans rfl)
theorem tlSt (t : BitVec 8) (d : BitVec 6) : Statement (.tlSt t d) := Or.inl ((low_bit _ _ (by decide)).trans rfl)
theorem recBind (h : BitVec 6) (a : BitVec 7) (d : BitVec 6) : Statement (.recBind h a d) := Or.inl ((low_bit _ _ (by decide)).trans rfl)
theorem bz (o : BitVec 18) (c : BitVec 6) : Statement (.bz o c) := Or.inl ((low_bit _ _ (by decide)).trans rfl)
theorem bnz (o : BitVec 18) (c : BitVec 6) : Statement (.bnz o c) := Or.inl ((low_bit _ _ (by decide)).trans rfl)
theorem j (o : BitVec 24) : Statement (.j o) := Or.inl ((low_bit _ _ (by decide)).trans rfl)
theorem call (o : BitVec 18) (n : BitVec 6) : Statement (.call o n) := Or.inl ((low_bit _ _ (by decide)).trans rfl)
theorem callr (n : BitVec 7) (a : BitVec 6) : Statement (.callr n a) := Or.inl ((low_bit _ _ (by decide)).trans rfl)
theorem ret : Statement .ret := Or.inl rfl
theorem jpt (o : BitVec 18) : Statement (.jpt o) := Or.inl ((low_bit _ _ (by decide)).trans rfl)
theorem rcv : Statement .rcv := Or.inl rfl
theorem rcvT (a : BitVec 6) (d : BitVec 6) : Statement (.rcvT a d) := Or.inl ((low_bit _ _ (by decide)).trans rfl)
theorem exit : Statement .exit := Or.inl rfl
theorem alloc (i : BitVec 14) : Statement (.alloc i) := Or.inl ((low_bit _ _ (by decide)).trans rfl)
theorem brt (o : BitVec 18) (c : BitVec 6) : Statement (.brt o c) := Or.inl ((low_bit _ _ (by decide)).trans rfl)
theorem trap (i : BitVec 14) : Statement (.trap i) := Or.inl ((low_bit _ _ (by decide)).trans rfl)
theorem rtt : Statement .rtt := Or.inl rfl
theorem brk (i : BitVec 14) : Statement (.brk i) := Or.inl ((low_bit _ _ (by decide)).trans rfl)
theorem nop (x : BitVec 20) : Statement (.nop x) := Or.inl ((low_bit _ _ (by decide)).trans rfl)
theorem pool (l : BitVec 14) : Statement (.pool l) := Or.inl ((low_bit _ _ (by decide)).trans rfl)
theorem mfs (r : BitVec 14) (d : BitVec 6) : Statement (.mfs r d) := Or.inl ((low_bit _ _ (by decide)).trans rfl)
theorem mts (r : BitVec 14) (s : BitVec 6) : Statement (.mts r s) := Or.inl ((low_bit _ _ (by decide)).trans rfl)
theorem fmt (i : BitVec 12) : Statement (.fmt i) := Or.inl ((low_bit _ _ (by decide)).trans rfl)
theorem tmrSet (b : BitVec 6) (a : BitVec 6) : Statement (.tmrSet b a) := Or.inl ((low_bit _ _ (by decide)).trans rfl)
theorem tmrClr (a : BitVec 6) : Statement (.tmrClr a) := Or.inl ((low_bit _ _ (by decide)).trans rfl)
theorem wev (b : BitVec 6) (a : BitVec 6) (d : BitVec 6) : Statement (.wev b a d) := Or.inl ((low_bit _ _ (by decide)).trans rfl)
theorem wtm (a : BitVec 6) (d : BitVec 6) : Statement (.wtm a d) := Or.inl ((low_bit _ _ (by decide)).trans rfl)
theorem qkick (b : BitVec 6) (a : BitVec 6) : Statement (.qkick b a) := Or.inl ((low_bit _ _ (by decide)).trans rfl)
theorem evt (d : BitVec 6) : Statement (.evt d) := Or.inl ((low_bit _ _ (by decide)).trans rfl)
theorem msgSend (b : BitVec 6) (a : BitVec 6) (d : BitVec 6) : Statement (.msgSend b a d) := Or.inl ((low_bit _ _ (by decide)).trans rfl)
theorem msgRecv (a : BitVec 6) (d : BitVec 6) : Statement (.msgRecv a d) := Or.inl ((low_bit _ _ (by decide)).trans rfl)
theorem msgPeek (d : BitVec 6) : Statement (.msgPeek d) := Or.inl ((low_bit _ _ (by decide)).trans rfl)
theorem msgHold (b : BitVec 6) (a : BitVec 6) (d : BitVec 6) : Statement (.msgHold b a d) := Or.inl ((low_bit _ _ (by decide)).trans rfl)
theorem plset (c : BitVec 3) (d : BitVec 6) : Statement (.plset c d) := Or.inl ((low_bit _ _ (by decide)).trans rfl)
theorem rdstg (i : BitVec 14) (d : BitVec 6) : Statement (.rdstg i d) := Or.inl ((low_bit _ _ (by decide)).trans rfl)
theorem undef (x : BitVec 20) : Statement (.undef x) := Or.inl ((low_bit _ _ (by decide)).trans rfl)
theorem reservedEncoding (w : BitVec 32) : Statement (.reservedEncoding w) := Or.inr ⟨w, rfl⟩
theorem flyIn (e : BitVec 1) (b : BitVec 6) (h : BitVec 6) (t : BitVec 8) (k : BitVec 3) : Statement (.flyIn e b h t k) := Or.inl ((low_bit _ _ (by decide)).trans rfl)
theorem flyOut (e : BitVec 1) (b : BitVec 6) (h : BitVec 6) (t : BitVec 8) (k : BitVec 3) : Statement (.flyOut e b h t k) := Or.inl ((low_bit _ _ (by decide)).trans rfl)
theorem flyGth (e : BitVec 1) (b : BitVec 6) (h : BitVec 6) (t : BitVec 8) (k : BitVec 3) : Statement (.flyGth e b h t k) := Or.inl ((low_bit _ _ (by decide)).trans rfl)
theorem flySct (e : BitVec 1) (b : BitVec 6) (h : BitVec 6) (t : BitVec 8) (k : BitVec 3) : Statement (.flySct e b h t k) := Or.inl ((low_bit _ _ (by decide)).trans rfl)
theorem flyScl (e : BitVec 1) (b : BitVec 6) (h : BitVec 6) (t : BitVec 8) (k : BitVec 3) : Statement (.flyScl e b h t k) := Or.inl ((low_bit _ _ (by decide)).trans rfl)
theorem flyCp (e : BitVec 1) (b : BitVec 6) (k : BitVec 3) : Statement (.flyCp e b k) := Or.inl ((low_bit _ _ (by decide)).trans rfl)
theorem flyAtm (e : BitVec 1) (b : BitVec 6) (p : BitVec 4) (q : BitVec 2) (k : BitVec 3) : Statement (.flyAtm e b p q k) := Or.inl ((low_bit _ _ (by decide)).trans rfl)
theorem flyMc (e : BitVec 1) (b : BitVec 6) (h : BitVec 6) (t : BitVec 8) (k : BitVec 3) : Statement (.flyMc e b h t k) := Or.inl ((low_bit _ _ (by decide)).trans rfl)
theorem flyPf (e : BitVec 1) (b : BitVec 6) (h : BitVec 6) (k : BitVec 3) : Statement (.flyPf e b h k) := Or.inl ((low_bit _ _ (by decide)).trans rfl)
theorem mxMma (s : BitVec 1) (r : BitVec 4) (b : BitVec 8) (a : BitVec 8) (k : BitVec 3) : Statement (.mxMma s r b a k) := Or.inl ((low_bit _ _ (by decide)).trans rfl)
theorem mxSpr (s : BitVec 1) (r : BitVec 4) (b : BitVec 8) (a : BitVec 8) (k : BitVec 3) : Statement (.mxSpr s r b a k) := Or.inl ((low_bit _ _ (by decide)).trans rfl)
theorem mxZero (r : BitVec 4) (s : BitVec 6) : Statement (.mxZero r s) := Or.inl ((low_bit _ _ (by decide)).trans rfl)
theorem mxPut (t : BitVec 8) (r : BitVec 4) : Statement (.mxPut t r) := Or.inl ((low_bit _ _ (by decide)).trans rfl)
theorem mxGet (t : BitVec 8) (r : BitVec 4) : Statement (.mxGet t r) := Or.inl ((low_bit _ _ (by decide)).trans rfl)
theorem mxSput (s : BitVec 6) : Statement (.mxSput s) := Or.inl ((low_bit _ _ (by decide)).trans rfl)
theorem splitEntryRefill : Statement .splitEntryRefill := trivial
theorem rcvTTimeout : Statement .rcvTTimeout := trivial
theorem splitReschedule : Statement .splitReschedule := trivial
theorem laneAccessComplete : Statement .laneAccessComplete := trivial
theorem pumpServeRequest : Statement .pumpServeRequest := trivial
theorem pumpRowTransferDone : Statement .pumpRowTransferDone := trivial
theorem bandWindow : Statement .bandWindow := trivial
theorem bandRaise : Statement .bandRaise := trivial
theorem currentWindowBoundary : Statement .currentWindowBoundary := trivial
theorem stallCycle : Statement .stallCycle := trivial
theorem bankDrowsy : Statement .bankDrowsy := trivial
theorem bankWake : Statement .bankWake := trivial
theorem tileDrainEnd : Statement .tileDrainEnd := trivial
theorem queueHeadDecide : Statement .queueHeadDecide := trivial
theorem flyCommandHandover : Statement .flyCommandHandover := trivial
theorem flyLineComplete : Statement .flyLineComplete := trivial
theorem flyCommandComplete : Statement .flyCommandComplete := trivial
theorem asyncTrapTaken : Statement .asyncTrapTaken := trivial
theorem matrixOpStart : Statement .matrixOpStart := trivial
theorem matrixKStep : Statement .matrixKStep := trivial
theorem matrixOpComplete : Statement .matrixOpComplete := trivial
theorem pageWalkComplete : Statement .pageWalkComplete := trivial
theorem pageRequestWrite : Statement .pageRequestWrite := trivial
theorem companyFaultRestore : Statement .companyFaultRestore := trivial
theorem prqReply : Statement .prqReply := trivial
theorem prqRdWrite : Statement .prqRdWrite := trivial
theorem prqBaseWrite : Statement .prqBaseWrite := trivial
theorem xlinvFunction : Statement .xlinvFunction := trivial
theorem xlinvPage : Statement .xlinvPage := trivial
theorem xlinvContext : Statement .xlinvContext := trivial
theorem xlinvStage2Page : Statement .xlinvStage2Page := trivial
theorem xlinvInvalidKind : Statement .xlinvInvalidKind := trivial
theorem xlinvComplete : Statement .xlinvComplete := trivial
theorem ctxCreate : Statement .ctxCreate := trivial
theorem ctxStart : Statement .ctxStart := trivial
theorem ctxDestroy : Statement .ctxDestroy := trivial
theorem ctxDestroyComplete : Statement .ctxDestroyComplete := trivial
theorem ctxPolicyWrite : Statement .ctxPolicyWrite := trivial
theorem ctxPcountWrite : Statement .ctxPcountWrite := trivial
theorem ctxEvctlWrite : Statement .ctxEvctlWrite := trivial
theorem ctxEvrdWrite : Statement .ctxEvrdWrite := trivial
theorem ctxWdogWrite : Statement .ctxWdogWrite := trivial
theorem queueEnable : Statement .queueEnable := trivial
theorem queueDisable : Statement .queueDisable := trivial
theorem registerWrite : Statement .registerWrite := trivial
theorem kick : Statement .kick := trivial
theorem qrestartReread : Statement .qrestartReread := trivial
theorem qrestartSkip : Statement .qrestartSkip := trivial
theorem prompterReread : Statement .prompterReread := trivial
theorem launch : Statement .launch := trivial
theorem resume : Statement .resume := trivial
theorem write : Statement .write := trivial
theorem signal : Statement .signal := trivial
theorem writeSignal : Statement .writeSignal := trivial
theorem wait : Statement .wait := trivial
theorem waitReevaluate : Statement .waitReevaluate := trivial
theorem fence : Statement .fence := trivial
theorem grant : Statement .grant := trivial
theorem cont : Statement .cont := trivial
theorem troupePlace : Statement .troupePlace := trivial
theorem admissionOrderHold : Statement .admissionOrderHold := trivial
theorem companyComplete : Statement .companyComplete := trivial
theorem runComplete : Statement .runComplete := trivial
theorem eventRecordWrite : Statement .eventRecordWrite := trivial
theorem preemptionRequest : Statement .preemptionRequest := trivial
theorem contextRestore : Statement .contextRestore := trivial
theorem sliceExpiry : Statement .sliceExpiry := trivial
theorem watchdogExpiry : Statement .watchdogExpiry := trivial
theorem timerExpiry : Statement .timerExpiry := trivial
theorem wevDeadline : Statement .wevDeadline := trivial
theorem wtmDeadline : Statement .wtmDeadline := trivial
theorem stageTimeCorrection : Statement .stageTimeCorrection := trivial
theorem messageArrival : Statement .messageArrival := trivial
theorem outsideEventVisible : Statement .outsideEventVisible := trivial
theorem callBoardActionPoint : Statement .callBoardActionPoint := trivial
theorem linkRequestArrival : Statement .linkRequestArrival := trivial
theorem linkResponseArrival : Statement .linkResponseArrival := trivial
theorem linkResponseTimeout : Statement .linkResponseTimeout := trivial
theorem memoEntryExpiry : Statement .memoEntryExpiry := trivial
theorem linkPortFail : Statement .linkPortFail := trivial
theorem linkFlitReplay : Statement .linkFlitReplay := trivial
theorem linkXoff : Statement .linkXoff := trivial
theorem linkXon : Statement .linkXon := trivial
theorem multicastWriteArrival : Statement .multicastWriteArrival := trivial
theorem aggregateAckArrival : Statement .aggregateAckArrival := trivial
theorem vfPointChange : Statement .vfPointChange := trivial
theorem vfChangeComplete : Statement .vfChangeComplete := trivial
theorem clusterGate : Statement .clusterGate := trivial
theorem clusterWakeRequest : Statement .clusterWakeRequest := trivial
theorem wakeRampEnd : Statement .wakeRampEnd := trivial
theorem clusterWakeComplete : Statement .clusterWakeComplete := trivial
theorem thermalStep : Statement .thermalStep := trivial
theorem thermalTrip105 : Statement .thermalTrip105 := trivial
theorem thermalTrip115 : Statement .thermalTrip115 := trivial
theorem coldReset : Statement .coldReset := trivial
theorem pcieHotReset : Statement .pcieHotReset := trivial
theorem functionLevelReset : Statement .functionLevelReset := trivial
theorem pluginBudgetExpiry : Statement .pluginBudgetExpiry := trivial
theorem spdmRequest : Statement .spdmRequest := trivial
theorem keySlotLoad : Statement .keySlotLoad := trivial
theorem keySlotRetire : Statement .keySlotRetire := trivial
theorem pldmRequest : Statement .pldmRequest := trivial
theorem curtainAssert : Statement .curtainAssert := trivial
theorem curtainRelease : Statement .curtainRelease := trivial
theorem debugTokenAccept : Statement .debugTokenAccept := trivial
theorem catwalkRead : Statement .catwalkRead := trivial
theorem debugStep : Statement .debugStep := trivial
theorem eccUncorrectable : Statement .eccUncorrectable := trivial
theorem routerFail : Statement .routerFail := trivial
theorem hubFail : Statement .hubFail := trivial
theorem cisternSizeChange : Statement .cisternSizeChange := trivial
theorem partitionAssign : Statement .partitionAssign := trivial
theorem grantCacheEviction : Statement .grantCacheEviction := trivial
theorem hostMemoryAccess : Statement .hostMemoryAccess := trivial
theorem linkTrainingComplete : Statement .linkTrainingComplete := trivial
theorem linkLaneLoss : Statement .linkLaneLoss := trivial
theorem linkLockLoss : Statement .linkLockLoss := trivial
theorem debugHalt : Statement .debugHalt := trivial
theorem debugResume : Statement .debugResume := trivial
theorem contextMigration : Statement .contextMigration := trivial
theorem checkpoint : Statement .checkpoint := trivial
theorem thermalTripClear : Statement .thermalTripClear := trivial
theorem virtualFunctionEnable : Statement .virtualFunctionEnable := trivial
theorem multicastGroupEntryWrite : Statement .multicastGroupEntryWrite := trivial
theorem pluginImageLoad : Statement .pluginImageLoad := trivial

end Sys2Proof.Laws.LengthBit
end

