-- ==== Sys2Proof/Tests/Slice0.lean ====
section
/-!
SUPPORT. Tests: ill-formed terms, words of the encodings, one step of some instructions with results the spec gives, and for
every statement a state and operands that meet its hypotheses.
-/
set_option Elab.async false
set_option maxRecDepth 100000

namespace Sys2Proof.Tests
open Sys2Proof.Machine Sys2Proof.Claims

/-! ## States for the tests -/

/-- The site of a state meets `p`. -/
def holds (s : State) (p : Site → Bool) : Bool := match s.site? with | some x => p x | none => false

/-- The state with its site changed. -/
def alter (f : Site → Site) (s : State) : State := match s.site? with | some x => s.put (f x) | none => s

/-- The state with register `n` of the issuing chorus set. -/
def reg (n : Nat) (f : Nat → Word) (s : State) : State := alter (fun x => x.writeMask n 0xFFFFFFFF f) s

/-- The state with its issuing split changed, and with its chorus and its company changed. -/
def split (f : Split → Split) : State → State := alter (fun x => { x with sp := f x.sp })
def chorus (f : Chorus → Chorus) : State → State := alter (fun x => { x with ch := f x.ch })
def company (f : Company → Company) : State → State := alter (fun x => { x with co := f x.co })

/-- A company whose choruses start with every lane, their masks and rows written out. -/
def started (c : Company) : Company :=
  { c with choruses := c.choruses.map (fun (h : Chorus) => { h with
      populated := 0xFFFFFFFF, splits := [Split.root 0xFFFFFFFF c.playbill], house := List.replicate 16 (List.replicate 32 0) }) }

/-- The smallest company. -/
def plain : State := let s := State.reset.withCompany; { s with companies := s.companies.map started }

/-- The smallest company, with v5 to v8 holding the lane, four times the lane, whether the lane is odd, and 1. -/
def base : State :=
  reg 8 (fun _ => 1) (reg 7 (fun l => BitVec.ofNat 32 (l % 2)) (reg 6 (fun l => BitVec.ofNat 32 (4 * l))
    (reg 5 (fun l => BitVec.ofNat 32 l) plain)))

/-- A tile of 16 rows of 16 FP32 elements at a page of the stage. -/
def tileOf (page : Nat) (st : TileState) : Tile :=
  { score := 0, readers := 0, state := st, claim := false, format := 0xB, cols := 16, rows := 16, capacity := 4096, base := 4096 * page
    claimShape := none, drainAge := 2 }

/-- A record of rank 2 with a box of 16 by 16 FP32 elements. -/
def box : Record :=
  { base := 0x1000, extents := [64, 64, 1, 1, 1], strides := [4, 256, 0, 0, 0], box := [16, 16, 1, 1, 1], format := 0xB, rank := 2
    overlap := false, scaled := false, noscale := false, tile := 0, scaleHandle := 0 }

/-- Two pit regions of four blocks, the first shaped as 16 by 16. -/
def regionOf (b : Bool) (base : Nat) : Region := { shaped := b, cols := 1, rows := 1, capacity := 4, base := base }

/-- A playbill with eight tiles, two of each state, a handler, a pool extent and two regions. -/
def bill : Playbill :=
  { Playbill.least with
    codeLength := 256, handler := some 0x40, wellSize := 65536, localSize := 512, choruses := 2, stage := 65536, scoreSlots := 4
    pools := [(0x80, 4)], pit := [regionOf true 0, regionOf false 4]
    tiles := [tileOf 0 .empty, tileOf 1 .ready, tileOf 2 .draining, tileOf 3 .filling, tileOf 4 .empty, tileOf 5 .ready, tileOf 6 .draining, tileOf 7 .filling] }

/-- The firmware's context on stage with cluster 0, and the device with it (log 1). -/
def firmware : Context := { Context.firmware with state := .resident, onStage := true, partition := [0] }
def stage : State := (State.reset.modContext 0 (fun _ => firmware)).modCluster 0 (fun k => { k with owner := some 0, power := .on })

def richRun : Run := { Run.least with playbill := bill, window := 65536, windows := [(0, [])], pliMap := List.replicate 64 0 }

/-- A company of that playbill on core 0, with handle 0 bound, and the registers of `base`. -/
def rich : State :=
  let b : TroupeBarrier := { phase := 0, arrivals := [], arrived := [], counts := [], target := none }
  let s := stage
  let c := Company.start 1 richRun 0 0 0 0 0
  reg 8 (fun _ => 1) (reg 7 (fun l => BitVec.ofNat 32 (l % 2)) (reg 6 (fun l => BitVec.ofNat 32 (4 * l)) (reg 5 (fun l => BitVec.ofNat 32 l)
    { s with
      uid := 2, cur := { co := 1, ch := 0 }, runs := [richRun]
      troupes := [{ ctx := 0, run := 1, index := 0, cluster := 0, barriers := List.replicate 4 b, abandoned := false }]
      companies := [started { c with handles := updAt c.handles 0 (fun _ => some box) }] })))

/-! ## Meeting the hypotheses of the statements -/

def shapedB (h : Chorus) : Bool :=
  h.house.length == 16 && decide (32 ≤ h.ring.length) && decide (h.ring.length ≤ 240) && h.latches.length == 4 && h.cues.length == 8 &&
    h.timers.length == 4 && h.slots.length == 8 && h.counters.length == 8 && h.phases.length == 8

theorem shaped_of {h : Chorus} (e : shapedB h = true) : Shaped h := by
  simp only [shapedB, Bool.and_eq_true, beq_iff_eq, decide_eq_true_eq] at e
  obtain ⟨⟨⟨⟨⟨⟨⟨⟨a, b⟩, c⟩, d⟩, e⟩, f⟩, g⟩, i⟩, j⟩ := e
  exact ⟨a, ⟨b, c⟩, d, e, f, g, i, j⟩

def issuesB (i : Instr) (x : Site) : Bool :=
  shapedB x.ch && x.sp.wait == .none && ownCause x i == none && x.overflowRow (regsNamed x i) == none &&
    x.ch.resident (x.neededBy (regsNamed x i)) && x.loading i == [] && poisonedLane x i == none

theorem issues_of {i : Instr} {s : State} {x : Site} (hs : s.site? = some x) (e : issuesB i x = true) : Issues i s x := by
  simp only [issuesB, Bool.and_eq_true, beq_iff_eq] at e
  obtain ⟨⟨⟨⟨⟨⟨a, b⟩, c⟩, d⟩, e⟩, f⟩, g⟩ := e
  exact ⟨hs, shaped_of a, b, c, d, e, f, g⟩

/-- A state at whose site the instruction issues and a decidable property holds. -/
theorem meets {i : Instr} {s : State} {H : Site → Prop} [DecidablePred H] (e : holds s (fun x => issuesB i x && decide (H x)) = true) :
    ∃ x, Issues i s x ∧ H x := by
  unfold holds at e
  split at e
  · rename_i x hx
    rw [Bool.and_eq_true] at e
    exact ⟨x, issues_of hx e.1, of_decide_eq_true e.2⟩
  · cases e

/-- A state at whose site a decidable property holds. -/
theorem stands {s : State} {H : Site → Prop} [DecidablePred H] (e : holds s (fun x => decide (H x)) = true) : ∃ x, s.site? = some x ∧ H x := by
  unfold holds at e
  split at e
  · rename_i x hx
    exact ⟨x, hx, of_decide_eq_true e⟩
  · cases e

theorem free_iff (x : Site) (space size : Nat) (as : List (Nat × Nat)) :
    Free x space size as ↔ x.active ≠ 0 ∧ x.ch.inflight.length < 64 ∧ ∀ t, t ∈ x.ch.tagsFor (spans space size as) → x.ch.count t < 255 :=
  ⟨fun h => ⟨h.1, h.2, h.3⟩, fun h => ⟨h.1, h.2.1, h.2.2⟩⟩

def quietB (c : Company) : Bool := decide
  (c.choruses.Pairwise (fun g h => g.index ≠ h.index) ∧ ∀ h, h ∈ c.choruses → h.halted ≠ none ∨ h.ended = true ∨
    (((∀ p, p ∈ h.splits → p.members ≠ 0) ∧ h.splits.Pairwise (fun p q => p.members &&& q.members = 0)) ∧
      (∀ p, p ∈ h.splits → p.wait = .none ∨ (p.wait = .join ∧ p.state = .arrived)) ∧ ∃ p, p ∈ h.splits ∧ p.state = .running))

theorem quiet_iff (c : Company) : QuietCompany c ↔ quietB c = true := by
  rw [quietB, decide_eq_true_iff]; exact Iff.rfl

def quietTroupeB (s : State) (c : Company) : Bool := decide (s.companies.Pairwise (fun d e => d.uid ≠ e.uid)) &&
  s.companies.all (fun d => !(d.ctx == c.ctx && d.run == c.run && d.troupe == c.troupe) || quietB d)

theorem troupe_iff (s : State) (c : Company) : QuietTroupe s c ↔ quietTroupeB s c = true := by
  simp only [quietTroupeB, Bool.and_eq_true, decide_eq_true_eq, List.all_eq_true, Bool.or_eq_true, ← quiet_iff, Bool.not_eq_true',
    Bool.and_eq_false_imp, beq_iff_eq, QuietTroupe]
  refine and_congr Iff.rfl (forall_congr' fun d => forall_congr' fun _ => ⟨fun h => ?_, fun h a b c => ?_⟩)
  · by_cases a : d.ctx = c.ctx ∧ d.run = c.run ∧ d.troupe = c.troupe
    · exact .inr (h a.1 a.2.1 a.2.2)
    · exact .inl (fun e => by simp only [beq_eq_false_iff_ne]; exact fun g => a ⟨e.1, e.2, g⟩)
  · rcases h with h | h
    · have := h ⟨a, b⟩
      simp [c] at this
    · exact h

theorem apart_iff (h : Chorus) :
    Apart h ↔ (∀ p, p ∈ h.splits → p.members ≠ 0) ∧ h.splits.Pairwise (fun p q => p.members &&& q.members = 0) := Iff.rfl

theorem settled_iff (h : Chorus) :
    Settled h ↔ mergeReady h.splits = none ∧ ∀ p, p ∈ h.splits → p.members &&& ~~~h.exited ≠ 0 ∨ p.isArrived = true := Iff.rfl

theorem window_iff (s : State) (c : Company) (W : Nat) (m : Memory) : HasWindow s c W m ↔ s.windowSize c = W ∧ s.window? c = some m :=
  ⟨fun h => ⟨h.1, h.2⟩, fun h => ⟨h.1, h.2⟩⟩

/-! ## The lane instructions (R70 to R114): each issues on the smallest company, where no error of the hardware stands -/

def integerSamples : List Instr :=
  [.add 0 0 5 6 17, .sub 0 0 5 6 17, .adds 0 0 5 6 17, .subs 0 0 5 6 17, .mul 0 0 5 6 17, .mulhs 0 0 5 6 17, .mulhu 0 0 5 6 17, .mad 0 0 5 6 17,
   .min 0 0 5 6 17, .max 0 0 5 6 17, .minu 0 0 5 6 17, .maxu 0 0 5 6 17, .and 0 0 5 6 17, .or 0 0 5 6 17, .xor 0 0 5 6 17, .andn 0 0 5 6 17,
   .shl 0 0 5 6 17, .shr 0 0 5 6 17, .sar 0 0 5 6 17, .rot 0 0 5 6 17, .cmpeq 0 0 5 6 17, .cmpne 0 0 5 6 17, .cmplt 0 0 5 6 17, .cmple 0 0 5 6 17,
   .cmpltu 0 0 5 6 17, .cmpleu 0 0 5 6 17, .tst 0 0 5 6 17, .absd 0 0 5 6 17, .sel 0 0 5 6 17, .bfx 0 0 5 6 17, .bfi 0 0 5 6 17, .lea 0 0 5 6 17,
   .popc 0 0 6 17, .clz 0 0 6 17, .ctz 0 0 6 17, .brev 0 0 6 17, .divs 0 0 5 6 17, .divu 0 0 5 6 17, .rems 0 0 5 6 17, .remu 0 0 5 6 17,
   .mov 0 0 6 17, .zxb 0 0 6 17, .sxb 0 0 6 17, .sxh 0 0 6 17, .zxh 0 0 6 17, .pack 0 0 5 6 17, .bsw 0 0 6 17, .addi 0 0 511 6 17]

def immediateSamples : List Instr :=
  [.andi 0 0 1 6 17, .ori 0 0 1 6 17, .xori 0 0 1 6 17, .shli 0 0 31 6 17, .shri 0 0 31 6 17, .sari 0 0 31 6 17, .cmpeqi 0 0 1 6 17,
   .cmplti 0 0 1 6 17, .cmpltui 0 0 1 6 17, .muli 0 0 1 6 17, .ldp 0 6 17, .movi 0 0 65535 17, .movh 0 0 65535 17, .lit 0 17,
   .shfl 0 0 5 6 17, .shup 0 0 5 6 17, .shdn 0 0 5 6 17, .shxor 0 0 5 6 17, .vany 0 0 6 17, .vall 0 0 6 17, .ballot 0 0 6 17, .leader 0 0 6 17,
   .redadd 0 0 6 17, .redmin 0 0 6 17, .redmax 0 0 6 17, .redminu 0 0 6 17, .scan 0 0 6 17, .rank 0 0 6 17, .matchLanes 0 0 6 17]

def floatSamples : List Instr :=
  [.fadd 0 0 5 6 17, .fsub 0 0 5 6 17, .fmul 0 0 5 6 17, .fdiv 0 0 5 6 17, .fma 0 0 5 6 17, .fms 0 0 5 6 17, .fnma 0 0 5 6 17, .fnms 0 0 5 6 17,
   .fmin 0 0 5 6 17, .fmax 0 0 5 6 17, .fminnum 0 0 5 6 17, .fmaxnum 0 0 5 6 17, .fcmpeq 0 0 5 6 17, .fcmplt 0 0 5 6 17, .fcmple 0 0 5 6 17,
   .fcmpun 0 0 5 6 17, .frcp 0 0 6 17, .frsq 0 0 6 17, .fsqrt 0 0 6 17, .fclass 0 0 6 17, .fexp2 0 0 6 17, .flog2 0 0 6 17, .fsinpi 0 0 6 17,
   .fcospi 0 0 6 17, .frnd 0 0 3 6 17, .hadd2 0 0 5 6 17, .hmul2 0 0 5 6 17, .hfma2 0 0 5 6 17, .bfma2 0 0 5 6 17, .cvt 0 0 0 0 6 17,
   .cvtsr 0 0 0 5 6 17, .dp4 0 0 5 6 17, .dp4u 0 0 5 6 17, .scl 0 0 5 6 17, .pk8 0 0 5 6 17, .upk 0 0 5 6 17, .mxs 0 0 6 17]

def shortSamples : List Instr :=
  [.mov16 6 17, .add16 6 17, .sub16 6 17, .and16 6 17, .or16 6 17, .xor16 6 17, .shl16 6 17, .shr16 6 17, .sar16 6 17, .mul16 6 17, .min16 6 17,
   .max16 6 17, .fadd16 6 17, .fsub16 6 17, .fmul16 6 17, .addi16 63 17]

/-- One instruction of every form of a lane operation, with a write-back. -/
def laneSamples : List Instr := integerSamples ++ (immediateSamples ++ (floatSamples ++ shortSamples))

/-- The smallest company with errors of the hardware in the next checked results. -/
def upset (f : Nat → Word) : State := chorus (fun h => { h with upset := Lanes.ofFn f }) plain

theorem witness_lane_operations : ∀ i, i ∈ laneSamples → holds plain (fun x => issuesB i x && x.ch.upset == Lanes.zero) = true := by
  decide +kernel

/-- The hypotheses of a lane operation, for any of the samples. -/
theorem witness_LaneEffect {i : Instr} (h : i ∈ laneSamples) : ∃ x, Issues i plain x ∧ x.ch.upset = Lanes.zero := by
  have e := witness_lane_operations i h
  unfold holds at e
  split at e
  · rename_i x hx
    rw [Bool.and_eq_true, beq_iff_eq] at e
    exact ⟨x, issues_of hx e.1, e.2⟩
  · cases e

/-- The dot products of formats of 4 and of 16 bits issue under their `fmt` (R96). -/
theorem witness_dp8 : ∃ x, Issues (.dp8 0 0 5 6 17) (split (fun p => { p with fmt := 0x88 }) plain) x ∧ x.ch.upset = Lanes.zero :=
  meets (by decide +kernel)
theorem witness_dp2 : ∃ x, Issues (.dp2 0 0 5 6 17) (split (fun p => { p with fmt := 0x99 }) plain) x ∧ x.ch.upset = Lanes.zero :=
  meets (by decide +kernel)

/-- nw set, and a member of a chain, at v0 and at the last register (R21, R44). -/
theorem witness_no_writeback : ∃ x, Issues (.add 0 1 5 6 47) plain x ∧ x.ch.upset = Lanes.zero := meets (by decide +kernel)
theorem witness_chain_member : ∃ x, Issues (.add 1 0 5 6 0) plain x ∧ (x.ch.upset = Lanes.zero ∧ chBit (.add 1 0 5 6 0) = true ∧
    x.member (.add 1 0 5 6 0) = some 0) := meets (by decide +kernel)

/-- A result of lane 3 that mismatches in its sign, and one that differs in its last bit alone (R347). -/
theorem witness_UnderstudyMismatchHalts :
    (∃ x, Issues (.fadd 0 0 5 6 17) (upset (fun l => if l = 3 then 0x80000000 else 0)) x ∧ (3 ∈ activeLanes x ∧
      (0x3F800000 : Word).getLsbD 31 ≠ (0x3F800000 ^^^ x.ch.upset.at 3 : Word).getLsbD 31 ∧ ∀ m, m ∈ activeLanes x → m < 3 → x.ch.upset.at m = 0)) ∧
    ∃ x, Issues (.fmul 0 0 5 6 17) (upset (fun l => if l = 3 then 1 else 0)) x ∧ (x.ch.upset.at 3 = 1 ∧ ∀ l, l < 32 → l ≠ 3 → x.ch.upset.at l = 0) :=
  ⟨meets (by decide +kernel), meets (by decide +kernel)⟩

/-! ## Special operands (R60, R61, R102, R107, R110) -/

theorem witness_FloatFunctionSpecials : nanCode 0x7FC00001 = true ∧ (nanCode 0xBF800000 = false ∧ zeroCode 0xBF800000 = false ∧
    (0xBF800000 : Word).getLsbD 31 = true) := by decide +kernel

theorem witness_RoundingPicksTheNeighbourOfItsMode : ∃ q x, valQ (e2m1.value e2m1.maxCode) = some q ∧ valQ (.fin true 3 (-1)) = some x ∧ |x| ≤ q := by
  refine ⟨6, -3 / 2, ?_, ?_, ?_⟩
  · have e : e2m1.value e2m1.maxCode = .fin false 3 1 := by decide +kernel
    rw [e]; norm_num [valQ]
  · norm_num [valQ]
  · norm_num [abs_of_neg]

theorem witness_RoundingSpecials : ∃ q, valQ (e2m1.value e2m1.maxCode) = some q ∧ 2 * q ≤ ((3 : Nat) : ℚ) * (2 : ℚ) ^ (2 : Int) := by
  refine ⟨6, ?_, ?_⟩
  · have e : e2m1.value e2m1.maxCode = .fin false 3 1 := by decide +kernel
    rw [e]; norm_num [valQ]
  · norm_num

theorem witness_ExactArithmeticSpecials :
    (Val.nan ∈ [Val.nan, .fin false 1 0]) ∧ (Val.inf true ∈ [Val.inf true, .inf false] ∧ Val.inf false ∈ [Val.inf true, .inf false]) ∧
    (Val.nan ∉ [Val.inf true, .fin false 1 0] ∧ Val.inf true ∈ [Val.inf true, .fin false 1 0] ∧ Val.inf (!true) ∉ [Val.inf true, .fin false 1 0]) ∧
    (∀ t, t ∈ [Val.fin true 0 3, .fin true 0 (-2)] → ∃ e, t = .fin true 0 e) ∧ (∀ t, t ∈ [Val.fin true 1 0, .fin false 3 (-1)] → valQ t ≠ none) := by
  refine ⟨by decide, by decide, by decide, ?_, ?_⟩
  · intro t h
    fin_cases h
    · exact ⟨3, rfl⟩
    · exact ⟨-2, rfl⟩
  · intro t h
    fin_cases h <;> simp [valQ]

/-- FP32 to itself, a number and a NaN; INT32 to INT4; INT8 by INT8. -/
theorem witness_ConversionAndDotProductLaws :
    (cvtSource 0 = cvtDest 0 ∧ (cvtValue 0 0x3F800000).isNan = false ∧ cvtDest 0 = .flt fp32) ∧
    (cvtDest 0 = .flt fp32 ∧ (cvtValue 0 0xFFFFFFFF).isNan = true) ∧
    (cvtDest 0x1C = .int int4 ∧ cvtSource 0x1C = .int int32) ∧ (codeIsInt (fmtA 0x66) = true ∧ codeIsInt (fmtB 0x66) = true) :=
  ⟨⟨rfl, by decide +kernel, rfl⟩, ⟨rfl, by decide +kernel⟩, ⟨rfl, rfl⟩, by decide +kernel⟩

/-! ## Accesses to the stage, tiles, the cistern and the well (R137, R162 to R173, R224 to R226) -/

/-- The last 32 units of `k` bytes below 65536 in v6, one a lane. -/
def atEnd (k : Nat) : State := reg 6 (fun l => BitVec.ofNat 32 (65536 - (32 - l) * k)) rich

def loadSamples : List (Instr × Nat) := [(.ldSb 0 0 6 17, 1), (.ldSh 0 0 6 17, 2), (.ldSw 0 0 6 17, 4), (.ldSq 0 0 6 11, 16), (.ldSa 0 0 6 17, 4)]
def storeSamples : List (Instr × Nat) := [(.stSb 0 0 6 5, 1), (.stSh 0 0 6 5, 2), (.stSw 0 0 6 5, 4), (.stSq 0 0 6 1, 16), (.stSr 0 0 6 5, 4)]

theorem witness_StageLoadResults : ∀ p, p ∈ loadSamples → ∃ x, Issues p.1 (atEnd p.2) x ∧
    (Free x 2 p.2 (laneAddrs x 6 (offM 0 p.2)) ∧ (∀ a, a ∈ laneAddrs x 6 (offM 0 p.2) → a.2 % p.2 = 0 ∧ a.2 + p.2 ≤ x.co.playbill.stage) ∧
      ∀ a, a ∈ laneAddrs x 6 (offM 0 p.2) → poisoned x.co.stagePoison a.2 p.2 = false) := by
  have e : ∀ p, p ∈ loadSamples → holds (atEnd p.2) (fun x => issuesB p.1 x && decide
      ((x.active ≠ 0 ∧ x.ch.inflight.length < 64 ∧ ∀ t, t ∈ x.ch.tagsFor (spans 2 p.2 (laneAddrs x 6 (offM 0 p.2))) → x.ch.count t < 255) ∧
      (∀ a, a ∈ laneAddrs x 6 (offM 0 p.2) → a.2 % p.2 = 0 ∧ a.2 + p.2 ≤ x.co.playbill.stage) ∧
      ∀ a, a ∈ laneAddrs x 6 (offM 0 p.2) → poisoned x.co.stagePoison a.2 p.2 = false)) = true := by decide +kernel
  simp only [free_iff]
  exact fun p h => meets (e p h)

theorem witness_StageStoreResults : ∀ p, p ∈ storeSamples → ∃ x, Issues p.1 (atEnd p.2) x ∧
    (Free x 2 p.2 (laneAddrs x 6 (offM 0 p.2)) ∧ (∀ a, a ∈ laneAddrs x 6 (offM 0 p.2) → a.2 % p.2 = 0 ∧ a.2 + p.2 ≤ x.co.playbill.stage) ∧
      x.co.stage.wf = true ∧ QuietCompany x.co) := by
  have e : ∀ p, p ∈ storeSamples → holds (atEnd p.2) (fun x => issuesB p.1 x && decide
      ((x.active ≠ 0 ∧ x.ch.inflight.length < 64 ∧ ∀ t, t ∈ x.ch.tagsFor (spans 2 p.2 (laneAddrs x 6 (offM 0 p.2))) → x.ch.count t < 255) ∧
      (∀ a, a ∈ laneAddrs x 6 (offM 0 p.2) → a.2 % p.2 = 0 ∧ a.2 + p.2 ≤ x.co.playbill.stage) ∧
      x.co.stage.wf = true ∧ quietB x.co = true)) = true := by decide +kernel
  simp only [free_iff, quiet_iff]
  exact fun p h => meets (e p h)

theorem witness_StageAtomics : ∀ q : BitVec 2, ∃ x, Issues (.atomS q 0 5 6 17) rich x ∧
    (Free x 2 4 (laneAddrs x 6 0) ∧ (∀ e, e ∈ laneAddrs x 6 0 → e.2 % 4 = 0 ∧ e.2 + 4 ≤ x.co.playbill.stage) ∧
      (∀ e, e ∈ laneAddrs x 6 0 → poisoned x.co.stagePoison e.2 4 = false) ∧ QuietCompany x.co) := by
  have e : ∀ q : BitVec 2, holds rich (fun x => issuesB (.atomS q 0 5 6 17) x && decide
      ((x.active ≠ 0 ∧ x.ch.inflight.length < 64 ∧ ∀ t, t ∈ x.ch.tagsFor (spans 2 4 (laneAddrs x 6 0)) → x.ch.count t < 255) ∧
      (∀ e, e ∈ laneAddrs x 6 0 → e.2 % 4 = 0 ∧ e.2 + 4 ≤ x.co.playbill.stage) ∧
      (∀ e, e ∈ laneAddrs x 6 0 → poisoned x.co.stagePoison e.2 4 = false) ∧ quietB x.co = true)) = true := by decide +kernel
  simp only [free_iff, quiet_iff]
  exact fun q => meets (e q)

theorem ready_iff (x : Site) (t : BitVec 8) (tl : Tile) (k : BitVec 4) (v : BitVec 6) (size : Nat) : TileReady x t tl k v size ↔
    x.co.tiles[t.toNat]? = some tl ∧ tl.state = .ready ∧ tl.readers < 255 ∧
      ∀ l, l ∈ activeLanes x → ((x.reg v.toNat l).toNat + k.toNat + 1) * size ≤ tl.rows * pitch tl.cols (formatBits tl.format) :=
  ⟨fun h => ⟨h.1, h.2, h.3, h.4⟩, fun h => ⟨h.1, h.2.1, h.2.2.1, h.2.2.2⟩⟩

/-- The last units of a ready tile of 16 by 16 words. -/
theorem witness_TileAccessResults :
    (∃ x, Issues (.ldT 3 5 1 17) (reg 5 (fun l => BitVec.ofNat 32 (221 + l)) rich) x ∧
      (TileReady x 1 (tileOf 1 .ready) 3 5 4 ∧ Free x 2 4 (unitAddrs x (tileOf 1 .ready) 3 5 4) ∧
        (∀ a, a ∈ unitAddrs x (tileOf 1 .ready) 3 5 4 → poisoned x.co.stagePoison a.2 4 = false) ∧ x.co.stage.wf = true)) ∧
    (∃ x, Issues (.stTq 0 5 1 2) (reg 5 (fun l => BitVec.ofNat 32 (32 + l)) rich) x ∧
      (TileReady x 1 (tileOf 1 .ready) 0 5 16 ∧ Free x 2 16 (unitAddrs x (tileOf 1 .ready) 0 5 16) ∧
        (∀ a, a ∈ unitAddrs x (tileOf 1 .ready) 0 5 16 → poisoned x.co.stagePoison a.2 16 = false) ∧ x.co.stage.wf = true)) := by
  simp only [free_iff, ready_iff]
  exact ⟨meets (by decide +kernel), meets (by decide +kernel)⟩

/-- The contents of the window of `rich`, and the last word of it. -/
theorem witness_CisternAccessResults :
    (∃ x, Issues (.ldCw 0 0 6 17) (atEnd 4) x ∧ (HasWindow (atEnd 4) x.co 65536 [] ∧ Free x 1 4 (laneAddrs x 6 (offM 0 4)) ∧
      (∀ a, a ∈ laneAddrs x 6 (offM 0 4) → a.2 % 4 = 0 ∧ a.2 + 4 ≤ 65536) ∧
      (∀ a, a ∈ laneAddrs x 6 (offM 0 4) → poisoned ((atEnd 4).windowMarks x.co) a.2 4 = false) ∧ Memory.wf [] = true)) ∧
    (∃ x, Issues (.stCq 0 0 6 2) (atEnd 16) x ∧ (HasWindow (atEnd 16) x.co 65536 [] ∧ Free x 1 16 (laneAddrs x 6 (offM 0 16)) ∧
      (∀ a, a ∈ laneAddrs x 6 (offM 0 16) → a.2 % 16 = 0 ∧ a.2 + 16 ≤ 65536))) ∧
    (∃ x, Issues (.atomC 3 0 5 6 17) rich x ∧ (HasWindow rich x.co 65536 [] ∧ Free x 1 4 (laneAddrs x 6 0) ∧
      (∀ e, e ∈ laneAddrs x 6 0 → e.2 % 4 = 0 ∧ e.2 + 4 ≤ 65536) ∧ ∀ e, e ∈ laneAddrs x 6 0 → poisoned (rich.windowMarks x.co) e.2 4 = false)) := by
  simp only [free_iff, window_iff]
  exact ⟨meets (by decide +kernel), meets (by decide +kernel), meets (by decide +kernel)⟩

theorem witness_CisternAccessOutsideSwitchesLanesOff :
    ∃ x, Issues (.ldCw 0 0 6 17) (reg 6 (fun l => BitVec.ofNat 32 (65536 + 4 * l)) rich) x ∧
      (x.active ≠ 0 ∧ x.ch.inflight.length < 64 ∧ ∀ a, a ∈ laneAddrs x 6 (offM 0 4) → a.2 % 4 = 0 ∧
        (reg 6 (fun l => BitVec.ofNat 32 (65536 + 4 * l)) rich).windowSize x.co < a.2 + 4) := meets (by decide +kernel)

/-- `rich` with a translation of the low 4 GiB in the L1 TLB of its core. -/
def mapped : State := rich.setCore { rich.core 0 with tlb :=
  [{ ctx := 0, fn := 0, va := 0, size := 4294967296, pa := 0, swizzle := 0, r := true, w := true, x := true, sc := false, g := false
     tag := 0, gpa := 0, span := 4294967296, dirty := true }] }

/-- The places of an access, and what the translation leaves. -/
def wellVas (x : Site) : List (Nat × Nat) :=
  (laneAddrs x 6 (x.ch.wellp + offM 0 4)).map (fun a => (a.1, x.ch.wellBase.toNat + 0x200 + a.2))
def wellLocs (acc : Access) (s : State) (x : Site) : List (Nat × Nat × BitVec 16) :=
  match probe x.co.core x.co.ctx acc s [] (wellVas x) with | (.ok l, _) => l | _ => []
def wellState (acc : Access) (s : State) (x : Site) : State := (probe x.co.core x.co.ctx acc s [] (wellVas x)).2

theorem witness_WellAccessResults :
    (∃ x, Issues (.ldWl 0 0 6 17) mapped x ∧
      (Free x 0 4 (wellVas x) ∧ (∀ a, a ∈ laneAddrs x 6 (x.ch.wellp + offM 0 4) → a.2 % 4 = 0 ∧ a.2 + 4 ≤ x.co.playbill.localSize) ∧
      probe x.co.core x.co.ctx .read mapped [] (wellVas x) = (.ok (wellLocs .read mapped x), wellState .read mapped x) ∧
      ∀ a, a ∈ wellLocs .read mapped x → poisoned (wellState .read mapped x).memPoison a.2.1 4 = false ∧
        ((wellState .read mapped x).lineOf a.2.1).all (fun q => q.key == some x.co.ctx) = true)) ∧
    (∃ x, Issues (.stWl 0 0 6 5) mapped x ∧
      (Free x 0 4 (wellVas x) ∧ (∀ a, a ∈ laneAddrs x 6 (x.ch.wellp + offM 0 4) → a.2 % 4 = 0 ∧ a.2 + 4 ≤ x.co.playbill.localSize) ∧
      probe x.co.core x.co.ctx .write mapped [] (wellVas x) = (.ok (wellLocs .write mapped x), wellState .write mapped x) ∧
      (wellState .write mapped x).mem.wf = true ∧
      ∀ a, a ∈ wellLocs .write mapped x → ((wellState .write mapped x).lineOf a.2.1).all (fun q => q.key == some x.co.ctx) = true)) := by
  simp only [free_iff]
  exact ⟨meets (by decide +kernel), meets (by decide +kernel)⟩

/-! ## Control, windows and traps (R115 to R131, R137 to R141) -/

/-- No lane active. -/
def off (s : State) : State := split (fun p => { p with xm := 0 }) s

/-- The least row of the code image that a table of two targets takes: 16 bytes and 32 bytes on, or an odd one. -/
def tabled (second : Nat) : State :=
  company (fun c => { c with code := ((c.code.writeLE 8 4 2).writeLE 12 4 16).writeLE 16 4 second, playbill := { c.playbill with codeLength := 64 } }) rich

/-- Two splits of sixteen lanes, the first at its join PC 0, the other as `f` makes it. -/
def forked (f : Split → Split) : State :=
  chorus (fun h => { h with splits :=
    [{ Split.root 0x0000FFFF Playbill.least with joinPc := 0 }, f { Split.root 0xFFFF0000 Playbill.least with joinPc := 0, state := .ready }] })
    (split (fun p => { p with members := 0x0000FFFF, xm := 0x0000FFFF, joinPc := 0 }) rich)
def arrived (p : Split) : Split := { p with state := .arrived, wait := .join }

theorem witness_BranchResults :
    (∃ x, Issues (.bz 2 8) (off base) x ∧ x.active = 0) ∧
    (∃ x, Issues (.bz 2 8) base x ∧ (x.active ≠ 0 ∧ ∀ l, l ∈ activeLanes x → (if x.reg 8 l = 0 then jumpTo x 2#18 else nextPc x (.bz 2 8)) = 4)) ∧
    (∃ x, Issues (.bz 2 7) base x ∧ (Apart x.ch ∧ Settled x.ch ∧ 0 ∈ activeLanes x ∧ 31 ∈ activeLanes x ∧
      (if x.reg 7 0 = 0 then jumpTo x 0x3FFFE#18 else nextPc x (.bz 0x3FFFE 7)) ≠ (if x.reg 7 31 = 0 then jumpTo x 0x3FFFE#18 else nextPc x (.bz 0x3FFFE 7)))) ∧
    (∃ x, Issues (.bnz 2 7) base x ∧ (Apart x.ch ∧ Settled x.ch ∧ 0 ∈ activeLanes x ∧ 31 ∈ activeLanes x ∧
      (if x.reg 7 0 ≠ 0 then jumpTo x 8#18 else nextPc x (.bnz 8 7)) ≠ (if x.reg 7 31 ≠ 0 then jumpTo x 8#18 else nextPc x (.bnz 8 7)))) ∧
    ∃ x, Issues (.j 0xFFFFFF) base x ∧ True := by
  simp only [apart_iff, settled_iff]
  exact ⟨meets (by decide +kernel), meets (by decide +kernel), meets (by decide +kernel), meets (by decide +kernel), meets (by decide +kernel)⟩

theorem witness_JumpTableResults :
    (∃ x, Issues (.brt 4 5) (tabled 32) x ∧ ((∀ l, l ∈ activeLanes x → (tableNext (imageWord x.co) 4 5 x l).getLsbD 0 = false) ∧
      Apart x.ch ∧ Settled x.ch ∧ 1 ∈ activeLanes x ∧ 2 ∈ activeLanes x ∧ tableNext (imageWord x.co) 4 5 x 1 ≠ tableNext (imageWord x.co) 4 5 x 2)) ∧
    (∃ x, Issues (.brt 4 5) (tabled 33) x ∧ (1 ∈ activeLanes x ∧ (tableNext (imageWord x.co) 4 5 x 1).getLsbD 0 = true ∧ QuietTroupe (tabled 33) x.co ∧
      ∀ l, l ∈ activeLanes x → (tableNext (imageWord x.co) 4 5 x l).getLsbD 0 = true → (tableNext (imageWord x.co) 4 5 x 1).toNat ≤ (tableNext (imageWord x.co) 4 5 x l).toNat)) := by
  simp only [apart_iff, settled_iff, troupe_iff]
  exact ⟨meets (by decide +kernel), meets (by decide +kernel)⟩

theorem witness_JoinPointResults :
    (∃ x, Issues (.jpt 8) base x ∧ x.live ≠ 0) ∧ (∃ x, Issues .rcv base x ∧ x.sp.joinPc ≠ x.sp.pc) ∧
    (∃ x, Issues (.rcvT 8 17) base x ∧ x.sp.joinPc ≠ x.sp.pc) :=
  ⟨meets (by decide +kernel), meets (by decide +kernel), meets (by decide +kernel)⟩

theorem witness_ReconvergenceResults : ∀ i, (i = .rcv ∨ i = .rcvT 8 17) →
    (∃ x, Issues i (forked arrived) x ∧ (x.sp.joinPc = x.sp.pc ∧ x.sp.joinPc ≠ 0xFFFFFFFF ∧ Settled x.ch ∧ QuietTroupe (forked arrived) x.co ∧
      (∀ q, q ∈ siblings x → q.state = .arrived ∧ q.spilled = false) ∧ x.sp.spilled = false ∧ merged x ≠ 0 ∧ siblings x ≠ [])) ∧
    (∃ x, Issues i (forked id) x ∧ (x.sp.joinPc = x.sp.pc ∧ Settled x.ch ∧ QuietTroupe (forked id) x.co ∧
      ∃ q, q ∈ siblings x ∧ q.state ≠ .arrived ∧ q.members &&& ~~~x.ch.exited ≠ 0)) := by
  simp only [settled_iff, troupe_iff]
  rintro i (rfl | rfl)
  · exact ⟨meets (by decide +kernel), meets (by decide +kernel)⟩
  · exact ⟨meets (by decide +kernel), meets (by decide +kernel)⟩

theorem witness_ExitResults :
    (∃ x, Issues .exit (off base) x ∧ x.active = 0) ∧
    (∃ x, Issues .ret rich x ∧ (x.sp.depth = 0 ∧ x.active ≠ 0 ∧ Settled x.ch ∧ QuietTroupe rich x.co ∧ x.ch.splits = [x.sp] ∧
      x.sp.joinPc = 0xFFFFFFFF ∧ x.live = x.active)) := by
  simp only [settled_iff, troupe_iff]
  exact ⟨meets (by decide +kernel), meets (by decide +kernel)⟩

def fitsB (x : Site) (n : Nat) : Bool := decide (n = 0 ∨ (x.sp.wb + n + (x.sp.frame - n) ≤ rf x ∧ x.sp.depth ≠ 65535 ∧ (x.sp.frame - n) + 1 ≤ x.ch.ring.length))
theorem fits_iff (x : Site) (n : Nat) : CallFits x n ↔ fitsB x n = true := by rw [fitsB, decide_eq_true_iff]; exact Iff.rfl

/-- A split with a window of ten rows at row `wb` and a depth. -/
def called (wb depth : Nat) : State := split (fun p => { p with wb := wb, depth := depth, frame := 10 }) rich

theorem witness_CallResults :
    (∃ x, Issues (.call 8 0) rich x ∧ CallFits x (0 : BitVec 6).toNat) ∧
    (∃ x, Issues (.call 8 10) (called 0 0) x ∧ (CallFits x (10 : BitVec 6).toNat ∧ x.ch.resident (linkRow x 10, linkRow x 10 + 1) = true)) ∧
    (∃ x, Issues (.call 8 48) (called 0 0) x ∧ (CallFits x (48 : BitVec 6).toNat ∧ x.ch.resident (linkRow x 48, linkRow x 48 + 1) = false ∧ Apart x.ch)) ∧
    (∃ x, Issues (.callr 10 5) (off rich) x ∧ x.active = 0) ∧
    (∃ x, Issues (.callr 10 20) rich x ∧ (CallFits x (10 : BitVec 6).toNat ∧ x.active ≠ 0 ∧ ∀ l, l ∈ activeLanes x → x.reg 20 l = 0)) ∧
    (∃ x, Issues (.callr 10 6) rich x ∧ (CallFits x (10 : BitVec 6).toNat ∧ Apart x.ch ∧ Settled x.ch ∧
      x.ch.resident (linkRow x 10, linkRow x 10 + 1) = true ∧ (∀ l, l ∈ activeLanes x → (x.reg 6 l).getLsbD 0 = false) ∧
      0 ∈ activeLanes x ∧ 31 ∈ activeLanes x ∧ x.reg 6 0 ≠ x.reg 6 31)) ∧
    (∃ x, Issues (.callr 10 5) rich x ∧ (1 ∈ activeLanes x ∧ (x.reg 5 1).getLsbD 0 = true ∧ QuietTroupe rich x.co ∧
      ∀ l, l ∈ activeLanes x → (x.reg 5 l).getLsbD 0 = true → (x.reg 5 1).toNat ≤ (x.reg 5 l).toNat)) := by
  simp only [apart_iff, settled_iff, troupe_iff, fits_iff]
  exact ⟨meets (by decide +kernel), meets (by decide +kernel), meets (by decide +kernel), meets (by decide +kernel), meets (by decide +kernel),
    meets (by decide +kernel), meets (by decide +kernel)⟩

/-- A well of 8 rows of frames. -/
def smallWell : State := company (fun c => { c with playbill := { c.playbill with wellSize := 2048, localSize := 512 } }) rich
/-- A window of 32 rows at row `wb`. -/
def wide (depth : Nat) : State := split (fun p => { p with frame := 32, depth := depth }) rich

theorem witness_AllocAndOverflowResults :
    (∃ x, Issues (.alloc 31) (called 1 1) x ∧ (x.sp.wb + 31 ≤ rf x ∧ 31 + 1 ≤ x.ch.ring.length ∧ x.sp.depth ≠ 0 ∧
      x.ch.resident (x.sp.wb - 1, x.sp.wb + 31) = true)) ∧
    (∃ x, Issues (.alloc 32) (called 22 0) x ∧ (x.sp.wb + 32 ≤ rf x ∧ x.sp.depth = 0 ∧ 32 ≤ x.ch.ring.length ∧
      x.ch.resident (x.sp.wb, x.sp.wb + 32) = false ∧ Apart x.ch)) ∧
    (∃ x, Issues (.alloc 9) smallWell x ∧ (rf x < x.sp.wb + 9 ∧ QuietTroupe smallWell x.co)) ∧
    (∃ x, Issues (.alloc 33) rich x ∧ (x.sp.wb + 33 ≤ rf x ∧ x.ch.ring.length < 33 + (if x.sp.depth = 0 then 0 else 1) ∧ QuietTroupe rich x.co)) ∧
    (∃ x, Issues (.call 8 9) smallWell x ∧ (rf x < x.sp.wb + 9 + (x.sp.frame - 9) ∧ QuietTroupe smallWell x.co)) ∧
    (∃ x, Issues (.call 8 1) (called 1 65535) x ∧ (x.sp.wb + 1 + (x.sp.frame - 1) ≤ rf x ∧ x.sp.depth = 65535 ∧ QuietTroupe (called 1 65535) x.co)) := by
  simp only [apart_iff, troupe_iff]
  exact ⟨meets (by decide +kernel), meets (by decide +kernel), meets (by decide +kernel), meets (by decide +kernel), meets (by decide +kernel),
    meets (by decide +kernel)⟩

/-- A split at depth 1 whose link row holds `f` in the lanes. -/
def linked (f : Nat → Nat) : State :=
  chorus (fun h => { h with ring := updAt h.ring 0 (fun _ => Lanes.ofFn (fun l => BitVec.ofNat 32 (f l))) })
    (split (fun p => { p with wb := 1, depth := 1, frame := 10 }) rich)

theorem witness_ReturnResults :
    (∃ x, Issues .ret (linked (fun _ => 0x04000010)) x ∧ (x.sp.depth ≠ 0 ∧ x.live ≠ 0 ∧ (∀ l, l ∈ liveLanes x → linkOf x l = 0x04000010) ∧
      ¬ (slide 0x04000010 = 0 ∨ x.sp.wb < slide 0x04000010 ∨ (0x04000010 : Word).getLsbD 0 = true) ∧
      ∀ l, l ∈ liveLanes x → (16 + (x.sp.wb - 1) % x.ch.ring.length, l / 8) ∉ x.ch.poison)) ∧
    (∃ x, Issues .ret (linked (fun l => 0x04000000 + 4 * l)) x ∧ (x.sp.depth ≠ 0 ∧ Apart x.ch ∧ Settled x.ch ∧ 0 ∈ liveLanes x ∧ 31 ∈ liveLanes x ∧
      linkOf x 0 ≠ linkOf x 31 ∧
      (∀ l, l ∈ liveLanes x → ¬ (slide (linkOf x l) = 0 ∨ x.sp.wb < slide (linkOf x l) ∨ (linkOf x l).getLsbD 0 = true)) ∧
      ∀ l, l ∈ liveLanes x → (16 + (x.sp.wb - 1) % x.ch.ring.length, l / 8) ∉ x.ch.poison)) ∧
    (∃ x, Issues .ret (linked (fun l => 0x04000000 + l)) x ∧ (x.sp.depth ≠ 0 ∧ 1 ∈ liveLanes x ∧ QuietTroupe (linked (fun l => 0x04000000 + l)) x.co ∧
      (slide (linkOf x 1) = 0 ∨ x.sp.wb < slide (linkOf x 1) ∨ (linkOf x 1).getLsbD 0 = true) ∧
      (∀ m, m ∈ liveLanes x → m < 1 → ¬ (slide (linkOf x m) = 0 ∨ x.sp.wb < slide (linkOf x m) ∨ (linkOf x m).getLsbD 0 = true)) ∧
      ∀ m, m ∈ liveLanes x → (16 + (x.sp.wb - 1) % x.ch.ring.length, m / 8) ∉ x.ch.poison)) := by
  simp only [apart_iff, settled_iff, troupe_iff]
  exact ⟨meets (by decide +kernel), meets (by decide +kernel), meets (by decide +kernel)⟩

theorem witness_TrapInstructionResults :
    (∃ x, Issues (.trap 0x3FFF) rich x ∧ QuietTroupe rich x.co) ∧ (∃ x, Issues (.brk 0x3FFF) rich x ∧ QuietTroupe rich x.co) ∧
    (∃ x, (split (fun p => { p with pc := 0x7C }) rich).site? = some x ∧ (x.co.playbill.pools[0]? = some (0x80, 4) ∧ x.sp.pc.toNat + 4 = 0x80)) ∧
    (∃ x, rich.site? = some x ∧ (QuietTroupe rich x.co ∧ ∀ e, e ∈ x.co.playbill.pools → e.1 ≠ x.sp.pc.toNat + 4)) ∧
    (chOnLoadLiteral 0x00000003 = false ∧ ∃ w : Word, w.toNat % 256 = 0xA1 ∧ chOnLoadLiteral w = false) ∧ ∃ x, Issues (.nop 0) rich x ∧ True := by
  simp only [troupe_iff]
  exact ⟨meets (by decide +kernel), meets (by decide +kernel), stands (by decide +kernel), stands (by decide +kernel),
    ⟨by decide +kernel, 0xA1, by decide +kernel⟩, meets (by decide +kernel)⟩

/-- Inside a handler, with an `epc`. -/
def handling (pc : Word) : State := chorus (fun h => { h with handler := true, epc := pc }) rich

theorem witness_ReturnFromTrapResults :
    (∃ x, Issues .rtt (handling 0x20) x ∧ (x.ch.handler = true ∧ x.ch.epc.getLsbD 0 = false)) ∧
    (∃ x, Issues .rtt rich x ∧ (x.ch.handler = false ∧ QuietTroupe rich x.co)) ∧
    (∃ x, Issues .rtt (handling 0x21) x ∧ (x.ch.handler = true ∧ x.ch.epc.getLsbD 0 = true ∧ QuietTroupe (handling 0x21) x.co)) := by
  simp only [troupe_iff]
  exact ⟨meets (by decide +kernel), meets (by decide +kernel), meets (by decide +kernel)⟩

/-- A guest's company. -/
def guest : State := company (fun c => { c with ctx := 5 }) rich
/-- Rows 0 to 9 resident. -/
def fewRows : State := chorus (fun h => { h with high := 10 }) rich
/-- A mark of poison on v5. -/
def marked : State := chorus (fun h => { h with poison := [(5, 1)] }) rich

theorem witness_DecodeTimeCausesComeFirst :
    (∃ x, rich.site? = some x ∧ (fieldsLegal (.call 8 49) = false ∧ (∀ k, Instr.call 8 49 ≠ .pool k) ∧ chFormWord (.call 8 49) = false ∧
      ownCause x (.call 8 49) = some (0x01, (encode (.call 8 49)).word) ∧ QuietTroupe rich x.co)) ∧
    (∃ x, guest.site? = some x ∧ (firmwareOnly (.rdstg 0 17) = true ∧ fieldsLegal (.rdstg 0 17) = true ∧ fmtLegal x.sp.fmt (.rdstg 0 17) = true ∧ x.co.ctx ≠ 0)) ∧
    (∃ x, rich.site? = some x ∧ (latchReads (.mov 0 0 0x40 17) ≠ [] ∧ fieldsLegal (.mov 0 0 0x40 17) = true ∧ fmtLegal x.sp.fmt (.mov 0 0 0x40 17) = true ∧
      firmwareOnly (.mov 0 0 0x40 17) = false ∧ x.ch.chain = none)) ∧
    (∃ x, (wide 1).site? = some x ∧ (ownCause x (.mov 0 0 47 47) = none ∧ x.overflowRow (regsNamed x (.mov 0 0 47 48)) = some 32)) ∧
    (∃ x, fewRows.site? = some x ∧ (ownCause x (.mov 0 0 27 27) = none ∧ x.overflowRow (regsNamed x (.mov 0 0 27 27)) = none ∧
      x.ch.resident (x.neededBy (regsNamed x (.mov 0 0 27 27))) = false ∧ Apart x.ch)) ∧
    (∃ x, marked.site? = some x ∧ (ownCause x (.mov 0 0 5 17) = none ∧ x.overflowRow (regsNamed x (.mov 0 0 5 17)) = none ∧
      x.ch.resident (x.neededBy (regsNamed x (.mov 0 0 5 17))) = true ∧ poisonedLane x (.mov 0 0 5 17) = some 8)) := by
  simp only [apart_iff, troupe_iff]
  refine ⟨?_, stands (by decide +kernel), stands (by decide +kernel), stands (by decide +kernel), stands (by decide +kernel), stands (by decide +kernel)⟩
  have e : ∃ x, rich.site? = some x ∧ (ownCause x (.call 8 49) = some (0x01, (encode (.call 8 49)).word) ∧ quietTroupeB rich x.co = true) :=
    stands (by decide +kernel)
  obtain ⟨x, hx, hc, hq⟩ := e
  exact ⟨x, hx, by decide +kernel, fun k => by simp, by decide +kernel, hc, hq⟩

/-- v6 holds four times the lane plus a byte in lane 3, or ends beyond the stage, or beyond the local area. -/
def skewed : State := reg 6 (fun l => BitVec.ofNat 32 (4 * l + if l = 3 then 1 else 0)) rich
def beyond (n : Nat) : State := reg 6 (fun l => BitVec.ofNat 32 (n - 12 + 4 * l)) rich

theorem witness_AccessTraps :
    (∃ x, Issues (.ldSw 0 0 6 17) skewed x ∧ (x.ch.inflight.length < 64 ∧ (3, 13) ∈ laneAddrs x 6 (offM 0 4) ∧
      (∀ e, e ∈ laneAddrs x 6 (offM 0 4) → e.1 < 3 → e.2 % 4 = 0) ∧ QuietTroupe skewed x.co)) ∧
    (∃ x, Issues (.stSw 0 0 6 5) (beyond 65536) x ∧ (x.ch.inflight.length < 64 ∧ (3, 65536) ∈ laneAddrs x 6 (offM 0 4) ∧
      (∀ e, e ∈ laneAddrs x 6 (offM 0 4) → e.2 % 4 = 0) ∧ (∀ e, e ∈ laneAddrs x 6 (offM 0 4) → e.1 < 3 → e.2 + 4 ≤ x.co.playbill.stage) ∧
      x.co.playbill.stage < 65536 + 4 ∧ QuietTroupe (beyond 65536) x.co)) ∧
    (∃ x, Issues (.ldCw 0 0 6 17) skewed x ∧ (x.ch.inflight.length < 64 ∧ (3, 13) ∈ laneAddrs x 6 (offM 0 4) ∧
      (∀ e, e ∈ laneAddrs x 6 (offM 0 4) → e.1 < 3 → e.2 % 4 = 0))) ∧
    (∃ x, Issues (.ldWl 0 0 6 17) skewed x ∧ (x.ch.inflight.length < 64 ∧ (3, 13) ∈ laneAddrs x 6 (x.ch.wellp + offM 0 4) ∧
      (∀ e, e ∈ laneAddrs x 6 (x.ch.wellp + offM 0 4) → e.1 < 3 → e.2 % 4 = 0))) ∧
    (∃ x, Issues (.ldWl 0 0 6 17) (beyond 512) x ∧ (x.ch.inflight.length < 64 ∧ (3, 512) ∈ laneAddrs x 6 (x.ch.wellp + offM 0 4) ∧
      (∀ e, e ∈ laneAddrs x 6 (x.ch.wellp + offM 0 4) → e.2 % 4 = 0) ∧
      (∀ e, e ∈ laneAddrs x 6 (x.ch.wellp + offM 0 4) → e.1 < 3 → e.2 + 4 ≤ x.co.playbill.localSize) ∧ x.co.playbill.localSize < 512 + 4)) ∧
    (∃ x, Issues (.ldT 0 5 2 17) rich x ∧ (x.active ≠ 0 ∧ x.ch.inflight.length < 64 ∧ x.co.tiles[2]? = some (tileOf 2 .draining) ∧ QuietTroupe rich x.co)) ∧
    (∃ x, Issues (.stT 0 5 8 17) rich x ∧ (x.active ≠ 0 ∧ x.ch.inflight.length < 64 ∧ x.co.tiles[8]? = none ∧ QuietTroupe rich x.co)) := by
  simp only [troupe_iff]
  exact ⟨meets (by decide +kernel), meets (by decide +kernel), meets (by decide +kernel), meets (by decide +kernel), meets (by decide +kernel),
    meets (by decide +kernel), meets (by decide +kernel)⟩

/-! ## Barriers, fences, range slots, cues, tiles, handles, special registers, timers (R169 to R182, R273 to R277, R321 to R335) -/

/-- Chorus 1 waits at barrier 0 of the company, where it has arrived. -/
def waiting : State := company (fun c => { c with
  barriers := updAt c.barriers 0 (fun b => { b with arrived := [1], target := 2 })
  choruses := c.choruses.map (fun (h : Chorus) => if h.index = 1 then { h with splits := h.splits.map (fun (p : Split) => { p with
    state := .waitEvent, wait := .barC 0 0 17 }) } else h) }) rich
def abandoned : State := company (fun c => { c with abandoned := true }) rich
/-- The barriers at their start, and after the first phase. -/
def still : Barrier := { phase := 0, arrived := [], target := 0 }

theorem witness_CompanyBarrierResults :
    (∃ x, Issues (.barC 15 1 17) rich x ∧ (QuietCompany x.co ∧ x.co.barriers[15]? = some still ∧ (arrivedBarrier x.co still x.ch.index 1).phase ≠ still.phase)) ∧
    (∃ x, Issues (.barC 0 0 17) abandoned x ∧ (QuietCompany x.co ∧ x.co.barriers[0]? = some still ∧
      (arrivedBarrier x.co still x.ch.index 0).phase = still.phase ∧ x.co.abandoned = true)) ∧
    (∃ x, Issues (.barC 0 32 17) rich x ∧ (QuietCompany x.co ∧ x.co.barriers[0]? = some { still with target := 0 } ∧ x.co.abandoned = false ∧
      liveCount x.co = 2)) ∧
    (∃ x, Issues (.barC 0 2 17) rich x ∧ (x.co.barriers[0]? = some still ∧ (arrivedBarrier x.co still x.ch.index 2).phase = still.phase ∧
      x.co.abandoned = false ∧ QuietCompany x.co)) := by
  simp only [quiet_iff]
  exact ⟨meets (by decide +kernel), meets (by decide +kernel), meets (by decide +kernel), meets (by decide +kernel)⟩

/-- v9 holds a value in every lane. -/
def with9 (v : Nat) (s : State) : State := reg 9 (fun _ => BitVec.ofNat 32 v) s

theorem witness_ArriveAndAwaitResults :
    (∃ x, Issues (.arvC 8 0 17) (off rich) x ∧ x.active = 0) ∧
    (∃ x, Issues (.arvC 9 8 17) (with9 32 rich) x ∧ (x.active ≠ 0 ∧ QuietCompany x.co ∧ (x.src 9 (leaderOf x)).toNat % 64 ≤ 32 ∧
      x.co.barriers[(x.src 8 (leaderOf x)).toNat % 16]? = some still)) ∧
    (∃ x, Issues (.arvC 9 8 17) (with9 33 rich) x ∧ (x.active ≠ 0 ∧ 32 < (x.src 9 (leaderOf x)).toNat % 64 ∧ QuietTroupe (with9 33 rich) x.co)) ∧
    (∃ x, Issues (.awtC 8 8 17) (off rich) x ∧ x.active = 0) ∧
    (∃ x, Issues (.awtC 9 8 17) (with9 0xFFFFFFFF rich) x ∧ (x.active ≠ 0 ∧ QuietCompany x.co ∧ x.co.barriers[(x.src 8 (leaderOf x)).toNat % 16]? = some still ∧
      (still.phase - x.src 9 (leaderOf x) - 1).toNat < 2 ^ 31)) ∧
    (∃ x, Issues (.awtC 9 8 17) (with9 0 abandoned) x ∧ (x.active ≠ 0 ∧ QuietCompany x.co ∧ x.co.barriers[(x.src 8 (leaderOf x)).toNat % 16]? = some still ∧
      ¬ (still.phase - x.src 9 (leaderOf x) - 1).toNat < 2 ^ 31 ∧ x.co.abandoned = true)) ∧
    (∃ x, Issues (.awtC 9 8 17) (with9 0 rich) x ∧ (x.active ≠ 0 ∧ QuietCompany x.co ∧ x.co.barriers[(x.src 8 (leaderOf x)).toNat % 16]? = some still ∧
      ¬ (still.phase - x.src 9 (leaderOf x) - 1).toNat < 2 ^ 31 ∧ x.co.abandoned = false)) := by
  simp only [quiet_iff, troupe_iff]
  exact ⟨meets (by decide +kernel), meets (by decide +kernel), meets (by decide +kernel), meets (by decide +kernel), meets (by decide +kernel),
    meets (by decide +kernel), meets (by decide +kernel)⟩

def calm : TroupeBarrier := { phase := 0, arrivals := [], arrived := [], counts := [], target := none }
def deserted : State := { rich with troupes := rich.troupes.map (fun (t : Troupe) => { t with abandoned := true }) }
/-- The other chorus of the company has ended. -/
def alone : State := company (fun c => { c with choruses := c.choruses.map (fun (h : Chorus) => if h.index = 1 then { h with ended := true, splits := [] } else h) }) rich
def allArrivedB (s : State) (x : Site) (b : TroupeBarrier) : Bool :=
  let as := b.arrivals ++ [(x.co.index, x.ch.index)]
  (s.liveCompanies x.co.ctx x.co.run x.co.troupe).all (fun c => as.any (fun a => a.1 == c.index) &&
    c.choruses.all (fun h => h.halted != none || h.ended || as.contains (c.index, h.index)))
theorem all_arrived {s : State} {x : Site} {b : TroupeBarrier} (e : allArrivedB s x b = true) : AllArrived s x b := by
  simp only [allArrivedB, List.all_eq_true, Bool.and_eq_true, List.any_eq_true, Bool.or_eq_true, beq_iff_eq, bne_iff_ne,
    List.contains_iff_mem] at e
  refine fun c hc => ⟨(e c hc).1, fun h hh => ?_⟩
  rcases (e c hc).2 h hh with (a | a) | a
  · exact .inl a
  · exact .inr (.inl a)
  · exact .inr (.inr a)

theorem witness_TroupeBarrierResults :
    (∃ x, Issues (.arvT 8 0 17) (off rich) x ∧ x.active = 0) ∧
    (∃ x, Issues (.arvT 9 8 17) (with9 8 rich) x ∧ (x.active ≠ 0 ∧ QuietTroupe (with9 8 rich) x.co ∧ (x.src 9 (leaderOf x)).toNat % 16 ≤ 8 ∧
      troupeBarrier (with9 8 rich) x.co ((x.src 8 (leaderOf x)).toNat % 4) = some calm)) ∧
    (∃ x, Issues (.arvT 9 8 17) (with9 9 rich) x ∧ (x.active ≠ 0 ∧ QuietTroupe (with9 9 rich) x.co ∧ 8 < (x.src 9 (leaderOf x)).toNat % 16)) ∧
    (∃ x, Issues (.barT 3 0 17) alone x ∧ (QuietTroupe alone x.co ∧ troupeBarrier alone x.co 3 = some calm ∧ allArrivedB alone x calm = true)) ∧
    (∃ x, Issues (.barT 3 8 17) rich x ∧ (QuietTroupe rich x.co ∧ troupeBarrier rich x.co 3 = some calm ∧
      (rich.troupeOf x.co).all (fun u => !u.abandoned) = true)) ∧
    (∃ x, Issues (.awtT 8 8 17) (off rich) x ∧ x.active = 0) ∧
    (∃ x, Issues (.awtT 9 8 17) (with9 0xFFFFFFFF rich) x ∧ (x.active ≠ 0 ∧ QuietCompany x.co ∧
      troupeBarrier (with9 0xFFFFFFFF rich) x.co 1 = some calm ∧ (x.src 8 (leaderOf x)).toNat % 4 = 1 ∧ (calm.phase - x.src 9 (leaderOf x) - 1).toNat < 2 ^ 31)) ∧
    (∃ x, Issues (.awtT 9 8 17) (with9 0 deserted) x ∧ (x.active ≠ 0 ∧ QuietCompany x.co ∧
      ((with9 0 deserted).troupeOf x.co).all (fun u => u.abandoned && u.barriers[1]? == some calm) = true ∧ ((with9 0 deserted).troupeOf x.co).isSome = true)) ∧
    (∃ x, Issues (.awtT 9 8 17) (with9 0 rich) x ∧ (x.active ≠ 0 ∧ QuietCompany x.co ∧
      ((with9 0 rich).troupeOf x.co).all (fun u => !u.abandoned && u.barriers[1]? == some calm) = true ∧ ((with9 0 rich).troupeOf x.co).isSome = true)) := by
  simp only [quiet_iff, troupe_iff]
  exact ⟨meets (by decide +kernel), meets (by decide +kernel), meets (by decide +kernel), meets (by decide +kernel), meets (by decide +kernel),
    meets (by decide +kernel), meets (by decide +kernel), meets (by decide +kernel), meets (by decide +kernel)⟩

/-- The split of chorus 1 that waits. -/
def waiter : Split := { Split.root 0xFFFFFFFF bill with state := .waitEvent, wait := .barC 0 0 17 }
theorem witness_BarrierCompletionReleasesWaiters : ∃ x, Issues (.arvC 8 0 17) waiting x ∧ (x.active ≠ 0 ∧ (x.src 8 (leaderOf x)).toNat % 64 ≤ 32 ∧
    (x.co.barriers[(x.src 0 (leaderOf x)).toNat % 16]?).all (fun b => b == { still with arrived := [1], target := 2 }) = true ∧
    (arrivedBarrier x.co { still with arrived := [1], target := 2 } x.ch.index 1).phase = 1 ∧ 1 ≠ x.ch.index ∧
    ∃ g, g ∈ x.co.choruses ∧ g.index = 1 ∧ shapedB g = true ∧ Apart g ∧ g.halted = none ∧ g.ended = false ∧ waiter ∈ g.splits) := by
  simp only [apart_iff]
  exact meets (by decide +kernel)

/-- An access by lanes in flight of the running split, and one fly command of its chorus under way. -/
def busy : State :=
  chorus (fun h => { h with inflight := [{ uid := 90, reads := true, members := 0xFFFFFFFF, tags := [], tile := none, rows := [], house := [], since := 0 }] }) rich

theorem witness_FenceResults :
    (∃ x, Issues (.fenceR 0 3 0xFF) rich x ∧ (QuietCompany x.co ∧ (∀ f, f ∈ x.ch.inflight → f.reads = true → f.members &&& x.sp.members = 0) ∧
      ∀ j, j < 8 → (0xFF : BitVec 8).getLsbD j = true → x.ch.counters.getD j (0, 0) = (0, 0))) ∧
    (∃ x, Issues (.fenceR 0 1 1) busy x ∧ (QuietCompany x.co ∧ ∃ f, f ∈ x.ch.inflight ∧ f.reads = true ∧ f.members &&& x.sp.members ≠ 0)) ∧
    (∃ x, Issues (.fenceX 0 3 1 0xF) rich x ∧ (QuietCompany x.co ∧ x.ch.inflight = [] ∧ x.co.liveCommands x.ch.index = [] ∧
      x.co.liveMatrix x.ch.index = [] ∧ rich.sent = [])) ∧
    (∃ x, Issues (.fenceX 0 3 1 1) busy x ∧ (QuietCompany x.co ∧ x.ch.inflight ≠ [])) := by
  simp only [quiet_iff]
  exact ⟨meets (by decide +kernel), meets (by decide +kernel), meets (by decide +kernel), meets (by decide +kernel)⟩

/-- v10 and v11 hold a base and a space, and v9 a length. -/
def slotted (hi : Nat) : State := reg 11 (fun _ => BitVec.ofNat 32 hi) (reg 10 (fun _ => 64) (with9 128 rich))
/-- Slot 3 is bound to 128 bytes of the stage at 64. -/
def bound : State := chorus (fun h => { h with slots := updAt h.slots 3 (fun _ => { length := 128, space := 2, base := 64 }) }) rich

theorem witness_RangeSlotResults :
    (∃ x, Issues (.rngSet 9 10 7) (off rich) x ∧ x.active = 0) ∧
    (∃ x, Issues (.rngSet 9 10 7) (slotted 0x80000000) x ∧ (x.active ≠ 0 ∧ (x.reg 11 (leaderOf x)).extractLsb' 30 2 ≠ 3)) ∧
    (∃ x, Issues (.rngSet 9 10 7) (slotted 0xC0000000) x ∧ (x.active ≠ 0 ∧ (x.reg 11 (leaderOf x)).extractLsb' 30 2 = 3 ∧ QuietTroupe (slotted 0xC0000000) x.co)) ∧
    (∃ x, Issues (.rngSetH 63 7) rich x ∧ (x.co.handles.getD 63 none = none ∧ QuietTroupe rich x.co)) ∧
    (∃ x, Issues (.rngSetH 0 7) rich x ∧ (x.co.handles.getD 0 none = some box ∧ box.footprint < 2 ^ 32)) ∧
    (∃ x, Issues (.nop 0) bound x ∧ (3, 0) ∈ x.ch.tagsFor [{ space := 2, base := 191, len := 1 }] ∧ (3, 0) ∉ x.ch.tagsFor [{ space := 2, base := 192, len := 1 }]) := by
  simp only [troupe_iff]
  exact ⟨meets (by decide +kernel), meets (by decide +kernel), meets (by decide +kernel), meets (by decide +kernel), meets (by decide +kernel), meets (by decide +kernel)⟩

theorem witness_CueResults : (∃ x, Issues (.cueSet 8 7) (off rich) x ∧ x.active = 0) ∧ (∃ x, Issues (.cueSet 8 7) rich x ∧ x.active ≠ 0) ∧
    (∃ x, Issues (.cueClr 1) rich x ∧ True) ∧ ∃ x, Issues (.cueRd 0 17) rich x ∧ True :=
  ⟨meets (by decide +kernel), meets (by decide +kernel), meets (by decide +kernel), meets (by decide +kernel)⟩

theorem witness_TileStateResults :
    (∃ x, Issues (.tlRel 5) rich x ∧ x.co.tiles[5]? = some (tileOf 5 .ready)) ∧
    (∃ x, Issues (.tlRel 3) rich x ∧ (x.co.tiles[3]? = some (tileOf 3 .filling) ∧ QuietTroupe rich x.co)) ∧
    (∃ x, Issues (.tlWait 5) rich x ∧ x.co.tiles[5]? = some (tileOf 5 .ready)) ∧
    (∃ x, Issues (.tlWait 7) rich x ∧ (Apart x.ch ∧ x.co.tiles[7]? = some (tileOf 7 .filling))) ∧
    (∃ x, Issues (.tlWait 0) rich x ∧ (x.co.tiles[0]? = some (tileOf 0 .empty) ∧ QuietTroupe rich x.co)) ∧
    (∃ x, Issues (.tlSt 7 17) rich x ∧ x.co.tiles[7]? = some (tileOf 7 .filling)) ∧
    (∃ x, Issues (.tlSt 8 17) rich x ∧ (x.co.tiles[8]? = none ∧ QuietTroupe rich x.co)) := by
  simp only [apart_iff, troupe_iff]
  exact ⟨meets (by decide +kernel), meets (by decide +kernel), meets (by decide +kernel), meets (by decide +kernel), meets (by decide +kernel),
    meets (by decide +kernel), meets (by decide +kernel)⟩

theorem witness_RecordBindResults :
    (∃ x, Issues (.recBind 63 9 17) (off rich) x ∧ x.active = 0) ∧
    (∃ x, Issues (.recBind 63 9 17) (with9 65464 rich) x ∧ (x.active ≠ 0 ∧ (x.src 9 (leaderOf x)).toNat % 16 ≠ 0 ∧ QuietTroupe (with9 65464 rich) x.co)) ∧
    (∃ x, Issues (.recBind 63 9 17) (with9 65488 rich) x ∧ (x.active ≠ 0 ∧ (x.src 9 (leaderOf x)).toNat % 16 = 0 ∧
      x.co.playbill.stage < (x.src 9 (leaderOf x)).toNat + 64 ∧ QuietTroupe (with9 65488 rich) x.co)) ∧
    (∃ x, Issues (.recBind 63 9 17) (with9 65472 rich) x ∧ (x.active ≠ 0 ∧ (x.src 9 (leaderOf x)).toNat % 16 = 0 ∧
      (x.src 9 (leaderOf x)).toNat + 64 ≤ x.co.playbill.stage ∧ poisoned x.co.stagePoison (x.src 9 (leaderOf x)).toNat 64 = false)) := by
  simp only [troupe_iff]
  exact ⟨meets (by decide +kernel), meets (by decide +kernel), meets (by decide +kernel), meets (by decide +kernel)⟩

theorem witness_SpecialRegisterReadResults :
    (∃ x, Issues (.mfs 0 17) (off rich) x ∧ x.active = 0) ∧ (∃ x, Issues (.mfs 0x01A 17) rich x ∧ x.active ≠ 0) ∧
    (∃ x, Issues (.mfs 0x031 17) rich x ∧ x.active ≠ 0) := ⟨meets (by decide +kernel), meets (by decide +kernel), meets (by decide +kernel)⟩

theorem witness_SpecialRegisterWriteResults :
    (∃ x, Issues (.mts 0x009 9) (off rich) x ∧ x.active = 0) ∧ (∃ x, Issues (.mts 0x008 9) (off rich) x ∧ True) ∧
    (∃ x, Issues (.mts 0x009 9) rich x ∧ x.active ≠ 0) ∧ (∃ x, Issues (.mts 0x00B 9) rich x ∧ x.active ≠ 0) ∧
    (∃ x, Issues (.mts 0x012 9) (with9 512 rich) x ∧ (x.active ≠ 0 ∧ (x.reg 9 (leaderOf x)).toNat % 4 = 0 ∧ (x.reg 9 (leaderOf x)).toNat ≤ x.co.playbill.localSize)) ∧
    (∃ x, Issues (.mts 0x012 9) (with9 516 rich) x ∧ (x.active ≠ 0 ∧ QuietTroupe (with9 516 rich) x.co ∧ x.co.playbill.localSize < (x.reg 9 (leaderOf x)).toNat)) ∧
    (∃ x, Issues (.mts 0x020 9) rich x ∧ x.active ≠ 0) ∧ (∃ x, Issues (.mts 0x021 9) rich x ∧ x.active ≠ 0) ∧ (∃ x, Issues (.mts 0x022 9) rich x ∧ x.active ≠ 0) ∧
    ∃ x, Issues (.fmt 0x7FF) rich x ∧ True := by
  simp only [troupe_iff]
  exact ⟨meets (by decide +kernel), meets (by decide +kernel), meets (by decide +kernel), meets (by decide +kernel), meets (by decide +kernel),
    meets (by decide +kernel), meets (by decide +kernel), meets (by decide +kernel), meets (by decide +kernel), meets (by decide +kernel)⟩

/-- Event 2 is pending in the chorus. -/
def signalled : State := chorus (fun h => { h with pending := 4 }) (with9 4 rich)

theorem witness_TimerAndWaitResults :
    (∃ x, Issues (.tmrSet 8 9) (with9 3 rich) x ∧ (x.reg 9 (chosen x)).toNat < 4) ∧
    (∃ x, Issues (.tmrSet 8 9) (with9 4 rich) x ∧ (4 ≤ (x.reg 9 (chosen x)).toNat ∧ QuietTroupe (with9 4 rich) x.co)) ∧
    (∃ x, Issues (.tmrClr 9) (with9 3 (off rich)) x ∧ (x.reg 9 (chosen x)).toNat < 4) ∧
    (∃ x, Issues (.tmrClr 9) (with9 4 rich) x ∧ (4 ≤ (x.reg 9 (chosen x)).toNat ∧ QuietTroupe (with9 4 rich) x.co)) ∧
    (∃ x, Issues (.wev 8 9 17) signalled x ∧ (QuietCompany x.co ∧ x.ch.pending &&& (x.reg 9 (chosen x)).setWidth 7 ≠ 0)) ∧
    (∃ x, Issues (.wev 0 9 17) (with9 4 rich) x ∧ (QuietCompany x.co ∧ x.ch.pending &&& (x.reg 9 (chosen x)).setWidth 7 = 0 ∧ x.reg 0 (chosen x) = 0)) ∧
    (∃ x, Issues (.wev 8 9 17) (with9 4 rich) x ∧ (QuietCompany x.co ∧ x.ch.pending &&& (x.reg 9 (chosen x)).setWidth 7 = 0 ∧ x.reg 8 (chosen x) ≠ 0)) ∧
    (∃ x, Issues (.wtm 20 17) rich x ∧ (QuietCompany x.co ∧
      ((x.reg 20 (chosen x)).toNat + 2 ^ 32 * (x.reg 21 (chosen x)).toNat) * ticksPerNs ≤ rich.vtTicks x.co.ctx)) ∧
    (∃ x, Issues (.wtm 8 17) rich x ∧ (QuietCompany x.co ∧
      rich.vtTicks x.co.ctx < ((x.reg 8 (chosen x)).toNat + 2 ^ 32 * (x.reg 9 (chosen x)).toNat) * ticksPerNs)) := by
  simp only [quiet_iff, troupe_iff]
  exact ⟨meets (by decide +kernel), meets (by decide +kernel), meets (by decide +kernel), meets (by decide +kernel), meets (by decide +kernel),
    meets (by decide +kernel), meets (by decide +kernel), meets (by decide +kernel), meets (by decide +kernel)⟩

theorem witness_KickAndEventCounterResults :
    (∃ x, Issues (.qkick 9 5) (off rich) x ∧ x.active = 0) ∧
    (∃ x, Issues (.qkick 9 5) (with9 15 rich) x ∧ (x.active ≠ 0 ∧ (x.reg 9 (leaderOf x)).toNat < 16)) ∧
    (∃ x, Issues (.qkick 9 5) (with9 16 rich) x ∧ (x.active ≠ 0 ∧ 16 ≤ (x.reg 9 (leaderOf x)).toNat ∧ QuietTroupe (with9 16 rich) x.co)) ∧
    ∃ x, Issues (.evt 17) rich x ∧ True := by
  simp only [troupe_iff]
  exact ⟨meets (by decide +kernel), meets (by decide +kernel), meets (by decide +kernel), meets (by decide +kernel)⟩

theorem witness_FirmwareInstructionResults :
    (∃ x, Issues (.plset 5 9) (off rich) x ∧ x.active = 0) ∧ (∃ x, Issues (.plset 5 9) rich x ∧ x.active ≠ 0) ∧
    (∃ x, Issues (.rdstg 0 17) rich x ∧ True) ∧ (∃ x, Issues (.rdstg 1 17) rich x ∧ True) ∧
    (∃ x, guest.site? = some x ∧ (x.co.ctx ≠ 0 ∧ fieldsLegal (.plset 5 9) = true ∧ QuietTroupe guest x.co)) := by
  simp only [troupe_iff]
  exact ⟨meets (by decide +kernel), meets (by decide +kernel), meets (by decide +kernel), meets (by decide +kernel), stands (by decide +kernel)⟩

/-! ## Messages, and commands of the engines (R178, R184 to R202, R228 to R238, R386 to R390) -/

/-- v20, v21 and so on hold a list of values in every lane. -/
def given (vs : List Nat) (s : State) : State := ((List.range vs.length).zip vs).foldl (fun s p => reg (20 + p.1) (fun _ => BitVec.ofNat 32 p.2) s) s

/-- A request from context 0 of device 7, visible on the board, and one whose reply is owed. -/
def note : Message :=
  { destDev := 0, destCtx := 0, stamp := 5, ident := 9, replyTo := 0, patience := 100, ext := 0, srcDev := 7, srcCtx := 0, channel := 1
    length := 4, kind := 0, dilation := true, payload := [1, 2, 3, 4] }
def entry : BoardEntry :=
  { msg := note, taken := false, visible := true, order := 0, stampTicks := 5, arrivedAt := 0, owed := false, deadline := 0, holds := 0, wasOff := false, passed := false }
def owing (d : Bool) : BoardEntry := { entry with msg := { note with dilation := d }, taken := true, owed := true }
def board (es : List BoardEntry) (s : State) : State := { s with contexts := s.contexts.map (fun (c : Context) => if c.id = 0 then { c with board := es } else c) }
def boardIs (es : List BoardEntry) (s : State) : Bool := (s.context? 0).any (fun c => decide (c.board = es))

theorem witness_MessageSendResults :
    (∃ x, Issues (.msgSend 23 20 17) (off rich) x ∧ x.active = 0) ∧
    (∃ x, Issues (.msgSend 23 20 17) (given [0x01002007, 64, 0, 65532, 8] rich) x ∧ (x.active ≠ 0 ∧ QuietTroupe (given [0x01002007, 64, 0, 65532, 8] rich) x.co ∧
      x.co.playbill.stage < (x.reg 23 (leaderOf x)).toNat + (x.reg 24 (leaderOf x)).toNat)) ∧
    (∃ x, Issues (.msgSend 23 20 17) (given [0x01002007, 64, 0, 65534, 8] rich) x ∧ (x.active ≠ 0 ∧ (x.reg 23 (leaderOf x)).toNat % 4 ≠ 0)) ∧
    (∃ x, Issues (.msgSend 23 20 17) (given [0x01002007, 64, 0, 64, 132] rich) x ∧ (x.active ≠ 0 ∧ 128 < (x.reg 24 (leaderOf x)).toNat)) ∧
    (∃ x, Issues (.msgSend 23 20 17) (given [0x01002007, 64, 0, 65408, 128] rich) x ∧ (x.active ≠ 0 ∧ (x.reg 21 (leaderOf x)).toNat < 2 ^ 20 ∧
      (x.reg 21 (leaderOf x)).toNat / 2 ^ 17 ≤ 1 ∧ (x.reg 24 (leaderOf x)).toNat ≤ 128 ∧ (x.reg 24 (leaderOf x)).toNat % 4 = 0 ∧
      (x.reg 23 (leaderOf x)).toNat % 4 = 0 ∧ (x.reg 23 (leaderOf x)).toNat + (x.reg 24 (leaderOf x)).toNat ≤ x.co.playbill.stage ∧
      poisoned x.co.stagePoison (x.reg 23 (leaderOf x)).toNat (x.reg 24 (leaderOf x)).toNat = false)) := by
  simp only [troupe_iff]
  exact ⟨meets (by decide +kernel), meets (by decide +kernel), meets (by decide +kernel), meets (by decide +kernel), meets (by decide +kernel)⟩

theorem witness_TakenNext : ∃ c, (board [entry] rich).context? 0 = some c ∧ TakenNext c entry := by
  have e : (board [entry] rich).context? 0 = some { firmware with board := [entry] } := by decide +kernel
  refine ⟨_, e, by simp, rfl, rfl, fun d hd _ _ hn => ?_⟩
  simp only [List.mem_singleton] at hd
  exact absurd hd hn

theorem witness_MessageReceiveResults :
    (∃ x, Issues (.msgRecv 20 17) (off rich) x ∧ x.active = 0) ∧
    (∃ x, Issues (.msgRecv 20 17) (given [8] rich) x ∧ (x.active ≠ 0 ∧ (x.reg 20 (leaderOf x)).toNat % 16 ≠ 0 ∧ QuietTroupe (given [8] rich) x.co)) ∧
    (∃ x, Issues (.msgRecv 20 17) (given [65392] rich) x ∧ (x.active ≠ 0 ∧ (x.reg 20 (leaderOf x)).toNat % 16 = 0 ∧
      x.co.playbill.stage < (x.reg 20 (leaderOf x)).toNat + 160 ∧ QuietTroupe (given [65392] rich) x.co)) ∧
    (∃ x, Issues (.msgRecv 20 17) (given [65376] rich) x ∧ (x.active ≠ 0 ∧ (x.reg 20 (leaderOf x)).toNat % 16 = 0 ∧
      (x.reg 20 (leaderOf x)).toNat + 160 ≤ x.co.playbill.stage ∧ boardIs [] rich = true ∧ x.co.ctx = 0)) ∧
    (∃ x, Issues (.msgRecv 20 17) (board [entry] (given [65376] rich)) x ∧ (x.active ≠ 0 ∧ (x.reg 20 (leaderOf x)).toNat % 16 = 0 ∧
      (x.reg 20 (leaderOf x)).toNat + 160 ≤ x.co.playbill.stage ∧ boardIs [entry] (board [entry] (given [65376] rich)) = true ∧ x.co.ctx = 0 ∧ x.co.stage.wf = true)) ∧
    (∃ x, Issues (.msgPeek 17) rich x ∧ (boardIs [] rich = true ∧ x.co.ctx = 0)) ∧
    (∃ x, Issues (.msgPeek 17) (board [entry] rich) x ∧ (boardIs [entry] (board [entry] rich) = true ∧ x.co.ctx = 0)) := by
  simp only [troupe_iff]
  exact ⟨meets (by decide +kernel), meets (by decide +kernel), meets (by decide +kernel), meets (by decide +kernel), meets (by decide +kernel),
    meets (by decide +kernel), meets (by decide +kernel)⟩

theorem witness_MessageHoldResults : ∀ es, es ∈ [[], [owing true], [owing false], [{ owing true with holds := 15 }]] →
    (∃ x, Issues (.msgHold 22 20 17) (board es (given [9, 7, 50] rich)) x ∧ (boardIs es (board es (given [9, 7, 50] rich)) = true ∧ x.co.ctx = 0 ∧
      x.active ≠ 0 ∧ es.find? (fun f => f.owed && f.msg.srcDev == (x.reg 21 (leaderOf x)).extractLsb' 0 12 && f.msg.ident == x.reg 20 (leaderOf x)) = es.head?)) := by
  intro es h
  simp only [List.mem_cons, List.not_mem_nil, or_false] at h
  rcases h with rfl | rfl | rfl | rfl
  · exact meets (by decide +kernel)
  · exact meets (by decide +kernel)
  · exact meets (by decide +kernel)
  · exact meets (by decide +kernel)

/-- The hypotheses of a command that names a record. -/
def flyReadyB (i : Instr) (x : Site) (b n : Nat) (fp : List Span) : Bool :=
  issuesB i x && decide (x.active ≠ 0) && decide (x.ch.queue.length < 16) && decide (b + n ≤ 64) && (x.ch.tagsFor fp).all (fun t => decide (x.ch.count t < 255))
theorem fly_ready {i : Instr} {s : State} {x : Site} {b n : Nat} {fp : List Span} (hs : s.site? = some x) (e : flyReadyB i x b n fp = true) :
    FlyReady i s x b n fp := by
  simp only [flyReadyB, Bool.and_eq_true, decide_eq_true_eq, List.all_eq_true] at e
  exact ⟨issues_of hs e.1.1.1.1, e.1.1.1.2, e.1.1.2, e.1.2, e.2⟩

theorem bound_box {x : Site} (e : x.co.handles.getD 0 none = some box) : Bound x 0 box none := ⟨e, rfl, fun h => by simp [box] at h⟩
theorem on_group {x : Site} {b : BitVec 6} {p : Bool} : OnGroup x box b p := by
  intro l _ _; exact Int.emod_one _

/-- The record of `rich` at an origin: a fill of an empty and of a draining tile, reads of a ready tile, and a prefetch. -/
def originAt (n : Nat) : State := given [n, n, 5, 65472] rich
theorem witness_FlyTransfersEnterTheQueue (p : Instr × Nat × List Span) (h : p ∈ ([
    (.flyIn 1 20 0 0 7, 2, [tileSpan (tileOf 0 .empty) box 16] ++ recordSpans box none), (.flyIn 1 20 0 2 7, 2, [tileSpan (tileOf 2 .draining) box 16] ++ recordSpans box none),
    (.flyGth 1 20 0 0 7, 2, [tileSpan (tileOf 0 .empty) box 32] ++ recordSpans box none), (.flyOut 1 20 0 1 7, 2, [tileSpan (tileOf 1 .ready) box 16] ++ recordSpans box none),
    (.flyMc 1 20 0 1 7, 4, [tileSpan (tileOf 1 .ready) box 16]), (.flyPf 1 20 0 7, 2, recordSpans box none)] : List (Instr × Nat × List Span))) :
    ∃ x, FlyReady p.1 (originAt 16) x 20 p.2.1 p.2.2 ∧ Bound x 0 box none ∧ OnGroup x box 20 false ∧ OnGroup x box 20 true ∧
      HasTile x 0 box (tileOf 0 .empty) ∧ HasTile x 2 box (tileOf 2 .draining) ∧ SourceTile x 1 box 16 (tileOf 1 .ready) ∧ HasTile x 3 box (tileOf 3 .filling) ∧
      32 * pitch 16 32 ≤ (tileOf 0 .empty).capacity ∧ (x.reg 22 (leaderOf x)).toNat < 2 ^ 16 ∧ (x.reg 23 (leaderOf x)).toNat % 64 = 0 ∧
      (x.reg 23 (leaderOf x)).toNat + 64 ≤ x.co.playbill.stage ∧ QuietTroupe (originAt 16) x.co := by
  have e : holds (originAt 16) (fun x => flyReadyB p.1 x 20 p.2.1 p.2.2 && (x.co.handles.getD 0 none == some box &&
      decide (x.co.tiles[0]? = some (tileOf 0 .empty) ∧ x.co.tiles[2]? = some (tileOf 2 .draining) ∧ x.co.tiles[1]? = some (tileOf 1 .ready) ∧
        x.co.tiles[3]? = some (tileOf 3 .filling) ∧ (x.reg 22 (leaderOf x)).toNat < 2 ^ 16 ∧ (x.reg 23 (leaderOf x)).toNat % 64 = 0 ∧
        (x.reg 23 (leaderOf x)).toNat + 64 ≤ x.co.playbill.stage ∧ quietTroupeB (originAt 16) x.co = true))) = true := by
    revert p; decide +kernel
  unfold holds at e
  split at e
  · rename_i x hx
    simp only [Bool.and_eq_true, beq_iff_eq, decide_eq_true_eq] at e
    obtain ⟨a, b, c0, c2, c1, c3, d, f, g, q⟩ := e
    exact ⟨x, fly_ready hx a, bound_box b, on_group, on_group, ⟨c0, by simp [box]⟩, ⟨c2, by simp [box]⟩,
      ⟨⟨c1, by simp [box]⟩, rfl, by decide, rfl, rfl, rfl⟩, ⟨c3, by simp [box]⟩, by decide +kernel, d, f, g, (troupe_iff _ _).2 q⟩
  · cases e

/-- A scaled record of 32 by 16 elements of 8 bits, and the record of its scales at handle 3. -/
def scaledBox : Record := { box with box := [32, 16, 1, 1, 1], strides := [1, 64, 0, 0, 0], format := 0x2, scaled := true, scaleHandle := 3 }
def scaleBox : Record := { box with extents := [2, 64, 1, 1, 1], box := [1, 16, 1, 1, 1], strides := [1, 64, 0, 0, 0], format := 0xD }
/-- Handles 1 and 3 bound to those, tile 1 of 16 by 16 words with 32 rows, and tile 5 with 32 columns and a score slot. -/
def scaledState : State := company (fun c => { c with
  handles := updAt (updAt c.handles 1 (fun _ => some scaledBox)) 3 (fun _ => some scaleBox)
  tiles := updAt (updAt c.tiles 1 (fun t => { t with rows := 32 })) 5 (fun t => { t with cols := 32 }) }) (originAt 32)
def ready32 : Tile := { tileOf 1 .ready with rows := 32 }
def scored : Tile := { tileOf 5 .ready with cols := 32 }

theorem witness_scatter : ∃ x, FlyReady (.flySct 1 20 0 1 7) scaledState x 20 2 (tileSpan ready32 box 32 :: recordSpans box none) ∧
    Bound x 0 box none ∧ OnGroup x box 20 true ∧ SourceTile x 1 box 32 ready32 := by
  have e : holds scaledState (fun x => flyReadyB (.flySct 1 20 0 1 7) x 20 2 (tileSpan ready32 box 32 :: recordSpans box none) &&
      (x.co.handles.getD 0 none == some box && x.co.tiles[1]? == some ready32)) = true := by decide +kernel
  unfold holds at e
  split at e
  · rename_i x hx
    simp only [Bool.and_eq_true, beq_iff_eq] at e
    exact ⟨x, fly_ready hx e.1, bound_box e.2.1, on_group, ⟨e.2.2, by simp [box]⟩, rfl, by decide, rfl, rfl, rfl⟩
  · cases e

def groupB (x : Site) (r : Record) (b : BitVec 6) (l : Nat) : Bool := decide ((x.reg b.toNat l).toInt % (groupOf r : Int) = 0)

theorem witness_scales : ∃ x, FlyReady (.flyScl 1 20 1 5 7) scaledState x 20 2 (recordSpans scaledBox (some scaleBox)) ∧
    Bound x 1 scaledBox (some scaleBox) ∧ OnGroup x scaledBox 20 false ∧ HasTile x 5 scaledBox scored := by
  have e : holds scaledState (fun x => flyReadyB (.flyScl 1 20 1 5 7) x 20 2 (recordSpans scaledBox (some scaleBox)) &&
      (x.co.handles.getD 1 none == some scaledBox && (x.co.handles.getD 3 none == some scaleBox && (x.co.tiles[5]? == some scored &&
        groupB x scaledBox 20 (leaderOf x))))) = true := by decide +kernel
  unfold holds at e
  split at e
  · rename_i x hx
    simp only [Bool.and_eq_true, beq_iff_eq, groupB, decide_eq_true_eq] at e
    refine ⟨x, fly_ready hx e.1, ⟨e.2.1, e.2.2.1.symm, fun _ => by decide +kernel⟩, fun l h _ => ?_, e.2.2.2.1, fun _ => by decide⟩
    simp only [originLanes, Bool.false_eq_true, if_false, List.mem_singleton] at h
    rw [h]; exact e.2.2.2.2
  · cases e

/-- The traps of those commands: an unbound handle, a tile that may not be filled, an origin within a group. -/
theorem witness_fly_traps :
    (∃ x, Issues (.flyPf 1 20 5 7) (originAt 16) x ∧ (x.active ≠ 0 ∧ x.ch.queue.length < 16 ∧ x.co.handles.getD 5 none = none ∧ QuietTroupe (originAt 16) x.co)) ∧
    (∃ x, Issues (.flyGth 1 20 0 3 7) (originAt 16) x ∧ (x.active ≠ 0 ∧ x.ch.queue.length < 16 ∧ x.co.tiles[3]? = some (tileOf 3 .filling))) ∧
    (∃ x, Issues (.flyIn 1 20 1 0 7) (reg 20 (fun _ => 31) scaledState) x ∧ (x.active ≠ 0 ∧ x.ch.queue.length < 16 ∧ x.co.handles.getD 1 none = some scaledBox ∧
      x.co.handles.getD 3 none = some scaleBox ∧ (x.reg 20 (leaderOf x)).toInt % (groupOf scaledBox : Int) ≠ 0)) := by
  simp only [troupe_iff]
  exact ⟨meets (by decide +kernel), meets (by decide +kernel), meets (by decide +kernel)⟩

/-- Sixteen entries in the engine queue. -/
def full (s : State) : State := chorus (fun h => { h with queue := List.replicate 16 (.sput 5 0 0 0 1 Lanes.zero) }) s

/-- `fly.cp` from the stage to the window, up to the end of both, past the window, and from a space that does not exist;
`fly.atm` of aligned words with a result at the end of the stage, of a misaligned word, and with a result outside. -/
theorem witness_FlyCopiesAndAtomicsEnterTheQueue :
    (∃ x, Issues (.flyCp 1 20 7) (off rich) x ∧ (flyOperands x (.flyCp 1 20 7) ≠ none ∧ x.active = 0)) ∧
    (∃ x, Issues (.flyCp 1 20 7) (full rich) x ∧ (flyOperands x (.flyCp 1 20 7) ≠ none ∧ x.active ≠ 0 ∧ 16 ≤ x.ch.queue.length)) ∧
    (∃ x, Issues (.flyCp 1 59 7) rich x ∧ (flyOperands x (.flyCp 1 59 7) = some (59, 6) ∧ x.active ≠ 0 ∧ x.ch.queue.length < 16 ∧ QuietTroupe rich x.co)) ∧
    (∃ x, Issues (.flyCp 1 20 7) (given [65520, 0, 65520, 0, 16, 6] rich) x ∧ (flyReadyB (.flyCp 1 20 7) x 20 6 [{ space := 2, base := 65520, len := 16 }, { space := 1, base := 65520, len := 16 }] = true ∧
      HasWindow (given [65520, 0, 65520, 0, 16, 6] rich) x.co 65536 [] ∧ (x.reg 25 (leaderOf x)).toNat = 6 ∧ 65520 + 16 ≤ x.co.playbill.stage)) ∧
    (∃ x, Issues (.flyCp 1 20 7) (given [65520, 0, 65536, 0, 16, 6] rich) x ∧ (flyReadyB (.flyCp 1 20 7) x 20 6 [{ space := 2, base := 65520, len := 16 }, { space := 1, base := 65536, len := 16 }] = true ∧
      HasWindow (given [65520, 0, 65536, 0, 16, 6] rich) x.co 65536 [] ∧ 65536 < 65536 + 16)) ∧
    (∃ x, Issues (.flyCp 1 20 7) (given [0, 0, 0, 0, 16, 3] rich) x ∧ (flyReadyB (.flyCp 1 20 7) x 20 6 [{ space := 3, base := 0, len := 16 }, { space := 0, base := 0, len := 16 }] = true ∧
      (x.reg 25 (leaderOf x)).toNat % 4 = 3 ∧ QuietTroupe (given [0, 0, 0, 0, 16, 3] rich) x.co)) ∧
    (∃ x, Issues (.flyAtm 1 20 12 3 7) (given [64, 0, 1, 1, 65408] rich) x ∧ (flyReadyB (.flyAtm 1 20 12 3 7) x 20 5 ({ space := 2, base := 65408, len := 128 } ::
      (activeLanes x).map (fun _ => { space := 0, base := 64, len := 4 })) = true ∧ 65408 + 128 ≤ x.co.playbill.stage)) ∧
    (∃ x, Issues (.flyAtm 1 20 12 3 7) (given [66, 0, 1, 1, 0xFFFFFFFF] rich) x ∧ (0 ∈ activeLanes x ∧ (x.reg 20 0).toNat % 4 ≠ 0 ∧
      QuietTroupe (given [66, 0, 1, 1, 0xFFFFFFFF] rich) x.co)) ∧
    (∃ x, Issues (.flyAtm 1 20 12 3 7) (given [64, 0, 1, 1, 65412] rich) x ∧ (x.active ≠ 0 ∧ x.co.playbill.stage < 65412 + 128 ∧
      QuietTroupe (given [64, 0, 1, 1, 65412] rich) x.co)) := by
  simp only [troupe_iff, window_iff]
  exact ⟨meets (by decide +kernel), meets (by decide +kernel), meets (by decide +kernel), meets (by decide +kernel), meets (by decide +kernel),
    meets (by decide +kernel), meets (by decide +kernel), meets (by decide +kernel), meets (by decide +kernel)⟩

def mxReadyB (i : Instr) (x : Site) : Bool := issuesB i x && x.ch.queue.isEmpty && firstOver x == none && x.co.ops.isEmpty
theorem mx_ready {i : Instr} {s : State} {x : Site} (hs : s.site? = some x) (e : mxReadyB i x = true) : MxReady i s x := by
  simp only [mxReadyB, Bool.and_eq_true, List.isEmpty_iff, beq_iff_eq] at e
  obtain ⟨⟨⟨a, b⟩, c⟩, d⟩ := e
  exact ⟨issues_of hs a, by rw [b]; decide, c, fun o h => (by rw [d] at h; cases h), fun m h => (by rw [b] at h; cases h)⟩
/-- As `meets`, for a collective instruction. -/
theorem meetsMx {i : Instr} {s : State} {H : Site → Prop} [DecidablePred H] (e : holds s (fun x => mxReadyB i x && decide (H x)) = true) :
    ∃ x, MxReady i s x ∧ H x := by
  unfold holds at e
  split at e
  · rename_i x hx
    rw [Bool.and_eq_true] at e
    exact ⟨x, mx_ready hx e.1, of_decide_eq_true e.2⟩
  · cases e

/-- An ensemble of two choruses; one whose other member is over; operand tiles of 16 by 32 INT8 elements. -/
def pair (s : State) : State := company (fun c => { c with playbill := { c.playbill with ensemble := 2 } }) s
def spread : State := company (fun c => { c with playbill := { c.playbill with companies := 4 } })
  (company (fun c => { c with tiles := c.tiles.map (fun (t : Tile) => { t with format := 0x6, cols := 32, rows := 16 }) }) (split (fun p => { p with fmt := 0x66 }) rich))
def operandTile : Tile := { tileOf 1 .ready with format := 0x6, cols := 32, rows := 16 }

theorem witness_MatrixOperationsEnterTheQueue :
    (∃ x, MxReady (.mxMma 0 0 1 5 7) (pair rich) x ∧ 1 < x.co.playbill.ensemble) ∧
    (∃ x, Issues (.mxPut 1 0) (full rich) x ∧ 16 ≤ x.ch.queue.length) ∧
    (∃ x, Issues (.mxGet 0 0) (pair alone) x ∧ (x.ch.queue.length < 16 ∧ firstOver x = some 1 ∧ QuietTroupe (pair alone) x.co)) ∧
    (∃ x, MxReady (.mxZero 1 9) (with9 0x00100010 rich) x ∧ (x.co.playbill.ensemble ≤ 1 ∧ QuietCompany x.co ∧ x.co.pit[1]? = some (regionOf false 4) ∧
      (x.reg 9 (chosen x)).toNat = 0x00100010)) ∧
    (∃ x, MxReady (.mxPut 1 0) rich x ∧ (x.co.playbill.ensemble ≤ 1 ∧ QuietCompany x.co ∧ x.co.pit[0]? = some (regionOf true 0) ∧ x.co.tiles[1]? = some (tileOf 1 .ready))) ∧
    (∃ x, MxReady (.mxGet 0 0) rich x ∧ (x.co.playbill.ensemble ≤ 1 ∧ QuietCompany x.co ∧ x.co.pit[0]? = some (regionOf true 0) ∧ x.co.tiles[0]? = some (tileOf 0 .empty))) ∧
    (∃ x, MxReady (.mxMma 0 0 1 1 7) spread x ∧ (x.co.playbill.ensemble ≤ 1 ∧ QuietCompany x.co ∧ x.co.pit[0]? = some (regionOf true 0) ∧
      operandCode (fmtA ((x.sp.fmt.extractLsb' 0 12).setWidth 16)) = true ∧ operandCode (fmtB ((x.sp.fmt.extractLsb' 0 12).setWidth 16)) = true ∧
      fmtScaled ((x.sp.fmt.extractLsb' 0 12).setWidth 16) = false ∧ x.co.tiles[1]? = some operandTile ∧ fmtA ((x.sp.fmt.extractLsb' 0 12).setWidth 16) = operandTile.format)) ∧
    (∃ x, MxReady (.mxSpr 0 0 1 1 7) spread x ∧ (x.co.index / 4 * 4 + 4 ≤ x.co.playbill.companies ∧ x.co.tiles[1]? = some operandTile)) ∧
    (∃ x, MxReady (.mxZero 7 9) rich x ∧ (x.co.playbill.ensemble ≤ 1 ∧ x.co.pit[7]? = none)) ∧
    (∃ x, Issues (.mxSput 20) (off rich) x ∧ x.active = 0) ∧
    (∃ x, Issues (.mxSput 20) (given [1, 384] rich) x ∧ (x.active ≠ 0 ∧ x.ch.queue.length < 16 ∧ (x.reg 21 (leaderOf x)).toNat % 4 = 0 ∧
      ∀ l, l ∈ activeLanes x → (x.reg 21 (leaderOf x)).toNat + 4 * l + 4 ≤ x.co.playbill.scoreSlots * 128)) ∧
    (∃ x, Issues (.mxSput 20) (given [1, 386] rich) x ∧ (x.active ≠ 0 ∧ (x.reg 21 (leaderOf x)).toNat % 4 ≠ 0 ∧ QuietTroupe (given [1, 386] rich) x.co)) ∧
    (∃ x, Issues (.mxSput 20) (given [1, 388] rich) x ∧ (x.active ≠ 0 ∧ QuietTroupe (given [1, 388] rich) x.co ∧
      ∃ l, l ∈ activeLanes x ∧ x.co.playbill.scoreSlots * 128 < (x.reg 21 (leaderOf x)).toNat + 4 * l + 4)) := by
  simp only [troupe_iff, quiet_iff]
  exact ⟨meetsMx (by decide +kernel), meets (by decide +kernel), meets (by decide +kernel), meetsMx (by decide +kernel), meetsMx (by decide +kernel),
    meetsMx (by decide +kernel), meetsMx (by decide +kernel), meetsMx (by decide +kernel), meetsMx (by decide +kernel), meets (by decide +kernel),
    meets (by decide +kernel), meets (by decide +kernel), meets (by decide +kernel)⟩

/-! ## Events of splits, rows and cores (R17, R24, R121 to R136, R149 to R157) -/

/-- The state with the operands of an event. -/
def arg (a b c d : Nat) (v : BitVec 64) (s : State) : State := { s with arg := { a := a, b := b, c := c, d := d, v := v, x := .none } }

def actsB (s : State) (c : Company) : Bool :=
  c.state == .running && !s.curtain && (s.die (c.core / 48)).changing == none && (s.context? c.ctx).any (fun x => x.onStage && !x.debugHalted)
theorem acts_of {s : State} {c : Company} (e : actsB s c = true) : Acts s c := by
  simp only [actsB, Bool.and_eq_true, beq_iff_eq, Bool.not_eq_true', Option.any_eq_true] at e
  obtain ⟨⟨⟨a, b⟩, c⟩, x, hx, d, e⟩ := e
  exact ⟨a, b, c, x, hx, d, e⟩

theorem some_meets {α : Type} {o : Option α} {H : α → Prop} [DecidablePred H] (e : o.any (fun x => decide (H x)) = true) : ∃ x, o = some x ∧ H x := by
  simp only [Option.any_eq_true, decide_eq_true_eq] at e
  exact e

/-- The event's company acts, and a decidable property holds of it. -/
theorem actor_meets {s : State} {H : Company → Prop} [DecidablePred H] (e : (s.company? s.arg.a).any (fun c => actsB s c && decide (H c)) = true) :
    ∃ c, Actor s c ∧ H c := by
  simp only [Option.any_eq_true, Bool.and_eq_true, decide_eq_true_eq] at e
  obtain ⟨c, hc, a, h⟩ := e
  exact ⟨c, ⟨hc, acts_of a⟩, h⟩

def actsOnB (c : Company) (h : Chorus) : Bool := c.choruses.all (fun g => g.index != h.index || g == h) && h.halted == none && !h.ended
/-- As `actor_meets`, for the event's chorus. -/
theorem chorus_meets {s : State} {H : Company → Chorus → Prop} [∀ c h, Decidable (H c h)]
    (e : (s.company? s.arg.a).any (fun c => actsB s c && (c.chorus? s.arg.b).any (fun h => actsOnB c h && decide (H c h))) = true) :
    ∃ c h, ActsOn s c h ∧ H c h := by
  simp only [Option.any_eq_true, Bool.and_eq_true, decide_eq_true_eq] at e
  obtain ⟨c, hc, a, h, hh, o, p⟩ := e
  simp only [actsOnB, Bool.and_eq_true, beq_iff_eq, Bool.not_eq_true', List.all_eq_true, Bool.or_eq_true, bne_iff_ne] at o
  refine ⟨c, h, ⟨⟨hc, acts_of a⟩, hh, fun g hg i => ?_, o.1.2, o.2⟩, p⟩
  rcases o.1.1 g hg with j | j
  · exact absurd i j
  · exact j

/-- Two splits of sixteen lanes of chorus 0, made by `f` and `g`. -/
def halves (f g : Split → Split) : State := chorus (fun h => { h with splits :=
  [f { Split.root 0x0000FFFF Playbill.least with frame := 10 }, g { Split.root 0xFFFF0000 Playbill.least with state := .ready }] })
  (split (fun p => { p with members := 0x0000FFFF, xm := 0x0000FFFF }) rich)

/-- A plain read of `n` bytes, and a write of lines that no other key holds, by the company's translation of an address. -/
def readsB (s : State) (c : Company) (va n : Nat) : Bool :=
  match s.translate c.core c.ctx va .read with
  | (.ok e, u) => e.plain && (List.range n).all (fun k => u.lines.all (fun t => t.line != (e.at_ va + k) / 128 || !t.cached || !t.g) &&
      (u.lineOf (e.at_ va + k)).all (fun t => t.key == some c.ctx) && !poisoned u.memPoison (e.at_ va + k) 32)
  | _ => false
def writesB (s : State) (c : Company) (va n : Nat) : Bool :=
  match s.translate c.core c.ctx va .write with
  | (.ok e, u) => e.plain && u.mem.wf && (List.range n).all (fun k => (u.lineOf (e.at_ va + k)).all (fun t => t.key == some c.ctx))
  | _ => false

/-- The other split is spilled to place 1 of a well that the TLB maps. -/
def spilt (owed : Bool) : State :=
  { chorus (fun h => { h with wellBase := 0 }) (halves id (fun p => { p with spilled := true, place := 1, owed := owed })) with cores := mapped.cores }
/-- The other split waits at its join with a deadline, its window at row `wb`. -/
def joining (wb : Nat) : State := halves id (fun p => { p with state := .arrived, wait := .joinT 0 17, joinPc := 8, wb := wb })

theorem witness_SplitEventResults :
    (∃ c h, ActsOn (arg 1 0 0 0 0xFFFF0000 (spilt false)) c h ∧ (Apart h ∧ ∃ p, p ∈ h.splits ∧ (0xFFFF0000 : BitVec 64).setWidth 32 = p.members ∧
      p.spilled = true ∧ p.owed = false ∧ p.state = .ready ∧ p.wait = .none ∧ p.members &&& ~~~h.exited ≠ 0 ∧ (spilt false).stops c = false ∧
      readsB (spilt false) c (entryVa h p) 32 = true)) ∧
    (∃ c h, ActsOn (arg 1 0 0 0 0 (spilt true)) c h ∧ (Apart h ∧ (spilt true).stops c = false ∧
      (h.splits.find? (fun q => q.spilled && q.owed)).any (fun p => writesB (spilt true) c (entryVa h p) 32) = true)) ∧
    (∃ c h, ActsOn (arg 1 0 0 0 0xFFFF0000 (joining 0)) c h ∧ (shapedB h = true ∧ Apart h ∧
      ∃ p, p ∈ h.splits ∧ (0xFFFF0000 : BitVec 64).setWidth 32 = p.members ∧ p.wait = .joinT 0 17 ∧ p.state = .arrived ∧ arrivedMembers h p &&& ~~~h.exited ≠ 0 ∧
      h.low ≤ p.wb + 1 ∧ p.wb + 2 ≤ h.high)) ∧
    (∃ c h, ActsOn (arg 1 0 0 0 0xFFFF0000 (joining 40)) c h ∧ (shapedB h = true ∧ Apart h ∧
      ∃ p, p ∈ h.splits ∧ (0xFFFF0000 : BitVec 64).setWidth 32 = p.members ∧ p.wait = .joinT 0 17 ∧ p.state = .arrived ∧ arrivedMembers h p &&& ~~~h.exited ≠ 0 ∧
      ¬ p.wb + 2 ≤ h.high)) ∧
    (∃ c h, ActsOn (arg 1 0 0 0 0 (halves (fun p => { p with issues := 256 }) id)) c h ∧ (Apart h ∧ h.chain = none ∧
      (∃ r, r ∈ h.splits ∧ r.state = .running ∧ 256 ≤ r.issues) ∧ ∃ p, p ∈ h.splits ∧ p.choosable = true)) ∧
    (∃ c h, ActsOn (arg 1 0 0 0 0 busy) c h ∧ (h.inflight.length = 1 ∧ shapedB h = true ∧ QuietCompany c)) := by
  simp only [apart_iff, quiet_iff]
  exact ⟨chorus_meets (by decide +kernel), chorus_meets (by decide +kernel), chorus_meets (by decide +kernel), chorus_meets (by decide +kernel),
    chorus_meets (by decide +kernel), chorus_meets (by decide +kernel)⟩

/-- A split that asks for the rows 10 to 42; a move that fills rows 32 and 33, or the last one, or spills row 0. -/
def asking : State := chorus (fun h => { h with requests := [0xFFFF0000] }) (halves id (fun p => { p with state := .waitWindow, wait := .window 10 42, wb := 10, frame := 32 }))
def move (low2 : Nat) (spill fill : List Nat) : PumpMove := { low2 := low2, high2 := low2 + 32, spill := spill, fill := fill, moving := true, since := 0 }
def moving (m : PumpMove) (top : Nat) : State := { (chorus (fun h => { h with pump := some m, top := top, wellBase := 0 }) rich) with cores := mapped.cores.map (fun (k : Core) => { k with drowsy := [] }) }
def pumpingB (s : State) (c : Company) (h : Chorus) (m : PumpMove) (row : Nat) : Bool :=
  h.pump == some m && m.moving && h.splits.all (fun p => !p.spilled || !p.owed) && (s.core c.core).awake (s.bankOf c h (16 + row % h.ring.length)) && !s.stops c

theorem witness_PumpEventResults :
    (∃ c h, ActsOn (arg 1 0 0 0 0 asking) c h ∧ (Apart h ∧ h.pump = none ∧ h.served = none ∧ h.requests = [0xFFFF0000] ∧
      asking.stops c = false ∧ ¬ (h.low ≤ 10 ∧ 42 ≤ h.high) ∧ 42 - 10 ≤ h.ring.length ∧ ∃ p, p ∈ h.splits ∧ p.members = 0xFFFF0000 ∧ p.wait = .window 10 42)) ∧
    (∃ c h, ActsOn (arg 1 0 0 0 0 (moving (move 2 [] [32, 33]) 32)) c h ∧
      (pumpingB (moving (move 2 [] [32, 33]) 32) c h (move 2 [] [32, 33]) 32 = true ∧ h.top ≤ 32)) ∧
    (∃ c h, ActsOn (arg 1 0 0 0 0 (moving (move 1 [] [32]) 32)) c h ∧
      (pumpingB (moving (move 1 [] [32]) 32) c h (move 1 [] [32]) 32 = true ∧ h.top ≤ 32)) ∧
    (∃ c h, ActsOn (arg 1 0 0 0 0 (moving (move 2 [] [32, 33]) 34)) c h ∧
      (pumpingB (moving (move 2 [] [32, 33]) 34) c h (move 2 [] [32, 33]) 32 = true ∧ 32 < h.top ∧
        readsB (moving (move 2 [] [32, 33]) 34) c (rowVa c h 32) 128 = true)) ∧
    (∃ c h, ActsOn (arg 1 0 0 0 0 (moving (move 1 [0] [32]) 32)) c h ∧
      (pumpingB (moving (move 1 [0] [32]) 32) c h (move 1 [0] [32]) 0 = true ∧ (∀ f, f ∈ h.inflight → 0 ∉ f.rows) ∧
        writesB (moving (move 1 [0] [32]) 32) c (rowVa c h 0) 128 = true)) := by
  simp only [apart_iff]
  exact ⟨chorus_meets (by decide +kernel), chorus_meets (by decide +kernel), chorus_meets (by decide +kernel), chorus_meets (by decide +kernel),
    chorus_meets (by decide +kernel)⟩

/-! ### Cores -/

/-- Chorus 0 has waited 32 cycles with a product, of class T1, as its next instruction, and the band is 0. -/
def starved : State :=
  let w := (encode (.mul 0 0 5 6 17)).word
  (company (fun c => { c with code := c.code.writeLE 0 4 w.toNat }) (chorus (fun h => { h with bandWait := 32 }) rich)).setCore
    { Core.init 0 with band := 0, bandCycle := 8 }

theorem witness_CoreEventResults :
    (8 ≤ ((arg 0 0 0 0 0 (rich.setCore { Core.init 0 with bandCycle := 8 })).core 0).bandCycle ∧
      ∀ k, ¬ RaisesTo (arg 0 0 0 0 0 (rich.setCore { Core.init 0 with bandCycle := 8 })) 0 k) ∧
    (RaisesTo starved 0 1 ∧ 8 ≤ (starved.core 0).bandCycle) ∧
    (∃ c, rich.clusters.find? (fun k => k.num == 0) = some c) := by
  refine ⟨⟨by decide +kernel, fun k h => ?_⟩, ⟨⟨by decide +kernel, ?_, ?_⟩, by decide +kernel⟩, ?_⟩
  · obtain ⟨_, ⟨q, hq, h, _⟩, _⟩ := h
    have e : ∀ q, q ∈ (arg 0 0 0 0 0 (rich.setCore { Core.init 0 with bandCycle := 8 })).readyOn 0 → ¬ 32 ≤ q.2.bandWait := by decide +kernel
    exact e q hq h
  · have e : ∃ q, q ∈ starved.readyOn 0 ∧ 32 ≤ q.2.bandWait ∧ (nextClass q.1 q.2 starved.peek).num = 1 := by decide +kernel
    exact e
  · decide +kernel
  · exact Option.isSome_iff_exists.1 (by decide +kernel)

/-- Cluster 0 with a record over its limit, and a stall cycle of core 0. -/
def hot : State :=
  { rich with clusters := rich.clusters.map (fun (k : Cluster) => if k.num = 0 then { k with limit := 100, record := 150, overLimit := true, windowAt := 1000000000 } else k) }
def stalling : State := hot.setCore { Core.init 0 with credit := 2, ratio := 1, ratioDen := 2 }

theorem witness_current_and_banks :
    ((hot.clusters.find? (fun k => k.num == hot.arg.a)).any (fun c => decide (hot.windowTicks hot.arg.a ≤ c.windowAt ∧ c.limit < c.record ∧ c.record ≤ 2 * (c.record - c.limit) + 100)) = true ∧
      ∀ k, k ∈ hot.companies → k.core / 8 = 0 → ∀ o, o ∈ k.ops → o.started = true → o.finished = true) ∧
    ((stalling.cluster 0).overLimit = true ∧ (stalling.core 0).bay = 0 ∧ (stalling.core 0).ratioDen ≤ (stalling.core 0).credit ∧ (stalling.core 0).stalled = false ∧
      (stalling.core 0).mid = false) ∧
    (∀ h, h ∈ rich.inBank 0 47 → 200 * ticksPerNs < h.memWait) ∧ 47 ∉ ((rich.setCore { Core.init 0 with drowsy := [] }).core 0).drowsy ∧
    47 ∈ ((rich.setCore { Core.init 0 with drowsy := [47] }).core 0).drowsy := by decide +kernel

/-! ## Events of the engine queue, the fly engine and the array (R169 to R205, R227, R239 to R243, R382) -/

/-- A command of the box at the origin, for tile 3. -/
def cmd (op : FlyOp) (cue : Nat) : FlyCmd :=
  { uid := 80, word := 0, epc := 0, op := op, ev := true, cue := cue, tile := 3, record := some box, scaleRecord := none, lanes := 0xFFFFFFFF, leader := 0
    principals := List.replicate 32 0, origins := [[0, 0, 0, 0, 0]], srcSpace := 0, dstSpace := 0, src := 0, dst := 0, len := 0, aop := 0, order := 0, addrs := []
    operands := [], expecteds := [], result := 0xFFFFFFFF, group := 0, ackAddr := 0, tags := [], footprint := [], state := .queued, begun := false, todo := []
    reading := false, denied := false, denials := [], snapshot := [], remote := [], ack := none, failed := none, status := 0, halves := [], stained := [], stainedScore := [] }

/-- An operation of ensemble 0 with one member, gathered. -/
def oper (k : MxKind) (started : Bool) : MxOp :=
  { uid := 81, ensemble := 0, number := 0, kind := k, word := 0, fmt := 0x066, shape := 0x00100010, region := 0, tileA := 1, tileB := 1, sc := false, issued := [(0, 0)]
    gathered := true, started := started, finished := false, reserved := [1], ready := none, next := 0, due := 0, charged := 0, left := 0, stopping := false, paused := false }
def member (cue : Nat) (v : Option Bool) : QueueEntry :=
  .mx { uid := 82, word := 0, epc := 0, op := 0, cue := cue, fmt := 0x066, shape := 0x00100010, verdict := v }

/-- The engine queue of chorus 0, with cue 1 false. -/
def queued (q : List QueueEntry) (ops : List MxOp) : State :=
  company (fun c => { c with ops := ops }) (chorus (fun h => { h with queue := q, cues := updAt h.cues 1 (fun _ => .isFalse) }) rich)
/-- Tile 2 drained, and claimed. -/
def storing : QueueEntry := .sput 80 0 0 384 0xFFFFFFFF Lanes.zero
def drained (claim : Bool) : State := company (fun c => { c with tiles := updAt c.tiles 2 (fun t => { t with claim := claim, claimShape := if claim then some (0xB, 16, 16) else none }) }) rich

theorem witness_QueueEventResults :
    (∀ claim, ∃ c, Actor (arg 1 2 0 0 0 (drained claim)) c ∧ (QuietCompany c ∧ (c.tile? 2).any (fun t =>
      t.state == .draining && t.readers == 0 && decide (2 ≤ t.drainAge) && t.claim == claim && t.claimShape == if claim then some (0xB, 16, 16) else none) = true)) ∧
    (∃ c h, ActsOn (arg 1 0 0 0 0 (queued [.fly (cmd .inn 0)] [])) c h ∧ (QuietCompany c ∧ h.queue = [.fly (cmd .inn 0)] ∧ h.queuePoison = [] ∧ h.cueCode 0 = 3)) ∧
    (∃ c h, ActsOn (arg 1 0 0 0 0 (queued [.fly { cmd .inn 0 with state := .decided }] [])) c h ∧ (QuietCompany c ∧ h.queue.length = 1 ∧
      (arg 1 0 0 0 0 (queued [.fly { cmd .inn 0 with state := .decided }] [])).handedOn c.core < 32 ∧ c.orderHolds h.index { cmd .inn 0 with state := .decided } = false ∧
      (queued [.fly { cmd .inn 0 with state := .decided }] []).stops c = false)) ∧
    (∃ c h, ActsOn (arg 1 0 0 0 0 (queued [.fly (cmd .out 1)] [])) c h ∧ (QuietCompany c ∧ h.queue = [.fly (cmd .out 1)] ∧ h.cueCode 1 = 2)) ∧
    (∃ c h, ActsOn (arg 1 0 0 0 0 (queued [.fly (cmd .inn 1)] [])) c h ∧ (QuietCompany c ∧ h.queue = [.fly (cmd .inn 1)] ∧ h.cueCode 1 = 2 ∧
      (c.tile? 3).any (fun t => t.state == .filling) = true ∧ ∀ o, o ∈ c.ops → 3 ∉ c.awaits o)) ∧
    (∀ sc, ∃ c h, ActsOn (arg 1 0 0 0 0 (queued [storing] [{ oper .mma true with sc := sc }])) c h ∧ (QuietCompany c ∧ h.queue = [storing] ∧ h.queuePoison = [] ∧
      c.score.wf = true ∧ c.ops = [{ oper .mma true with sc := sc }])) ∧
    (∀ v : Bool, ∃ c h, ActsOn (arg 1 0 0 0 0 (queued [member (if v then 0 else 1) none] [])) c h ∧ (QuietCompany c ∧ h.queue = [member (if v then 0 else 1) none] ∧
      h.queuePoison = [] ∧ c.ops = [] ∧ h.cueCode (if v then 0 else 1) = if v then 3 else 2)) ∧
    (∃ c h, ActsOn (arg 1 0 0 0 0 (queued [member 0 (some true)] [])) c h ∧ (QuietCompany c ∧ h.queue = [member 0 (some true)] ∧ c.ops = [])) ∧
    (∃ c h, ActsOn (arg 1 0 0 0 0 (chorus (fun h => { h with queuePoison := [80] }) (queued [storing] []))) c h ∧ (h.queue = [storing] ∧ storing.name.1 ∈ h.queuePoison)) ∧
    (∃ c h, ActsOn (arg 1 0 0 0 0 (queued [member 1 none] [oper .put false])) c h ∧ (QuietCompany c ∧ c.ops = [oper .put false] ∧ (oper .put false).ensemble = c.ensembleNo h.index ∧
      h.queue = [member 1 none] ∧ h.queuePoison = [] ∧ h.cueCode 1 = 2 ∧ c.members 0 = [0] ∧ h.index = 0)) := by
  simp only [quiet_iff]
  refine ⟨fun claim => ?_, chorus_meets (by decide +kernel), chorus_meets (by decide +kernel), chorus_meets (by decide +kernel), chorus_meets (by decide +kernel),
    fun sc => ?_, fun v => ?_, chorus_meets (by decide +kernel), chorus_meets (by decide +kernel), chorus_meets (by decide +kernel)⟩
  · cases claim
    · exact actor_meets (by decide +kernel)
    · exact actor_meets (by decide +kernel)
  · cases sc
    · exact chorus_meets (by decide +kernel)
    · exact chorus_meets (by decide +kernel)
  · cases v
    · exact chorus_meets (by decide +kernel)
    · exact chorus_meets (by decide +kernel)

/-- A cycle in which chorus 0 has halted, or ended, with a collective that chorus 1 has issued. -/
def sweeping (halted : Bool) : State :=
  { chorus (fun h => { h with halted := if halted then some 0x11 else none, ended := !halted, swept := false }) (company (fun c => { c with
      playbill := { c.playbill with ensemble := 2 }, ops := [{ oper .put false with issued := [(1, 8)], gathered := false, reserved := [] }] }) rich) with
    agenda := [.sweep { co := 1, ch := 0 }] }

theorem witness_SweepResults : ∀ b, (((sweeping b).company? 1).any (fun c => quietTroupeB (sweeping b) c && (c.chorus? 0).any (fun h => !h.swept &&
    (if b then h.halted != none else h.halted == none && h.ended)) && (c.chorus? 1).isSome && decide (c.ops.length = 1))) = true := by decide +kernel

def trapped (scheduler : Bool) : State := chorus (fun h => { h with traps := [{ cause := 0x0A, epc := 8, tval := 1, scheduler := scheduler, split := 0 }] }) rich
theorem witness_AsyncTrapResults : ∀ b, ∃ c h, ActsOn (arg 1 0 0 0 0 (trapped b)) c h ∧ (QuietTroupe (arg 1 0 0 0 0 (trapped b)) c ∧ Apart h ∧ h.chain = none ∧
    h.traps.length = 1 ∧ h.traps.all (fun a => a.scheduler == b && a.split == 0) = true ∧ c.playbill.handler = some 0x40 ∧ h.handler = false ∧
    ∃ p, p ∈ h.splits ∧ p.state = .running ∧ ∀ q, q ∈ h.splits → q.state = .running → q = p) := by
  intro b
  simp only [apart_iff, troupe_iff]
  cases b
  · exact chorus_meets (by decide +kernel)
  · exact chorus_meets (by decide +kernel)

/-- A command that the engine has. -/
def engaged (f : FlyCmd) : State := arg 1 80 0 0 0 (company (fun c => { c with engine := [(0, { f with state := .handed })] }) { mapped with uid := 100 })
def engagedB (s : State) (c : Company) (f : FlyCmd) : Bool :=
  actsB s c && quietB c && decide (c.engine = [(0, f)]) && f.uid == s.arg.b && (f.state == .handed && f.failed == none) && !s.heldBack c 0 f (f.elems c) &&
    (!(f.op == .inn || f.op == .gth) || (c.tile? f.tile).any (fun t => t.state == .filling))
theorem engaged_of {s : State} {c : Company} {f : FlyCmd} (hc : s.company? s.arg.a = some c) (e : engagedB s c f = true) : Engaged s c 0 f := by
  simp only [engagedB, Bool.and_eq_true, decide_eq_true_eq, beq_iff_eq, Bool.not_eq_true', Bool.or_eq_true, Bool.or_eq_false_iff, Option.any_eq_true] at e
  obtain ⟨⟨⟨⟨⟨⟨a, b⟩, d⟩, g⟩, i⟩, j⟩, k⟩ := e
  refine ⟨⟨hc, acts_of a⟩, (quiet_iff c).2 b, ⟨by rw [d]; exact List.mem_cons_self, g, i⟩, fun e h _ => by rw [d] at h; exact List.mem_singleton.1 h, fun h => ?_, j⟩
  rcases k with k | k
  · rcases h with h | h <;> simp [h] at k
  · exact k
/-- The engine has the command `f`, and a decidable property holds. -/
theorem engaged_meets {s : State} {f : FlyCmd} {H : Company → Prop} [DecidablePred H]
    (e : (s.company? s.arg.a).any (fun c => engagedB s c f && decide (H c)) = true) : ∃ c, Engaged s c 0 f ∧ H c := by
  simp only [Option.any_eq_true, Bool.and_eq_true, decide_eq_true_eq] at e
  obtain ⟨c, hc, a, h⟩ := e
  exact ⟨c, engaged_of hc a, h⟩

/-- A copy of 128 bytes within the stage, and a box of one element at 0x1000, read or written. -/
def copying : FlyCmd := { cmd .cp 0 with record := none, srcSpace := 2, dstSpace := 2, src := 0, dst := 64, len := 128, state := .handed }
def oneBox : Record := { box with box := [1, 1, 1, 1, 1] }
def single (op : FlyOp) : FlyCmd := { cmd op 0 with record := some oneBox, begun := true, todo := [0], state := .handed }
def double (op : FlyOp) : FlyCmd := { single op with record := some { oneBox with box := [64, 1, 1, 1, 1], extents := [64, 64, 1, 1, 1] }, todo := [0, 40] }
def element : Elem := { idx := 0, lane := 0, bit := some 32768, width := 32, cell := some (8 * 12288), score := none }
/-- `engaged` without a translation, or with a guarded one. -/
def unmapped (f : FlyCmd) : State := { (engaged f) with cores := rich.cores }
def guardedPages (f : FlyCmd) : State := { (engaged f) with cores := mapped.cores.map (fun (k : Core) => { k with tlb := k.tlb.map (fun (e : TlbEntry) => { e with g := true }) }) }

def oneLineB (s : State) (c : Company) (f : FlyCmd) : Bool :=
  f.begun && f.denials.isEmpty && decide ((f.elems c).filter (fun d => f.lineOf d == s.arg.c && f.todo.contains d.idx) = [element]) && f.remote.isEmpty &&
    (s.missing c f [element]).isEmpty
theorem line_meets {s : State} {f : FlyCmd} {H : Company → Prop} [DecidablePred H]
    (e : (s.company? s.arg.a).any (fun c => engagedB s c f && (oneLineB s c f && decide (H c))) = true) : ∃ c, OneLine s c 0 f element ∧ H c := by
  simp only [Option.any_eq_true, Bool.and_eq_true, decide_eq_true_eq, oneLineB, List.isEmpty_iff] at e
  obtain ⟨c, hc, a, ⟨⟨⟨⟨b, n⟩, d⟩, r⟩, m⟩, h⟩ := e
  exact ⟨c, ⟨engaged_of hc a, b, n, d, by rw [r]; simp, m⟩, h⟩

def atLine (s : State) : State := { s with arg := { s.arg with c := 32 } }

theorem witness_FlyLineResults :
    (∃ c, Engaged (atLine (unmapped (single .inn))) c 0 (single .inn) ∧ ((atLine (unmapped (single .inn))).missing c (single .inn) ((single .inn).elems c) =
      [(4096, .read), (4099, .read)] ∧ (atLine (unmapped (single .inn))).walks = [] ∧ ((single .inn).elems c).map (single .inn).lineOf = [32])) ∧
    (∃ c, Engaged (engaged copying) c 0 copying ∧ c.stage.wf = true) ∧
    (∀ op, (op = .inn ∨ op = .out) → ∃ c, OneLine (atLine (engaged (single op))) c 0 (single op) element ∧
      (match (atLine (engaged (single op))).translate c.core c.ctx 4096 (single op).access with
        | (.ok e1, u) => (List.range 4).all (fun j => e1.at_ (4096 + j) == e1.at_ 4096 + j && (u.lineOf (e1.at_ (4096 + j))).isNone) && !e1.g &&
            !isPeer (e1.phys 4096) && u.mem.wf && decide ((u.readChecks c.core c.ctx (principalFor (single op) element) (checksOf e1 4096 4099)).1 = .granted)
        | _ => false) = true) ∧
    (∃ c, OneLine (atLine (guardedPages (double .inn))) c 0 (double .inn) element ∧
      (match (atLine (guardedPages (double .inn))).translate c.core c.ctx 4096 .read with
        | (.ok e1, u) => decide ((u.readChecks c.core c.ctx (principalFor (double .inn) element) (checksOf e1 4096 4099)).1 = .denied e1 4096)
        | _ => false) = true ∧ ((double .inn).elems c).any (fun d => d.idx == 1 && d.bit == some 32800) = true) := by
  refine ⟨engaged_meets (by decide +kernel), engaged_meets (by decide +kernel), ?_, line_meets (by decide +kernel)⟩
  rintro op (rfl | rfl)
  · exact line_meets (by decide +kernel)
  · exact line_meets (by decide +kernel)

/-- The line holds the last bytes that the command reads of its source tile; the rest has gone to a peer. -/
def lastLine : FlyCmd := { single .out with reading := true, todo := [0] }
theorem witness_last_read : ∃ c, OneLine (atLine (engaged lastLine)) c 0 lastLine element ∧ lastLine.reading = true := line_meets (by decide +kernel)

/-- Everything of the command is done. -/
def completedCmd (f : FlyCmd) : FlyCmd := { f with begun := true, todo := [] }
def walking (stale : Bool) : State := arg 7 0 0 0 0 { mapped with walks := [{ uid := 7, ctx := 0, core := 0, va := 0x1000, access := 0, who := .fly 1 80, stale := stale }] }
def acked : AggregateAck := { co := 1, cmd := 80, members := 2, positive := 2, negatives := [] }

/-- A command that has failed, once its deny records are written. -/
def lost : FlyCmd := { single .out with failed := some (0x0C, 0x20), reading := true }
theorem witness_failed_command : ∃ c, Actor (engaged lost) c ∧ (QuietCompany c ∧ c.engine = [(0, lost)] ∧ lost.uid = (engaged lost).arg.b ∧ lost.state = .handed ∧
    lost.denials = [] ∧ (c.chorus? 0).isSome = true) := by
  simp only [quiet_iff]; exact actor_meets (by decide +kernel)

theorem witness_FlyCompletionResults :
    (∃ c, Engaged (engaged (completedCmd (single .inn))) c 0 (completedCmd (single .inn)) ∧ ((c.chorus? 0).isSome = true ∧ ∀ o, o ∈ c.ops → 3 ∉ c.awaits o)) ∧
    (∃ w, (walking true).walks.find? (fun v => v.uid == 7) = some w ∧ w.stale = true) ∧
    (∃ w, (walking false).walks.find? (fun v => v.uid == 7) = some w ∧ (w.stale = false ∧ w.access = 0 ∧
      (match State.translate { walking false with walks := [] } w.core w.ctx w.va.toNat .read with | (.ok _, _) => true | _ => false) = true)) ∧
    (∃ c, Engaged { engaged { cmd .mc 0 with begun := true } with arg := { (arg 1 80 0 0 0 rich).arg with x := .ack acked } } c 0 { cmd .mc 0 with begun := true, state := .handed } ∧ True) :=
  ⟨engaged_meets (by decide +kernel), some_meets (by decide +kernel), some_meets (by decide +kernel), engaged_meets (by decide +kernel)⟩

/-- The array of the core has the operation `o`, and the operand tiles are 16 by 32 INT8 elements. -/
def array (o : MxOp) (q : List QueueEntry) : State :=
  arg 1 81 0 0 0 (chorus (fun h => { h with queue := q }) (company (fun c => { c with ops := [o], tiles := updAt c.tiles 1 (fun _ => operandTile) }) rich))
def worksB (s : State) (c : Company) (o : MxOp) : Bool := actsB s c && quietTroupeB s c && decide (c.ops = [o]) && o.uid == s.arg.b
/-- The array of the event's company has the operation, and a decidable property holds. -/
theorem works_meets {s : State} {o : MxOp} {H : Company → Prop} [DecidablePred H]
    (e : (s.company? s.arg.a).any (fun c => worksB s c o && decide (H c)) = true) : ∃ c, Works s c o ∧ H c := by
  simp only [Option.any_eq_true, Bool.and_eq_true, decide_eq_true_eq, worksB, beq_iff_eq] at e
  obtain ⟨c, hc, ⟨⟨⟨a, b⟩, d⟩, g⟩, h⟩ := e
  exact ⟨c, ⟨⟨hc, acts_of a⟩, (troupe_iff s c).2 b, ⟨by rw [d]; exact List.mem_cons_self, g⟩, fun q h _ => by rw [d] at h; exact List.mem_singleton.1 h⟩, h⟩

def heads : List QueueEntry := [member 0 (some true)]
def atBoundary : MxOp := { oper .put true with paused := true }
def ended (k : MxKind) : MxOp := { oper k true with finished := true, reserved := [], tileA := 3 }
theorem witness_MatrixStartAndEndResults :
    (∃ c, Works (array (oper .put false) heads) c (oper .put false) ∧ (c.members 0 = [0] ∧ (c.chorus? 0).any (fun h => h.queue == heads) = true ∧
      c.awaits (oper .put false) = [] ∧ (array (oper .put false) heads).stops c = false ∧
      ∀ k, k ∈ (array (oper .put false) heads).companies → ∀ q, q ∈ k.ops → q.started = false)) ∧
    (∃ c, Works (array (oper .mma false) heads) c (oper .mma false) ∧ (c.awaits (oper .mma false) = [] ∧ (c.chorus? 0).any (fun h => h.queue == heads) = true ∧
      (c.productFail (oper .mma false)).isNone = true)) ∧
    (∃ c, Works (array atBoundary []) c atBoundary ∧ ((array atBoundary []).stops c = false ∧
      ∀ k, k ∈ (array atBoundary []).companies → ∀ q, q ∈ k.ops → q.started = true → q.finished = true ∨ q.paused = true)) ∧
    (∃ c, Works (array (ended .zero) []) c (ended .zero) ∧ ∀ h, h ∈ c.choruses → h.queue = []) ∧
    (∃ c, Works (array (ended .get) []) c (ended .get) ∧ ((c.tile? 3).any (fun t => t.state == .filling) = true ∧ ∀ p, p ∈ c.ops → 3 ∉ c.awaits p)) :=
  ⟨works_meets (by decide +kernel), works_meets (by decide +kernel), works_meets (by decide +kernel), works_meets (by decide +kernel), works_meets (by decide +kernel)⟩

/-- An error of the array in an output that the understudy checks in step 0, and in one that it does not; a poisoned operand and accumulator. -/
theorem witness_step_errors : (∀ j, j < 2 → ∃ c, Works (array (oper .mma true) []) c (oper .mma true) ∧ j < shapeN (oper .mma true).shape ∧ c.stagePoison = [] ∧
    ((oper .mma true).issued.map (·.1)).Nodup ∧ (0x3F800000 : Word).getLsbD 31 ≠ (0x3F800000 ^^^ 0x80000000 : Word).getLsbD 31) ∧
    (∃ i, i < shapeM (oper .mma true).shape ∧ operandTile.bitAt i (32 * (oper .mma true).next) / 8 / 32 = 128 ∧ 0 < formatBits operandTile.format) := by
  refine ⟨fun j h => ?_, ⟨0, by decide +kernel, by decide +kernel, by decide +kernel⟩⟩
  obtain ⟨c, a, b⟩ := works_meets (s := array (oper .mma true) []) (o := oper .mma true) (H := fun c => c.stagePoison = []) (by decide +kernel)
  exact ⟨c, a, lt_trans h (by decide +kernel), b, by decide +kernel, by decide +kernel⟩

theorem witness_MatrixStepResults : ∀ k, k ∈ [MxKind.mma, .zero, .put, .get] → ∃ c, Works (array (oper k true) []) c (oper k true) ∧
    ((oper k true).due ≤ (array (oper k true) []).vtTicks c.ctx ∧ c.acc.Pairwise (fun p q => p.1 < q.1) ∧ c.acc = [] ∧ shapeM (oper k true).shape = 16 ∧ shapeN (oper k true).shape = 16 ∧ c.tile? 1 = some operandTile ∧
      (c.region? 0).isSome = true ∧ c.mxUpset = [] ∧ c.stagePoison = [] ∧ c.scorePoison = [] ∧ c.stage.wf = true) := by
  intro k h
  have e : ∀ k, k ∈ [MxKind.mma, .zero, .put, .get] → ((array (oper k true) []).company? (array (oper k true) []).arg.a).any (fun c => worksB (array (oper k true) []) c (oper k true) && decide
    ((oper k true).due ≤ (array (oper k true) []).vtTicks c.ctx ∧ c.acc.Pairwise (fun p q => p.1 < q.1) ∧ c.acc = [] ∧ shapeM (oper k true).shape = 16 ∧ shapeN (oper k true).shape = 16 ∧ c.tile? 1 = some operandTile ∧
      (c.region? 0).isSome = true ∧ c.mxUpset = [] ∧ c.stagePoison = [] ∧ c.scorePoison = [] ∧ c.stage.wf = true)) = true := by decide +kernel
  exact works_meets (e k h)
/-- `mx.get` of a tile of 16 columns. -/
theorem witness_get_step : ∃ c, Works (array { oper .get true with tileA := 3 } []) c { oper .get true with tileA := 3 } ∧ (c.tile? 3).any (fun t => t.cols == 16) = true :=
  works_meets (by decide +kernel)

/-! ## Translation, contexts and queues (R251 to R259, R304 to R318) -/

/-- A request of the access 1 for a page, as the device holds it, and its entry of a ring. -/
def request (fn stage : Nat) (tag : Option Nat) (w : List Waiter) : PageReq :=
  { fn := fn, stage := stage, page := 0x5000, addr := 0x5ABC, ctx := 0, pasid := 0, access := 1, tag := tag, blocked := false, waiters := w }
def asks (q : PageReq) (s : State) : State := { s with requests := [q] }
/-- Function 3 is enabled. -/
def withFn (s : State) : State := { s with funcs := s.funcs ++ [{ Func.init 3 with enabled := true }] }

/-- A request of the physical function on ring 1, and one of a virtual function on the ring of stage 2. -/
theorem witness_PageRequestResults :
    (∃ f, RingOf (arg 0 1 0 0 0 (asks (request 0 1 none []) rich)) f ∧ ((arg 0 1 0 0 0 (asks (request 0 1 none []) rich)).nextRequest f.num 1 = some (request 0 1 none []) ∧
      (ringOf f 1).wr - (ringOf f 1).rd = 0 ∧ rich.mem.wf = true)) ∧
    (∃ f, RingOf (arg 3 2 0 0 0 (asks (request 3 2 none []) (withFn rich))) f ∧ ((arg 3 2 0 0 0 (asks (request 3 2 none []) (withFn rich))).nextRequest f.num 2 = some (request 3 2 none []) ∧
      f.num = 3 ∧ ∀ g, g ∈ (withFn rich).funcs → g.num = f.num → g = f)) ∧
    (∃ q, (asks (request 0 1 (some 31) [.lane 1 0]) rich).requests.find? (fun q => q.fn == 0 && q.stage == 1 && q.tag == some ((31 : BitVec 64).toNat % 32)) = some q ∧
      ((∀ w, w ∈ q.waiters → w = .lane 1 0) ∧ bits (31 : BitVec 64).toNat 9 8 = 0 ∧ bits (0x11F : BitVec 64).toNat 9 8 = 1)) := by
  refine ⟨?_, ?_, some_meets (by decide +kernel)⟩
  · obtain ⟨f, hf, h⟩ := some_meets (o := (arg 0 1 0 0 0 (asks (request 0 1 none []) rich)).func? 0) (H := fun f => f.enabled = true ∧
      ((arg 0 1 0 0 0 (asks (request 0 1 none []) rich)).nextRequest f.num 1 = some (request 0 1 none []) ∧ (ringOf f 1).wr - (ringOf f 1).rd = 0 ∧ rich.mem.wf = true)) (by decide +kernel)
    exact ⟨f, ⟨hf, h.1, .inl rfl⟩, h.2⟩
  · obtain ⟨f, hf, h⟩ := some_meets (o := (arg 3 2 0 0 0 (asks (request 3 2 none []) (withFn rich))).func? 3) (H := fun f => f.enabled = true ∧
      ((arg 3 2 0 0 0 (asks (request 3 2 none []) (withFn rich))).nextRequest f.num 2 = some (request 3 2 none []) ∧ f.num = 3 ∧ ∀ g, g ∈ (withFn rich).funcs → g.num = f.num → g = f))
      (by decide +kernel)
    exact ⟨f, ⟨hf, h.1, .inr rfl⟩, h.2⟩

/-- The failed request of a command that has something left to do, of one that has failed already, and of each other waiter. -/
theorem witness_failed_request : (∃ c, (asks (request 0 1 (some 31) [.fly 1 80]) (engaged (single .out))).company? 1 = some c ∧
    (c.engine = [(0, single .out)] ∧ (c.chorus? 0).isSome = true ∧ (single .out).state ≠ .done ∧ (single .out).todo ≠ [] ∧ (single .out).uid = 80 ∧
      (single .out).failed = none ∧ (single .out).denials = [] ∧ quietB c = true)) ∧
    (∃ c, (asks (request 0 1 (some 31) [.fly 1 80]) (engaged lost)).company? 1 = some c ∧ (c.engine = [(0, lost)] ∧ lost.state ≠ .done ∧ lost.uid = 80 ∧ lost.failed ≠ none)) ∧
    (∀ w, w ∈ [Waiter.lane 1 0, .front 0 15, .mirror 0 15, .copy 1, .record 0] → ∃ q, (asks (request 0 1 (some 31) [w]) rich).requests.find? (fun q => q.fn == 0 && q.stage == 1 &&
      q.tag == some ((0x11F : BitVec 64).toNat % 32)) = some q ∧ q.waiters = [w]) ∧
    ∃ c, (rich.modContext 0 (fun c => { c with records := [{ tag := 0, fm := 0, troupe := 0, run := 0, company := 0, status := 2, queue := 0, kind := 3 }] })).context? 0 = some c ∧
      c.records.any (fun e => e.kind == 3) = true := by
  refine ⟨some_meets (by decide +kernel), some_meets (by decide +kernel), fun w h => ?_, some_meets (by decide +kernel)⟩
  fin_cases h
  all_goals exact some_meets (by decide +kernel)

def invalidating (fn : Nat) (v : BitVec 64) : State := arg fn 0 0 0 v (withFn rich)
theorem witness_InvalidationResults : ∀ k, k < 5 → ∃ f, InvalidationWrite (invalidating 0 (BitVec.ofNat 64 (0x30000 + k))) f k ∧ f.num = 0 := by
  have e : ∀ k, k < 5 → ((invalidating 0 (BitVec.ofNat 64 (0x30000 + k))).func? 0).any (fun f => decide (f.enabled = true ∧ f.xlinvCtl.getLsbD 63 = false ∧
      (BitVec.ofNat 64 (0x30000 + k)).toNat % 16 = k ∧ f.num = 0)) = true := by decide +kernel
  intro k h
  obtain ⟨f, hf, a, b, c, d⟩ := some_meets (e k h)
  exact ⟨f, ⟨hf, a, b, c⟩, d⟩
theorem witness_stage2_page : ((withFn rich).func? (bits (0x30003 : BitVec 64).toNat 22 16)).any (fun g => g.enabled) = true ∧ bits (0x30003 : BitVec 64).toNat 22 16 ≠ 0 := by decide +kernel
def busyInvalidation : State := { withFn rich with funcs := rich.funcs.map (fun (f : Func) => if f.num = 0 then { f with xlinvCtl := 0x8000000000000000 } else f) }
def granted : State := arg 0 5 0 7 0 (rich.setCore { Core.init 0 with grants := [{ ctx := 5, principal := 0, tag := 7, bit := true }] })
theorem witness_invalidation_ends : (∃ f, busyInvalidation.func? 0 = some f ∧ (f.xlinvCtl.getLsbD 63 = true ∧ busyInvalidation.walks = [] ∧ busyInvalidation.sent = [])) ∧
    (∃ w, w ∈ [({ uid := 7, ctx := 0, core := 0, va := 0x1000, access := 0, who := .fly 1 80, stale := true } : Walk)] ∧ w.stale = true ∧ (busyInvalidation.roots w.ctx).1 = 0) ∧
    ∃ g, g ∈ (granted.core granted.arg.a).grants ∧ g.ctx = granted.arg.b ∧ g.principal.toNat = granted.arg.c ∧ g.tag.toNat = granted.arg.d :=
  ⟨some_meets (by decide +kernel), by decide +kernel, by decide +kernel⟩

/-- A context 5 of function 0 on page 3. -/
def withCtx (f : Context → Context) (s : State) : State := { s with contexts := s.contexts ++ [f (Context.init 5 0 3)] }
def logCtl : BitVec 64 := 0x00000010
def dying (c : Context) : Context := { c with state := .resident, destroying := true }
/-- Context 5 with a run of its own; a company of it with an access in flight, or not. -/
def runner : State := { withCtx (fun c => { c with state := .resident, onStage := true, lastRun := 1 }) rich with runs := [{ richRun with ctx := 5 }] }
def withAccess (l : List InFlight) : State := { runner with companies := [{ Company.start 1 { richRun with ctx := 5 } 0 0 0 0 0 with
  choruses := [{ Chorus.start 0 bill 32 [] 0 0 0 with inflight := l }] }] }
def killedRun : State := { runner with runs := [{ richRun with ctx := 5, killed := some (6, 0) }] }
/-- Contexts 5 with a green room at 16 MiB, and the event that names a place for another. -/
def roomed (v : BitVec 64) (n : Nat) : State := arg 0 3 n 0 v (withCtx (fun c => { c with page := 4, green := 0x1000000, greenSize := 0x10000 }) rich)

theorem witness_ContextLifeResults :
    ((rich.func? 0).any (fun f => f.enabled) = true ∧ rich.page? 0 255 = none ∧ ∀ c, c ∈ rich.contexts → c.id ≠ 4095) ∧
    (GreenFree (roomed 0x1010000 128) ∧ GreenFree (roomed 0xFFFF80 128) ∧ GreenFree (roomed 0x7FFFFFFF80 128)) ∧
    (∃ c, OnPage (arg 0 3 0 0 0 (withCtx (fun c => { c with evCtl := logCtl }) rich)) c ∧ (c.state = .created ∧ 4 ≤ c.evCtl.toNat % 32 ∧ c.evCtl.toNat % 32 ≤ 16)) ∧
    (∃ c, OnPage (arg 0 3 0 0 0 runner) c ∧ (runner.context? c.id = some c ∧ c.destroying = false ∧ runner.runs.Pairwise (fun p q => ¬ (p.ctx = q.ctx ∧ p.id = q.id)) ∧
      c.id ≠ 0 ∧ ∃ r, r ∈ runner.runs ∧ r.ctx = c.id ∧ r.ending = none ∧ r.killed = none)) ∧
    ((∀ k, k ∈ (withAccess []).companies → ∀ h, h ∈ k.choruses → h.inflight = []) ∧ AccessesInFlight (withAccess [{ uid := 9, reads := false, members := 1, tags := [], tile := none, rows := [], house := [], since := 0 }]) { richRun with ctx := 5 }) ∧
    (∃ r, killedRun.run? 5 1 = some r ∧ (r.ending = none ∧ r.killed = some (6, 0) ∧ (killedRun.context? 5).isSome = true ∧ killedRun.companies.all (fun k => k.ctx != 5) = true)) ∧
    (∃ c, (withCtx dying rich).context? 5 = some c ∧ (c.destroying = true ∧ c.records = [] ∧ ∀ r, r ∈ (withCtx dying rich).runs → r.ctx ≠ c.id)) ∧
    (∃ c, (withCtx (fun c => { c with state := .saved }) rich).context? 5 = some c ∧ (c.state = .saved ∧ c.destroying = false ∧ c.id ≠ 0)) := by
  refine ⟨by decide +kernel, by unfold GreenFree; decide +kernel, some_meets (by decide +kernel), some_meets (by decide +kernel), ⟨by decide +kernel, _, _, List.mem_singleton.2 rfl, by decide +kernel, by decide +kernel, List.mem_singleton.2 rfl, by decide +kernel⟩,
    some_meets (by decide +kernel), some_meets (by decide +kernel), some_meets (by decide +kernel)⟩

/-- Clusters 1 and 47 are free for a partition of context 5 with 64 KiB of the cisterns of their dies; clusters 0 and 1 for context 0, which gives up none,
or cluster 1 alone, for which it gives up its own. -/
def assigning (ctx : Nat) (ks : List Nat) (slot quotas : Nat) (s : State) : State := { s with arg := { (arg ctx slot quotas 0 0 s).arg with x := .ids ks } }
def awakened : State := { rich with clusters := rich.clusters.map (fun (k : Cluster) => if k.num = 1 then { k with power := .on } else k) }
theorem assigns_meets {s : State} {ks : List Nat} {H : Context → Prop} [DecidablePred H] (x : s.arg.x = .ids ks)
    (e : (s.context? s.arg.a).any (fun c => decide (ks ≠ [] ∧ s.arg.b < 1024) &&
      ks.all (fun k => decide (k < 48) && ((s.cluster k).owner == none || (s.cluster k).owner == some c.id) && (s.cluster k).available &&
        !(s.die (k / 6)).outOfService && s.clusters.any (fun q => q.num == k)) &&
      (List.range 8).all (fun d => decide (total ((s.contexts.filter (fun x => x.id != c.id && x.state == .resident)).map (fun x => x.quotas.getD d 0)) + quotaOf s ks d ≤ (s.die d).cistern)) &&
      decide (H c)) = true) : ∃ c, Assigns s c ks ∧ H c := by
  simp only [Option.any_eq_true, decide_eq_true_eq, Bool.and_eq_true, List.all_eq_true, Bool.or_eq_true, beq_iff_eq, Bool.not_eq_true', List.any_eq_true, List.mem_range, and_assoc] at e
  obtain ⟨c, hc, b, d, k, q, h⟩ := e
  exact ⟨c, ⟨⟨x, hc, b, d⟩, k, q⟩, h⟩
theorem witness_partition :
    (∃ c, Assigns (assigning 5 [1, 47] 1023 (1 + 2048 ^ 7) (withCtx (fun c => { c with state := .saved }) rich)) c [1, 47] ∧
      (c.state = .saved ∧ c.destroying = false ∧ c.id ≠ 0)) ∧
    (∀ ks, ks ∈ [[0, 1], [1]] → ∃ c, Assigns (assigning 0 ks 0 1 awakened) c ks ∧ (c.id = 0 ∧ ∀ k, k ∈ ks → (awakened.cluster k).power = .on)) := by
  refine ⟨assigns_meets rfl (by decide +kernel), fun ks h => ?_⟩
  fin_cases h
  · exact assigns_meets rfl (by decide +kernel)
  · exact assigns_meets rfl (by decide +kernel)

theorem witness_RegisterWriteResults :
    (∃ c, OnPage (arg 0 3 0 0 4096 (withCtx id rich)) c ∧ (4096 : BitVec 64).toNat % 8192 ≤ 4096) ∧ (∃ c, OnPage (arg 0 3 0 0 4097 (withCtx id rich)) c ∧ 4096 < (4097 : BitVec 64).toNat % 8192) ∧
    (∃ c, OnPage (arg 0 3 0 0 logCtl (withCtx id rich)) c ∧ (c.evWr = c.evRd ∧ c.state = .created ∧ 4 ≤ logCtl.toNat % 32 ∧ logCtl.toNat % 32 ≤ 16)) ∧
    (∃ c, OnPage (arg 0 3 0 0 3 (withCtx id rich)) c ∧ (c.evWr = c.evRd ∧ c.state = .created ∧ ¬ 4 ≤ (3 : BitVec 64).toNat % 32)) ∧
    (∃ c, OnPage (arg 0 3 0 0 0 runner) c ∧ (c.evWr = c.evRd ∧ c.state ≠ .created)) ∧
    (∃ c, OnPage (arg 0 3 0 0 0x100 (withCtx (fun c => { c with state := .saved, evWr := 1, evCtl := 0x07FF0010 }) rich)) c ∧ (c.evWr ≠ c.evRd ∧ c.state ≠ .created ∧
      (0x100 : BitVec 64).getLsbD 8 = true ∧ bits c.evCtl.toNat 26 16 < vectors c.fn)) ∧
    (∀ off, off ∈ [0x008, 0x020, 0x060, 0x100, 0x100 + 32 * 15, 0x110 + 32 * 15] → (withCtx id rich).page? 0 ((0x103000 + off - 0x100000) / 0x1000) = some (Context.init 5 0 3) ∧
      0x103000 + off = 0x100000 + 0x1000 * ((0x103000 + off - 0x100000) / 0x1000) + off) :=
  ⟨some_meets (by decide +kernel), some_meets (by decide +kernel), some_meets (by decide +kernel), some_meets (by decide +kernel), some_meets (by decide +kernel),
    some_meets (by decide +kernel), by decide +kernel⟩

/-- Page 3 has a context with sixteen queues, page 255 has none; function 3 is enabled; there are 16 ports. -/
theorem witness_RegisterReadResults :
    (∃ c, (withCtx id rich).page? 0 3 = some c ∧ ((∃ f, rich.func? 0 = some f ∧ f.enabled = true) ∧ ∀ k, k < 16 → (c.queues[k]?).isSome = true)) ∧
    rich.page? 0 255 = none ∧ (∃ f, (withFn rich).func? 3 = some f ∧ f.enabled = true) ∧ (∃ f, rich.func? 0 = some f ∧ (f.enabled = true ∧ f.num = 0)) ∧
    ∀ k, k < 16 → (rich.ports[k]?).isSome = true := by
  refine ⟨some_meets (by decide +kernel), by decide +kernel, some_meets (by decide +kernel), some_meets (by decide +kernel), by decide +kernel⟩

/-! ### Packets: context 5 with its first gigabyte mapped onto itself, and a queue of 16 slots at 0x20000 -/

/-- A slot of a packet of a type and `n` slots, with values at offsets. -/
def slot (type n seq : Nat) (fs : List (Nat × Nat)) : Nat := total ((1, n - 1) :: (0, type) :: (4, seq) :: fs |>.map (fun f => f.2 * 256 ^ f.1))
def stored (xs : List (Nat × Nat × Nat)) (m : Memory) : Memory := xs.foldl (fun m x => m.writeLE (place 0 x.1) x.2.1 x.2.2) m
def tables : Memory := stored [(0x10000, 8, 0x11001), (0x11000, 8, 0x3F)] []
def ring : Queue := { Queue.init with base := 0x20000, ctl := 0x109, mirror := 0x30000, w := 2 }
def context5 (f : Queue → Queue) : Context :=
  { Context.init 5 0 3 with
    state := .resident, onStage := true, root := 0x10000, pcount := 16, policy := 0x60000, partition := [1], green := 0x100000, greenSize := 0x8000000
    queues := updAt (List.replicate 16 Queue.init) 0 (fun _ => f ring) }
/-- The slots, and other contents of memory. -/
def posted (f : Queue → Queue) (slots : List Nat) (xs : List (Nat × Nat × Nat)) : State :=
  arg 5 0 0 0 0 { rich with
    mem := stored (xs ++ ((List.range slots.length).zip slots).map (fun p => (0x20000 + 64 * p.1, 64, p.2))) tables
    clusters := rich.clusters.map (fun (k : Cluster) => if k.num = 1 then { k with owner := some 5 } else k)
    contexts := rich.contexts ++ [context5 f] }

theorem packet_meets {s : State} {type n : Nat} {H : Context → Queue → List Byte → State → Prop} [∀ c q b u, Decidable (H c q b u)]
    (e : (s.context? s.arg.a).any (fun c => c.id == s.arg.a && (c.queues[s.arg.b]?).any (fun q => s.prompts c s.arg.b q && q.hold == .none && q.reread == none &&
      decide (q.rd < q.w) && (match (s.head c.id s.arg.b q).1 with
        | .packet t m body => t == type && m == n && decide (H c q body (s.head c.id s.arg.b q).2) | _ => false))) = true) :
    ∃ c q body u, Packet s c q type n body u ∧ H c q body u := by
  simp only [Option.any_eq_true, Bool.and_eq_true, decide_eq_true_eq, beq_iff_eq] at e
  obtain ⟨c, hc, hi, q, hq, ⟨⟨⟨p, a⟩, b⟩, d⟩, k⟩ := e
  split at k
  · rename_i t m body hb
    simp only [Bool.and_eq_true, decide_eq_true_eq, beq_iff_eq] at k
    obtain ⟨⟨rfl, rfl⟩, k⟩ := k
    exact ⟨c, q, body, _, ⟨⟨hc, hi⟩, hq, p, ⟨a, b, d⟩, Prod.ext hb rfl⟩, k⟩
  · cases k

/-- A range translates whole, to one piece at the same address, on lines of the context. -/
def ownB (u : State) (loc n : Nat) : Bool := (List.range n).all (fun k => (u.lineOf (loc + k)).all (fun t => t.key == some 5))
def reachedB (r : Option (List Piece) × Asked × State) (va n : Nat) : Bool :=
  r.1 == some [⟨place 0 va, n, 0⟩] && r.2.2.mem.wf && ownB r.2.2 (place 0 va) n

/-- WRITE of 256 bytes in six slots, and of more; SIGNAL that adds; WRITE_SIGNAL; WAIT that holds and that does not; FENCE; GRANT, and one
from a queue that may not. -/
def sixSlots (first : Nat) : List Nat := first :: (List.range 5).map (fun k => slot 0 1 (k + 1) [])
theorem witness_PacketResults :
    (∃ c q body u, Packet (posted (fun q => { q with w := 6 }) (sixSlots (slot 3 5 0 [(8, 0x70000), (16, 256)])) []) c q 3 5 body u ∧
      (fieldOf body 0x10 4 = 256 ∧ slotCount 0x18 256 ≤ 5 ∧ body.length = 64 * 5 ∧ reachedB (u.askPlaces 5 0 0x70000 256 .write) 0x70000 256 = true)) ∧
    (∃ c q body u, Packet (posted id [slot 3 1 0 [(8, 0x70000), (16, 257)]] []) c q 3 1 body u ∧ 256 < fieldOf body 0x10 4) ∧
    (∃ c q body u, Packet (posted id [slot 3 1 0 [(8, 0x70000)]] []) c q 3 1 body u ∧ fieldOf body 0x10 4 = 0) ∧
    (∃ c q body u, Packet (posted id [slot 3 1 0 [(8, 0x70000), (16, 41)]] []) c q 3 1 body u ∧ (fieldOf body 0x10 4 ≤ 256 ∧ 1 < slotCount 0x18 (fieldOf body 0x10 4))) ∧
    (∃ c q body u, Packet { posted id [slot 4 1 0 [(8, 0x70000), (16, 7), (24, 1)]] [] with memPoison := [place 0 0x70000 / 32] } c q 4 1 body u ∧ (fieldOf body 0x18 8 = 1 ∧
      reachedB (u.askPlaces 5 0 0x70000 8 .rmw) 0x70000 8 = true ∧ poisoned (u.askPlaces 5 0 0x70000 8 .rmw).2.2.memPoison (place 0 0x70000) 8 = true)) ∧
    (∃ c q body u, Packet (posted id [slot 4 1 0 [(8, 0x70000), (16, 7), (24, 1)]] []) c q 4 1 body u ∧ (fieldOf body 0x08 8 % 8 = 0 ∧ fieldOf body 0x18 8 ≤ 1 ∧
      reachedB (u.askPlaces 5 0 0x70000 8 .rmw) 0x70000 8 = true ∧ poisoned (u.askPlaces 5 0 0x70000 8 .rmw).2.2.memPoison (place 0 0x70000) 8 = false)) ∧
    (∃ c q body u, Packet (posted id [slot 5 1 0 [(8, 0x70000), (16, 16), (0x18, 0x71000), (0x20, 9), (0x28, 1)]] []) c q 5 1 body u ∧ (fieldOf body 0x10 4 = 16 ∧ slotCount 0x30 16 ≤ 1 ∧
      fieldOf body 0x28 1 = 1 ∧ reachedB (u.askPlaces 5 0 0x70000 16 .write) 0x70000 16 = true ∧
      reachedB ((u.askPlaces 5 0 0x70000 16 .write).2.2.askPlaces 5 0 0x71000 8 .rmw) 0x71000 8 = true ∧
      poisoned ((u.askPlaces 5 0 0x70000 16 .write).2.2.askPlaces 5 0 0x71000 8 .rmw).2.2.memPoison (place 0 0x71000) 8 = false)) ∧
    (∃ c q body u, Packet (posted id [slot 6 1 0 [(8, 0x70000), (0x20, 3)]] []) c q 6 1 body u ∧ (fieldOf body 0x20 8 ≤ 3 ∧ (u.ask 5 0 0x70000 8 .read).1 = .data (List.replicate 8 0))) ∧
    (∃ c q body u, Packet (posted (fun q => { q with open_ := [3] }) [slot 7 1 0 []] []) c q 7 1 body u ∧ q.open_ ≠ []) ∧
    (∃ c q body u, Packet (posted id [slot 7 1 0 []] []) c q 7 1 body u ∧ (q.open_ = [] ∧ c.records = [])) ∧
    (∃ c q body u, Packet (posted id [slot 8 1 0 [(8, 15), (0x0C, 8184), (0x10, 8)]] []) c q 8 1 body u ∧ (q.ctl.getLsbD 8 = true ∧ fieldOf body 0x08 2 < c.pcount ∧
      fieldOf body 0x0C 4 + fieldOf body 0x10 4 ≤ 8192 ∧ reachedB (policyPlaces u c 0 [] (pieces 2 (c.policy.toNat + 8192 * 15 + 8184) 8)) (0x60000 + 8192 * 15 + 8184) 8 = true)) ∧
    (∃ c q body u, Packet (posted (fun q => { q with ctl := 9 }) [slot 8 1 0 []] []) c q 8 1 body u ∧ q.ctl.getLsbD 8 = false) := by
  refine ⟨packet_meets ?_, packet_meets ?_, packet_meets ?_, packet_meets ?_, packet_meets ?_, packet_meets ?_, packet_meets ?_, packet_meets ?_, packet_meets ?_,
    packet_meets ?_, packet_meets ?_, packet_meets ?_⟩
  all_goals decide +kernel

/-- A queue held by a WAIT, whose word can be read or cannot, or by a FENCE; a continuation at the head, and a packet whose second slot cannot be read. -/
theorem witness_held_queues :
    (∃ c, (posted (fun q => { q with hold := .wait 0x70000 1 1 0 0 }) [] []).context? 5 = some c ∧ ((c.queues[0]?).any (fun q =>
      q.hold == .wait 0x70000 1 1 0 0 && (posted (fun q => { q with hold := .wait 0x70000 1 1 0 0 }) [] []).goesOn c 0 q) = true)) ∧
    (posted (fun q => { q with hold := .wait 0x70000 1 1 0 0 }) [] [] |>.ask 5 0 0x70000 8 .read).1 = .data (List.replicate 8 0) ∧
    ({ posted (fun q => { q with hold := .wait 0x70000 1 1 0 0 }) [] [] with memPoison := [place 0 0x70000 / 32] } |>.ask 5 0 0x70000 8 .read).1 = .refuse ∧
    (∃ c, { posted id [slot 3 2 0 []] [] with memPoison := [place 0 0x20040 / 32] }.context? 5 = some c ∧ ((c.queues[0]?).any (fun q =>
      { posted id [slot 3 2 0 []] [] with memPoison := [place 0 0x20040 / 32] }.prompts c 0 q) = true ∧
      ({ posted id [slot 3 2 0 []] [] with memPoison := [place 0 0x20040 / 32] }.head 5 0 { ring with w := 2 }).1 = .refuse 2)) ∧
    (∃ c, (posted (fun q => { q with hold := .fence }) [] []).context? 5 = some c ∧ (c.records = [] ∧ (c.queues[0]?).any (fun q =>
      q.hold == .fence && q.open_.isEmpty && (posted (fun q => { q with hold := .fence }) [] []).goesOn c 0 q) = true)) ∧
    (∃ c, (posted id [slot 0 1 0 []] []).context? 5 = some c ∧ ((c.queues[0]?).any (fun q => (posted id [slot 0 1 0 []] []).prompts c 0 q &&
      ((posted id [slot 0 1 0 []] []).head 5 0 q).1 == .stop 0) = true)) :=
  ⟨some_meets (by decide +kernel), by decide +kernel, by decide +kernel, some_meets (by decide +kernel), some_meets (by decide +kernel), some_meets (by decide +kernel)⟩

/-- A playbill of one chorus at 0x40000 with its code at 0x41000. -/
def playbillBytes : Nat := total ([(0, 0x41000), (8, 8), (0x10, 0xFFFFFFFF), (0x18, 8192), (0x24, 2), (0x25, 1), (0x26, 1), (0x27, 1), (0x28, 1), (0x2A, 0xFF)].map (fun f => f.2 * 256 ^ f.1))
def launching (fs : List (Nat × Nat)) : State := posted id [slot 1 1 0 ([(8, 0x40000), (0x10, 1), (0x26, 32), (0x38, 0x1234)] ++ fs)] [(0x40000, 256, playbillBytes)]
/-- An image of a run of context 5, and its header at 0x50000. -/
def image : Image := { mac := 77, number := 1, kind := 1, ctx := 5, run := 1, vt := 0, runState := { Run.least with ctx := 5 }, companies := [], troupes := [] }
def resuming (length : Nat) : State :=
  { posted id [slot 2 1 0 [(8, 0x50000), (0x10, length), (0x38, 0x1234)]] [(0x50000, 128, ofBytesLE image.header)] with images := [image] }

theorem witness_LaunchAndResumeResults :
    (∃ c q body u, Packet (launching []) c q 1 1 body u ∧ (u.runsHeld c.id < 256 ∧ (launchSlot body).legal = true ∧
      (match u.ask 5 0 (launchSlot body).playbill 256 .read with
        | (.data p, u1) => playbillLegal p (launchSlot body) && (match askAll u1 5 0 [] [(field p 0x30 8, 16 * field p 0x22 2, .read), ((playbillOf p).codeBase.toNat, (playbillOf p).codeLength, .fetch),
            ((launchSlot body).params, (launchSlot body).paramLen, .read), ((launchSlot body).map, if (launchSlot body).map = 0 then 0 else 128 + 32 * (playbillOf p).choruses, .read)] with
            | (.data [], got, _) => (chunks 16 (field p 0x22 2) (got.getD 0 [])).isEmpty && !pliBad (got.getD 3 []) 1 32
            | _ => false)
        | _ => false) = true)) ∧
    (∃ c q body u, Packet (launching [(0x25, 0x80)]) c q 1 1 body u ∧ (u.runsHeld c.id < 256 ∧ (launchSlot body).legal = false)) ∧
    (∃ c q body u, Packet (resuming image.length) c q 2 1 body u ∧ (u.runsHeld c.id < 256 ∧ (match u.ask 5 0 0x50000 128 .read with
        | (.data h, u1) => u1.imageAt 5 image.length h == some image && (match u1.ask 5 0 0x50000 image.length .read with | (.data _, _) => true | _ => false)
        | _ => false) = true)) ∧
    (∃ c q body u, Packet { resuming 128 with images := [{ image with ctx := 6 }] } c q 2 1 body u ∧ (u.runsHeld c.id < 256 ∧ (match u.ask 5 0 0x50000 128 .read with
        | (.data h, u1) => (u1.imageAt 5 128 h).isNone | _ => false) = true)) := by
  refine ⟨packet_meets ?_, packet_meets ?_, packet_meets ?_, packet_meets ?_⟩
  all_goals decide +kernel

/-- Context 5 of page 3, its queue 0 disabled, enabled, stopped, and with a slot not published. -/
def named (f : Queue → Queue) (v : BitVec 64) : State := arg 0 3 0 0 v (posted f [] [])
theorem witness_QueueRegisterResults :
    (∃ c, (named (fun q => { q with ctl := 0 }) 0x21).page? 0 3 = some c ∧ ((c.queues[0]?).any (fun q => !q.ctl.getLsbD 0) = true ∧ c.fn = 0 ∧
      4 ≤ bits ((0x21 : BitVec 64) &&& 0xFFFFFFFF0000773F).toNat 5 1 ∧ bits ((0x21 : BitVec 64) &&& 0xFFFFFFFF0000773F).toNat 5 1 ≤ 16)) ∧
    (∃ c, (named (fun q => { q with ctl := 0 }) 0x3).page? 0 3 = some c ∧ ((c.queues[0]?).any (fun q => !q.ctl.getLsbD 0) = true ∧
      ¬ 4 ≤ bits ((0x3 : BitVec 64) &&& 0xFFFFFFFF0000773F).toNat 5 1)) ∧
    (∃ c, (named id 0).page? 0 3 = some c ∧ (c.queues[0]?).any (fun q => q.ctl.getLsbD 0) = true) ∧
    (∃ c, (named (fun q => { q with stopped := true }) 0).page? 0 3 = some c ∧ (c.queues[0]?).any (fun q => q.stopped) = true) ∧
    (∃ c, (posted id [slot 7 1 5 []] []).context? 5 = some c ∧ (c.queues[0]?).any (fun q => (posted id [slot 7 1 5 []] []).prompts c 0 q && q.reread == none &&
      ((posted id [slot 7 1 5 []] []).head 5 0 q).1 == .mismatch) = true) :=
  ⟨some_meets (by decide +kernel), some_meets (by decide +kernel), some_meets (by decide +kernel), some_meets (by decide +kernel), some_meets (by decide +kernel)⟩

/-! ## Placement, completion, images, pre-emption and time (R13, R179, R210 to R214, R312 to R319, R325 to R346) -/

/-- Context 5 on stage with cluster 1, a run of its own, and the other parts changed by `f`. -/
def staged (r : Run) (f : Context → Context) (s : State) : State :=
  { s with
    runs := [{ r with ctx := 5 }]
    clusters := s.clusters.map (fun (k : Cluster) => if k.num = 1 then { k with owner := some 5, power := .on } else k)
    contexts := (posted id [] []).contexts.map (fun (c : Context) => if c.id = 5 then f c else c)
    mem := tables }
/-- A run of one company whose troupes are all to be placed. -/
def fresh1 : Run := { Run.least with cls := 1, nextTroupe := 0, window := 65536 }
def waits1 (r : Run) : State := arg 5 1 1 0 0 (staged r (fun c => { c with quotas := List.replicate 8 65536 }) rich)
/-- Without room for another frame, and without a cluster. -/
def crowded (r : Run) : State := arg 5 1 1 0 0 (staged r (fun c => { c with quotas := List.replicate 8 65536, greenSize := 256 }) rich)
def homeless (r : Run) : State := { waits1 r with clusters := rich.clusters }

theorem witness_PlacementResults :
    (∃ r, (waits1 fresh1).run? 5 1 = some r ∧ (r.ending = none ∧ r.nextTroupe < r.troupes ∧ r.cls ≠ 0 ∧ (waits1 fresh1).mayPlace r = true ∧ (waits1 fresh1).fit r 1 = some [8] ∧
      ((waits1 fresh1).reserve r.ctx ((List.range r.playbill.companies).map r.frameSize)).isSome = true ∧ r.playbill.companies ≤ 8 ∧ 1 ≤ r.lanes ∧ r.lanes ≤ 32)) ∧
    (∃ r, (crowded fresh1).run? 5 1 = some r ∧ (r.cls ≠ 0 ∧ (crowded fresh1).fit r 1 = some [8] ∧ (crowded fresh1).reserve r.ctx ((List.range r.playbill.companies).map r.frameSize) = none)) ∧
    (∃ r, (homeless fresh1).run? 5 1 = some r ∧ (r.cls ≠ 0 ∧ (homeless fresh1).fit r 1 = none)) ∧
    ((∃ c, (waits1 fresh1).context? 5 = some c ∧ c.onStage = true) ∧ ∀ d, d ∈ (waits1 fresh1).companies → d.uid < (waits1 fresh1).uid) ∧
    (∃ r, (staged fresh1 (fun c => { c with vt := 1000000 * ticksPerNs }) rich).run? 5 1 = some r ∧ (r.nextTroupe < r.troupes ∧
      r.accepted + 1000000 * ticksPerNs ≤ (staged fresh1 (fun c => { c with vt := 1000000 * ticksPerNs }) rich).vtTicks r.ctx)) :=
  ⟨some_meets (by decide +kernel), some_meets (by decide +kernel), some_meets (by decide +kernel), ⟨some_meets (by decide +kernel), by decide +kernel⟩, some_meets (by decide +kernel)⟩

/-- Both choruses of the company have ended; another company of its troupe runs, or the run has a troupe to place; a report is due. -/
def ends (h : Chorus) : Chorus := { h with ended := true, splits := [] }
def done1 : State := arg 1 0 0 0 0 { rich with companies := rich.companies.map (fun (c : Company) => { c with choruses := c.choruses.map ends }) }
def done2 : State := { done1 with companies := done1.companies ++ [{ Company.start 2 richRun 0 1 1 0 0 with uid := 2 }] }
def done3 : State := { done1 with runs := [{ richRun with troupes := 2 }] }
theorem witness_CompletionResults :
    (∃ c, Actor done2 c ∧ (QuietTroupe done2 c ∧ (done2.run? c.ctx c.run).isSome = true ∧ (∀ h, h ∈ c.choruses → (h.ended = true ∨ h.halted ≠ none) ∧ h.queue = [] ∧ h.inflight = []) ∧
      c.engine = [] ∧ c.ops = [] ∧ ∃ d, d ∈ done2.companies ∧ d.uid ≠ c.uid ∧ d.ctx = c.ctx ∧ d.run = c.run ∧ d.troupe = c.troupe ∧ d.state ≠ .complete)) ∧
    (∃ c, Actor done3 c ∧ (QuietTroupe done3 c ∧ (done3.run? c.ctx c.run).any (fun r => r.nextTroupe < r.troupes) = true ∧ (∀ h, h ∈ c.choruses → (h.ended = true ∨ h.halted ≠ none) ∧ h.queue = [] ∧ h.inflight = []) ∧
      c.engine = [] ∧ c.ops = [] ∧ ∀ d, d ∈ done3.companies → d.uid ≠ c.uid → d.state = .complete)) ∧
    (∃ r, (staged { Run.least with doneTroupes := 1 } id rich).run? 5 1 = some r ∧ (r.ending = none ∧ r.killed = none ∧ r.doneTroupes = r.troupes ∧
      ∀ c, c ∈ (staged { Run.least with doneTroupes := 1 } id rich).contexts → c.records = [])) := by
  simp only [troupe_iff]
  exact ⟨actor_meets (by decide +kernel), actor_meets (by decide +kernel), some_meets (by decide +kernel)⟩
def report : EventRecord := { tag := 0x1234, fm := 0, troupe := 0, run := 1, company := 0, status := 0, queue := 0, kind := 1 }
def reporting : State := staged { Run.least with doneTroupes := 1, ending := some (1, 0) } (fun c => { c with records := [report], evBase := 0x70000, evCtl := 0x110 }) rich
theorem witness_record_write : ∃ c, reporting.context? 5 = some c ∧ (c.records = [report] ∧ c.evWr - c.evRd < 2 ^ (c.evCtl.toNat % 32) ∧ reporting.requests = [] ∧
    (match reporting.reach 5 0x70000 32 .write with | (.ok [p], u) => p.len == 32 && u.mem.wf && ownB u p.loc 32 | _ => false) = true ∧ c.evCtl.getLsbD 8 = true ∧
    ∀ x, x ∈ reporting.contexts → x.id = c.id → x = c) := some_meets (by decide +kernel)
/-- The report of an error of the hardware, of a run with a checkpoint. -/
def failing : State := staged { Run.least with checkpoint := some (0x90000, 256), firstHalt := some { at_ := 0, ch := 0, cause := 0x10 } }
  (fun c => { c with records := [{ report with kind := 2, status := 0x10 }], evBase := 0x70000, evCtl := 0x10 }) rich
theorem witness_rollback : (∃ c, failing.context? 5 = some c ∧ (c.records = [{ report with kind := 2, status := 0x10 }] ∧ c.evWr - c.evRd < 2 ^ (c.evCtl.toNat % 32) ∧ failing.requests = [] ∧
    (match failing.reach 5 0x70000 32 .write with | (.ok [p], u) => p.len == 32 && u.mem.wf && ownB u p.loc 32 | _ => false) = true)) ∧
    ∃ r, failing.run? 5 1 = some r ∧ (r.ending = none ∧ r.killed = none ∧ r.checkpoint ≠ none ∧ ∀ k, k ∈ failing.companies → k.ctx ≠ 5) :=
  ⟨some_meets (by decide +kernel), some_meets (by decide +kernel)⟩

def limited : State := staged { fresh1 with nextTroupe := 1, placedAt := some 0 } (fun c => { c with wdog := 1, wdogOld := 1, vt := 1000 * ticksPerNs }) rich
/-- A company of context 5 on core 8, with an access in flight or not. -/
def player (l : List InFlight) : Company := { Company.start 2 { fresh1 with ctx := 5 } 0 0 8 0 0x101000 with choruses := [{ Chorus.start 0 Playbill.least 32 [] 0 0 0 with inflight := l }] }
def access : InFlight := { uid := 9, reads := false, members := 1, tags := [], tile := none, rows := [], house := [], since := 0 }
def limitedWith (l : List InFlight) : State := { limited with companies := limited.companies ++ [player l] }
def stillB (k : Company) : Bool :=
  k.choruses.all (fun h => h.inflight.isEmpty && (h.halted.isSome || (h.chain.isNone && h.splits.all (fun p => !p.wait.onBoard && !p.owed) && h.pump.all (fun m => !m.moving)))) && k.ops.isEmpty
theorem still_of {k : Company} (s : State) (e : stillB k = true) : StandsStill s k := by
  simp only [stillB, Bool.and_eq_true, List.all_eq_true, Bool.or_eq_true, Bool.not_eq_true', List.isEmpty_iff, Option.isSome_iff_ne_none, Option.isNone_iff_eq_none,
    Option.all_eq_true] at e
  exact ⟨fun h hh => ⟨(e.1 h hh).1, (e.1 h hh).2.imp id (fun q => ⟨q.1.1, fun p hp => (q.1.2 p hp).1, fun m hm => q.2 m hm, .inl fun p hp => (q.1.2 p hp).2⟩)⟩,
    fun o ho => by rw [e.2] at ho; cases ho⟩
def flyingB (k : Company) : Bool := k.choruses.any (fun h => !h.inflight.isEmpty)
theorem flying_of {k : Company} (s : State) (e : flyingB k = true) : ¬ StandsStill s k := by
  simp only [flyingB, List.any_eq_true, Bool.not_eq_true', List.isEmpty_eq_false_iff] at e
  obtain ⟨h, hh, q⟩ := e
  exact fun i => q (i.1 h hh).1
/-- A company that stands still where no access is in flight. -/
def stanceB (l : List InFlight) (k : Company) : Bool := if l.isEmpty then stillB k else flyingB k

/-- The run stands, or waits for an access; memory takes the image, or the page is absent. -/
theorem witness_CheckpointAndWatchdogResults :
    (∀ l, l ∈ [[], [access]] → ∃ r, (limitedWith l).run? 5 1 = some r ∧ (r.ending = none ∧ r.killed = none ∧ r.placedAt = some 0 ∧ r.snapAt = none ∧ (limitedWith l).copies = [] ∧
      (limitedWith l).companies.all (fun k => k.ctx != 5 || k.state == .running && stanceB l k) = true)) ∧
    (∃ r, limited.run? 5 1 = some r ∧ (((limited.imageOf r 2).2.frontWrite 5 0x70000 (limited.imageOf r 2).1.bytes).1 = .done ∧
      (match ((limited.imageOf r 2).2.frontWrite 5 0x40000000 (limited.imageOf r 2).1.bytes).1 with | .absent _ _ => true | _ => false) = true)) ∧
    (∃ c, limited.context? 5 = some c ∧ (c.limit ≠ 0 ∧ 0 + c.limit.toNat * 1000 * ticksPerNs ≤ c.vt)) ∧
    (∃ p, p ∈ [(image, (0x70000 : BitVec 64))] ∧ p.1.ctx = 5 ∧ (limited.frontWrite 5 p.2.toNat p.1.bytes).1 = .done) ∧ ownB limited (place 0 0x100000) 128 = true := by
  refine ⟨fun l h => ?_, some_meets (by decide +kernel), some_meets (by decide +kernel), by decide +kernel, by decide +kernel⟩
  fin_cases h
  · exact some_meets (by decide +kernel)
  · exact some_meets (by decide +kernel)

/-- Context 5 stopped with its partition and key, and with a run of one company on core 8. -/
def stopped5 : State := { staged { fresh1 with nextTroupe := 1 } (fun c => { c with state := .saved, onStage := false, keySlot := 4 }) rich with keySlots := [(0, 0), (4, 5)], runs := [], pcieUp := true }
def onCore8 (l : List InFlight) : State := let s := staged { fresh1 with nextTroupe := 1 } id rich; { s with companies := s.companies ++ [player l] }
/-- The company of `rich` stands at its stopping points for a save that its context's agenda has. -/
def saving : State := { company (fun c => { c with saving := true }) rich with agenda := [.save 1] }
/-- The company of `rich` saved for a fault. -/
def faulted : State := arg 1 0 0 0 0 (company (fun c => { c with state := .faultSaved, faulted := true }) rich)
theorem witness_PreemptionResults :
    (∀ l, l ∈ [[], [access]] → ∃ c, (onCore8 l).context? 5 = some c ∧ (c.onStage = true ∧ c.state = .resident ∧ c.id ≠ 0 ∧ c.debugHalted = false ∧ (onCore8 l).curtain = false ∧
      (onCore8 l).companies.any (fun k => k.ctx == 5) = true ∧ (onCore8 l).companies.all (fun k => k.ctx != 5 || k.state == .running && stanceB l k) = true)) ∧
    (∃ c, saving.company? 1 = some c ∧ (saving.agenda = .save 1 :: [] ∧ c.saving = true ∧ c.state = .running ∧ stillB c = true)) ∧
    (∃ c, stopped5.context? 5 = some c ∧ (c.state = .saved ∧ c.destroying = false ∧ c.partition ≠ [] ∧ stopped5.curtain = false ∧ stopped5.tripped = false ∧
      (∀ k, k ∈ c.partition → (stopped5.cluster k).owner = some c.id ∧ (stopped5.cluster k).power = .on) ∧ (c.keySlot, c.id) ∈ stopped5.keySlots ∧
      stopped5.runs = [] ∧ (∀ k, k ∈ stopped5.companies → k.ctx ≠ c.id) ∧ (∀ k, k ∈ stopped5.troupes → k.ctx ≠ c.id) ∧ stopped5.pcieUp = true ∧
      (∀ d, d < 8 → total ((stopped5.contexts.filter (fun x => x.id != c.id && x.state == .resident)).map (fun x => x.quotas.getD d 0)) + c.quotas.getD d 0 ≤ (stopped5.die d).cistern) ∧ (stopped5.seatRuns 5 (fun _ => true)).isSome = true)) ∧
    (∃ c, faulted.company? 1 = some c ∧ (c.state = .faultSaved ∧ faulted.requests = [] ∧ faulted.mayRestore c 0 = true ∧
      (faulted.context? c.ctx).any (fun x => x.onStage && !x.debugHalted) = true ∧ faulted.curtain = false)) := by
  refine ⟨fun l h => ?_, some_meets (by decide +kernel), some_meets (by decide +kernel), some_meets (by decide +kernel)⟩
  fin_cases h
  · exact some_meets (by decide +kernel)
  · exact some_meets (by decide +kernel)

def alarmed (w : Wait) : State := arg 1 0 3 0 0xFFFF0000
  (chorus (fun h => { h with timers := updAt h.timers 3 (fun _ => some 0) }) (halves id (fun p => { p with state := .waitEvent, wait := w })))
def debugged : State := { rich with contexts := rich.contexts.map (fun (c : Context) => { c with debugHalted := true }) }
theorem witness_TimeAndDebugResults :
    (∃ c h, ActsOn (arg 1 0 3 0 0 (alarmed .none)) c h ∧ (h.timers.getD 3 none = some 0)) ∧
    (∃ c h, ActsOn (alarmed (.wev 0x7F 0 17)) c h ∧ (shapedB h = true ∧ Apart h ∧ ∃ p, p ∈ h.splits ∧ (0xFFFF0000 : BitVec 64).setWidth 32 = p.members ∧ p.wait = .wev 0x7F 0 17)) ∧
    (∃ c h, ActsOn (alarmed (.wtm 0 17)) c h ∧ (shapedB h = true ∧ Apart h ∧ ∃ p, p ∈ h.splits ∧ (0xFFFF0000 : BitVec 64).setWidth 32 = p.members ∧ p.wait = .wtm 0 17)) ∧
    (∃ c, rich.context? 0 = some c ∧ (c.onStage = true ∧ c.debugHalted = false ∧ rich.curtain = false)) ∧
    (∃ c, ({ rich with agenda := [.stepEnd 0] } : State).context? 0 = some c ∧ (c.onStage = true ∧ c.debugHalted = false ∧ rich.curtain = false)) ∧
    (∃ c, ({ rich with curtain := true } : State).context? 0 = some c ∧ (c.onStage = true ∧ c.debugHalted = false)) ∧
    ({ rich with agenda := [.idle] } : State).agenda = .idle :: [] ∧ rich.contexts.Pairwise (fun c d => c.id ≠ d.id) ∧
    (∃ h, h ∈ (alarmed .none).companies.flatMap (fun c => c.choruses) ∧ (h.halted = none ∧ h.ended = false ∧ h.timers.length = 4 ∧ h.timers.getD 3 none = some 0 ∧
      ∀ p, p ∈ h.splits → p.wait = .none)) ∧
    (∃ c, debugged.company? 1 = some c ∧ ((debugged.context? c.ctx).any (fun x => x.debugHalted && x.onStage) = true ∧ (c.chorus? 0).any (fun h => h.isReady && h.splits.any (fun q => q.state == .running)) = true)) := by
  simp only [apart_iff]
  exact ⟨chorus_meets (by decide +kernel), chorus_meets (by decide +kernel), chorus_meets (by decide +kernel), some_meets (by decide +kernel), some_meets (by decide +kernel),
    some_meets (by decide +kernel), trivial, by decide +kernel, by decide +kernel, some_meets (by decide +kernel)⟩

/-! ## The call board, the links and multicast (R336, R376 to R386) -/

def carrying (x : Payload) (a : Nat) (s : State) : State := { s with arg := { a := a, b := 0, c := 0, d := 0, v := 9, x := x } }
/-- Context 0 with entries on its board, and channel 1 open to every source, or not. -/
def boarded (es : List BoardEntry) (open1 : Bool) : State :=
  { rich with deviceId := 3, contexts := rich.contexts.map (fun (c : Context) => { c with board := es, permits := if open1 then [(1, 0xE0000000)] else [] }) }
def crowd : List BoardEntry := List.replicate 64 { entry with visible := false }
def hold : Message := { note with kind := 2 }
def arriving (m : Message) (s : State) : State := carrying (.message m) 0 s

theorem witness_messages : ∀ s, s ∈ [boarded [] true, boarded [] false, boarded crowd true] → ∀ m, m ∈ [note, hold] →
    (arriving m s).arg.x = .message m ∧ m.srcDev ≠ (arriving m s).deviceId ∧ (arriving m s).memo? m.srcDev m.ident = none ∧ (arriving m s).arg.a ≠ 1 ∧ (arriving m s).curtain = false ∧
      ∃ c, (arriving m s).context? m.destCtx.toNat = some c ∧ (c.id = m.destCtx.toNat ∧ (c.permits.find? (fun e => e.1 == m.channel.toNat)).all (fun p => p.2.getLsbD 31 && p.2.getLsbD 30 && p.2.getLsbD 29) = true) := by
  intro s hs m hm
  simp only [List.mem_cons, List.not_mem_nil, or_false] at hs hm
  rcases hs with rfl | rfl | rfl <;> rcases hm with rfl | rfl <;>
    exact ⟨rfl, by decide, by decide +kernel, by decide, by decide +kernel, some_meets (by decide +kernel)⟩
/-- A message seen before, one from the device itself, one whose stamp has come, an answer whose stamp has come, and an owed reply at its action point. -/
def seen : State := carrying (.message note) 0 { boarded [] true with memos := [{ src := 7, ident := 9, status := .ok, data := [], poisoned := false, tag := 0, guarded := false, at_ := 0 }] }
def reply : OutsideResponse :=
  { resp := { dest := 7, ident := 9, read := true, status := .ok, data := [1, 2, 3, 4], poisoned := false, tag := 0, guarded := false }, ack := none, stampTicks := 0, arrivedAt := 0, order := 4
    answers := { dest := 7, ident := 9, plainRead := true, retried := false, held := false, port := some 0, sentAt := 0, asker := .fly 1 0 80 0, stale := false
                 what := .access 0 0x1000 0 false 0 false (.read 4) } }
def replied : State := (boarded [] true).modContext 0 (fun c => { c with responses := [reply] })
def stamped : State := { boarded [{ entry with visible := false, stampTicks := 0 }] true with arg := (arg 0 0 0 0 0 rich).arg }
def later (d : Bool) (holds : Nat) : State := { boarded [{ owing d with deadline := 2000 * ticksPerNs, holds := holds, wasOff := true }] true with arg := (arg 0 7 0 0 9 rich).arg }
theorem witness_board_events :
    (∃ k, seen.memo? note.srcDev note.ident = some k ∧ (seen.curtain = false ∧ note.srcDev ≠ seen.deviceId)) ∧
    ((boarded [] true).deviceId = { note with srcDev := 3 }.srcDev ∧ ∀ o, o ∈ (boarded [] true).sent → ¬ (o.dest = note.destDev ∧ o.ident = note.ident ∧ o.plainRead = false)) ∧
    (∃ c, stamped.context? 0 = some c ∧ (c.nextOutside = some (0, 0, true) ∧ c.onStage = true ∧ c.debugHalted = false ∧ stamped.curtain = false ∧ 0 ≤ c.vt ∧
      (∀ d, d ∈ stamped.companies → quietB d = true) ∧ stamped.companies.Pairwise (fun d e => d.uid ≠ e.uid))) ∧
    (∃ c, replied.context? 0 = some c ∧ (c.nextOutside = some (0, 4, false) ∧ c.onStage = true ∧ c.debugHalted = false ∧ replied.curtain = false ∧ 0 ≤ c.vt ∧
      (c.responses.find? (fun q => q.order == 4)).isSome = true)) ∧
    { arriving note rich with curtain := true }.curtain = true ∧
    (∀ d, ∃ c, (later d 1).context? 0 = some c ∧ ((c.owedEntry? (BitVec.ofNat 12 7) 9).any (fun e => e.owed && e.wasOff && decide (e.deadline - 4000 * ticksPerNs ≤ (later d 1).now ∧
      (later d 1).now < e.deadline)) = true ∧ ∀ x, x ∈ (later d 1).contexts → x.id = c.id → x = c)) := by
  refine ⟨some_meets (by decide +kernel), by decide +kernel, some_meets (by decide +kernel), some_meets (by decide +kernel), rfl, fun d => ?_⟩
  cases d
  · exact some_meets (by decide +kernel)
  · exact some_meets (by decide +kernel)

/-- A transaction of a command or of a message that has been sent, and its answer. -/
def outgoing (k : Asker) (rd : Bool) : Outstanding :=
  { dest := 7, ident := 9, plainRead := rd, retried := false, held := false, port := some 0, sentAt := 0, asker := k, stale := false
    what := .access 0 0x1000 0 false 0 false (.read 4) }
def answer (st : LinkStatus) (rd : Bool) : LinkResponse := { dest := 7, ident := 9, read := rd, status := st, data := [1, 2, 3, 4], poisoned := false, tag := 0, guarded := false }
/-- The context of an answer is in a debugger's halt. -/
def remoteCmd : FlyCmd := { single .inn with remote := [0] }
def answered (st : LinkStatus) : State := { carrying (.response (answer st true)) 0 (engaged remoteCmd) with sent := [outgoing (.fly 1 0 80 0) true] }
def lostAnswer (x : Payload) (a : Nat) : State := { carrying x a { rich with now := 900000 * ticksPerNs } with sent := [outgoing (.message 0 1 0 8) false] }
def stoppedAnswer (st : LinkStatus) : State := (answered st).modContext 0 (fun c => { c with debugHalted := true })
theorem witness_answers :
    (∀ st, st ∈ [LinkStatus.ok, .denied] → (∃ o, (answered st).sent.find? (fun o => o.dest == 7 && o.ident == 9 && o.plainRead == true && o.port.isSome) = some o ∧ ∀ p, p ∈ (answered st).sent → p.held = false) ∧
      ∃ c, (answered st).company? 1 = some c ∧ (quietB c = true ∧ c.engine = [(0, remoteCmd)] ∧ ((answered st).context? c.ctx).any (fun d => d.onStage) = true ∧
        (remoteCmd.elems c).find? (fun q => q.idx == 0) = some element)) ∧
    (∃ o, (lostAnswer (.response (answer .indeterminate false)) 0).sent.find? (fun o => o.dest == 7 && o.ident == 9 && o.plainRead == false && o.port.isSome) = some o ∧
      ∀ p, p ∈ (lostAnswer (.response (answer .indeterminate false)) 0).sent → p.held = false) ∧
    (∃ o, (lostAnswer .none 7).sent.find? (fun o => o.dest.toNat == (lostAnswer .none 7).arg.a && o.ident == (lostAnswer .none 7).arg.v.setWidth 32 && o.plainRead == ((lostAnswer .none 7).arg.b == 1)) = some o ∧
      (o.sentAt + 900000 * ticksPerNs ≤ (lostAnswer .none 7).now ∧ o.asker = .message 0 1 0 8)) ∧
    (∃ c d, (stoppedAnswer .indeterminate).company? 1 = some c ∧ quietB c = true ∧ (stoppedAnswer .indeterminate).context? c.ctx = some d ∧ d.id = c.ctx ∧ d.debugHalted = true) ∧
    (∃ c, (lostAnswer .none 7).company? 1 = some c ∧ (QuietTroupe (lostAnswer .none 7) c ∧ (c.chorus? 0).any (fun h => h.halted == none) = true)) := by
  simp only [troupe_iff]
  refine ⟨fun st h => ?_, some_meets (by decide +kernel), some_meets (by decide +kernel), ?_, some_meets (by decide +kernel)⟩
  rotate_left
  · obtain ⟨c, hc, q, e⟩ := some_meets (o := (stoppedAnswer .indeterminate).company? 1) (H := fun c => quietB c = true ∧
      ((stoppedAnswer .indeterminate).context? c.ctx).any (fun d => d.id == c.ctx && d.debugHalted) = true) (by decide +kernel)
    simp only [Option.any_eq_true, Bool.and_eq_true, beq_iff_eq] at e
    obtain ⟨d, hd, a, b⟩ := e
    exact ⟨c, d, hc, q, hd, a, b⟩
  simp only [List.mem_cons, List.not_mem_nil, or_false] at h
  rcases h with rfl | rfl
  · exact ⟨some_meets (by decide +kernel), some_meets (by decide +kernel)⟩
  · exact ⟨some_meets (by decide +kernel), some_meets (by decide +kernel)⟩

/-- A peer's transaction at 0x70000 of context 5, whose pages are guarded or not. -/
def peer (op : LinkOp) (owner : Bool) : LinkRequest :=
  { src := 7, ident := 9, retry := false, ctx := 5, addr := 0x70000, op := op, principal := 0, owner := owner, tag := 0, guarded := false }
def peering (leaf : Nat) : State := { posted id [] [] with mem := stored [(0x10000, 8, 0x11001), (0x11000, 8, leaf)] [] }
/-- The entry and the places that a peer's access finds. -/
def peerFinds (leaf n : Nat) (acc : Access) (op : LinkOp) (p : TlbEntry → State → Bool) : Bool :=
  match (peering leaf).peerPlace (peer op true) 0x70000 n acc with
  | (some [(e, locs)], u) => decide (locs = (List.range n).map (fun j => place 0 0x70000 + j)) && ownB u (place 0 0x70000) n && u.mem.wf && p e u
  | _ => false
/-- A read over two pages, the second of them guarded. -/
def twoPages : State := { posted id [] [] with mem := stored [(0x10000, 8, 0x11001), (0x11000, 8, 0x12001), (0x12000, 8, 0x13001), (0x13000 + 8 * 0x70, 8, 0x70007), (0x13000 + 8 * 0x71, 8, 0x71087)] [] }
theorem witness_peers :
    peerFinds 0x3F 4 .read (.read 4) (fun e u => !e.g && decide ((u.peerCheck (peer (.read 4) true) [(e, (List.range 4).map (fun j => place 0 0x70000 + j))]).1 = some true)) = true ∧
    (match twoPages.peerPlace (peer (.read 4) true) 0x70FFE 4 .read with
      | (some [(e, l), (f, k)], u) => !e.g && f.g && l.length == 2 && k.length == 2 && decide ((u.peerCheck (peer (.read 4) true) [(e, l), (f, k)]).1 = some false)
      | _ => false) = true ∧
    peerFinds 0xBF 4 .read (.read 4) (fun e u => e.g && decide ((u.peerCheck (peer (.read 4) true) [(e, (List.range 4).map (fun j => place 0 0x70000 + j))]).1 = some false)) = true ∧
    peerFinds 0x3F 3 .write (.write [1, 2, 3] false) (fun e _ => !e.g) = true ∧ peerFinds 0xBF 3 .write (.write [1, 2, 3] false) (fun e _ => e.g) = true ∧
    peerFinds 0x3F 4 .rmw (.atomic 12 1 0) (fun e u => !e.g && u.memPoison.isEmpty) = true ∧ (peering 0x3F).memo? 7 9 = none ∧ ((peering 0x3F).context? 5).isSome = true ∧
    (peering 0x3F).curtain = false := by decide +kernel

/-- A port with eight replays, and one that has come up; a group of context 5. -/
def ports (f : Port → Port) : State := arg 15 8 0 0 0x7 { rich with ports := rich.ports.map (fun (p : Port) => if p.num = 15 then f p else p) }
def group : GroupEntry := { group := 4, ctx := 5, base := 0x70000, length := 1 }
def mcast : MulticastWrite := { src := 7, ident := 9, group := 4, principal := 0, owner := true, poisoned := false, writes := [(4, 8, 0xAB)] }
theorem witness_PortAndMulticastResults :
    (∃ p, (ports (fun p => { p with state := 2, row := 8 })).port? 15 = some p ∧ (p.state ≠ 4 ∧ 8 ≤ p.row ∧ (ports id).sent = [])) ∧
    (∃ p, (ports (fun p => { p with state := 1 })).port? 15 = some p ∧ (p.state ≠ 2 ∧ p.state ≠ 3 ∧ (0x7 : BitVec 64).getLsbD 15 = false)) ∧
    rich.groups.length < 1024 ∧
    (match (peering 0x3F).peerPlace (mcastRequest mcast group (4, 8, 0xAB)) 0x70000 2 .write with
      | (some [(e, locs)], u) => decide (locs = [place 0 0x70000, place 0 0x70000 + 1]) && !e.g && u.mem.wf && ownB u (place 0 0x70000) 2 | _ => false) = true ∧
    (4 / 8 + (4 % 8 + 8 + 7) / 8 ≤ group.length * 4096 ∧ group.base.toNat + 4 / 8 < 2 ^ 64) :=
  ⟨some_meets (by decide +kernel), some_meets (by decide +kernel), by decide +kernel, by decide +kernel, by decide +kernel⟩

/-! ## Power, reset, firmware, the curtain and errors (R220, R221, R262, R263, R348, R351, R352, R360 to R373) -/

/-- A run of context 5 that has not ended and has no access in flight, and that context resident; and one with. -/
def runs5 : State := staged { Run.least with doneTroupes := 0 } id rich
def flying5 : State := { runs5 with companies := runs5.companies ++ [player [access]] }
/-- Die 1 of reset, changed, with its number as an operand and `b` beside it. -/
def die1 (b : Nat) (f : Die → Die) : State := arg 1 b 0 0 0 (dieWith rich 1 f)
def dieOfB (s : State) (d : Die) : Bool := decide ((∀ e, e ∈ s.dies → e.num = d.num → e = d) ∧ s.arg.a < 8)
theorem die_meets {s : State} {H : Die → Prop} [DecidablePred H] (e : (s.dies.find? (fun d => d.num == s.arg.a)).any (fun d => dieOfB s d && decide (H d)) = true) :
    ∃ d, DieOf s d ∧ H d := by
  simp only [Option.any_eq_true, Bool.and_eq_true, decide_eq_true_eq, dieOfB] at e
  obtain ⟨d, h, a, b⟩ := e
  exact ⟨d, ⟨h, a.1, a.2⟩, b⟩
def numberedB (s : State) : Bool := decide (s.contexts.Pairwise (fun c d => c.id ≠ d.id) ∧ s.runs.Pairwise (fun p q => ¬ (p.ctx = q.ctx ∧ p.id = q.id)) ∧ s.companies.Pairwise (fun d e => d.uid ≠ e.uid))
theorem numbered_iff (s : State) : Numbered s ↔ numberedB s = true := by rw [numberedB, decide_eq_true_iff]; exact Iff.rfl

theorem witness_PointAndThermalResults :
    (∃ d, DieOf (die1 3 id) d ∧ (d.powered = true ∧ d.changing = none ∧ d.point ≠ 3)) ∧
    (∃ d, DieOf (die1 3 (fun d => { d with changing := some (2, 72000000) })) d ∧ d.changing = some (2, 72000000)) ∧
    AtEdges (die1 3 id) 1 ∧
    (∃ d, DieOf (die1 105 (fun d => { d with point := 3 })) d ∧ (d.powered = true ∧ d.changing = none ∧ d.point = 3)) ∧
    (∃ d, DieOf (die1 105 (fun d => { d with changing := some (2, 72000000) })) d ∧ (d.powered = true ∧ d.changing = some (2, 72000000))) ∧
    (∀ b ∈ [95, 90, 94, 105], ∃ d, DieOf (die1 b id) d ∧ (d.powered = true ∧ d.changing = none ∧ d.lastStep = none ∧ d.point < 3)) ∧
    (∃ d, DieOf (die1 89 (fun d => { d with point := 1, lastStep := some 0 })) d ∧ (d.powered = true ∧ d.changing = none ∧ 0 < d.point ∧ d.lastStep = some 0)) ∧
    (runs5.tripped = false ∧ Numbered runs5 ∧ 115 ≤ (arg 1 115 0 0 0 runs5).arg.b ∧ (∀ r, r ∈ runs5.runs → r.ending = none ∧ r.killed = none ∧ r.ctx = 5) ∧
      runs5.companies.all (fun k => k.ctx != 5) = true ∧ flying5.companies.any (fun k => k.ctx == 5 && k.choruses.any (fun h => !h.inflight.isEmpty)) = true) ∧
    { runs5 with tripped := true }.tripped = true := by
  rw [numbered_iff]
  have e : ∀ b ∈ [95, 90, 94, 105], ((die1 b id).dies.find? (fun d => d.num == (die1 b id).arg.a)).any (fun d => dieOfB (die1 b id) d &&
      decide (d.powered = true ∧ d.changing = none ∧ d.lastStep = none ∧ d.point < 3)) = true := by decide +kernel
  exact ⟨die_meets (by decide +kernel), die_meets (by decide +kernel), by unfold AtEdges; decide +kernel, die_meets (by decide +kernel), die_meets (by decide +kernel),
    fun b h => die_meets (e b h), die_meets (by decide +kernel), by decide +kernel, rfl⟩

/-- Cluster 1 with a power state, and the three after it in one of their own. -/
def powers (p q : Power) (t : Nat) : State :=
  arg 1 0 0 0 0 { rich with
    now := t
    clusters := rich.clusters.map (fun (k : Cluster) => if k.num = 1 then { k with power := p } else if k.num ∈ [2, 3, 4, 5] then { k with power := q } else k) }
/-- Cluster 1 at the end of its ramp, with cluster 2 waiting alone. -/
def queued2 : State := clusterWith (powers (.ramp 90) .gated 100) 2 (fun k => { k with power := .queued, wakeOrder := 7 })
theorem witness_ClusterPowerResults :
    (∃ c, (powers (.hold 720000000) .gated 720000000).clusters.find? (fun c => c.num == 1) = some c ∧
      (c.power = .hold 720000000 ∧ c.owner = none ∧ (powers (.hold 720000000) .gated 720000000).cores.Pairwise (fun p q => p.num ≠ q.num))) ∧
    (∃ c, (powers (.hold 5) .gated 9).clusters.find? (fun c => c.num == 1) = some c ∧ (c.power = .hold 5 ∧ c.available = true ∧ ((powers (.hold 5) .gated 9).die 0).powered = true)) ∧
    (∃ c, (powers .gated .gated 9).clusters.find? (fun c => c.num == 1) = some c ∧ (c.power = .gated ∧ c.available = true ∧
      ((powers .gated .gated 9).clusters.filter (fun k => k.num / 6 == 0 && k.power.isRamp)).length < 4)) ∧
    (∃ c, (powers .gated (.ramp 50) 9).clusters.find? (fun c => c.num == 1) = some c ∧ (c.power = .gated ∧ c.available = true ∧
      ((powers .gated (.ramp 50) 9).clusters.filter (fun k => k.num / 6 == 0 && k.power.isRamp)).length = 4)) ∧
    (∀ p, p ∈ [Power.on, .hold 4, .gated, .queued, .ramp 4, .settle 4] → p = .on ∨ p = .gated ∨ p = .queued ∨ ∃ d, p = .hold d ∨ p = .ramp d ∨ p = .settle d) ∧
    (∃ c, (powers (.ramp 90) .gated 100).clusters.find? (fun c => c.num == 1) = some c ∧ (c.power = .ramp 90 ∧ 90 ≤ (powers (.ramp 90) .gated 100).now ∧
      ∀ k, k ∈ (powers (.ramp 90) .gated 100).clusters → k.num / 6 = 0 → k.power ≠ .queued)) ∧
    (∃ q, queued2.clusters.find? (fun c => c.num == 2) = some q ∧ (q.power = .queued ∧ ∀ k, k ∈ queued2.clusters → k.num / 6 = 0 → k.power = .queued → k = q ∨ q.wakeOrder < k.wakeOrder)) ∧
    (∃ c, queued2.clusters.find? (fun c => c.num == 1) = some c ∧ c.power = .ramp 90) ∧
    (∃ c, (powers (.settle 100) .gated 100).clusters.find? (fun c => c.num == 1) = some c ∧ c.power = .settle 100) :=
  ⟨some_meets (by decide +kernel), some_meets (by decide +kernel), some_meets (by decide +kernel), some_meets (by decide +kernel),
    by simp, some_meets (by decide +kernel), some_meets (by decide +kernel), some_meets (by decide +kernel), some_meets (by decide +kernel)⟩

theorem witness_ResetEventResults :
    ({ runs5 with pcieUp := true }.pcieUp = true ∧ { runs5 with pcieUp := false }.pcieUp = false) ∧
    (∀ n, n = 0 ∨ n = 3 → FnOn (arg n 0 0 0 0 (withFn runs5)) n) ∧ Numbered (withFn runs5) ∧
    (arg 127 0 0 0 0 { rich with pcieUp := true }).arg.a ≤ 127 ∧
    ({ State.reset with bootStep := 0, agenda := [.event .kick State.reset.arg] }.bootStep < 7 ∧ Instr.kick ≠ .coldReset ∧ Instr.kick ≠ .spdmRequest ∧ Instr.kick ≠ .pldmRequest) ∧
    (∃ f, (withFn rich).func? 3 = some f) ∧ 1 ≤ ([0x123000, 0x456000] : List Nat).length := by
  rw [numbered_iff]
  refine ⟨⟨rfl, rfl⟩, ?_, by decide +kernel, by decide +kernel, by decide +kernel, ⟨_, by rfl⟩, by decide⟩
  rintro n (rfl | rfl) <;> exact some_meets (by decide +kernel)

/-- Bring-up stands before step `n` + 1, with the image of the monitor in flash that verifies or does not. -/
def picture (lms : Bool) : FirmwareImage := { digest := 9, ecdsa := true, lms := lms, version := 3 }
def booting (n : Nat) (lms : Bool) (up : Bool) : State :=
  { State.reset with
    agenda := [.boot], bootStep := n, flash := [(2, picture lms), (3, picture lms)], fuses := [(2, 3), (3, 3)]
    dies := State.reset.dies.map (fun (d : Die) => { d with powered := up }) }
theorem witness_BringUpResults :
    (∀ n, n < 7 → (booting n true true).agenda = .boot :: [] ∧ (booting n true true).bootStep = n) ∧
    (Verifies (booting 0 true true) 2 (picture true) ∧ Verifies (booting 1 true true) 3 (picture true) ∧ ¬ Verifies (booting 0 false true) 2 (picture false)) ∧
    (∃ f, (booting 0 true true).flash.find? (fun f => f.1 == 2) = some f ∧ ∀ g, g ∈ (booting 0 true true).flash → g.1 = 2 → g = f) ∧
    (∃ d, (booting 2 true false).dies.find? (fun d => !d.powered) = some d) ∧ (∀ d, d ∈ (booting 2 true true).dies → d.powered = true) := by
  refine ⟨fun n _ => ⟨rfl, rfl⟩, ⟨⟨rfl, rfl, ?_⟩, ⟨rfl, rfl, ?_⟩, fun h => absurd h.2.1 (by decide)⟩, some_meets (by decide +kernel), ⟨_, by rfl⟩, by decide +kernel⟩
  all_goals
    intro f h
    simp only [booting, List.find?_cons] at h
    simp only [Nat.reduceBEq, Option.some.injEq] at h
    subst h
    exact le_refl _

/-- A manager that has called the plug-in of tenant 4, and one that has not. -/
def plugged (stopped : Bool) (t : Turn) : State := { rich with agenda := [t], plugins := [{ tenant := 4, image := picture true, stopped := stopped }] }
def calling (now : Nat) : State :=
  arg 4 0 0 0 0 { plugged false (.firmware 2 .trap) with now := now, managers := (List.range 8).map (fun n => if n = 2 then { Manager.init n with mode := .u, call := some (4, 0) } else Manager.init n) }
theorem witness_PluginResults :
    (∀ b : Bool, (plugged b (.firmware 2 (.call 4))).agenda = .firmware 2 (.call 4) :: [] ∧ ∀ p, p ∈ (plugged b .idle).plugins → p.tenant = 4 ∧ p.stopped = b) ∧
    (∃ m, (calling 0).managers.find? (fun m => m.num == 2) = some m ∧ m.call = some (4, 0)) ∧
    (50000 * ticksPerNs < (calling (50000 * ticksPerNs + 1)).now ∧ (calling (50000 * ticksPerNs)).now ≤ 0 + 50000 * ticksPerNs) := by
  refine ⟨fun b => ⟨rfl, fun p h => ?_⟩, some_meets (by decide +kernel), by decide +kernel⟩
  rw [List.mem_singleton.1 h]
  exact ⟨rfl, rfl⟩

/-- A host access at a physical address of 4 bytes. -/
def hostAt (pa : Nat) (w : Bool) : State := carrying (.host { pa := pa, swizzle := 0, write := w, length := 4, data := [1, 2, 3, 4] }) 0 { rich with pcieUp := true }
theorem witness_FirmwareEventResults :
    ((∀ b : Bool, (carrying (.image (picture b)) 111 rich).arg.x = .image (picture b)) ∧ (carrying (.image (picture true)) 111 rich).arg.a < 112 ∧
      Verifies (carrying (.image (picture true)) 111 rich) 127 (picture true) ∧ ¬ Verifies (carrying (.image (picture false)) 111 rich) 127 (picture false)) ∧
    (∃ p, (plugged false .idle).plugins.find? (fun p => 16 + p.tenant == 20) = some p ∧ p.image.digest = 9) ∧ (∃ f, rich.firmware.find? (fun f => f.1 == 3) = some f ∧ f.2.digest = 3) ∧
    (∃ c, (arg 1023 5 0 0 0 { runs5 with keySlots := [] }).context? 5 = some c ∧ ∀ k, k ∈ { runs5 with keySlots := [] }.keySlots → k.1 ≠ 1023 ∧ k.2 ≠ 5) ∧
    (∃ k, stopped5.keySlots.find? (fun k => k.1 == 4) = some k ∧ (k = (4, 5) ∧ (stopped5.context? 5).all (fun x => x.state != .resident) = true)) ∧
    (∀ b, b = false ∨ b = true → (hostAt (2 ^ 47 - 4) b).arg.x = .host { pa := 2 ^ 47 - 4, swizzle := 0, write := b, length := 4, data := [1, 2, 3, 4] } ∧
      (hostAt 0 b).pcieUp = true ∧ (hostAt 0 b).mem.wf = true) ∧
    (∀ j k, j < 4 → k < 4 → place 0 (2 ^ 36 - 4 + j) = place 0 (2 ^ 36 - 4 + k) → j = k) := by
  refine ⟨⟨fun _ => rfl, by decide +kernel, ⟨rfl, rfl, fun f h => absurd h (by rw [show (carrying (.image (picture true)) 111 rich).fuses = [] by decide +kernel]; simp)⟩, fun h => absurd h.2.1 (by decide)⟩,
    some_meets (by decide +kernel), some_meets (by decide +kernel), some_meets (by decide +kernel), some_meets (by decide +kernel), ?_, ?_⟩
  · rintro b (rfl | rfl) <;> decide +kernel
  · have e : ∀ j, j < 4 → ∀ k, k < 4 → place 0 (2 ^ 36 - 4 + j) = place 0 (2 ^ 36 - 4 + k) → j = k := by decide +kernel
    exact fun j k h g => e j h k g

/-- Context 5 with a company, from another device. -/
def migrant : Migrant := { context := context5 id, runs := [{ fresh1 with ctx := 5 }], troupes := [], companies := [player []], next := 3 }
theorem witness_CurtainResults :
    (runs5.curtain = false ∧ runs5.contexts.Pairwise (fun c d => c.id ≠ d.id)) ∧
    ({ runs5 with curtain := true, now := 14400 }.curtainAt + 14400 ≤ 14400 ∧ 14399 < { runs5 with curtain := true, now := 14399 }.curtainAt + 14400) ∧
    ({ rich with agenda := [.arrive migrant] }.context? migrant.context.id = none ∧ migrant.context.id ≠ 0 ∧ 7 ≤ rich.bootStep ∧ ∀ k, k ∈ migrant.companies → k.uid < migrant.next) ∧
    (Numbered (carrying (.flag true) 0 runs5) ∧ (carrying (.flag true) 0 runs5).arg.x = .flag true) ∧
    Numbered { runs5 with curtain := true, debugOpen := true } ∧
    ∃ c, (arg 5 0 0 0 0 stopped5).context? 5 = some c ∧ (c.state = .saved ∧ c.destroying = false ∧ c.id ≠ 0) := by
  simp only [numbered_iff]
  exact ⟨by decide +kernel, by decide +kernel, by decide +kernel, by decide +kernel, by decide +kernel, some_meets (by decide +kernel)⟩

/-- An error that strikes a place. -/
def struck (p : EccPlace) : State := carrying (.place p) 0 runs5
theorem witness_ErrorAndRepairResults :
    (struck (.hbm (2 ^ 39 - 1))).arg.x = .place (.hbm (2 ^ 39 - 1)) ∧
    (∃ c, rich.company? 1 = some c ∧ c.uid = 1) ∧
    Numbered (struck (.image 5 0x100000)) ∧ (struck (.image 5 0x100000)).arg.x = .place (.image 5 0x100000) ∧
    (∃ h, (queued [storing] []).chorus? 1 0 = some h ∧ h.queue[0]? = some storing) ∧ (struck (.clusterFabric 1 0)).companies.all (fun c => c.ops.isEmpty) = true ∧
    (∀ r, r ∈ rich.runs → ∀ w, w ∈ r.windows → w.1 ≠ 1) ∧
    total ((rich.contexts.filter (fun c => c.state == .resident)).map (fun c => c.quotas.getD 1 0)) ≤ 8 * 1048576 := by
  simp only [numbered_iff]
  exact ⟨rfl, some_meets (by decide +kernel), by decide +kernel, rfl, some_meets (by decide +kernel), by decide +kernel, by decide +kernel, by decide +kernel⟩

/-! ## The step, encodings and invariants -/

/-- Code bytes at the PC of the smallest company, whose turn it is. -/
def coded (bs : List Byte) : State := plain.placeCode bs
def turned (s : State) : State := { (turnOf s).2.notePick s.cur with cur := s.cur }
theorem turn_meets {s : State} {H : Site → Prop} [DecidablePred H] (t : (turnOf s).1 = .issue s.cur)
    (e : (turned s).site?.any (fun x => decide (x.sp.pc.toNat + 4 ≤ x.co.playbill.codeLength ∧ H x)) = true) : ∃ x, IssueTurn s s.cur (turned s) x ∧ H x := by
  obtain ⟨x, hx, a, b⟩ := some_meets e
  exact ⟨x, ⟨Prod.ext t rfl, rfl, hx, a⟩, b⟩
def found (x : Site) : Option Instr :=
  match decodeBytes [x.co.code.read x.sp.pc.toNat, x.co.code.read (x.sp.pc.toNat + 1), x.co.code.read (x.sp.pc.toNat + 2), x.co.code.read (x.sp.pc.toNat + 3)] with
  | .ok (i, _) => some i
  | .error _ => none
theorem found_holds {x : Site} {i : Instr} (h : found x = some i) : HoldsAtPc x i := by
  unfold found at h
  split at h
  · rename_i j r e
    cases h
    exact ⟨r, e⟩
  · cases h

theorem turn_found {s : State} {i : Instr} {H : Site → Prop} [DecidablePred H] (t : (turnOf s).1 = .issue s.cur)
    (e : (turned s).site?.any (fun x => decide (x.sp.pc.toNat + 4 ≤ x.co.playbill.codeLength ∧ found x = some i ∧ H x)) = true) :
    ∃ x, IssueTurn s s.cur (turned s) x ∧ HoldsAtPc x i ∧ H x := by
  obtain ⟨x, a, b, c⟩ := turn_meets t e
  exact ⟨x, a, found_holds b, c⟩
theorem turn_chain {s : State} {i : Instr} (t : (turnOf s).1 = .issue s.cur)
    (e : (turned s).site?.any (fun x => decide (x.sp.pc.toNat + 4 ≤ x.co.playbill.codeLength ∧ found x = some i ∧ x.ch.chain = none ∧
      (∀ p, p ∈ numbered 0 (chainFrom x.co (turned s).peek x.sp.pc.toNat x.sp.pc.toNat 5) → memberCause x x.sp.pc.toNat p.1 p.2 = none) ∧
      x.ch.resident (chainRows x (chainFrom x.co (turned s).peek x.sp.pc.toNat x.sp.pc.toNat 5)) = true ∧
      ∀ m, m ∈ chainFrom x.co (turned s).peek x.sp.pc.toNat x.sp.pc.toNat 5 → x.loading m.2 = [])) = true) :
    ∃ x, IssueTurn s s.cur (turned s) x ∧ HoldsAtPc x i ∧ x.ch.chain = none ∧
      (∀ m, m ∈ chainFrom x.co (turned s).peek x.sp.pc.toNat x.sp.pc.toNat 5 → x.loading m.2 = []) ∧ (∀ n m, (n, m) ∈ numbered 0 (chainFrom x.co (turned s).peek x.sp.pc.toNat x.sp.pc.toNat 5) → memberCause x x.sp.pc.toNat n m = none) ∧
      x.ch.resident (chainRows x (chainFrom x.co (turned s).peek x.sp.pc.toNat x.sp.pc.toNat 5)) = true := by
  obtain ⟨x, a, b, c, d, f, g⟩ := turn_found t e
  exact ⟨x, a, b, c, g, fun n m => d (n, m), f⟩
theorem turn_pool {s : State} {i : Instr} (t : (turnOf s).1 = .issue s.cur)
    (e : (turned s).site?.any (fun x => decide (x.sp.pc.toNat + 4 ≤ x.co.playbill.codeLength ∧ found x = some i ∧ x.ch.chain = none ∧
      (∃ p, p ∈ x.co.playbill.pools ∧ p.1 ≤ x.sp.pc.toNat ∧ x.sp.pc.toNat < p.1 + 4 * p.2) ∧ quietTroupeB (turned s) x.co = true)) = true) :
    ∃ x, IssueTurn s s.cur (turned s) x ∧ HoldsAtPc x i ∧ x.ch.chain = none ∧ InPool x x.sp.pc.toNat ∧ QuietTroupe (turned s) x.co := by
  obtain ⟨x, a, b, c, d, f⟩ := turn_found t e
  exact ⟨x, a, b, c, d, (troupe_iff _ _).mpr f⟩

/-- The code image with a pool extent at the PC. -/
def pooled (s : State) : State := { s with companies := s.companies.map (fun (c : Company) => { c with playbill := { c.playbill with pools := [(0, 1)] } }) }
/-- A company whose chorus stands inside a chain. -/
def chained (s : State) : State := { s with companies := s.companies.map (fun (c : Company) => { c with choruses := c.choruses.map (fun (h : Chorus) => { h with chain := some (1, 0) }) }) }
/-- ADD v20, v5, v6 alone, and as the first of a chain of two. -/
def adds : List Byte := (encode (.add 0 0 6 5 20)).bytes
def addsChained : List Byte := (encode (.add 1 0 6 5 20)).bytes ++ adds

theorem witness_StepRunsTheDecodedInstruction :
    (∃ x, IssueTurn (coded adds) (coded adds).cur (turned (coded adds)) x ∧ HoldsAtPc x (.add 0 0 6 5 20) ∧ x.ch.chain = none ∧ x.co.playbill.pools = []) ∧
    chBit (.add 0 0 6 5 20) = false ∧
    (∃ x, IssueTurn (chained (coded adds)) (chained (coded adds)).cur (turned (chained (coded adds))) x ∧ HoldsAtPc x (.add 0 0 6 5 20) ∧ x.ch.chain = some (1, 0)) ∧
    chBit (.add 1 0 6 5 20) = true ∧
    ((turnOf { plain with agenda := [.event .coldReset plain.arg] }).1 = .event .coldReset plain.arg ∧ 7 ≤ plain.bootStep) :=
  ⟨turn_found (by decide +kernel) (by decide +kernel), by decide +kernel, turn_found (by decide +kernel) (by decide +kernel), by decide +kernel, rfl, by decide +kernel⟩
theorem witness_chain_starts :
    ∃ x, IssueTurn (coded addsChained) (coded addsChained).cur (turned (coded addsChained)) x ∧ HoldsAtPc x (.add 1 0 6 5 20) ∧ x.ch.chain = none ∧
      (∀ m, m ∈ chainFrom x.co (turned (coded addsChained)).peek x.sp.pc.toNat x.sp.pc.toNat 5 → x.loading m.2 = []) ∧ (∀ n m, (n, m) ∈ numbered 0 (chainFrom x.co (turned (coded addsChained)).peek x.sp.pc.toNat x.sp.pc.toNat 5) → memberCause x x.sp.pc.toNat n m = none) ∧
      x.ch.resident (chainRows x (chainFrom x.co (turned (coded addsChained)).peek x.sp.pc.toNat x.sp.pc.toNat 5)) = true :=
  turn_chain (by decide +kernel) (by decide +kernel)
theorem witness_pool_fetch :
    ∃ x, IssueTurn (pooled (coded adds)) (pooled (coded adds)).cur (turned (pooled (coded adds))) x ∧ HoldsAtPc x (.add 0 0 6 5 20) ∧ x.ch.chain = none ∧
      InPool x x.sp.pc.toNat ∧ QuietTroupe (turned (pooled (coded adds))) x.co := turn_pool (by decide +kernel) (by decide +kernel)

/-- Instructions of the encodings, and memories in canonical form. -/
theorem witness_encodings_and_memories :
    (Encoded (.add 1 1 127 127 63) ∧ Encoded (.sub16 20 21)) ∧ (∃ m : Memory, m.wf = true ∧ m.read 7 = 5) := by
  refine ⟨⟨⟨by decide +kernel, by rintro w ⟨⟩⟩, by decide +kernel, by rintro w ⟨⟩⟩, (Memory.write [] 7 5), by decide, by decide⟩

/-- No context is to arrive from another device. -/
def nobodyComes (s : State) : Bool := (s.agenda ++ s.waiting).all (fun t => match t with | .arrive _ => false | _ => true)
theorem nobody_comes {s : State} (e : nobodyComes s = true) (m : Migrant) (h : Comes s m) : False := by
  have f := List.all_eq_true.mp e (.arrive m) (List.mem_append.2 h)
  simp at f
theorem kept_mem {s : State} {m : Image} (h : Kept s m) : m ∈ s.images ++ s.copies.map (fun c => c.1) :=
  List.mem_append.2 (h.imp id (fun ⟨a, e⟩ => List.mem_map.2 ⟨(m, a), e, rfl⟩))

/-- A state with a company in which the invariants hold, and its step. -/
def canonicalB (s : State) : Bool :=
  let co (c : Company) : Bool := c.stage.wf && c.score.wf && c.code.wf
  let ru (r : Run) : Bool := r.code.wf && r.windows.all (fun w => w.2.wf)
  s.mem.wf && s.companies.all co && s.runs.all ru && (s.images ++ s.copies.map (fun c => c.1)).all (fun m => ru m.runState && m.companies.all co) && nobodyComes s
theorem canonical_of {s : State} (e : canonicalB s = true) : MemoriesCanonical s := by
  simp only [canonicalB, Bool.and_eq_true, List.all_eq_true] at e
  obtain ⟨⟨⟨⟨a, b⟩, c⟩, d⟩, f⟩ := e
  exact ⟨a, fun k h => ⟨(b k h).1.1, (b k h).1.2, (b k h).2⟩, fun r h => c r h,
    fun m h => have q := d m (kept_mem h); ⟨q.1, fun k g => ⟨(q.2 k g).1.1, (q.2 k g).1.2, (q.2 k g).2⟩⟩, fun m h => (nobody_comes f m h).elim⟩
theorem witness_StepsKeepMemoriesCanonical : MemoriesCanonical (coded adds) ∧ (match step (coded adds) with | .next t => canonicalB t | _ => false) = true :=
  ⟨canonical_of (by decide +kernel), by decide +kernel⟩

def allShapedB (s : State) : Bool :=
  s.companies.all (fun c => c.choruses.all shapedB) && s.runs.all (fun r => decide (32 ≤ r.playbill.ring ∧ r.playbill.ring ≤ 240)) &&
    (s.images ++ s.copies.map (fun c => c.1)).isEmpty && nobodyComes s
theorem witness_StepsKeepRegistersWhole : AllShaped (coded adds) ∧ (match step (coded adds) with | .next t => allShapedB t | _ => false) = true := by
  have e : allShapedB (coded adds) = true := by decide +kernel
  refine ⟨?_, by decide +kernel⟩
  simp only [allShapedB, Bool.and_eq_true, List.all_eq_true, List.isEmpty_iff, decide_eq_true_eq] at e
  exact ⟨fun c h k g => shaped_of (e.1.1.1 c h k g), fun r h => e.1.1.2 r h, fun m h => absurd (kept_mem h) (by rw [e.1.2]; exact List.not_mem_nil),
    fun m h => (nobody_comes e.2 m h).elim⟩

def distinctB (s : State) : Bool := decide
  (((s.companies.Pairwise (fun c d => c.uid ≠ d.uid) ∧ ∀ c, c ∈ s.companies → c.uid < s.uid) ∧
    (∀ c, c ∈ s.companies → c.choruses.Pairwise (fun g h => g.index ≠ h.index)) ∧
    (s.contexts.Pairwise (fun c d => c.id ≠ d.id) ∧ ∀ c, c ∈ s.contexts → c.state ≠ .free)) ∧
    (s.runs.Pairwise (fun p q => ¬ (p.ctx = q.ctx ∧ p.id = q.id)) ∧ ∀ r, r ∈ s.runs → ∃ c, c ∈ s.contexts ∧ c.id = r.ctx ∧ r.id ≤ c.lastRun) ∧
      s.images ++ s.copies.map (fun c => c.1) = [] ∧ nobodyComes s = true)
/-- The run of the smallest company is the last of its context. -/
def lawful : State := { coded adds with contexts := plain.contexts.map (fun (c : Context) => { c with lastRun := 1 }) }
theorem witness_StepsKeepNumbersApart : AllDistinct lawful ∧ (match step lawful with | .next t => distinctB t | _ => false) = true := by
  have e : distinctB lawful = true := by decide +kernel
  refine ⟨?_, by decide +kernel⟩
  rw [distinctB, decide_eq_true_iff] at e
  obtain ⟨⟨a, b, c⟩, d, f, g⟩ := e
  exact ⟨a, b, c, d, fun m h => absurd (kept_mem h) (by rw [f]; exact List.not_mem_nil), fun m h => (nobody_comes g m h).elim⟩

theorem witness_StepsAlwaysAnswer : EventsOnly { plain with agenda := [.event .coldReset plain.arg] } ∧ EventsOnly (coded adds) := by
  refine ⟨fun i a h => ?_, fun i a h => ?_⟩
  · rcases h with h | h
    · simp only [List.mem_singleton, Turn.event.injEq] at h
      rw [h.1]; rfl
    · have e : plain.waiting = [] := by decide +kernel
      simp [e] at h
  · have e : ((coded adds).agenda ++ (coded adds).waiting).all (fun t => match t with | .event _ _ => false | _ => true) = true := by decide +kernel
    exact absurd ((List.all_eq_true.mp e) _ (List.mem_append.2 h)) Bool.false_ne_true

/-! ## Ill-formed terms: one that each check of the fields refuses -/

theorem test_selector_fields_refused : [Instr.add 0 0 64 5 20, .add 0 0 68 5 20, .add 0 0 5 68 20, .fma 0 0 5 124 20, .popc 0 0 68 20, .addi 0 0 1 68 20].map Instr.wellFormed =
    [true, false, false, false, false, false] := by decide +kernel
theorem test_conversion_and_atomic_codes_refused : [Instr.cvt 0 0 0 0x0D 5 20, .cvt 0 0 0 0x0E 5 20, .cvt 0 0 0 0x0F 5 20, .atomS 0 12 0 5 20, .atomS 0 13 0 5 20, .atomS 0 11 1 5 20,
    .atomC 0 10 1 5 20, .atomC 0 14 0 5 20, .flyAtm 0 5 12 0 1, .flyAtm 0 5 13 0 1].map Instr.wellFormed = [true, false, false, true, false, false, true, false, true, false] := by decide +kernel
theorem test_barrier_and_frame_fields_refused : [Instr.barC 15 32 20, .barC 16 32 20, .barC 15 33 20, .barT 3 8 20, .barT 4 8 20, .barT 3 9 20, .call 1 48, .call 1 49, .callr 48 5, .callr 49 5,
    .alloc 48, .alloc 49].map Instr.wellFormed = [true, false, false, true, false, false, true, false, true, false, true, false] := by decide +kernel
theorem test_fence_and_slot_fields_refused : [Instr.fenceR 5 1 1, .fenceR 6 1 1, .fenceR 5 0 1, .fenceR 5 1 0, .fenceX 5 1 1 1, .fenceX 6 1 1 1, .fenceX 5 0 1 1, .fenceX 5 1 0 1, .fenceX 5 1 1 0,
    .rngSetH 5 7, .rngSetH 5 8, .rngSet 5 5 7, .rngSet 5 5 8, .rngSet 5 0x3F 7].map Instr.wellFormed =
    [true, false, false, false, true, false, false, false, false, true, false, true, false, false] := by decide +kernel
theorem test_register_and_message_fields_refused : [Instr.cueSet 5 7, .cueSet 5 0, .cueSet 5 8, .cueClr 7, .cueClr 0, .cueClr 8, .mfs 1 20, .mfs 5 20, .mts 9 20, .mts 0 20, .wtm 62 20, .wtm 63 20, .qkick 5 63,
    .msgHold 5 63 20, .msgSend 5 61 20, .msgSend 5 62 20, .msgSend 63 61 20].map Instr.wellFormed =
    [true, false, false, true, false, false, true, false, true, false, true, false, false, false, true, false, false] := by decide +kernel
theorem test_image_and_matrix_fields_refused : [Instr.plset 5 20, .plset 6 20, .rdstg 1 20, .rdstg 2 20, .undef 0, .reservedEncoding 1, .mxSput 62, .mxSput 63].map Instr.wellFormed =
    [true, false, true, false, false, false, true, false] := by decide +kernel

/-! ## Words of the encodings

Each word is the row's fixed bits of the table of encodings with a value in each of its fields. -/

theorem test_words_of_add_to_maxu : [
    0x8CA30901, 0x51CD8401, 0x6D645E01, 0x71E7DC01, 0x418E0503, 0x5D690F03, 0xA34C2F03, 0x31ED3F03, 0xCEFD2E05, 0x95CF8A05, 0xEAFCA405, 0x3D6AAB05].map (decodeTableWord 32) = [
    .add 1 0 101 12 9, .sub 0 1 14 54 4, .adds 0 1 107 17 30, .subs 0 1 15 31 28, .mul 0 1 12 56 5, .mulhs 0 1 107 36 15, .mulhu 1 0 26 48 47,
      .mad 0 0 15 52 63, .min 1 1 119 116 46, .max 1 0 46 62 10, .minu 1 1 87 114 36, .maxu 0 0 107 42 43].map some := by decide +kernel
theorem test_words_of_and_to_cmple : [
    0x4D628907, 0xDB3FFA07, 0x28BE4807, 0x7E523107, 0x8ED69509, 0x51EDE409, 0x2CB93F09, 0x3E59A309, 0x48FAAD0B, 0x94C5560B, 0x2760FE0B, 0x7900520B].map (decodeTableWord 32) = [
    .and 0 1 107 10 9, .or 1 1 89 127 58, .xor 0 0 69 121 8, .andn 0 1 114 72 49, .shl 1 0 118 90 21, .shr 0 1 15 55 36, .sar 0 0 101 100 63,
      .rot 0 0 114 102 35, .cmpeq 0 1 71 106 45, .cmpne 1 0 38 21 22, .cmplt 0 0 59 3 62, .cmple 0 1 72 1 18].map some := by decide +kernel
theorem test_words_of_cmpltu_to_brev : [
    0xCA28060D, 0xDCB9B20D, 0x6CC3D80D, 0x3E0A4E0D, 0x8340130F, 0x50C49A0F, 0xA8162E0F, 0xB3BF3B0F, 0xC013CA11, 0x1015E111, 0xA0015A11, 0xB001A611].map (decodeTableWord 32) = [
    .cmpltu 1 1 81 32 6, .cmpleu 1 1 101 102 50, .tst 0 1 102 15 24, .absd 0 0 112 41 14, .sel 1 0 26 0 19, .bfx 0 1 6 18 26, .bfi 1 0 64 88 46,
      .lea 1 0 29 124 59, .popc 1 1 79 10, .clz 0 0 87 33, .ctz 1 0 5 26, .brev 1 0 6 38].map some := by decide +kernel
theorem test_words_of_divs_to_addi : [
    0x4BAAAD13, 0x572C5E13, 0xA67FAD13, 0x38FE2113, 0x401CAC15, 0x900E0D15, 0x600CAB15, 0x70003D15, 0x8007B117, 0x55BBEA17, 0x601DB317, 0x15C80321].map (decodeTableWord 32) = [
    .divs 0 1 93 42 45, .divu 0 1 57 49 30, .rems 1 0 51 126 45, .remu 0 0 71 120 33, .mov 0 1 114 44, .zxb 1 0 56 13, .sxb 0 1 50 43, .sxh 0 1 0 61,
      .zxh 1 0 30 49, .pack 0 1 45 111 42, .bsw 0 1 118 51, .addi 0 0 174 32 3].map some := by decide +kernel
theorem test_words_of_andi_to_movi : [
    0x52BE6C23, 0x02A0CD25, 0x58ED8327, 0x824F6929, 0xC103ED2B, 0xC109822D, 0x8089962F, 0x4F63E931, 0x874FD833, 0x8C9CC335, 0x080E2937, 0x79E67D39].map (decodeTableWord 32) = [
    .andi 0 1 149 121 44, .ori 0 0 21 3 13, .xori 0 1 199 54 3, .shli 1 0 18 61 41, .shri 1 1 8 15 45, .sari 1 1 8 38 2, .cmpeqi 1 0 4 38 22,
      .cmplti 0 1 123 15 41, .cmpltui 1 0 58 63 24, .muli 1 0 100 115 3, .ldp 64 56 41, .movi 0 1 59289 61].map some := by decide +kernel
theorem test_words_of_movh_to_redmin : [
    0x59EE793B, 0x118DB53D, 0x4E340941, 0x524DA641, 0x2BA92041, 0x77063241, 0x800E5443, 0xD015B543, 0x60144B43, 0xB015BA43, 0x8018AA45, 0x90071D45].map (decodeTableWord 32) = [
    .movh 0 1 26553 57, .lit 17974 53, .shfl 0 1 113 80 9, .shup 0 1 18 54 38, .shdn 0 0 93 36 32, .shxor 0 1 56 24 50, .vany 1 0 57 20, .vall 1 1 86 53,
      .ballot 0 1 81 11, .leader 1 0 86 58, .redadd 1 0 98 42, .redmin 1 0 28 29].map some := by decide +kernel
theorem test_words_of_redmax_to_fnma : [
    0x2010E245, 0x30115045, 0xC019D347, 0xD005A347, 0x201B0947, 0x82D08A61, 0x1867FA61, 0x6D511061, 0x338A6161, 0x0673E763, 0x5E4B6263, 0xA8024163].map (decodeTableWord 32) = [
    .redmax 0 0 67 34, .redminu 0 0 69 16, .scan 1 1 103 19, .rank 1 1 22 35, .matchLanes 0 0 108 9, .fadd 1 0 22 66 10, .fsub 0 0 67 31 58,
      .fmul 0 1 106 68 16, .fdiv 0 0 28 41 33, .fma 0 0 51 79 39, .fms 0 1 114 45 34, .fnma 1 0 64 9 1].map some := by decide +kernel
theorem test_words_of_fnms_to_fsqrt : [
    0x3F2FB963, 0x4FD92765, 0x1AEC9165, 0xE1A84165, 0x7DCA4765, 0x490FA567, 0x55EA2267, 0xA8776A67, 0xB113DB67, 0x80002A69, 0x901E6369, 0x20004B69].map (decodeTableWord 32) = [
    .fnms 0 0 121 62 57, .fmin 0 1 126 100 39, .fmax 0 0 87 50 17, .fminnum 1 1 13 33 1, .fmaxnum 0 1 110 41 7, .fcmpeq 0 1 72 62 37, .fcmplt 0 1 47 40 34,
      .fcmple 1 0 67 93 42, .fcmpun 1 0 8 79 27, .frcp 1 0 0 42, .frsq 1 0 121 35, .fsqrt 0 0 1 11].map some := by decide +kernel
theorem test_words_of_fclass_to_cvtsr : [
    0xB0093369, 0x4001666B, 0x9005536B, 0xE01F936B, 0xB002F66B, 0x1005436D, 0x0B86B06F, 0x908FBE6F, 0xAE844B6F, 0x7804E16F, 0x1EBFB071, 0x616C8973].map (decodeTableWord 32) = [
    .fclass 1 0 36 51, .fexp2 0 1 5 38, .flog2 1 0 21 19, .fsinpi 1 1 126 19, .fcospi 1 0 11 54, .frnd 0 0 1 21 3, .hadd2 0 0 92 26 48, .hmul2 1 0 4 62 62,
      .hfma2 1 0 116 17 11, .bfma2 0 1 64 19 33, .cvt 0 0 1 117 126 48, .cvtsr 0 1 2 11 50 9].map some := by decide +kernel
theorem test_words_of_dp4_to_ldSh : [
    0x48335175, 0x51FF2275, 0x2FB2A475, 0xFEE79975, 0x8F212577, 0x9E713177, 0x2265D277, 0xF0086377, 0xC9CBB681, 0x8628CD83, 0x2484DF85, 0xB7DA1887].map (decodeTableWord 32) = [
    .dp4 0 1 65 77 17, .dp8 0 1 15 124 34, .dp2 0 0 125 74 36, .dp4u 1 1 119 30 25, .scl 1 0 121 4 37, .pk8 1 0 115 68 49, .upk 0 0 19 23 18, .mxs 1 1 33 35,
      .ldWl 3 156 46 54, .stWl 2 98 35 13, .ldSb 0 584 19 31, .ldSh 2 893 40 24].map some := by decide +kernel
theorem test_words_of_ldSw_to_stTq : [
    0xB6C0F389, 0x4A51B48B, 0xD1B93E8D, 0x10457C8F, 0xEBF92691, 0xA14CDC93, 0xBDDC8F95, 0x54B25A97, 0xF739EA99, 0xED91D89B, 0x72D6689D, 0x2A1EAC9F].map (decodeTableWord 32) = [
    .ldSw 2 876 3 51, .ldSq 1 165 6 13, .stSb 3 283 36 62, .stSh 0 260 21 60, .stSw 3 703 36 38, .stSq 2 532 51 7, .ldSa 2 989 50 15, .stSr 1 331 9 26,
      .ldT 15 28 231 42, .stT 14 54 71 24, .ldTq 7 11 89 10, .stTq 2 40 122 11].map some := by decide +kernel
theorem test_words_of_atomS_to_awtC : [
    0x982D31A1, 0xDB08ABA3, 0x3FC8EEA5, 0x5BA2E2A7, 0x713CF8A9, 0xE7F090AB, 0x366F3EAD, 0x095CBBAF, 0x0E5FCDB1, 0x0713D3B3, 0x037D4AB5, 0x114010B5].map (decodeTableWord 32) = [
    .atomS 2 6 2 52 49, .atomC 3 6 48 34 43, .ldCw 0 1020 35 46, .stCw 1 442 11 34, .ldCq 1 787 51 14, .stCq 3 639 2 4, .ldCa 0 870 60 62, .stCr 0 149 50 59,
      .barC 57 127 13, .barT 28 79 19, .arvC 27 117 10, .awtC 10 0 16].map some := by decide +kernel
theorem test_words_of_arvT_to_tlSt : [
    0x276266B5, 0x341037B5, 0x000424B7, 0x0011C8B9, 0x072001BB, 0x14C03ABB, 0x0011E8BD, 0x10001FBD, 0x2001DEBD, 0x07E000BF, 0x10E000BF, 0x2D2027BF].map (decodeTableWord 32) = [
    .arvT 59 9 38, .awtT 32 64 55, .fenceR 1 0 36, .fenceX 4 1 12 8, .rngSet 57 0 1, .rngSetH 38 58, .cueSet 71 40, .cueClr 31, .cueRd 7 30, .tlRel 126,
      .tlWait 14, .tlSt 210 39].map some := by decide +kernel
theorem test_words_of_recBind_to_alloc : [
    0x30E158BF, 0xFF22B5C1, 0x2984E0C3, 0x74A782C5, 0xD940EFC7, 0x074FC0C9, 0x000000CB, 0x117500CD, 0x000000CF, 0x000AF5D1, 0x000000D3, 0x0B9800D5].map (decodeTableWord 32) = [
    .recBind 7 5 24, .bz 261258 53, .bnz 42515 32, .j 7645058, .call 222467 47, .callr 58 63, .ret, .jpt 17876, .rcv, .rcvT 43 53, .exit, .alloc 11872].map some := by decide +kernel
theorem test_words_of_brt_to_wev : [
    0xCAEF59D7, 0x003740F9, 0x100000F9, 0x2958C0F9, 0x322868F9, 0x469100F9, 0x5FDC99F9, 0x69F998F9, 0x71D880F9, 0x03B700FB, 0x100840FB, 0x22537FFB].map (decodeTableWord 32) = [
    .brt 207805 25, .trap 221, .rtt, .brk 9571, .nop 141416, .pool 6724, .mfs 16242 25, .mts 10214 24, .fmt 1890, .tmrSet 59 28, .tmrClr 33, .wev 37 13 63].map some := by decide +kernel
theorem test_words_of_wtm_to_flyOut : [
    0x3005DCFB, 0x43ED40FB, 0x500007FB, 0x012C86FD, 0x1006C3FD, 0x200012FD, 0x335187FD, 0x0000B2FF, 0x1E6368FF, 0xF39F61FF, 0x2B530AE1, 0x893E0DE3].map (decodeTableWord 32) = [
    .wtm 23 28, .qkick 62 53, .evt 7, .msgSend 18 50 6, .msgRecv 27 3, .msgPeek 18, .msgHold 53 6 7, .plset 2 50, .rdstg 14733 40, .undef 237409,
      .flyIn 0 21 42 97 2, .flyOut 1 4 39 193 5].map some := by decide +kernel
theorem test_words_of_flyGth_to_mxGet : [
    0xF0A9B8E5, 0x46559EE7, 0x3585B4E9, 0x960000EB, 0xB37803ED, 0xDDE07EEF, 0x662806F7, 0x7100FCF1, 0x156DCCF3, 0x000A05F5, 0x186A00F5, 0x28D900F5].map (decodeTableWord 32) = [
    .flyGth 1 56 21 55 0, .flySct 0 35 10 179 6, .flyScl 0 26 48 182 4, .flyCp 1 11 0, .flyAtm 1 25 11 3 3, .flyMc 1 46 60 15 6, .flyPf 0 51 5 6,
      .mxMma 0 14 32 31 4, .mxSpr 0 2 173 185 4, .mxZero 10 5, .mxPut 134 10, .mxGet 141 9].map some := by decide +kernel
theorem test_words_of_mxSput_to_mxSput : [
    0x300000F5].map (decodeTableWord 32) = [
    .mxSput 0].map some := by decide +kernel
theorem test_words_of_mov16_to_max16 : [
    0x3AE0, 0x77E2, 0xFB24, 0x0D46, 0x03E8, 0xE72A, 0x992C, 0xD6CE, 0xC290, 0x3EB2, 0x0294, 0xAF36].map (decodeTableWord 16) = [
    .mov16 14 23, .add16 29 31, .sub16 62 25, .and16 3 10, .or16 0 31, .xor16 57 25, .shl16 38 9, .shr16 53 22, .sar16 48 20, .mul16 15 21, .min16 0 20,
      .max16 43 25].map some := by decide +kernel
theorem test_words_of_fadd16_to_addi16 : [
    0x3D98, 0x065A, 0x82FC, 0x233E].map (decodeTableWord 16) = [
    .fadd16 15 12, .fsub16 1 18, .fmul16 32 23, .addi16 8 25].map some := by decide +kernel

/-- Words that the spec writes out beside its examples (R89, R107, R111, R112, R165, R235, R272, R274, R326, R333, R334, R382). -/
theorem test_words_of_the_examples : [0x500011F9, 0x00045237, 0x02849331, 0x0024D423, 0x00051547, 0x00051645, 0x2004D743, 0x10245271, 0x00249189, 0x000441BD, 0x003000BF, 0x00C014B1].map
      (decodeTableWord 32) =
    [.mfs 0 17, .ldp 0 17 18, .cmplti 0 0 20 18 19, .andi 0 0 1 19 20, .scan 0 0 20 21, .redadd 0 0 20 22, .ballot 0 0 19 23, .cvt 0 0 1 1 17 18, .ldSw 0 2 18 17, .cueSet 17 1, .tlRel 3,
      .barC 3 0 20].map some := by decide +kernel
theorem test_words_of_more_examples : [0x00191139, 0x02445301, 0x3FA4D421, 0x82245603, 0xC2500001, 0x0050572B, 0x02A45677, 0x12E59977, 0x710000F9, 0x813494A1, 0x420780FB, 0x500014FB, 0x501820EF,
      0x015500FB, 0x01C614FD].map (decodeTableWord 32) =
    [.movi 0 0 100 17, .add 0 0 18 17 19, .addi 0 0 0x1FD 19 20, .mul 1 0 17 17 22, .add 1 1 18 64 0, .shri 0 0 2 65 23, .scl 0 0 21 17 22, .pk8 0 0 23 22 25, .fmt 0x400, .atomS 2 0 19 18 20,
      .qkick 32 30, .evt 20, .flyMc 0 40 3 4 0, .tmrSet 21 20, .msgSend 28 24 20].map some := by decide +kernel
theorem test_halfword_of_the_example : decodeTableWord 16 0x52A4 = some (.sub16 20 21) := by decide +kernel

/-! ## Further hypotheses of the statements -/

/-- Another split that is ready beside the running one, and none (R121). -/
theorem witness_runs_on :
    (∃ x, Issues (.add 0 0 5 6 17) (forked id) x ∧ ∃ q, q ∈ x.ch.splits ∧ q.members ≠ x.sp.members ∧ q.state = .ready ∧ q.spilled = false ∧
      q.wait = .none ∧ x.ch.resident q.needed = true) ∧
    ∃ x, Issues (.add 0 0 5 6 17) base x ∧ ((∀ q, q ∈ x.ch.splits → q.members = x.sp.members) ∧ x.ch.crowded = false) :=
  ⟨meets (by decide +kernel), meets (by decide +kernel)⟩

/-- 7 lies past the largest number of E2M1, which is 6 and comes after 4. -/
theorem witness_past_the_largest : ∃ q p x, valQ (e2m1.value e2m1.maxCode) = some q ∧ valQ (e2m1.value (e2m1.maxCode - 1)) = some p ∧
    valQ (.fin false 7 0) = some x ∧ q < x := by
  have e : e2m1.value e2m1.maxCode = .fin false 3 1 := by decide +kernel
  have f : e2m1.value (e2m1.maxCode - 1) = .fin false 2 1 := by decide +kernel
  refine ⟨6, 4, 7, ?_, ?_, ?_, by norm_num⟩
  · rw [e]; norm_num [valQ]
  · rw [f]; norm_num [valQ]
  · norm_num [valQ]
theorem witness_zeros_of_both_signs : ∀ t, t ∈ [Val.fin true 0 3, .fin false 0 (-2)] → ∃ neg e, t = .fin neg 0 e := by
  intro t h
  fin_cases h
  · exact ⟨true, 3, rfl⟩
  · exact ⟨false, -2, rfl⟩

/-- Conversions between kinds; 1.0, whose exponent is 0; formats of containers of 8 and of 16 bits; a group of 2.0. -/
theorem witness_element_laws :
    (cvtSource 0x10 = .int int32 ∧ cvtSource 0x70 = .scale ∧ cvtDest 3 = .flt fp16 ∧ cvtSource 3 = .flt fp32 ∧ cvtDest 1 = .int int32 ∧ cvtSource 1 = .flt fp32) ∧
    (∃ x q, valQ (fp 0x3F800000) = some x ∧ (2 : ℚ) ^ (0 : Int) ≤ |x| ∧ |x| < (2 : ℚ) ^ ((0 : Int) + 1) ∧ valQ (e2m1.value e2m1.maxCode) = some q) ∧
    ((fmtA 0x000).toNat ≤ 10 ∧ (fmtA 0x00A).toNat ≤ 10 ∧ (codeIsInt (fmtA 0) && codeIsInt (fmtB 0)) = false) ∧
    (∃ y, valQ (fp 0x40000000) = some y ∧ (2 : ℚ) ^ (1 : Int) ≤ |y| ∧ |y| < (2 : ℚ) ^ ((1 : Int) + 1)) ∧ zeroCode 0x80000000 = true := by
  have e : fp 0x3F800000 = .fin false 8388608 (-23) := by decide +kernel
  have f : fp 0x40000000 = .fin false 8388608 (-22) := by decide +kernel
  have g : e2m1.value e2m1.maxCode = .fin false 3 1 := by decide +kernel
  refine ⟨by decide, ⟨1, 6, ?_, ?_, ?_, ?_⟩, by decide, ⟨2, ?_, ?_, ?_⟩, by decide⟩
  · rw [e]; norm_num [valQ]
  · norm_num
  · norm_num
  · rw [g]; norm_num [valQ]
  · rw [f]; norm_num [valQ]
  · norm_num
  · norm_num

/-- Accesses whose lanes from 16 on pass the window, and all of whose lanes do for want of one. -/
def passing (k : Nat) : State := reg 6 (fun l => BitVec.ofNat 32 (65536 - 16 * k + k * l)) rich
def windowless (k : Nat) : State := { passing k with runs := rich.runs.map (fun (r : Run) => { r with window := 0, windows := [] }) }
def outsideSamples : List (Instr × Nat) :=
  [(.ldCw 0 0 6 17, 4), (.ldCq 0 0 6 11, 16), (.ldCa 0 0 6 17, 4), (.stCw 0 0 6 5, 4), (.stCq 0 0 6 1, 16), (.stCr 0 0 6 5, 4), (.atomC 3 0 5 6 17, 4)]
theorem witness_OutsideSwitchedOff : ∀ p, p ∈ outsideSamples → ∀ s, s ∈ [passing p.2, windowless p.2] → ∃ x, Issues p.1 s x ∧ (Apart x.ch ∧
    outsideOf (s.windowSize x.co) p.2 (laneAddrs x 6 0) ≠ 0 ∧ Free x 1 p.2 (insideOf (s.windowSize x.co) p.2 (laneAddrs x 6 0)) ∧
    (∀ a, a ∈ laneAddrs x 6 0 → a.2 % p.2 = 0) ∧ (s.window? x.co).all (fun m => m.wf) = true ∧
    ∀ a, a ∈ insideOf (s.windowSize x.co) p.2 (laneAddrs x 6 0) → poisoned (s.windowMarks x.co) a.2 p.2 = false) := by
  simp only [apart_iff, free_iff]
  have e : ∀ p, p ∈ outsideSamples → ∀ s, s ∈ [passing p.2, windowless p.2] → holds s (fun x => issuesB p.1 x && decide
      (((∀ q, q ∈ x.ch.splits → q.members ≠ 0) ∧ x.ch.splits.Pairwise (fun q r => q.members &&& r.members = 0)) ∧
      outsideOf (s.windowSize x.co) p.2 (laneAddrs x 6 0) ≠ 0 ∧
      (x.active ≠ 0 ∧ x.ch.inflight.length < 64 ∧ ∀ t, t ∈ x.ch.tagsFor (spans 1 p.2 (insideOf (s.windowSize x.co) p.2 (laneAddrs x 6 0))) → x.ch.count t < 255) ∧
      (∀ a, a ∈ laneAddrs x 6 0 → a.2 % p.2 = 0) ∧ (s.window? x.co).all (fun m => m.wf) = true ∧
      ∀ a, a ∈ insideOf (s.windowSize x.co) p.2 (laneAddrs x 6 0) → poisoned (s.windowMarks x.co) a.2 p.2 = false)) = true := by decide +kernel
  exact fun p hp s hs => meets (e p hp s hs)
theorem witness_no_displacement : offM 0 4 = 0 ∧ offM 0 16 = 0 := by decide

theorem witness_table_roots : mapped.mem.wf = true ∧ (mapped.roots 0).2.1 % 4096 = 0 ∧ (mapped.roots 0).2.2 % 4096 = 0 := by decide +kernel

/-- Another split awaits the call board. -/
def boardWaits : State := forked (fun p => { p with state := .waitMemory, wait := .board (.recv 0 8) 17 })
theorem witness_fence_from_messages : ∃ x, Issues (.fenceX 0 3 1 0xF) boardWaits x ∧ (Apart x.ch ∧ ∃ p, p ∈ x.ch.splits ∧ p.wait = .board (.recv 0 8) 17) := by
  simp only [apart_iff]
  exact meets (by decide +kernel)
theorem witness_abandoned_barrier : ∃ x, Issues (.barT 3 8 17) deserted x ∧ (QuietTroupe deserted x.co ∧ troupeBarrier deserted x.co 3 = some calm ∧
    (deserted.troupeOf x.co).all (fun u => u.abandoned) = true) := by
  simp only [troupe_iff]
  exact meets (by decide +kernel)

/-- Region 2 has no capacity. -/
def undeclared : State := company (fun c => { c with pit := c.pit ++ [{ regionOf false 0 with capacity := 0 }] }) (with9 0x00100010 rich)
theorem witness_region_without_capacity : ∃ x, MxReady (.mxZero 2 9) undeclared x ∧ (x.co.playbill.ensemble ≤ 1 ∧ (∀ g, x.co.pit[2]? = some g → g.capacity = 0) ∧
    (x.co.pit[2]?).isSome = true) := meetsMx (by decide +kernel)

/-- The call board answers split 0, which alone waits, for a `msg.send` or a `msg.recv`. -/
def atBoard (op : BoardOp) (s : State) : State :=
  { split (fun p => { p with wait := .board op 17, state := .waitMemory }) s with agenda := [.board { co := 1, ch := 0 } 0xFFFFFFFF] }
def boardAloneB (s : State) (x : Site) (op : BoardOp) : Bool :=
  x.sp.wait == .board op 17 && shapedB x.ch && decide ((17 : BitVec 6).toNat < 16 ∨ (x.ch.low ≤ x.sp.wb + (17 : BitVec 6).toNat - 16 ∧ x.sp.wb + (17 : BitVec 6).toNat - 15 ≤ x.ch.high)) && x.co.state == .running && x.co.uid == 1 && x.ch.index == 0 && x.sp.members == 0xFFFFFFFF &&
    decide (s.companies.Pairwise (fun c d => c.uid ≠ d.uid)) && decide (x.co.choruses.Pairwise (fun g h => g.index ≠ h.index)) &&
    x.co.choruses.all (fun h => decide ((∀ p, p ∈ h.splits → p.members ≠ 0) ∧ h.splits.Pairwise (fun p q => p.members &&& q.members = 0)) &&
      h.splits.all (fun p => (h.index == x.ch.index && p.members == x.sp.members) || p.wait == .none || (p.wait == .join && p.state == .arrived)))
theorem board_meets {s : State} {op : BoardOp} {H : Site → Prop} [DecidablePred H] (a : s.agenda = .board { co := 1, ch := 0 } 0xFFFFFFFF :: [])
    (e : (State.siteOf { s with agenda := [] } { co := 1, ch := 0 } 0xFFFFFFFF).any (fun x => boardAloneB s x op && decide (H x)) = true) :
    ∃ x, BoardTurn s { s with agenda := [] } x op 17 ∧ H x := by
  simp only [Option.any_eq_true, Bool.and_eq_true, decide_eq_true_eq, boardAloneB, beq_iff_eq, List.all_eq_true, Bool.or_eq_true] at e
  obtain ⟨x, hx, ⟨⟨⟨⟨⟨⟨⟨⟨⟨b, c⟩, d⟩, f⟩, g⟩, h⟩, i⟩, j⟩, k⟩, l⟩, m⟩ := e
  refine ⟨x, ⟨⟨_, [], by rw [a, i], rfl, by rw [i]; exact hx, g.symm, h.symm⟩, b, shaped_of c, d, f, j, k, fun h hh _ _ => ⟨(l h hh).1, fun p hp => ?_⟩⟩, m⟩
  rcases (l h hh).2 p hp with (q | q) | q
  · exact .inl q
  · exact .inr (.inl q)
  · exact .inr (.inr q)
theorem witness_BoardTurn :
    (∃ x, BoardTurn (atBoard (.send 7 0 0 65408 128 8) rich) { atBoard (.send 7 0 0 65408 128 8) rich with agenda := [] } x (.send 7 0 0 65408 128 8) 17 ∧
      poisoned x.co.stagePoison 65408 128 = false) ∧
    (∃ x, BoardTurn (atBoard (.recv 64 8) rich) { atBoard (.recv 64 8) rich with agenda := [] } x (.recv 64 8) 17 ∧ boardIs [] rich = true) ∧
    ∃ x, BoardTurn (atBoard (.recv 64 8) (board [entry] rich)) { atBoard (.recv 64 8) (board [entry] rich) with agenda := [] } x (.recv 64 8) 17 ∧
      (boardIs [entry] (atBoard (.recv 64 8) (board [entry] rich)) = true ∧ x.co.stage.wf = true) :=
  ⟨board_meets rfl (by decide +kernel), board_meets rfl (by decide +kernel), board_meets rfl (by decide +kernel)⟩

/-! Requests for rows that the ring can and cannot hold beside those of the split that runs (R132 to R134) -/

def asksB (h : Chorus) (p : Split) (a b : Nat) : Bool := decide ((∀ q, q ∈ h.splits → q.members ≠ 0) ∧ h.splits.Pairwise (fun q r => q.members &&& r.members = 0)) &&
  decide (h.pump = none ∧ h.chain = none ∧ h.served = none) && h.requests.head? == some p.members && decide (p ∈ h.splits ∧ p.wait = .window a b) &&
  decide (a < b ∧ b - a ≤ h.ring.length ∧ ¬ (h.low ≤ a ∧ b ≤ h.high))
theorem asks_of {h : Chorus} {p : Split} {a b : Nat} (e : asksB h p a b = true) : Asks h p a b := by
  simp only [asksB, Bool.and_eq_true, beq_iff_eq, decide_eq_true_eq] at e
  obtain ⟨⟨⟨⟨x, y⟩, z⟩, u⟩, v⟩ := e
  exact ⟨x, y, List.head?_eq_some_iff.1 z, u, v⟩
def readyB (h : Chorus) (q : Split) : Bool := q.state == .ready && !q.spilled && q.wait == .none && h.resident q.needed
theorem ready_split (h : Chorus) (q : Split) : splitReady h q ↔ readyB h q = true := by
  simp only [splitReady, readyB, Bool.and_eq_true, beq_iff_eq, Bool.not_eq_true', and_assoc]
def fitsRing (h : Chorus) (a b lo hi : Nat) : Bool := decide (lo ≤ a ∧ b ≤ hi ∧ hi ≤ lo + h.ring.length) &&
  h.splits.all (fun q => !(q.state == .running && !q.spilled || readyB h q) || (decide (lo ≤ q.needed.1) && decide (q.needed.2 ≤ hi)))
theorem fits_of {h : Chorus} {a b lo hi : Nat} (e : fitsRing h a b lo hi = true) : SpreadFits h a b lo hi := by
  simp only [fitsRing, Bool.and_eq_true, decide_eq_true_eq, List.all_eq_true, Bool.or_eq_true, Bool.not_eq_true'] at e
  refine ⟨e.1.1, e.1.2.1, e.1.2.2, fun q hq k => (e.2 q hq).resolve_left fun n => ?_⟩
  rw [ready_split] at k
  rcases k with ⟨x, y⟩ | k
  · simp [x, y] at n
  · simp [k] at n
def wayB (h : Chorus) (r : Split) (a b : Nat) : Bool := decide (r ∈ h.splits ∧ r.state = .running ∧ r.spilled = false ∧ r.wait = .none) &&
  decide (r.needed.1 < r.needed.2 ∧ h.resident r.needed = true) && decide (h.ring.length < max b r.needed.2 - min a r.needed.1)
theorem way_of {h : Chorus} {r : Split} {a b : Nat} (e : wayB h r a b = true) : InTheWay h r a b := by
  simp only [wayB, Bool.and_eq_true, decide_eq_true_eq] at e
  exact ⟨e.1.1, e.1.2, e.2⟩

/-- The other split asks for rows `[a, b)`, and the one that runs holds its own from `wb` on. -/
def asksFor (wb i a b : Nat) : State := arg 1 0 0 0 0 (chorus (fun h => { h with requests := [0xFFFF0000] }) (halves (fun p => { p with wb := wb, issues := i })
  (fun p => { p with state := .waitWindow, wait := .window a b, wb := a, frame := b - a })))
theorem witness_requests_served :
    (∃ c h, ActsOn (asksFor 2 0 20 33) c h ∧ (asksFor 2 0 20 33).stops c = false ∧ ∃ p, Asks h p 20 33 ∧ SpreadFits h 20 33 2 33) ∧
    (∃ c h, ActsOn (asksFor 0 256 30 42) c h ∧ (asksFor 0 256 30 42).stops c = false ∧ ∃ p r, Asks h p 30 42 ∧ InTheWay h r 30 42 ∧
      256 ≤ r.issues ∧ (∀ q, q ∈ h.splits → ¬ splitReady h q) ∧ ∀ q, q ∈ h.splits → q.state = .running → q = r) ∧
    (∃ c h, ActsOn (arg 1 0 0 0 0 (halves (fun p => { p with issues := 256 }) id)) c h ∧ h.chain = none ∧ ∃ p, p ∈ h.splits ∧ splitReady h p) := by
  simp only [ready_split]
  have e : ∃ c h, ActsOn (asksFor 2 0 20 33) c h ∧ ((asksFor 2 0 20 33).stops c = false ∧ ∃ p, p ∈ h.splits ∧ asksB h p 20 33 = true ∧ fitsRing h 20 33 2 33 = true) :=
    chorus_meets (by decide +kernel)
  have f : ∃ c h, ActsOn (asksFor 0 256 30 42) c h ∧ ((asksFor 0 256 30 42).stops c = false ∧ ∃ p, p ∈ h.splits ∧ ∃ r, r ∈ h.splits ∧ asksB h p 30 42 = true ∧
      wayB h r 30 42 = true ∧ 256 ≤ r.issues ∧ (∀ q, q ∈ h.splits → ¬ readyB h q = true) ∧ ∀ q, q ∈ h.splits → q.state = .running → q = r) :=
    chorus_meets (by decide +kernel)
  obtain ⟨c, h, a, b, p, _, k, l⟩ := e
  obtain ⟨d, g, a', b', q, _, r, _, k', l', m⟩ := f
  exact ⟨⟨c, h, a, b, p, asks_of k, fits_of l⟩, ⟨d, g, a', b', q, r, asks_of k', way_of l', m⟩, chorus_meets (by decide +kernel)⟩

/-- An issue on a core and a cluster of the device that leaves its chorus marked as having issued. -/
theorem witness_ChargesAs : ∃ x, Issues (.add 0 0 5 6 17) base x ∧ ((base.clusters.find? (fun c => c.num == x.co.core / 8)).isSome = true ∧ x.ch.issued = false ∧
    (base.cores.find? (fun d => d.num == x.co.core)).isSome = true ∧
    (match exec (.add 0 0 5 6 17) base with | .next t => (t.chorus? x.co.uid x.ch.index).any (fun g => g.issued) | _ => false) = true) := meets (by decide +kernel)

/-- A drowsy bank that a transfer of the pump touches; one that a chorus picked touches; and a window that an operation's step does not reach. -/
def drowsing : State := let s := arg 1 0 0 0 0 (moving (move 2 [] [32, 33]) 32); s.setCore { s.core 0 with drowsy := List.range 48 }
theorem witness_drowsy_banks :
    (∃ c h, ActsOn drowsing c h ∧ (∃ m, h.pump = some m ∧ m.moving = true ∧ m.spill = [] ∧ m.fill.head? = some 32) ∧
      (∀ p, p ∈ h.splits → p.spilled = true → p.owed = false) ∧ drowsing.bankOf c h (16 + 32 % h.ring.length) ∈ (drowsing.core c.core).drowsy) ∧
    (∃ k, (arg 0 5 1 0 0 drowsing).company? 1 = some k ∧ k.core = 0 ∧ (k.chorus? 0).isSome = true ∧ (drowsing.cores.find? (fun c => c.num == 0)).isSome = true) ∧
    (arg 0 5 9 0 0 drowsing).company? 9 = none ∧ 5 ∈ ((arg 0 5 9 0 0 drowsing).core 0).drowsy := by
  refine ⟨?_, some_meets (by decide +kernel), by decide +kernel, by decide +kernel⟩
  have e : ∃ c h, ActsOn drowsing c h ∧ ((h.pump.any (fun m => m.moving && m.spill == [] && m.fill.head? == some 32)) = true ∧
      (∀ p, p ∈ h.splits → p.spilled = true → p.owed = false) ∧ drowsing.bankOf c h (16 + 32 % h.ring.length) ∈ (drowsing.core c.core).drowsy) :=
    chorus_meets (by decide +kernel)
  obtain ⟨c, h, a, m, r⟩ := e
  simp only [Option.any_eq_true, Bool.and_eq_true, beq_iff_eq] at m
  obtain ⟨m, hm, ⟨x, y⟩, z⟩ := m
  exact ⟨c, h, a, ⟨m, hm, x, y, z⟩, r⟩

/-! Contexts, their runs and their registers -/

/-- A run that may end, and one with an access in flight; numbers of their own. -/
theorem witness_MayEnd : Numbered runner ∧ Numbered (withAccess [access]) ∧ MayEnd (withAccess []) { richRun with ctx := 5 } ∧ ¬ MayEnd (withAccess [access]) { richRun with ctx := 5 } ∧
    MayEnd killedRun { richRun with ctx := 5, killed := some (6, 0) } ∧ (killedRun.context? 5).any (fun c => c.leaving != some .reset) = true := by
  have n : ∀ s : State, s.companies.all (fun k => !(k.ctx == 5 && k.run == 1) || (k.choruses.all (fun h => h.inflight.isEmpty) && (k.state != .running || s.stoppable k))) = true →
      ∀ r : Run, r.ctx = 5 → r.id = 1 → MayEnd s r := by
    intro s e r a b
    simp only [List.all_eq_true, Bool.or_eq_true, Bool.and_eq_true, Bool.not_eq_true', bne_iff_ne, List.isEmpty_iff] at e
    have m : ∀ k, k ∈ s.companies → k.ctx = r.ctx → k.run = r.id → (∀ h, h ∈ k.choruses → h.inflight = []) ∧ (k.state ≠ .running ∨ s.stoppable k = true) := by
      intro k hk x y
      rcases e k hk with z | z
      · simp [x, y, a, b] at z
      · exact z
    exact ⟨fun ⟨k, h, hk, x, y, hh, z⟩ => z ((m k hk x y).1 h hh), .inl fun k hk x y z => ((m k hk x y).2).resolve_left (fun w => w z)⟩
  refine ⟨(numbered_iff _).2 (by decide +kernel), (numbered_iff _).2 (by decide +kernel), n _ (by decide +kernel) _ rfl rfl, fun h => h.1 ?_, n _ (by decide +kernel) _ rfl rfl, by decide +kernel⟩
  exact ⟨_, _, List.mem_singleton.2 rfl, by decide +kernel, by decide +kernel, List.mem_singleton.2 rfl, by decide +kernel⟩

/-- Context 5 gets the last key slot, and context 0, which is saved, gets slot 0. -/
def firmwareSaved : State := { rich with contexts := rich.contexts.map (fun (c : Context) => { c with state := .saved, onStage := false }) }
theorem witness_slots :
    (∃ c, Assigns (assigning 5 [1, 47] 1023 (1 + 2048 ^ 7) (withCtx (fun c => { c with state := .saved }) rich)) c [1, 47] ∧
      (c.state = .saved ∧ c.destroying = false ∧ c.leaving = none ∧ (c.id = 0 ↔ 1023 = 0))) ∧
    (∃ c, Assigns (assigning 0 [0, 1] 0 1 firmwareSaved) c [0, 1] ∧ (c.state = .saved ∧ c.destroying = false ∧ c.leaving = none ∧ (c.id = 0 ↔ 0 = 0))) :=
  ⟨assigns_meets rfl (by decide +kernel), assigns_meets rfl (by decide +kernel)⟩

/-- Permits on the page of a context of the physical function, on that of a virtual one, and through the permit page; every other register written. -/
def permitting (n : Nat) : State := { withFn rich with permitSel := BitVec.ofNat 64 n, contexts := rich.contexts ++ [Context.init 9 3 4] }
theorem selected_iff (s : State) (c : Context) : Selected s c ↔ (s.permitSel.toNat % 128 ≠ 0 ∧ (s.func? (s.permitSel.toNat % 128)).any (fun f => f.enabled) = true ∧
    s.page? (s.permitSel.toNat % 128) (bits s.permitSel.toNat 15 8) = some c) := by
  simp only [Selected, FnOn, Option.any_eq_true]
theorem witness_permits :
    (∃ c, Selected (permitting 0x403) c ∧ (permitting 0x403).context? c.id = some c) ∧ (∀ c, ¬ Selected (permitting 0x400) c) ∧ (∀ c, ¬ Selected (permitting 0x303) c) ∧
    (∀ n, n ∈ [0x403, 0x400, 0x303] → FnOn (permitting n) 0 ∧ FnOn (permitting n) 3) ∧
    (∀ off, off ∈ [0x028, 0x048, 0x050, 0x800, 0x800 + 8 * 255] →
      (withCtx id rich).page? 0 ((0x103000 + off - 0x100000) / 0x1000) = some (Context.init 5 0 3) ∧ (withCtx id rich).context? 5 = some (Context.init 5 0 3) ∧
      (permitting 0).page? 3 ((0x104000 + off - 0x100000) / 0x1000) = some (Context.init 9 3 4) ∧
      0x103000 + off = 0x100000 + 0x1000 * ((0x103000 + off - 0x100000) / 0x1000) + off) ∧ RingLog 4 ∧ RingLog 16 ∧ ¬ RingLog 3 ∧ ¬ RingLog 17 ∧ (Context.init 9 3 4).fn ≠ 0 := by
  simp only [selected_iff]
  refine ⟨⟨Context.init 9 3 4, by decide +kernel⟩, fun c h => ?_, fun c h => ?_, fun n h => ?_, by decide +kernel, by unfold RingLog; decide, by unfold RingLog; decide,
    by unfold RingLog; decide, by unfold RingLog; decide, by decide⟩
  · exact h.1 (by decide +kernel)
  · have e : (permitting 0x303).page? ((permitting 0x303).permitSel.toNat % 128) (bits (permitting 0x303).permitSel.toNat 15 8) = none := by decide +kernel
    exact nomatch e.symm.trans h.2.2
  · fin_cases h
    all_goals exact ⟨some_meets (by decide +kernel), some_meets (by decide +kernel)⟩

/-- Recovery, and a device that is not in it. -/
theorem witness_recovery : FnOn { rich with recovery := some (2, 3) } 0 ∧ rich.recovery = none ∧ FnOn rich 0 :=
  ⟨some_meets (by decide +kernel), by decide +kernel, some_meets (by decide +kernel)⟩

/-! Queues, and a RESUME that restores -/

/-- The slot at the head is not published: its index is 5 and the read index is 0. -/
theorem witness_unpublished : (match (posted id [slot 7 1 5 []] []).ask 5 0 (ring.base.toNat + ring.rd % 2 ^ bits ring.ctl.toNat 5 1 * 64) 8 .read with
    | (.data h, _) => decide (fieldOf h 4 4 ≠ ring.rd % 2 ^ 32) | _ => false) = true := by decide +kernel

/-- The image at 0x50000, byte for byte; and an image of a company with two choruses, of which nothing else has a number. -/
def resumed : State := { posted id [slot 2 1 0 [(8, 0x50000), (0x10, image.length), (0x38, 0x1234)]] [(0x50000, image.bytes.length, ofBytesLE image.bytes)] with images := [image] }
theorem witness_resumed : ∃ c q body u, Packet resumed c q 2 1 body u ∧ (u.runsHeld c.id < 256 ∧ (match u.ask 5 0 0x50000 128 .read with
    | (.data h, u1) => u1.imageAt 5 image.length h == some image && (match u1.ask 5 0 0x50000 image.length .read with
        | (.data b, u2) => b == image.bytes && u2.imageFits image && (u2.resumeImage image 0 0x1234).isSome | _ => false)
    | _ => false) = true) := packet_meets (by decide +kernel)
def savedCompany : Company := { Company.start 77 { richRun with ctx := 5 } 0 0 8 0 0 with state := .preempted }
def peopled : Image := { image with
  runState := { richRun with ctx := 5 }, companies := [savedCompany]
  troupes := [{ ctx := 5, run := 1, index := 0, cluster := 1, barriers := [], abandoned := false }] }
theorem witness_WholeImage : ∀ im, im ∈ [image, peopled] → WholeImage resumed im := by
  intro im h
  have e : ∀ im, im ∈ [image, peopled] → ((∀ u, u ∈ im.troupes → u.ctx = im.ctx) ∧ im.troupes.Pairwise (fun u v => u.index ≠ v.index)) ∧
      (∀ k, k ∈ im.companies → k.ctx = im.ctx ∧ (∃ u, u ∈ im.troupes ∧ u.index = k.troupe) ∧ (k.state = .preempted ∨ k.state = .complete) ∧
        k.faulted = false ∧ k.playbill = { im.runState.playbill with scoreBase := k.playbill.scoreBase } ∧ k.choruses.Pairwise (fun g h => g.index ≠ h.index) ∧
        k.engine.Pairwise (fun e f => e.2.uid ≠ f.2.uid)) ∧ im.companies.Pairwise (fun k m => ¬ (k.troupe = m.troupe ∧ k.index = m.index)) ∧
      im.ctx = 5 ∧ im.runState.ctx = 5 := by decide +kernel
  have n : (∀ r, r ∈ resumed.runs → r.ctx ≠ 5) ∧ (∀ k, k ∈ resumed.companies → k.uid < resumed.uid ∧ k.ctx ≠ 5) ∧ ∀ u, u ∈ resumed.troupes → u.ctx ≠ 5 := by decide +kernel
  obtain ⟨a, b, c, d, f⟩ := e im h
  exact ⟨a, b, c, ⟨f.trans d.symm, fun _ r _ hr x => absurd (x.trans d) (n.1 r hr)⟩, fun k hk => (n.2.1 k hk).1,
    fun _ k _ hk x => absurd (x.trans d) (n.2.1 k hk).2, fun _ u _ hu x => absurd (x.trans d) (n.2.2 u hu)⟩

/-! Placement, completion, pre-emption and time -/

/-- The context of a run to be placed, and that of a record, stay; every other ready split holds its rows; the end of a run that a report brings. -/
theorem witness_contexts_stay :
    (∃ c, (waits1 fresh1).context? 5 = some c ∧ (c.onStage = true ∧ c.destroying = false ∧ c.leaving = none)) ∧ ((waits1 fresh1).run? 5 1).any (fun r => r.killed.isNone) = true ∧
    (∀ s, s ∈ [done1, done2, done3, staged { Run.least with doneTroupes := 1 } id rich] → ∀ x, x ∈ s.contexts → x.leaving ≠ some .reset) ∧
    (∃ c, failing.context? 5 = some c ∧ c.leaving ≠ some .reset) ∧ (∃ c, limited.context? 5 = some c ∧ c.leaving ≠ some .reset) ∧
    (∃ c, stopped5.context? 5 = some c ∧ c.leaving = none) :=
  ⟨some_meets (by decide +kernel), by decide +kernel, by decide +kernel, some_meets (by decide +kernel), some_meets (by decide +kernel), some_meets (by decide +kernel)⟩
theorem witness_report_ends : ∃ r, failing.run? 5 1 = some r ∧ MayEnd failing r := by
  obtain ⟨r, h, c, k⟩ := some_meets (o := failing.run? 5 1) (H := fun r => r.ctx = 5 ∧ ∀ k, k ∈ failing.companies → k.ctx ≠ 5) (by decide +kernel)
  exact ⟨r, h, fun ⟨m, _, hm, x, _⟩ => k m hm (x.trans c), .inl fun m hm x => absurd (x.trans c) (k m hm)⟩

/-- A split whose window is resident and one whose window is not, with every other one ready. -/
def lowered (n : Nat) (w : Wait) : State := chorus (fun h => { h with low := n }) (alarmed w)
theorem witness_OthersResident : ∀ w, w ∈ [Wait.wev 0x7F 0 17, .wtm 0 17, .wev 0x7F 0 0] → ∃ c h, ActsOn (alarmed w) c h ∧ (shapedB h = true ∧
    ∃ p, p ∈ h.splits ∧ (0xFFFF0000 : BitVec 64).setWidth 32 = p.members ∧ p.wait = w ∧ OthersResident h p) := by
  intro w h
  unfold OthersResident
  fin_cases h
  · exact chorus_meets (by decide +kernel)
  · exact chorus_meets (by decide +kernel)
  · exact chorus_meets (by decide +kernel)
theorem witness_rows_away : ∃ c h, ActsOn (lowered 4 (.wev 0x7F 0 0)) c h ∧ (∃ p, p ∈ h.splits ∧ p.wait = .wev 0x7F 0 0 ∧ h.resident p.needed = false ∧ p.spilled = false) :=
  chorus_meets (by decide +kernel)

/-- What has completed as a context is pre-empted, and a context with nothing that has. -/
def completing : State := { arg 0 0 0 0 0 done1 with runs := [{ richRun with nextTroupe := 1 }], contexts := done1.contexts.map (fun (c : Context) => if c.id = 0 then { c with state := .resident } else c) }
theorem witness_completions :
    (∃ c, completing.context? 0 = some c ∧ (c.onStage = true ∧ c.state = .resident ∧ completing.curtain = false ∧ c.debugHalted = false ∧ c.records = [] ∧
      completing.companies.Pairwise (fun k m => k.uid ≠ m.uid) ∧ completing.runs.Pairwise (fun p q => ¬ (p.ctx = q.ctx ∧ p.id = q.id)) ∧
      (State.context? (completing.completions c.id) c.id).isSome = true ∧
      (∃ k, k ∈ completing.companies ∧ k.ctx = c.id ∧ k.state = .running ∧ (∀ h, h ∈ k.choruses → (h.ended = true ∨ h.halted ≠ none) ∧ h.queue = [] ∧ h.inflight = []) ∧
        k.engine = [] ∧ k.ops = []))) ∧
    ((∀ c, (onCore8 []).context? 5 = some c → c.records = []) ∧
      (∀ k, k ∈ (onCore8 []).companies → k.ctx = 5 → k.state = .running → ∃ h, h ∈ k.choruses ∧ h.ended = false ∧ h.halted = none) ∧
      (∀ r, r ∈ (onCore8 []).runs → r.ctx = 5 → (r.killed = none ∧ r.doneTroupes ≠ r.troupes) ∨ r.ending ≠ none)) := by
  refine ⟨some_meets (by decide +kernel), ?_, by decide +kernel, by decide +kernel⟩
  have e : ((onCore8 []).context? 5).all (fun c => c.records.isEmpty) = true := by decide +kernel
  intro c h
  rw [h] at e
  exact List.isEmpty_iff.1 e
theorem witness_preempted : ∀ l, l ∈ [[], [access]] → ∃ c, ((onCore8 l).completions 5).context? 5 = some c ∧ (c.onStage = true ∧ c.state = .resident ∧ c.debugHalted = false ∧
    ((onCore8 l).completions 5).curtain = false ∧ ∃ k, k ∈ ((onCore8 l).completions 5).companies ∧ k.ctx = c.id ∧ k.state = .running ∧ stanceB l k = true) := by
  intro l h
  fin_cases h
  · exact some_meets (by decide +kernel)
  · exact some_meets (by decide +kernel)

/-- The seal of an empty text under the example key of RFC 4493. -/
theorem test_cmac : cmac [0x2b, 0x7e, 0x15, 0x16, 0x28, 0xae, 0xd2, 0xa6, 0xab, 0xf7, 0x15, 0x88, 0x09, 0xcf, 0x4f, 0x3c] [] =
    [0xbb, 0x1d, 0x69, 0x29, 0xe9, 0x59, 0x37, 0x28, 0x7f, 0xa3, 0x7d, 0x12, 0x9b, 0x75, 0x67, 0x46] := by decide +kernel

/-! The call board, links, multicast and the fly engine: further hypotheses -/

/-- An owed reply at its action point whose board acts, in the two ways, and does not, in the two. -/
def pointAt (f : BoardEntry → BoardEntry) (stopped : Bool) : State :=
  { boarded [f { owing true with deadline := 2000 * ticksPerNs }] true with
    arg := (arg 0 7 0 0 9 rich).arg
    contexts := (boarded [f { owing true with deadline := 2000 * ticksPerNs }] true).contexts.map (fun (c : Context) => { c with debugHalted := stopped }) }
def pointB (s : State) (acts : Bool) (p : BoardEntry → Bool) : Bool :=
  (s.context? 0).any (fun c => (c.owedEntry? (BitVec.ofNat 12 s.arg.b) (s.arg.v.setWidth 32)).any (fun e => e.owed && p e &&
    decide ((if e.msg.patience.toNat ≤ 4 ∧ e.holds = 0 then e.deadline - e.msg.patience.toNat * (1000 * ticksPerNs) else e.deadline - 4000 * ticksPerNs) ≤ s.now ∧
      s.now < e.deadline ∧ ∀ d, d ∈ s.contexts → d.id = c.id → d = c) &&
    (e.wasOff || (!e.passed && !(c.onStage && !c.debugHalted && !s.curtain))) == acts))
theorem witness_action_points :
    pointB (pointAt id false) false (fun e => !e.passed) = true ∧ pointB (pointAt (fun e => { e with passed := true }) true) false (fun e => e.passed) = true ∧
    pointB (pointAt id true) true (fun e => e.msg.dilation && e.holds == 0) = true ∧ pointB (pointAt (fun e => { e with wasOff := true, holds := 14 }) false) true (fun e => e.holds == 14) = true ∧
    pointB (pointAt (fun e => { e with wasOff := true, holds := 15 }) false) true (fun e => e.holds == 15) = true ∧
    pointB (pointAt (fun e => { e with wasOff := true, msg := { e.msg with patience := 4, dilation := false } }) false) true (fun e => e.msg.patience == 4) = true := by
  decide +kernel

/-- Ports 2 and 3 are up, the first for device 7 and for every device, the second degraded and for device 7 alone; port 15 is trained too. -/
def wired (s : State) : State :=
  { s with
    routes := [(7, [2, 3]), (4096, [2])]
    ports := s.ports.map (fun (p : Port) => if p.num = 2 then { p with state := 2, lanes := 8 } else if p.num = 3 then { p with state := 3, lanes := 4 } else p) }
theorem witness_LiveFor : LiveFor (wired rich) 7 1 2 ∧ LiveFor (wired rich) 7 3 3 ∧ LiveFor (wired rich) 9 0 2 ∧ ∀ n, ¬ LiveFor rich 7 1 n := by
  have live : ∀ (d : BitVec 12) vc n, (d, vc, n) ∈ [((7 : BitVec 12), 1, 2), (7, 3, 3), (9, 0, 2)] → ∃ r ∈ (wired rich).routes, ∃ p ∈ (wired rich).ports,
      (r.1 = d.toNat ∨ r.1 = 4096) ∧ n ∈ r.2 ∧ p.num = n ∧ (p.state = 2 ∨ p.state = 3) ∧ p.xoff.getLsbD vc = false := by
    intro d vc n h
    simp only [List.mem_cons, List.not_mem_nil, or_false, Prod.mk.injEq] at h
    rcases h with ⟨rfl, rfl, rfl⟩ | ⟨rfl, rfl, rfl⟩ | ⟨rfl, rfl, rfl⟩ <;> decide +kernel
  refine ⟨?_, ?_, ?_, fun n ⟨r, _, hr, _⟩ => by rw [show rich.routes = [] by decide +kernel] at hr; simp at hr⟩
  all_goals
    first
      | (obtain ⟨r, hr, p, hp, a, b, c, d, e⟩ := live 7 1 2 (by simp); exact ⟨r, p, hr, a, b, hp, c, d, e⟩)
      | (obtain ⟨r, hr, p, hp, a, b, c, d, e⟩ := live 7 3 3 (by simp); exact ⟨r, p, hr, a, b, hp, c, d, e⟩)
      | (obtain ⟨r, hr, p, hp, a, b, c, d, e⟩ := live 9 0 2 (by simp); exact ⟨r, p, hr, a, b, hp, c, d, e⟩)

/-- No answer waits, the atomic of a peer finds no tag but its own on its line, and the bytes are under the context's own key. -/
theorem witness_answers_alone :
    (∀ st, st ∈ [LinkStatus.ok, .denied] → (answered st).replies = [] ∧ ((answered st).company? 1).any (fun c => c.engine.all (fun e => e.2.denials.isEmpty && e.2.state != .done)) = true) ∧
    (stoppedAnswer .indeterminate).replies = [] ∧ (lostAnswer .none 7).replies = [] ∧
    peerFinds 0x3F 4 .rmw (.atomic 12 1 0) (fun e u => (List.range 4).all fun j => (u.keptTag e (128 * ((place 0 0x70000 + j) / 128))).isNone) = true := by
  refine ⟨fun st h => ?_, by decide +kernel, by decide +kernel, by decide +kernel⟩
  simp only [List.mem_cons, List.not_mem_nil, or_false] at h
  rcases h with rfl | rfl <;> decide +kernel

/-- Two transactions on port 2, which has lost its lock, or replays one flit for the eighth time, one of them older than 900 µs, and one on another port. -/
def onPort (n : Nat) (i : BitVec 32) (at_ : Nat) : Outstanding := { outgoing (.message 0 1 0 8) false with ident := i, port := some n, sentAt := at_ }
def struckPort (f : Port → Port) : State :=
  let s := wired { rich with now := 900000 * ticksPerNs, sent := [onPort 2 9 1, onPort 2 10 0, onPort 3 11 5] }
  { s with arg := (arg 2 0 0 0 0 rich).arg, ports := s.ports.map (fun (p : Port) => if p.num = 2 then f p else p) }
theorem witness_port_fails : ∀ f, f ∈ [fun (p : Port) => { p with row := 8 }, fun p => { p with lockLost := some (899000 * ticksPerNs) }] →
    (∃ p, (struckPort f).port? (struckPort f).arg.a = some p ∧ (p.state ≠ 4 ∧ p.num = 2 ∧ (8 ≤ p.row ∨ (p.lockLost.any fun d => decide (d + 1000 * ticksPerNs ≤ (struckPort f).now)) = true) ∧
      (struckPort f).curtain = false)) ∧
    (struckPort f).sent.Pairwise (fun o q => ¬ (o.dest = q.dest ∧ o.ident = q.ident ∧ o.plainRead = q.plainRead)) ∧
    (∃ o, o ∈ (struckPort f).sent ∧ o.port = some 2 ∧ (struckPort f).now < o.sentAt + 900000 * ticksPerNs) ∧
    (∃ o, o ∈ (struckPort f).sent ∧ o.port = some 2 ∧ o.sentAt + 900000 * ticksPerNs ≤ (struckPort f).now) ∧ ∃ o, o ∈ (struckPort f).sent ∧ o.port = some 3 := by
  intro f h
  simp only [List.mem_cons, List.not_mem_nil, or_false] at h
  rcases h with rfl | rfl
  · exact ⟨some_meets (by decide +kernel), by decide +kernel, by decide +kernel, by decide +kernel, by decide +kernel⟩
  · exact ⟨some_meets (by decide +kernel), by decide +kernel, by decide +kernel, by decide +kernel, by decide +kernel⟩
theorem witness_Abroad : ∀ f, ∀ o, o ∈ (struckPort f).sent → Abroad (struckPort f) o := by
  intro f o h m e
  rw [show (struckPort f).sent = [onPort 2 9 1, onPort 2 10 0, onPort 3 11 5] from rfl] at h
  simp only [List.mem_cons, List.not_mem_nil, or_false] at h
  rcases h with rfl | rfl | rfl <;> simp [onPort, outgoing] at e

/-- A held request, whose virtual channel is stopped on the one port that serves it. -/
def stoppedVc : State :=
  let s := wired { rich with sent := [{ onPort 2 9 0 with held := true, port := none }] }
  { s with arg := (arg 3 0 0 0 0 rich).arg, routes := [(7, [3])], ports := s.ports.map (fun (p : Port) => if p.num = 3 then { p with xoff := 0xF } else p) }
theorem witness_released : (∃ o, stoppedVc.sent = [o] ∧ o.held = true ∧ stoppedVc.replies = [] ∧ stoppedVc.curtain = false ∧
      LiveFor (portWith stoppedVc stoppedVc.arg.a (fun p => { p with xoff := p.xoff &&& ~~~(1#4 <<< (stoppedVc.arg.b % 4)) })) o.dest o.what.vc 3) ∧
    ∀ n, ¬ LiveFor stoppedVc 7 0 n := by
  have e : ∃ r ∈ stoppedVc.routes, ∃ p ∈ (portWith stoppedVc stoppedVc.arg.a (fun p => { p with xoff := p.xoff &&& ~~~(1#4 <<< (stoppedVc.arg.b % 4)) })).ports,
      (r.1 = (7 : BitVec 12).toNat ∨ r.1 = 4096) ∧ 3 ∈ r.2 ∧ p.num = 3 ∧ (p.state = 2 ∨ p.state = 3) ∧ p.xoff.getLsbD 0 = false := by decide +kernel
  have no : ∀ p, p ∈ stoppedVc.ports → ∀ r, r ∈ stoppedVc.routes → p.num ∈ r.2 → p.xoff.getLsbD 0 = true := by decide +kernel
  obtain ⟨r, hr, p, hp, a, b, c, d, f⟩ := e
  refine ⟨⟨_, rfl, rfl, by decide +kernel, by decide +kernel, ⟨r, p, hr, a, b, hp, c, d, f⟩⟩, fun n ⟨r, p, hr, _, hn, hp, e, _, x⟩ => ?_⟩
  rw [no p hp r hr (e ▸ hn)] at x
  cases x

/-- A port that holds a flit for its replay, and one whose lock is lost and regained. -/
theorem witness_flits :
    (∃ p, (ports (fun p => { p with buffer := [(0, 0)] })).port? 15 = some p ∧ (p.buffer.find? (fun b => b.1 == BitVec.ofNat 12 (ports id).arg.c) = some (0, 0))) ∧
    (∃ p, (ports (fun p => { p with buffer := [(1, 0)] })).port? 15 = some p ∧ ∀ b, b ∈ p.buffer → b.1 ≠ BitVec.ofNat 12 (ports id).arg.c) ∧
    { ports (fun p => { p with state := 2, lockLost := some 5 }) with arg := (arg 15 1 0 0 0 rich).arg }.arg.b = 1 ∧ (ports id).arg.b ≠ 1 ∧
    (∃ p, (ports id).port? 15 = some p ∧ (p.state ≠ 2 ∧ p.state ≠ 3 ∧ 0 < (ports id).arg.b ∧ (ports id).arg.b ≤ 8)) ∧
    (group.base.toNat % 4096 = 0 ∧ { group with base := 0x70001 }.base.toNat % 4096 ≠ 0) :=
  ⟨some_meets (by decide +kernel), some_meets (by decide +kernel), by decide +kernel, by decide +kernel, some_meets (by decide +kernel), by decide⟩

/-- A multicast write that reaches a member whose leaf is `leaf`, and one whose entry goes at the same time. -/
def casting (leaf : Nat) (m : MulticastWrite) (e : GroupEntry) : State := { carrying (.multicast m) 0 (peering leaf) with groups := [e] }
theorem witness_Reaches (leaf : Nat) {m : MulticastWrite} {e : GroupEntry} {off width code : Nat} (hg : e.group = m.group) (hc : e.ctx = 5)
    (hw : m.writes = [(off, width, code)] ∧ 0 < width ∧ width ≤ 32) : Reaches (casting leaf m e) m e off width code := by
  refine ⟨⟨rfl, rfl⟩, ⟨rfl, by change (0 : Nat) ≠ 1; decide⟩, ⟨?_, fun h => ?_, fun q h => by cases h⟩, hw⟩
  · change List.find? _ [e] = some e
    simp [hg]
  · have c : ((casting leaf m e).context? 5).isSome = true := rfl
    rw [← hc, h] at c
    cases c
def memberFinds (leaf : Nat) (m : MulticastWrite) (off width : Nat) (p : Option (List (TlbEntry × List Nat)) → Bool) : Bool :=
  p ((casting leaf m group).peerPlace (mcastRequest m group (off, width, 1)) (group.base.toNat + off / 8) ((off % 8 + width + 7) / 8) .write).1
/-- A member writes the last byte of its range once, and says no beyond the range, for an absent page, for a guarded one that is another's, and for poison. -/
theorem witness_members :
    (∃ off width code, Reaches (casting 0x3F mcast group) mcast group off width code) ∧
    (let m : MulticastWrite := { mcast with writes := [(32760, 8, 1)] };
      Reaches (casting 0x3F m group) m group 32760 8 1 ∧ 32760 / 8 + 1 ≤ group.length * 4096 ∧ memberFinds 0x3F m 32760 8 (fun o => o.any fun l => l.length == 1 && l.all fun p => !p.1.g) = true) ∧
    (let m : MulticastWrite := { mcast with writes := [(32760, 16, 1)] };
      Reaches (casting 0x3F m group) m group 32760 16 1 ∧ group.length * 4096 < 32760 / 8 + 2) ∧
    memberFinds 0 mcast 4 8 (fun o => o.isNone) = true ∧ memberFinds 0xBF { mcast with owner := false } 4 8 (fun o => o.any fun l => l.any fun p => p.1.g) = true ∧
    memberFinds 0x3F { mcast with poisoned := true } 4 8 (fun o => o.any fun l => l.all fun p => !p.1.g) = true ∧
    (∀ g, g ∈ [{ group with ctx := 99 }] → (casting 0x3F mcast g).context? g.ctx = none) ∧
    (let s : State := { peering 0x3F with revoked := [(group, (peering 0x3F).now)] };
      s.context? group.ctx ≠ none ∧ s.memo? 7 9 = none ∧ s.curtain = false ∧ group.group = mcast.group ∧ { mcast with writes := [] }.poisoned = false) :=
  ⟨⟨_, _, _, witness_Reaches _ rfl rfl ⟨rfl, by decide, by decide⟩⟩, ⟨witness_Reaches _ rfl rfl ⟨rfl, by decide, by decide⟩, by decide, by decide +kernel⟩,
    ⟨witness_Reaches _ rfl rfl ⟨rfl, by decide, by decide⟩, by decide⟩, by decide +kernel, by decide +kernel, by decide +kernel, by decide +kernel, by decide +kernel⟩

/-- A walk for a command's line, of whose missing pages each is the first; a multicast command that has not begun, and one whose aggregate comes. -/
def castingCmd (b : Bool) : FlyCmd := { cmd .mc 0 with begun := b }
def casted : State :=
  { engaged (castingCmd true) with
    arg := { (arg 1 80 0 0 0 rich).arg with x := .ack acked }
    sent := [{ outgoing (.fly 1 0 80 0) false with what := .multicast 4 0 true false [] [(9, 7), (5, 3)] }] }
theorem witness_fly_multicast :
    (∃ c, Engaged (engaged (castingCmd false)) c 0 { castingCmd false with state := .handed } ∧ (castingCmd false).begun = false) ∧
    (∃ o, casted.multicastOf acked = some o ∧ (o.asker = .fly acked.co 0 acked.cmd 0 ∧ (∀ p, p ∈ casted.sent → p.held = false) ∧ casted.replies = [] ∧ casted.curtain = false)) ∧
    (∃ c, casted.company? acked.co = some c ∧ (quietB c = true ∧ c.engine = [(0, { castingCmd true with state := .handed })] ∧ (castingCmd true).uid = acked.cmd ∧
      (casted.context? c.ctx).any (fun d => d.onStage && !d.debugHalted) = true)) :=
  ⟨engaged_meets (by decide +kernel), some_meets (by decide +kernel), some_meets (by decide +kernel)⟩
theorem witness_walk_once : ∃ c, Engaged (atLine (unmapped (single .inn))) c 0 (single .inn) ∧
    ((atLine (unmapped (single .inn))).pageFound c.ctx 4099 .read = (atLine (unmapped (single .inn))).pageFound c.ctx 4096 .read) := engaged_meets (by decide +kernel)
theorem witness_MoreOfPage : ∃ c, OneLine (atLine (guardedPages (double .inn))) c 0 (double .inn) element ∧
    ∃ d, d ∈ (double .inn).elems c ∧ d.idx ∈ (double .inn).todo ∧ d.idx ≠ element.idx ∧ d.bit = some (32768 + 32 * d.idx) ∧
      principalNo ((double .inn).principalOf d) = principalNo ((double .inn).principalOf element) :=
  line_meets (by decide +kernel)

/-! Power, reset, firmware, the curtain and errors: further hypotheses -/

def allGated (s : State) : State := { s with clusters := s.clusters.map (fun (k : Cluster) => { k with power := .gated }) }
/-- Bring-up at step 3 with the first die's clusters to be woken, with ramps that have ended and that have not, and with all awake. -/
def ramping (now : Nat) : State := { booting 2 true true with clusters := (powers (.ramp 90) .queued 100).clusters, now := now }
theorem witness_waking :
    (∃ d, (allGated (booting 2 true false)).dies.find? (fun d => !d.powered) = some d ∧ (d.num < 8 ∧
      (allGated (booting 2 true false)).clusters.map (fun k => k.num) = List.range 48 ∧ (∀ k, k ∈ (allGated (booting 2 true false)).clusters → Waking k = none) ∧
      ∀ k, k ∈ (allGated (booting 2 true false)).clusters → k.num / 6 = d.num → k.power = .gated)) ∧
    (∃ k, (ramping 90).clusters.find? (fun k => (Waking k).any (fun e => decide (e ≤ (ramping 90).now))) = some k ∧ Waking k = some 90) ∧
    (∃ k, (ramping 89).clusters.find? (fun k => k.num == 1) = some k ∧ (Waking k = some 90 ∧ 89 < 90 ∧
      ∀ j, j ∈ (ramping 89).clusters → (Waking j).all (fun f => decide (90 ≤ f)) = true)) ∧
    ((∀ k, k ∈ (booting 2 true true).clusters → Waking k = none) ∧ ∀ d, d ∈ (booting 2 true true).dies → d.powered = true) ∧
    ((booting 6 true true).companies = [] ∧ (∀ k, k ∈ (booting 6 true true).cores → k.bay = 0) ∧ (∀ d, d ∈ (booting 6 true true).dies → d.num < 8 ∧ d.changing = none) ∧
      (booting 6 true true).dies.Pairwise (fun d e => d.num ≠ e.num)) :=
  ⟨some_meets (by decide +kernel), some_meets (by decide +kernel), some_meets (by decide +kernel), by decide +kernel, by decide +kernel⟩
theorem witness_Boots : ∀ n, n < 7 → Boots (booting n true true) { booting n true true with agenda := [] } n := fun _ _ => ⟨[], rfl, rfl, rfl⟩

/-- A wake request for a cluster that wakes, and one that is on. -/
theorem witness_wake_under_way : ∀ p, p ∈ [Power.on, .queued, .ramp 90, .settle 90] →
    ∃ c, (powers p .gated 5).clusters.find? (fun c => c.num == 1) = some c ∧ (c.power = p ∧ c.available = true ∧ ((powers p .gated 5).die 0).powered = true) := by
  intro p h
  fin_cases h
  · exact some_meets (by decide +kernel)
  · exact some_meets (by decide +kernel)
  · exact some_meets (by decide +kernel)
  · exact some_meets (by decide +kernel)

/-- A function whose reset ends a context at once, one whose context has an access in flight, and the physical function, which ends context 0 too. -/
def fnContext (s : State) : State := arg 3 0 0 0 0 { withFn s with contexts := s.contexts.map (fun (c : Context) => if c.id = 5 then { c with fn := 3 } else c) }
theorem witness_OfReset :
    (∃ c, (fnContext runs5).context? 5 = some c ∧ (OfReset (fnContext runs5) c ∧ c ∈ (fnContext runs5).contexts)) ∧
    (∃ c, (fnContext runs5).context? 0 = some c ∧ (¬ OfReset (fnContext runs5) c ∧ c ∈ (fnContext runs5).contexts)) ∧
    (∃ c, (arg 0 0 0 0 0 runs5).context? 0 = some c ∧ OfReset (arg 0 0 0 0 0 runs5) c) := by
  unfold OfReset
  exact ⟨some_meets (by decide +kernel), some_meets (by decide +kernel), some_meets (by decide +kernel)⟩
theorem witness_Lingers : (∃ c, (fnContext flying5).context? 5 = some c ∧ Lingers (fnContext flying5) c) ∧ ∃ c, (fnContext runs5).context? 5 = some c ∧ ¬ Lingers (fnContext runs5) c := by
  unfold Lingers AccessesInFlight
  have a : ∃ r ∈ (fnContext flying5).runs, r.ctx = 5 ∧ r.ending = none ∧ ∃ k ∈ (fnContext flying5).companies, k.ctx = r.ctx ∧ k.run = r.id ∧ ∃ h ∈ k.choruses, h.inflight ≠ [] := by
    decide +kernel
  have b : ∀ r, r ∈ (fnContext runs5).runs → r.ctx = 5 → r.killed = none ∧ ∀ k, k ∈ (fnContext runs5).companies → k.ctx ≠ 5 := by decide +kernel
  obtain ⟨c, hc, i⟩ := some_meets (o := (fnContext flying5).context? 5) (H := fun c => c.id = 5) (by decide +kernel)
  obtain ⟨d, hd, j⟩ := some_meets (o := (fnContext runs5).context? 5) (H := fun c => c.id = 5) (by decide +kernel)
  obtain ⟨r, hr, e, n, k, hk, x, y, h, hh, z⟩ := a
  refine ⟨⟨c, hc, r, hr, e.trans i.symm, n, .inr ⟨k, h, hk, x, y, hh, z⟩⟩, d, hd, fun ⟨r, hr, e, _, q⟩ => ?_⟩
  obtain ⟨u, v⟩ := b r hr (e.trans j)
  rcases q with q | ⟨k, _, hk, x, _⟩
  · exact q u
  · exact v k hk (x.trans (e.trans j))

/-- A manager in each mode, with a region of no tenant and one of tenant 4; a plug-in of tenant `k` runs in U mode. -/
def guarding (k : Nat) (md : FwMode) (ev : FwStep) : State :=
  { calling 5 with
    agenda := [.firmware 2 ev]
    managers := (calling 5).managers.map (fun (m : Manager) =>
      if m.num = 2 then { m with mode := md, call := if md = .u then some (k, 0) else none, regions := [{ base := 16, size := 64, tenant := none }, { base := 80, size := 16, tenant := some 4 }] } else m) }
def opensB (m : Manager) (a n : Nat) : Bool :=
  m.mode == .m || m.regions.any fun r => decide (r.base ≤ a ∧ a + n ≤ r.base + r.size) &&
    ((m.mode == .s && r.tenant.isNone) || (m.mode == .u && r.tenant.any fun k => m.call.any fun c => c.1 == k))
theorem opens_iff (m : Manager) (a n : Nat) : Opened m a n ↔ opensB m a n = true := by
  unfold Opened opensB Sees
  simp only [Bool.or_eq_true, List.any_eq_true, Bool.and_eq_true, decide_eq_true_eq, beq_iff_eq, Option.any_eq_true, Option.isNone_iff_eq_none]
  refine or_congr Iff.rfl ⟨fun ⟨r, hr, x, y, z⟩ => ⟨r, hr, ⟨x, y⟩, z.imp id fun ⟨u, k, hk, e⟩ => ⟨u, k, hk, ?_⟩⟩, fun ⟨r, hr, ⟨x, y⟩, z⟩ => ⟨r, hr, x, y, z.imp id fun ⟨u, k, hk, c, hc, e⟩ => ⟨u, k, hk, fun _ => ⟨c.2, ?_⟩⟩⟩⟩
  · obtain ⟨v, h⟩ := e u
    exact ⟨_, h, rfl⟩
  · rw [hc, ← e]
theorem witness_Opened :
    (∃ m, (guarding 4 .u (.access 80 16)).managers.find? (fun m => m.num == 2) = some m ∧ (opensB m 80 16 = true ∧ opensB m 79 2 = false ∧ opensB m 80 17 = false ∧ opensB m 16 64 = false ∧ m.call = some (4, 0))) ∧
    (∃ m, (guarding 4 .s (.access 16 64)).managers.find? (fun m => m.num == 2) = some m ∧ (opensB m 16 64 = true ∧ opensB m 80 16 = false)) ∧
    (∃ m, (guarding 4 .m (.access 0 1)).managers.find? (fun m => m.num == 2) = some m ∧ opensB m 0 (2 ^ 64) = true) ∧
    (∀ ev, (guarding 4 .m ev).agenda = .firmware 2 ev :: []) :=
  ⟨some_meets (by decide +kernel), some_meets (by decide +kernel), some_meets (by decide +kernel), fun _ => rfl⟩
theorem witness_Sees :
    (∃ m, (guarding 4 .s (.weigh 5 3)).managers.find? (fun m => m.num == 2) = some m ∧ Sees m (Config.tenantOf 5)) ∧
    (∃ m, (guarding (Config.tenantOf 5) .u (.weigh 5 3)).managers.find? (fun m => m.num == 2) = some m ∧ Sees m (Config.tenantOf 5)) ∧
    ∃ m, (guarding (Config.tenantOf 5 + 1) .u (.weigh 5 3)).managers.find? (fun m => m.num == 2) = some m ∧ m.call = some (Config.tenantOf 5 + 1, 0) ∧
      ¬ Sees m (Config.tenantOf 5) := by
  refine ⟨⟨_, rfl, fun h => by cases h⟩, ⟨_, rfl, fun _ => ⟨0, rfl⟩⟩, _, rfl, rfl, fun h => ?_⟩
  obtain ⟨v, e⟩ := h rfl
  have f : some (Config.tenantOf 5 + 1, 0) = some (Config.tenantOf 5, v) := e
  simp at f

/-- A request for the device's certificate, an error of the FOH die, and one that is corrected there. -/
theorem witness_foh : (arg 0 1 0 0 0 rich).arg.b = 1 ∧ (struck .foh).arg.x = .place .foh ∧ { rich with agenda := [.corrected 8 false] }.agenda = .corrected 8 false :: [] :=
  ⟨rfl, rfl, rfl⟩

/-- The device at edges of its cores, with what may end and what waits; the release, at which nothing waits for a link; the token with both signatures. -/
theorem witness_edges : (∀ k, k ∈ runs5.cores → k.bay = 0) ∧ Ticks runs5 0 ∧
    ((∀ o, o ∈ { runs5 with curtain := true, now := 14400 }.sent → o.held = false) ∧ { runs5 with curtain := true, now := 14400 }.replies = [] ∧
      Numbered { runs5 with curtain := true, now := 14400 }) ∧
    ((arg 1 1 0 0 0 flying5).arg.a = 1 ∧ (arg 1 1 0 0 0 flying5).arg.b = 1 ∧ Numbered (arg 1 1 0 0 0 flying5)) ∧ Numbered { flying5 with curtain := true, debugOpen := true } ∧
    ∃ c, (arg 5 0 0 0 0 stopped5).context? 5 = some c ∧ c.leaving = none := by
  simp only [numbered_iff]
  exact ⟨by decide +kernel, by unfold Ticks; decide +kernel, by decide +kernel, by decide +kernel, by decide +kernel, some_meets (by decide +kernel)⟩
theorem witness_halts : (∃ r, runs5.run? 5 1 = some r ∧ (MayEnd runs5 r ∧ r.ending = none ∧ r.killed = none)) ∧
    ∃ r, flying5.run? 5 1 = some r ∧ (¬ MayEnd flying5 r ∧ r.ending = none ∧ r.killed = none) := by
  obtain ⟨r, h, c, k, e⟩ := some_meets (o := runs5.run? 5 1) (H := fun r => r.ctx = 5 ∧ (∀ k, k ∈ runs5.companies → k.ctx ≠ 5) ∧ r.ending = none ∧ r.killed = none) (by decide +kernel)
  obtain ⟨q, g, f⟩ := some_meets (o := flying5.run? 5 1) (H := fun r => (∃ k ∈ flying5.companies, k.ctx = r.ctx ∧ k.run = r.id ∧ ∃ h ∈ k.choruses, h.inflight ≠ []) ∧
    r.ending = none ∧ r.killed = none) (by decide +kernel)
  obtain ⟨m, hm, x, y, h', hh, z⟩ := f.1
  exact ⟨⟨r, h, ⟨fun ⟨m, _, hm, x, _⟩ => k m hm (x.trans c), .inl fun m hm x => absurd (x.trans c) (k m hm)⟩, e⟩,
    q, g, fun n => n.1 ⟨m, h', hm, x, y, hh, z⟩, f.2⟩

/-! ## One step of some instructions, with results that the spec gives -/

/-- The smallest company with v5, v6 and v7 holding three words. -/
def holding (a b d : Word) : State := reg 7 (fun _ => d) (reg 6 (fun _ => b) (reg 5 (fun _ => a) plain))
/-- What register v7 of lane `l` holds after the instruction. -/
def v7 (i : Instr) (l : Nat) (s : State) : Option Word := match exec i s with | .next t => t.site?.map (fun x => x.reg 7 l) | _ => none
def gives (is : List Instr) (s : State) : List (Option Word) := is.map (fun i => v7 i 3 s)

/-- The worked values of R73. -/
theorem test_integer_worked_values :
    gives [.adds 0 0 6 5 7] (holding 0x7FFFFFF0 0x20 0) = [some 0x7FFFFFFF] ∧ gives [.subs 0 0 6 5 7] (holding 0x80000000 1 0) = [some 0x80000000] ∧
    gives [.mul 0 0 6 5 7, .mulhs 0 0 6 5 7, .mulhu 0 0 6 5 7] (holding 0xFFFFFFFE 3 0) = [some 0xFFFFFFFA, some 0xFFFFFFFF, some 2] ∧
    gives [.sar 0 0 6 5 7] (holding 0x80000010 0x24 0) = [some 0xF8000001] ∧ gives [.rot 0 0 6 5 7] (holding 0x80000001 1 0) = [some 3] := by decide +kernel
/-- R70, R71 and R75: the operands of a difference in their order, the addend in place, and the widest absolute difference. -/
theorem test_operand_order : gives [.sub 0 0 6 5 7, .mad 0 0 6 5 7, .andn 0 0 6 5 7, .shl 0 0 6 5 7] (holding 12 5 100) = [some 7, some 160, some 8, some 384] ∧
    gives [.absd 0 0 6 5 7] (holding 0x80000000 0x7FFFFFFF 0) = [some 0xFFFFFFFF] := by decide +kernel
/-- R72 and R74: compares and selections, signed and unsigned. -/
theorem test_compares : gives [.cmplt 0 0 6 5 7, .cmpltu 0 0 6 5 7, .cmple 0 0 6 5 7, .cmpeq 0 0 6 5 7, .min 0 0 6 5 7, .minu 0 0 6 5 7, .tst 0 0 6 5 7] (holding 0xFFFFFFFF 2 0) =
    [some 0xFFFFFFFF, some 0, some 0xFFFFFFFF, some 0, some 0xFFFFFFFF, some 2, some 0xFFFFFFFF] := by decide +kernel
/-- The worked values of R76. -/
theorem test_field_worked_values :
    gives [.bfx 0 0 6 5 7] (holding 0xF0A0 0x00010808 0) = [some 0xFFFFFFF0] ∧ gives [.bfx 0 0 6 5 7] (holding 0xF0A0 0x804 0) = [some 0xA] ∧
    gives [.bfx 0 0 6 5 7] (holding 0x12345678 0x0001081C 0) = [some 1] ∧ gives [.bfi 0 0 6 5 7] (holding 0xAB 0x808 0x11111111) = [some 0x1111AB11] ∧
    gives [.sel 0 0 6 5 7, .lea 0 0 6 5 7] (holding 10 20 0) = [some 20, some 90] := by decide +kernel
/-- The table of R79. -/
theorem test_division_table : (([(7, 0xFFFFFFFE), (0xFFFFFFF9, 2), (5, 0), (0x80000000, 0xFFFFFFFF)] : List (Word × Word)).map (fun p => gives [.divs 0 0 6 5 7, .rems 0 0 6 5 7, .divu 0 0 6 5 7, .remu 0 0 6 5 7] (holding p.1 p.2 9))) =
    [[some 0xFFFFFFFD, some 1, some 0, some 7], [some 0xFFFFFFFD, some 0xFFFFFFFF, some 0x7FFFFFFC, some 1], [some 0xFFFFFFFF, some 5, some 0xFFFFFFFF, some 5],
      [some 0x80000000, some 0, some 0, some 0x80000000]] := by decide +kernel
/-- R77, R78. -/
theorem test_unary_operations : gives [.popc 0 0 5 7, .clz 0 0 5 7, .ctz 0 0 5 7, .brev 0 0 5 7, .zxb 0 0 5 7, .sxb 0 0 5 7, .sxh 0 0 5 7, .zxh 0 0 5 7, .bsw 0 0 5 7, .pack 0 0 6 5 7] (holding 0x0034F280 0x56789ABC 0) =
    [some 9, some 10, some 7, some 0x014F2C00, some 0x80, some 0xFFFFFF80, some 0xFFFFF280, some 0xF280, some 0x80F23400, some 0x9ABCF280] := by decide +kernel
/-- R80, R81: immediates, those of `addi` with their sign, `movi` without. -/
theorem test_immediates : gives [.addi 0 0 511 5 7, .xori 0 0 511 5 7, .cmpltui 0 0 511 5 7, .shli 0 0 4 5 7, .movi 0 0 0xFFFF 7, .movh 0 0 0x1234 7, .sub16 5 7, .addi16 63 7] (holding 0x10 0 0x00010055) =
    [some 0xF, some 0xFFFFFFEF, some 0xFFFFFFFF, some 0x100, some 0xFFFF, some 0x12340055, some 0x00010045, some 0x00010054] := by decide +kernel

/-- Lanes 0 to 7 with values in v5. -/
def lanes8 (as : List Word) : State := split (fun p => { p with members := 0xFF, xm := 0xFF }) (reg 5 (fun l => as.getD l 0) plain)
def row8 (i : Instr) (as : List Word) : List (Option Word) := (List.range 8).map (fun l => v7 i l (lanes8 as))
/-- The tables of R89. -/
theorem test_match_and_rank_table : row8 (.matchLanes 0 0 5 7) [3, 7, 3, 3, 9, 7, 3, 9] = [0x4D, 0x22, 0x4D, 0x4D, 0x90, 0x22, 0x4D, 0x90].map some ∧
    row8 (.rank 0 0 5 7) [3, 7, 3, 3, 9, 7, 3, 9] = [0, 0, 1, 2, 0, 1, 3, 1].map some := by decide +kernel
theorem test_exchange_table : row8 (.scan 0 0 5 7) [1, 1, 1, 0, 1, 1, 1, 0] = [1, 2, 3, 3, 4, 5, 6, 6].map some ∧ v7 (.redadd 0 0 5 7) 4 (lanes8 [1, 1, 1, 0, 1, 1, 1, 0]) = some 6 ∧
    v7 (.ballot 0 0 5 7) 4 (lanes8 [1, 1, 1, 0, 1, 1, 1, 0]) = some 0x77 := by decide +kernel
/-- R86: sources of the shuffles. -/
theorem test_shuffles : [v7 (.shup 0 0 8 5 7) 6 base, v7 (.shdn 0 0 8 5 7) 6 base, v7 (.shxor 0 0 8 5 7) 6 base, v7 (.shfl 0 0 6 5 7) 6 base, v7 (.leader 0 0 6 7) 6 base] =
    [some 5, some 7, some 7, some 24, some 0] := by decide +kernel

/-- R98, R99: 1.5 and 2.0 under the arithmetic, and their operands in order. -/
theorem test_float_arithmetic : gives [.fadd 0 0 6 5 7, .fsub 0 0 6 5 7, .fmul 0 0 6 5 7, .fdiv 0 0 6 5 7, .fma 0 0 6 5 7, .fms 0 0 6 5 7, .fnma 0 0 6 5 7] (holding 0x3FC00000 0x40000000 0x3F800000) =
    [some 0x40600000, some 0xBF000000, some 0x40400000, some 0x3F400000, some 0x40800000, some 0x40000000, some 0xC0000000] ∧
    gives [.fadd 0 0 6 5 7] (holding 0x7F800000 0xFF800000 0) = [some 0x7FC00000] := by decide +kernel
/-- The table of R100. -/
theorem test_float_selection_table : ([(0, 0x80000000), (0x7F800001, 0x3F800000), (0x7F800001, 0x7F800001)] : List (Word × Word)).map (fun p => gives [.fmin 0 0 6 5 7, .fminnum 0 0 6 5 7, .fmax 0 0 6 5 7] (holding p.1 p.2 0)) =
    [[some 0x80000000, some 0x80000000, some 0], [some 0x7FC00000, some 0x3F800000, some 0x7FC00000], [some 0x7FC00000, some 0x7FC00000, some 0x7FC00000]] := by decide +kernel
/-- R101, R103. -/
theorem test_float_compares_and_classes : gives [.fcmpeq 0 0 6 5 7, .fcmplt 0 0 6 5 7, .fcmple 0 0 6 5 7, .fcmpun 0 0 6 5 7] (holding 0x80000000 0 5) = [some 0xFFFFFFFF, some 0, some 0xFFFFFFFF, some 0] ∧
    ([0x7FC00000, 0x7F800001, 0x7F800000, 0x3F800000, 1, 0, 0x80000000, 0x80000001, 0xBF800000, 0xFF800000] : List Word).map (fun a => v7 (.fclass 0 0 5 7) 0 (holding a 0 0)) =
      [0x200, 0x100, 0x80, 0x40, 0x20, 0x10, 8, 4, 2, 1].map some := by decide +kernel
/-- Values that R102 and R104 state. -/
theorem test_float_functions : gives [.frcp 0 0 5 7, .fsqrt 0 0 5 7, .frsq 0 0 5 7, .fexp2 0 0 5 7, .flog2 0 0 5 7] (holding 0x40800000 0 0) = [some 0x3E800000, some 0x40000000, some 0x3F000000, some 0x41800000, some 0x40000000] ∧
    gives [.fsinpi 0 0 5 7, .fcospi 0 0 5 7] (holding 0x3F000000 0 0) = [some 0x3F800000, some 0] ∧
    gives [.frnd 0 0 0 5 7, .frnd 0 0 3 5 7] (holding 0xBECCCCCD 0 0) = [some 0x80000000, some 0x80000000] := by decide +kernel
/-- The table of R107. -/
theorem test_conversion_table : gives [.cvt 0 0 0 1 5 7, .cvt 0 0 1 1 5 7, .cvt 0 0 3 1 5 7] (holding 0x40200000 0 0) = [some 2, some 2, some 3] ∧
    gives [.cvt 0 0 0 1 5 7, .cvt 0 0 2 1 5 7] (holding 0xC0200000 0 0) = [some 0xFFFFFFFE, some 0xFFFFFFFD] ∧ gives [.cvt 0 0 0 0x0A 5 7] (holding 0x43960000 0 0) = [some 0x7F] ∧
    gives [.cvt 0 0 0 2 5 7] (holding 0x7FC00000 0 9) = [some 0] ∧ gives [.cvt 0 0 0 0x10 5 7, .cvt 0 0 3 0x10 5 7] (holding 0x01000001 0 0) = [some 0x4B800000, some 0x4B800001] ∧
    gives [.cvt 0 0 0 0x1A 5 7] (holding 0xFFFFFF38 0 0) = [some 0x80] ∧ gives [.cvt 0 0 0 0x70 5 7] (holding 0 0 9) = [some 0x00400000] := by decide +kernel
/-- R105, R111: pairs of FP16 and a scale of 2. -/
theorem test_packed_and_scaled : gives [.hadd2 0 0 6 5 7, .hmul2 0 0 6 5 7] (holding 0x40003E00 0x3C003C00 0) = [some 0x42004100, some 0x40003E00] ∧
    gives [.scl 0 0 6 5 7] (holding 0x3F800000 0xABCDEF80 0) = [some 0x40000000] ∧ gives [.scl 0 0 6 5 7] (holding 0x3F800000 0xFF 0) = [some 0x7FC00000] := by decide +kernel

/-- R12, R81: inactive lanes keep their registers, and v0 reads as 0 whatever is written. -/
theorem test_inactive_lanes_and_v0 : v7 (.movi 0 0 5 7) 9 (split (fun p => { p with xm := 0xFF }) (holding 0 0 3)) = some 3 ∧
    (match exec (.movi 0 0 5 0) plain with | .next t => t.site?.map (fun x => (x.reg 0 3, x.sp.pc)) | _ => none) = some (0, 4) := by decide +kernel

/-- The site after an instruction. -/
def after {α : Type} (i : Instr) (s : State) (f : Site → α) : Option α := match exec i s with | .next t => t.site?.map f | _ => none
/-- v6 holds four times the lane; v5 and v7 hold words. -/
def laneWords (s : State) : State := reg 7 (fun l => 0x11223344 + BitVec.ofNat 32 l) (reg 5 (fun _ => 0x10) s)
/-- R161, R163: each lane stores its word with the low byte first; every byte past the last lane stays. -/
theorem test_stage_store_bytes : after (.stSw 0 1 6 7) (laneWords rich) (fun x => [4, 5, 6, 7, 8, 131, 132].map (fun a => x.co.stage.read a)) = some [0x44, 0x33, 0x22, 0x11, 0x45, 0x11, 0] := by decide +kernel
/-- R163: bytes and halfwords are read with zeros above. -/
theorem test_stage_loads : (match exec (.stSw 0 0 6 7) (laneWords rich) with
    | .next t => [v7 (.ldSw 0 0 6 7) 2 t, v7 (.ldSb 0 1 6 7) 2 t, v7 (.ldSh 0 1 6 7) 2 t, v7 (.ldSw 0 1 6 7) 2 t] | _ => []) =
    [some 0x11223346, some 0x33, some 0x1122, some 0x11223347] := by decide +kernel
/-- R165: lanes that name one word are served in increasing order, and each receives the old value. -/
theorem test_atomic_order : after (.atomS 0 0 5 0 7) (laneWords rich) (fun x => ([0, 1, 31].map (x.reg 7), leWord x.co.stage 0)) = some ([0, 0x10, 0x1F0], 0x200) := by decide +kernel
/-- R118, R119: displacements count halfwords from the instruction's own address, with their sign. -/
theorem test_branches : after (.j 0x10) plain (fun x => x.sp.pc) = some 0x20 ∧ after (.j 0xFFFFFE) (split (fun p => { p with pc := 0x40 }) plain) (fun x => x.sp.pc) = some 0x3C ∧
    after (.jpt 8) (split (fun p => { p with pc := 0x40 }) plain) (fun x => (x.sp.joinPc, x.sp.pc)) = some (0x50, 0x44) := by decide +kernel
/-- R116, R117: a condition that is 0 in every lane takes `bz` and not `bnz`. -/
theorem test_uniform_conditions : after (.bz 0x10 0) plain (fun x => x.sp.pc) = some 0x20 ∧ after (.bnz 0x10 0) plain (fun x => x.sp.pc) = some 4 := by decide +kernel
/-- R127, R130: `call 2` steps the window and links the return point in the row below it; `ret` comes back. -/
theorem test_call_and_return : (match exec (.call 8 2) plain with
    | .next t => (t.site?.map (fun x => (x.sp.pc, x.sp.wb, x.sp.depth, x.reg 15 3, x.reg 14 3)), after .ret t (fun x => (x.sp.pc, x.sp.wb))) | _ => (none, none)) =
    (some (0x10, 2, 1, 0, 0), some (4, 0)) := by decide +kernel
/-- R139, R137, R141: `trap` goes to the handler with its immediate, and `rtt` back to `epc`. -/
theorem test_trap_and_return : (match exec (.trap 0x155) rich with
    | .next t => (t.site?.map (fun x => (x.sp.pc, x.ch.cause, x.ch.tval, x.ch.epc, x.ch.handler)), after .rtt t (fun x => (x.sp.pc, x.ch.handler))) | _ => (none, none)) =
    (some (0x40, 0x11, 0x155, 0, true), some (0, false)) := by decide +kernel
/-- R48, R50: a word whose field is illegal traps with illegal encoding. -/
theorem test_illegal_encoding : after (.barC 16 0 20) rich (fun x => (x.sp.pc, x.ch.cause)) = some (0x40, 1) ∧ after (.reservedEncoding 0x1FF) rich (fun x => (x.sp.pc, x.ch.cause, x.ch.tval)) = some (0x40, 1, 0x1FF) := by
  decide +kernel
/-- R25, R92: special registers. -/
theorem test_special_registers : [v7 (.mfs 0 7) 9 base, v7 (.mfs 9 7) 9 (split (fun p => { p with fmt := 0x3FF }) base)] = [some 9, some 0x3FF] := by decide +kernel
/-- R326: a timer is set to `vt` and the nanoseconds of its operand. -/
theorem test_timer : after (.tmrSet 7 5) (holding 2 0 0x1000) (fun x => x.ch.timers.map (fun t => t.isSome)) = some [false, false, true, false] := by decide +kernel

/-- The first step of the machine runs the instruction placed where it fetches, and the state after reset has none. -/
theorem test_first_step : State.reset.site?.isNone = true ∧ (match step (State.reset.withFetchWord 32 0x00000101) with | .next t => t.site?.map (fun x => (x.sp.pc, x.ch.cause)) | _ => none) = some (4, 0) := by decide +kernel

end Sys2Proof.Tests
end

section
/-! # Encoding and decoding (R28 to R48)

An encoding is a `Form`: the fields and fixed bits of a word, the highest first. What a form says of words is proved once, by
induction on the form; a `Layout` ties a form to a constructor of `Instr`, and the layouts make up the model's opcode map. -/

namespace Sys2Proof.Laws.Encoding
open Sys2Proof.Claims

/-! ## Parts of a word -/

/-- A run of bits in two parts. -/
theorem extractLsb'_add {m : Nat} (w : BitVec m) (s n k : Nat) :
    w.extractLsb' s (n + k) = w.extractLsb' (s + k) n ++ w.extractLsb' s k :=
  (BitVec.extractLsb'_append_extractLsb'_eq_extractLsb' rfl).symm

/-- Words that agree agree in both their parts. -/
theorem append_inj {n k : Nat} {x x' : BitVec n} {y y' : BitVec k} (h : x ++ y = x' ++ y') : x = x' ∧ y = y' := by
  have hy : y = y' := by simpa [BitVec.extractLsb'_append_eq_right] using congrArg (BitVec.extractLsb' 0 k) h
  exact ⟨(BitVec.append_left_inj y').1 (hy ▸ h), hy⟩

/-! ## Forms of words -/

/-- The parts of a word of `n` bits, the highest first: fields, and runs of fixed bits. -/
inductive Form : Nat → Type
  | top (n : Nat) : Form n
  | topFixed {n : Nat} (v : BitVec n) : Form n
  | field {n : Nat} (f : Form n) (k : Nat) : Form (n + k)
  | fixed {n k : Nat} (f : Form n) (v : BitVec k) : Form (n + k)

namespace Form

/-- The values of the fields, the highest first. -/
def Fields : {n : Nat} → Form n → Type
  | _, top n => BitVec n
  | _, topFixed _ => Unit
  | _, field f k => f.Fields × BitVec k
  | _, fixed f _ => f.Fields

/-- What makes an `α` of the fields, one after the other. -/
def Maker : {n : Nat} → Form n → Type → Type
  | _, top n, α => BitVec n → α
  | _, topFixed _, α => α
  | _, field f k, α => f.Maker (BitVec k → α)
  | _, fixed f _, α => f.Maker α

/-- What a maker makes of the values of the fields. -/
def apply : {n : Nat} → (f : Form n) → {α : Type} → f.Maker α → f.Fields → α
  | _, top _, _, g, v => g v
  | _, topFixed _, _, g, _ => g
  | _, field f _, _, g, vs => f.apply g vs.1 vs.2
  | _, fixed f _, _, g, vs => f.apply g vs

/-- The word with these fields. -/
def join : {n : Nat} → (f : Form n) → f.Fields → BitVec n
  | _, top _, v => v
  | _, topFixed c, _ => c
  | _, field f _, vs => f.join vs.1 ++ vs.2
  | _, fixed f c, vs => f.join vs ++ c

/-- The fields of the bits of `w` from bit `s` up. -/
def split : {n : Nat} → (f : Form n) → Nat → BitVec 32 → f.Fields
  | _, top n, s, w => w.extractLsb' s n
  | _, topFixed _, _, _ => ()
  | _, field f k, s, w => (f.split (s + k) w, w.extractLsb' s k)
  | _, @fixed _ k f _, s, w => f.split (s + k) w

/-- The bits that the form fixes. -/
def mask : {n : Nat} → Form n → BitVec n
  | _, top n => 0#n
  | _, @topFixed n _ => BitVec.allOnes n
  | _, field f k => f.mask ++ 0#k
  | _, @fixed _ k f _ => f.mask ++ BitVec.allOnes k

/-- The values of the fixed bits, and zero in the fields. -/
def pattern : {n : Nat} → Form n → BitVec n
  | _, top n => 0#n
  | _, topFixed c => c
  | _, field f k => f.pattern ++ 0#k
  | _, fixed f c => f.pattern ++ c

/-- A word of the form has its fixed bits. -/
theorem join_and_mask : {n : Nat} → (f : Form n) → (vs : f.Fields) → f.join vs &&& f.mask = f.pattern
  | _, top _, _ => BitVec.and_zero
  | _, topFixed _, _ => BitVec.and_allOnes
  | _, field f k, vs => by rw [join, mask, pattern, BitVec.and_append, join_and_mask f, BitVec.and_zero]
  | _, fixed f c, vs => by rw [join, mask, pattern, BitVec.and_append, join_and_mask f vs, BitVec.and_allOnes]

/-- The fields of a word are those that it was made of. -/
theorem split_of_join : {n : Nat} → (f : Form n) → (s : Nat) → (w : BitVec 32) → (vs : f.Fields) →
    w.extractLsb' s n = f.join vs → f.split s w = vs
  | _, top _, _, _, _, h => h
  | _, topFixed _, _, _, _, _ => rfl
  | _, field f k, s, w, vs, h => by
    obtain ⟨hi, lo⟩ := append_inj ((extractLsb'_add w s _ k).symm.trans h)
    exact Prod.ext (split_of_join f (s + k) w vs.1 hi) lo
  | _, @fixed _ k f c, s, w, vs, h => by
    obtain ⟨hi, -⟩ := append_inj ((extractLsb'_add w s _ k).symm.trans h)
    exact split_of_join f (s + k) w vs hi

/-- A word with the fixed bits of the form is made of its own fields. -/
theorem join_split : {n : Nat} → (f : Form n) → (s : Nat) → (w : BitVec 32) →
    w.extractLsb' s n &&& f.mask = f.pattern → f.join (f.split s w) = w.extractLsb' s n
  | _, top _, _, _, _ => rfl
  | _, topFixed _, _, _, h => (BitVec.and_allOnes.symm.trans h).symm
  | _, field f k, s, w, h => by
    rw [extractLsb'_add, mask, pattern, BitVec.and_append] at h
    rw [extractLsb'_add, join, split, join_split f (s + k) w (append_inj h).1]
  | _, @fixed _ k f c, s, w, h => by
    rw [extractLsb'_add, mask, pattern, BitVec.and_append] at h
    obtain ⟨hi, lo⟩ := append_inj h
    rw [extractLsb'_add, join, split, join_split f (s + k) w hi, BitVec.and_allOnes.symm.trans lo]

end Form

/-! ## The layouts of the opcode map -/

/-- A form, and the instruction that it writes out. -/
structure Layout where
  form : Form 32
  make : form.Maker Instr
  code : ∀ vs, encode (form.apply make vs) = .long (form.join vs)

/-- The instruction with these fields. -/
def Layout.instr (l : Layout) (vs : l.form.Fields) : Instr := l.form.apply l.make vs

/-- The row of the opcode map for the layout. -/
def Layout.row (l : Layout) : Row := ⟨l.form.mask, l.form.pattern, fun w => l.instr (l.form.split 0 w)⟩

/-- What a row of a layout makes of a word that it takes is written as that word. -/
theorem Layout.encode_make (l : Layout) {w : BitVec 32} (h : w &&& l.row.mask = l.row.pattern) : encode (l.row.make w) = .long w := by
  have whole : w.extractLsb' 0 32 = w := BitVec.extractLsb'_eq_self
  have back := l.form.join_split 0 w (by rw [whole]; exact h)
  exact (l.code _).trans (congrArg Code.long (back.trans whole))

/-- The row of a layout takes the word of its instruction. -/
theorem Layout.row_takes (l : Layout) (vs : l.form.Fields) : l.form.join vs &&& l.row.mask = l.row.pattern :=
  l.form.join_and_mask vs

/-- The row of a layout makes the instruction of its word again. -/
theorem Layout.make_join (l : Layout) (vs : l.form.Fields) : l.row.make (l.form.join vs) = l.instr vs :=
  congrArg l.instr (l.form.split_of_join 0 _ vs BitVec.extractLsb'_eq_self)

/-- Form A with two source selectors (R33). -/
def formA (fn : BitVec 2) (major : BitVec 8) : Form 32 :=
  Form.top 1 |>.field 1 |>.fixed fn |>.field 7 |>.field 7 |>.field 6 |>.fixed major

/-- Form A with one source selector, the other zero (R33). -/
def formAOne (fnSb : BitVec 9) (major : BitVec 8) : Form 32 :=
  Form.top 1 |>.field 1 |>.fixed fnSb |>.field 7 |>.field 6 |>.fixed major

/-- Form A whose fn field is an operand (R46). -/
def formAFn (major : BitVec 8) : Form 32 :=
  Form.top 1 |>.field 1 |>.field 2 |>.field 7 |>.field 7 |>.field 6 |>.fixed major

/-- Form B with its 9-bit immediate (R34). -/
def formB (major : BitVec 8) : Form 32 :=
  Form.top 1 |>.field 1 |>.field 9 |>.field 7 |>.field 6 |>.fixed major

/-- Form B with a shift count (R34). -/
def formBShift (zero : BitVec 4) (major : BitVec 8) : Form 32 :=
  Form.top 1 |>.field 1 |>.fixed zero |>.field 5 |>.field 7 |>.field 6 |>.fixed major

/-- Form C (R35). -/
def formC (major : BitVec 8) : Form 32 :=
  Form.top 1 |>.field 1 |>.field 16 |>.field 6 |>.fixed major

/-- Form M (R36). -/
def formM (major : BitVec 8) : Form 32 :=
  Form.top 2 |>.field 10 |>.field 6 |>.field 6 |>.fixed major

/-- Form M of a quad of registers (R36). -/
def formMQuad (major : BitVec 10) : Form 32 :=
  Form.top 2 |>.field 10 |>.field 6 |>.field 4 |>.fixed major

/-- Form MA (R37). -/
def formMA (major : BitVec 8) : Form 32 :=
  Form.top 2 |>.field 4 |>.field 6 |>.field 6 |>.field 6 |>.fixed major

/-- Form T (R38). -/
def formT (major : BitVec 8) : Form 32 :=
  Form.top 4 |>.field 6 |>.field 8 |>.field 6 |>.fixed major

/-- Form T of a quad of registers (R38). -/
def formTQuad (major : BitVec 10) : Form 32 :=
  Form.top 4 |>.field 6 |>.field 8 |>.field 4 |>.fixed major

/-- Form J with a register or a step (R39). -/
def formJ (major : BitVec 8) : Form 32 :=
  Form.top 18 |>.field 6 |>.fixed major

/-- Form E with a tile (R40). -/
def formE (major : BitVec 8) : Form 32 :=
  Form.top 1 |>.field 6 |>.field 6 |>.field 8 |>.field 3 |>.fixed major

/-- Form X (R41). -/
def formX (major : BitVec 8) : Form 32 :=
  Form.top 1 |>.field 4 |>.field 8 |>.field 8 |>.field 3 |>.fixed major

/-- A barrier (R43, R46). -/
def formSBarrier (fn : BitVec 4) (major : BitVec 8) : Form 32 :=
  Form.topFixed fn |>.field 6 |>.field 8 |>.field 6 |>.fixed major

/-- Form SA with two source selectors (R43). -/
def formSA (fn : BitVec 4) (major : BitVec 8) : Form 32 :=
  Form.topFixed fn |>.field 7 |>.field 7 |>.field 6 |>.fixed major

/-- Form S with an immediate alone (R43). -/
def formS (fn : BitVec 4) (major : BitVec 14) : Form 32 :=
  Form.topFixed fn |>.field 14 |>.fixed major

/-- Form S with an immediate and a register (R43). -/
def formSReg (fn : BitVec 4) (major : BitVec 8) : Form 32 :=
  Form.topFixed fn |>.field 14 |>.field 6 |>.fixed major

/-- Form S whose other bits are free (R31, R48). -/
def formSFree (fn : BitVec 4) (major : BitVec 8) : Form 32 :=
  Form.topFixed fn |>.field 20 |>.fixed major

/-- Form S with two source registers (R43, R46). -/
def formSTwo (fn : BitVec 6) (major : BitVec 14) : Form 32 :=
  Form.topFixed fn |>.field 6 |>.field 6 |>.fixed major

/-- Form S with two source registers and a destination (R43, R46). -/
def formSThree (fn : BitVec 6) (major : BitVec 8) : Form 32 :=
  Form.topFixed fn |>.field 6 |>.field 6 |>.field 6 |>.fixed major

/-- Form S with one source register and a destination (R43, R46). -/
def formSSource (fn : BitVec 12) (major : BitVec 8) : Form 32 :=
  Form.topFixed fn |>.field 6 |>.field 6 |>.fixed major

/-- Form S with a 3-bit number and a register (R43, R46). -/
def formSSmall (fn : BitVec 15) (major : BitVec 8) : Form 32 :=
  Form.topFixed fn |>.field 3 |>.field 6 |>.fixed major

/-- Form S with one register alone (R43, R46). -/
def formSDest (fn : BitVec 18) (major : BitVec 8) : Form 32 :=
  Form.topFixed fn |>.field 6 |>.fixed major

/-- Form S with a tile alone (R43, R46). -/
def formSTile (fn : BitVec 4) (major : BitVec 20) : Form 32 :=
  Form.topFixed fn |>.field 8 |>.fixed major

/-- Form S with a tile and an accumulator (R43, R46). -/
def formSAcc (fn : BitVec 4) (major : BitVec 16) : Form 32 :=
  Form.topFixed fn |>.field 8 |>.field 4 |>.fixed major

/-- The layouts of `rowsInteger`. -/
def layoutsInteger : List Layout := [
  ⟨formA 0x0 0x1, Instr.add, fun _ => rfl⟩,
  ⟨formA 0x1 0x1, Instr.sub, fun _ => rfl⟩,
  ⟨formA 0x2 0x1, Instr.adds, fun _ => rfl⟩,
  ⟨formA 0x3 0x1, Instr.subs, fun _ => rfl⟩,
  ⟨formA 0x0 0x3, Instr.mul, fun _ => rfl⟩,
  ⟨formA 0x1 0x3, Instr.mulhs, fun _ => rfl⟩,
  ⟨formA 0x2 0x3, Instr.mulhu, fun _ => rfl⟩,
  ⟨formA 0x3 0x3, Instr.mad, fun _ => rfl⟩,
  ⟨formA 0x0 0x5, Instr.min, fun _ => rfl⟩,
  ⟨formA 0x1 0x5, Instr.max, fun _ => rfl⟩,
  ⟨formA 0x2 0x5, Instr.minu, fun _ => rfl⟩,
  ⟨formA 0x3 0x5, Instr.maxu, fun _ => rfl⟩,
  ⟨formA 0x0 0x7, Instr.and, fun _ => rfl⟩,
  ⟨formA 0x1 0x7, Instr.or, fun _ => rfl⟩,
  ⟨formA 0x2 0x7, Instr.xor, fun _ => rfl⟩,
  ⟨formA 0x3 0x7, Instr.andn, fun _ => rfl⟩,
  ⟨formA 0x0 0x9, Instr.shl, fun _ => rfl⟩,
  ⟨formA 0x1 0x9, Instr.shr, fun _ => rfl⟩,
  ⟨formA 0x2 0x9, Instr.sar, fun _ => rfl⟩,
  ⟨formA 0x3 0x9, Instr.rot, fun _ => rfl⟩,
  ⟨formA 0x0 0xB, Instr.cmpeq, fun _ => rfl⟩,
  ⟨formA 0x1 0xB, Instr.cmpne, fun _ => rfl⟩,
  ⟨formA 0x2 0xB, Instr.cmplt, fun _ => rfl⟩,
  ⟨formA 0x3 0xB, Instr.cmple, fun _ => rfl⟩,
  ⟨formA 0x0 0xD, Instr.cmpltu, fun _ => rfl⟩,
  ⟨formA 0x1 0xD, Instr.cmpleu, fun _ => rfl⟩,
  ⟨formA 0x2 0xD, Instr.tst, fun _ => rfl⟩,
  ⟨formA 0x3 0xD, Instr.absd, fun _ => rfl⟩,
  ⟨formA 0x0 0xF, Instr.sel, fun _ => rfl⟩,
  ⟨formA 0x1 0xF, Instr.bfx, fun _ => rfl⟩,
  ⟨formA 0x2 0xF, Instr.bfi, fun _ => rfl⟩,
  ⟨formA 0x3 0xF, Instr.lea, fun _ => rfl⟩,
  ⟨formAOne 0x0 0x11, Instr.popc, fun _ => rfl⟩,
  ⟨formAOne 0x80 0x11, Instr.clz, fun _ => rfl⟩,
  ⟨formAOne 0x100 0x11, Instr.ctz, fun _ => rfl⟩,
  ⟨formAOne 0x180 0x11, Instr.brev, fun _ => rfl⟩,
  ⟨formA 0x0 0x13, Instr.divs, fun _ => rfl⟩,
  ⟨formA 0x1 0x13, Instr.divu, fun _ => rfl⟩,
  ⟨formA 0x2 0x13, Instr.rems, fun _ => rfl⟩,
  ⟨formA 0x3 0x13, Instr.remu, fun _ => rfl⟩,
  ⟨formAOne 0x0 0x15, Instr.mov, fun _ => rfl⟩,
  ⟨formAOne 0x80 0x15, Instr.zxb, fun _ => rfl⟩,
  ⟨formAOne 0x100 0x15, Instr.sxb, fun _ => rfl⟩,
  ⟨formAOne 0x180 0x15, Instr.sxh, fun _ => rfl⟩,
  ⟨formAOne 0x0 0x17, Instr.zxh, fun _ => rfl⟩,
  ⟨formA 0x1 0x17, Instr.pack, fun _ => rfl⟩,
  ⟨formAOne 0x100 0x17, Instr.bsw, fun _ => rfl⟩]

/-- The layouts of `rowsImmediate`. -/
def layoutsImmediate : List Layout := [
  ⟨formB 0x21, Instr.addi, fun _ => rfl⟩,
  ⟨formB 0x23, Instr.andi, fun _ => rfl⟩,
  ⟨formB 0x25, Instr.ori, fun _ => rfl⟩,
  ⟨formB 0x27, Instr.xori, fun _ => rfl⟩,
  ⟨formBShift 0x0 0x29, Instr.shli, fun _ => rfl⟩,
  ⟨formBShift 0x0 0x2B, Instr.shri, fun _ => rfl⟩,
  ⟨formBShift 0x0 0x2D, Instr.sari, fun _ => rfl⟩,
  ⟨formB 0x2F, Instr.cmpeqi, fun _ => rfl⟩,
  ⟨formB 0x31, Instr.cmplti, fun _ => rfl⟩,
  ⟨formB 0x33, Instr.cmpltui, fun _ => rfl⟩,
  ⟨formB 0x35, Instr.muli, fun _ => rfl⟩,
  ⟨Form.topFixed 0x0#2 |>.field 9 |>.fixed 0x0#1 |>.field 6 |>.field 6 |>.fixed 0x37#8, Instr.ldp, fun _ => rfl⟩,
  ⟨formC 0x39, Instr.movi, fun _ => rfl⟩,
  ⟨formC 0x3B, Instr.movh, fun _ => rfl⟩,
  ⟨Form.topFixed 0x0#2 |>.field 16 |>.field 6 |>.fixed 0x3D#8, Instr.lit, fun _ => rfl⟩]

/-- The layouts of `rowsExchange`. -/
def layoutsExchange : List Layout := [
  ⟨formA 0x0 0x41, Instr.shfl, fun _ => rfl⟩,
  ⟨formA 0x1 0x41, Instr.shup, fun _ => rfl⟩,
  ⟨formA 0x2 0x41, Instr.shdn, fun _ => rfl⟩,
  ⟨formA 0x3 0x41, Instr.shxor, fun _ => rfl⟩,
  ⟨formAOne 0x0 0x43, Instr.vany, fun _ => rfl⟩,
  ⟨formAOne 0x80 0x43, Instr.vall, fun _ => rfl⟩,
  ⟨formAOne 0x100 0x43, Instr.ballot, fun _ => rfl⟩,
  ⟨formAOne 0x180 0x43, Instr.leader, fun _ => rfl⟩,
  ⟨formAOne 0x0 0x45, Instr.redadd, fun _ => rfl⟩,
  ⟨formAOne 0x80 0x45, Instr.redmin, fun _ => rfl⟩,
  ⟨formAOne 0x100 0x45, Instr.redmax, fun _ => rfl⟩,
  ⟨formAOne 0x180 0x45, Instr.redminu, fun _ => rfl⟩,
  ⟨formAOne 0x0 0x47, Instr.scan, fun _ => rfl⟩,
  ⟨formAOne 0x80 0x47, Instr.rank, fun _ => rfl⟩,
  ⟨formAOne 0x100 0x47, Instr.matchLanes, fun _ => rfl⟩]

/-- The layouts of `rowsFloat`. -/
def layoutsFloat : List Layout := [
  ⟨formA 0x0 0x61, Instr.fadd, fun _ => rfl⟩,
  ⟨formA 0x1 0x61, Instr.fsub, fun _ => rfl⟩,
  ⟨formA 0x2 0x61, Instr.fmul, fun _ => rfl⟩,
  ⟨formA 0x3 0x61, Instr.fdiv, fun _ => rfl⟩,
  ⟨formA 0x0 0x63, Instr.fma, fun _ => rfl⟩,
  ⟨formA 0x1 0x63, Instr.fms, fun _ => rfl⟩,
  ⟨formA 0x2 0x63, Instr.fnma, fun _ => rfl⟩,
  ⟨formA 0x3 0x63, Instr.fnms, fun _ => rfl⟩,
  ⟨formA 0x0 0x65, Instr.fmin, fun _ => rfl⟩,
  ⟨formA 0x1 0x65, Instr.fmax, fun _ => rfl⟩,
  ⟨formA 0x2 0x65, Instr.fminnum, fun _ => rfl⟩,
  ⟨formA 0x3 0x65, Instr.fmaxnum, fun _ => rfl⟩,
  ⟨formA 0x0 0x67, Instr.fcmpeq, fun _ => rfl⟩,
  ⟨formA 0x1 0x67, Instr.fcmplt, fun _ => rfl⟩,
  ⟨formA 0x2 0x67, Instr.fcmple, fun _ => rfl⟩,
  ⟨formA 0x3 0x67, Instr.fcmpun, fun _ => rfl⟩,
  ⟨formAOne 0x0 0x69, Instr.frcp, fun _ => rfl⟩,
  ⟨formAOne 0x80 0x69, Instr.frsq, fun _ => rfl⟩,
  ⟨formAOne 0x100 0x69, Instr.fsqrt, fun _ => rfl⟩,
  ⟨formAOne 0x180 0x69, Instr.fclass, fun _ => rfl⟩,
  ⟨formAOne 0x0 0x6B, Instr.fexp2, fun _ => rfl⟩,
  ⟨formAOne 0x80 0x6B, Instr.flog2, fun _ => rfl⟩,
  ⟨formAOne 0x100 0x6B, Instr.fsinpi, fun _ => rfl⟩,
  ⟨formAOne 0x180 0x6B, Instr.fcospi, fun _ => rfl⟩,
  ⟨Form.top 1 |>.field 1 |>.field 2 |>.fixed 0x0#7 |>.field 7 |>.field 6 |>.fixed 0x6D#8, Instr.frnd, fun _ => rfl⟩,
  ⟨formA 0x0 0x6F, Instr.hadd2, fun _ => rfl⟩,
  ⟨formA 0x1 0x6F, Instr.hmul2, fun _ => rfl⟩,
  ⟨formA 0x2 0x6F, Instr.hfma2, fun _ => rfl⟩,
  ⟨formA 0x3 0x6F, Instr.bfma2, fun _ => rfl⟩,
  ⟨formAFn 0x71, Instr.cvt, fun _ => rfl⟩,
  ⟨formAFn 0x73, Instr.cvtsr, fun _ => rfl⟩,
  ⟨formA 0x0 0x75, Instr.dp4, fun _ => rfl⟩,
  ⟨formA 0x1 0x75, Instr.dp8, fun _ => rfl⟩,
  ⟨formA 0x2 0x75, Instr.dp2, fun _ => rfl⟩,
  ⟨formA 0x3 0x75, Instr.dp4u, fun _ => rfl⟩,
  ⟨formA 0x0 0x77, Instr.scl, fun _ => rfl⟩,
  ⟨formA 0x1 0x77, Instr.pk8, fun _ => rfl⟩,
  ⟨formA 0x2 0x77, Instr.upk, fun _ => rfl⟩,
  ⟨formAOne 0x180 0x77, Instr.mxs, fun _ => rfl⟩]

/-- The layouts of `rowsMemory`. -/
def layoutsMemory : List Layout := [
  ⟨formM 0x81, Instr.ldWl, fun _ => rfl⟩,
  ⟨formM 0x83, Instr.stWl, fun _ => rfl⟩,
  ⟨formM 0x85, Instr.ldSb, fun _ => rfl⟩,
  ⟨formM 0x87, Instr.ldSh, fun _ => rfl⟩,
  ⟨formM 0x89, Instr.ldSw, fun _ => rfl⟩,
  ⟨formMQuad 0x8B, Instr.ldSq, fun _ => rfl⟩,
  ⟨formM 0x8D, Instr.stSb, fun _ => rfl⟩,
  ⟨formM 0x8F, Instr.stSh, fun _ => rfl⟩,
  ⟨formM 0x91, Instr.stSw, fun _ => rfl⟩,
  ⟨formMQuad 0x93, Instr.stSq, fun _ => rfl⟩,
  ⟨formM 0x95, Instr.ldSa, fun _ => rfl⟩,
  ⟨formM 0x97, Instr.stSr, fun _ => rfl⟩,
  ⟨formT 0x99, Instr.ldT, fun _ => rfl⟩,
  ⟨formT 0x9B, Instr.stT, fun _ => rfl⟩,
  ⟨formTQuad 0x9D, Instr.ldTq, fun _ => rfl⟩,
  ⟨formTQuad 0x9F, Instr.stTq, fun _ => rfl⟩,
  ⟨formMA 0xA1, Instr.atomS, fun _ => rfl⟩,
  ⟨formMA 0xA3, Instr.atomC, fun _ => rfl⟩,
  ⟨formM 0xA5, Instr.ldCw, fun _ => rfl⟩,
  ⟨formM 0xA7, Instr.stCw, fun _ => rfl⟩,
  ⟨formMQuad 0xA9, Instr.ldCq, fun _ => rfl⟩,
  ⟨formMQuad 0xAB, Instr.stCq, fun _ => rfl⟩,
  ⟨formM 0xAD, Instr.ldCa, fun _ => rfl⟩,
  ⟨formM 0xAF, Instr.stCr, fun _ => rfl⟩]

/-- The layouts of `rowsSync`. -/
def layoutsSync : List Layout := [
  ⟨formSBarrier 0x0 0xB1, Instr.barC, fun _ => rfl⟩,
  ⟨formSBarrier 0x0 0xB3, Instr.barT, fun _ => rfl⟩,
  ⟨formSA 0x0 0xB5, Instr.arvC, fun _ => rfl⟩,
  ⟨formSA 0x1 0xB5, Instr.awtC, fun _ => rfl⟩,
  ⟨formSA 0x2 0xB5, Instr.arvT, fun _ => rfl⟩,
  ⟨formSA 0x3 0xB5, Instr.awtT, fun _ => rfl⟩,
  ⟨Form.topFixed 0x0#11 |>.field 3 |>.field 2 |>.field 8 |>.fixed 0xB7#8, Instr.fenceR, fun _ => rfl⟩,
  ⟨Form.topFixed 0x0#11 |>.field 3 |>.field 2 |>.field 4 |>.field 4 |>.fixed 0xB9#8, Instr.fenceX, fun _ => rfl⟩,
  ⟨formSA 0x0 0xBB, Instr.rngSet, fun _ => rfl⟩,
  ⟨Form.topFixed 0x2#5 |>.field 6 |>.fixed 0x0#7 |>.field 6 |>.fixed 0xBB#8, Instr.rngSetH, fun _ => rfl⟩,
  ⟨Form.topFixed 0x0#11 |>.field 7 |>.field 6 |>.fixed 0xBD#8, Instr.cueSet, fun _ => rfl⟩,
  ⟨formSDest 0x4000 0xBD, Instr.cueClr, fun _ => rfl⟩,
  ⟨formSSmall 0x1000 0xBD, Instr.cueRd, fun _ => rfl⟩,
  ⟨formSTile 0x0 0xBF, Instr.tlRel, fun _ => rfl⟩,
  ⟨formSTile 0x1 0xBF, Instr.tlWait, fun _ => rfl⟩,
  ⟨Form.topFixed 0x2#4 |>.field 8 |>.fixed 0x0#6 |>.field 6 |>.fixed 0xBF#8, Instr.tlSt, fun _ => rfl⟩,
  ⟨Form.topFixed 0x6#5 |>.field 6 |>.field 7 |>.field 6 |>.fixed 0xBF#8, Instr.recBind, fun _ => rfl⟩]

/-- The layouts of `rowsControl`. -/
def layoutsControl : List Layout := [
  ⟨formJ 0xC1, Instr.bz, fun _ => rfl⟩,
  ⟨formJ 0xC3, Instr.bnz, fun _ => rfl⟩,
  ⟨Form.top 24 |>.fixed 0xC5#8, Instr.j, fun _ => rfl⟩,
  ⟨formJ 0xC7, Instr.call, fun _ => rfl⟩,
  ⟨Form.topFixed 0x0#4 |>.field 7 |>.fixed 0x0#1 |>.field 6 |>.fixed 0xC9#14, Instr.callr, fun _ => rfl⟩,
  ⟨Form.topFixed 0xCB#32, Instr.ret, fun _ => rfl⟩,
  ⟨Form.top 18 |>.fixed 0xCD#14, Instr.jpt, fun _ => rfl⟩,
  ⟨Form.topFixed 0xCF#32, Instr.rcv, fun _ => rfl⟩,
  ⟨formSSource 0x0 0xD1, Instr.rcvT, fun _ => rfl⟩,
  ⟨Form.topFixed 0xD3#32, Instr.exit, fun _ => rfl⟩,
  ⟨formS 0x0 0xD5, Instr.alloc, fun _ => rfl⟩,
  ⟨formJ 0xD7, Instr.brt, fun _ => rfl⟩]

/-- The layouts of `rowsSystem`. -/
def layoutsSystem : List Layout := [
  ⟨formS 0x0 0xF9, Instr.trap, fun _ => rfl⟩,
  ⟨Form.topFixed 0x100000F9#32, Instr.rtt, fun _ => rfl⟩,
  ⟨formS 0x2 0xF9, Instr.brk, fun _ => rfl⟩,
  ⟨formSFree 0x3 0xF9, Instr.nop, fun _ => rfl⟩,
  ⟨formS 0x4 0xF9, Instr.pool, fun _ => rfl⟩,
  ⟨formSReg 0x5 0xF9, Instr.mfs, fun _ => rfl⟩,
  ⟨formSReg 0x6 0xF9, Instr.mts, fun _ => rfl⟩,
  ⟨Form.topFixed 0x1C#6 |>.field 12 |>.fixed 0xF9#14, Instr.fmt, fun _ => rfl⟩,
  ⟨formSTwo 0x0 0xFB, Instr.tmrSet, fun _ => rfl⟩,
  ⟨Form.topFixed 0x100#12 |>.field 6 |>.fixed 0xFB#14, Instr.tmrClr, fun _ => rfl⟩,
  ⟨formSThree 0x8 0xFB, Instr.wev, fun _ => rfl⟩,
  ⟨formSSource 0x300 0xFB, Instr.wtm, fun _ => rfl⟩,
  ⟨formSTwo 0x10 0xFB, Instr.qkick, fun _ => rfl⟩,
  ⟨formSDest 0x14000 0xFB, Instr.evt, fun _ => rfl⟩,
  ⟨formSThree 0x0 0xFD, Instr.msgSend, fun _ => rfl⟩,
  ⟨formSSource 0x100 0xFD, Instr.msgRecv, fun _ => rfl⟩,
  ⟨formSDest 0x8000 0xFD, Instr.msgPeek, fun _ => rfl⟩,
  ⟨formSThree 0xC 0xFD, Instr.msgHold, fun _ => rfl⟩,
  ⟨formSSmall 0x0 0xFF, Instr.plset, fun _ => rfl⟩,
  ⟨formSReg 0x1 0xFF, Instr.rdstg, fun _ => rfl⟩,
  ⟨formSFree 0xF 0xFF, Instr.undef, fun _ => rfl⟩]

/-- The layouts of `rowsEngine`. -/
def layoutsEngine : List Layout := [
  ⟨formE 0xE1, Instr.flyIn, fun _ => rfl⟩,
  ⟨formE 0xE3, Instr.flyOut, fun _ => rfl⟩,
  ⟨formE 0xE5, Instr.flyGth, fun _ => rfl⟩,
  ⟨formE 0xE7, Instr.flySct, fun _ => rfl⟩,
  ⟨formE 0xE9, Instr.flyScl, fun _ => rfl⟩,
  ⟨Form.top 1 |>.field 6 |>.fixed 0x0#14 |>.field 3 |>.fixed 0xEB#8, Instr.flyCp, fun _ => rfl⟩,
  ⟨Form.top 1 |>.field 6 |>.field 4 |>.field 2 |>.fixed 0x0#8 |>.field 3 |>.fixed 0xED#8, Instr.flyAtm, fun _ => rfl⟩,
  ⟨formE 0xEF, Instr.flyMc, fun _ => rfl⟩,
  ⟨Form.top 1 |>.field 6 |>.field 6 |>.fixed 0x0#8 |>.field 3 |>.fixed 0xF7#8, Instr.flyPf, fun _ => rfl⟩,
  ⟨formX 0xF1, Instr.mxMma, fun _ => rfl⟩,
  ⟨formX 0xF3, Instr.mxSpr, fun _ => rfl⟩,
  ⟨Form.topFixed 0x0#12 |>.field 4 |>.fixed 0x0#2 |>.field 6 |>.fixed 0xF5#8, Instr.mxZero, fun _ => rfl⟩,
  ⟨formSAcc 0x1 0xF5, Instr.mxPut, fun _ => rfl⟩,
  ⟨formSAcc 0x2 0xF5, Instr.mxGet, fun _ => rfl⟩,
  ⟨formSDest 0xC000 0xF5, Instr.mxSput, fun _ => rfl⟩]

/-- The layout of every 32-bit encoding. -/
def layouts32 : List Layout :=
  layoutsInteger ++ layoutsImmediate ++ layoutsExchange ++ layoutsFloat ++ layoutsMemory ++ layoutsSync ++ layoutsControl ++ layoutsSystem ++ layoutsEngine

theorem rowsInteger_eq : rowsInteger = layoutsInteger.map Layout.row := rfl

theorem rowsImmediate_eq : rowsImmediate = layoutsImmediate.map Layout.row := rfl

theorem rowsExchange_eq : rowsExchange = layoutsExchange.map Layout.row := rfl

theorem rowsFloat_eq : rowsFloat = layoutsFloat.map Layout.row := rfl

theorem rowsMemory_eq : rowsMemory = layoutsMemory.map Layout.row := rfl

theorem rowsSync_eq : rowsSync = layoutsSync.map Layout.row := rfl

theorem rowsControl_eq : rowsControl = layoutsControl.map Layout.row := rfl

theorem rowsSystem_eq : rowsSystem = layoutsSystem.map Layout.row := rfl

theorem rowsEngine_eq : rowsEngine = layoutsEngine.map Layout.row := rfl

theorem rows32_eq : rows32 = layouts32.map Layout.row := by
  simp only [rows32, layouts32, List.map_append, rowsInteger_eq, rowsImmediate_eq, rowsExchange_eq, rowsFloat_eq, rowsMemory_eq,
    rowsSync_eq, rowsControl_eq, rowsSystem_eq, rowsEngine_eq]

theorem exists_layout {r : Row} (h : r ∈ rows32) : ∃ l ∈ layouts32, l.row = r := by
  rwa [rows32_eq, List.mem_map] at h

/-! ## The 32-bit words -/

/-- No word is of two rows: some bit is fixed in both, and differs. -/
theorem rows32_apart : rows32.Pairwise (fun r q => r.pattern &&& q.mask ≠ q.pattern &&& r.mask) := by decide +kernel

/-- Bit 0 is fixed in every row, and set (R28). -/
theorem rows32_bit_zero : ∀ r ∈ rows32, r.mask.getLsbD 0 = true ∧ r.pattern.getLsbD 0 = true := by decide +kernel

/-- Two rows that take one word agree where both have fixed bits. -/
theorem fixed_agree {r q : Row} {w : BitVec 32} (hr : w &&& r.mask = r.pattern) (hq : w &&& q.mask = q.pattern) :
    r.pattern &&& q.mask = q.pattern &&& r.mask := by
  rw [← hr, ← hq, BitVec.and_assoc, BitVec.and_assoc, BitVec.and_comm r.mask]

/-- The row that takes a word is the only one. -/
theorem row_unique {r q : Row} {w : BitVec 32} (hr : r ∈ rows32) (hq : q ∈ rows32) (wr : w &&& r.mask = r.pattern)
    (wq : w &&& q.mask = q.pattern) : r = q := by
  by_contra ne
  have apart : Std.Symm fun r q : Row => r.pattern &&& q.mask ≠ q.pattern &&& r.mask := ⟨fun _ _ h e => h e.symm⟩
  exact rows32_apart.forall hr hq ne (fixed_agree wr wq)

/-- A word of a row decodes as the row says. -/
theorem decode32_of_row {r : Row} {w : BitVec 32} (hr : r ∈ rows32) (h : w &&& r.mask = r.pattern) : decode32 w = r.make w := by
  unfold decode32
  cases hf : rows32.find? (fun q => w &&& q.mask == q.pattern) with
  | none => exact absurd h (by simpa using List.find?_eq_none.1 hf r hr)
  | some q => rw [row_unique (List.mem_of_find?_eq_some hf) hr (by simpa using List.find?_some hf) h]

/-- The instruction that a word decodes to is written as that word. -/
theorem encode_decode32 (w : BitVec 32) : encode (decode32 w) = .long w := by
  unfold decode32
  split
  next r hf =>
    obtain ⟨l, -, rfl⟩ := exists_layout (List.mem_of_find?_eq_some hf)
    exact l.encode_make (by simpa using List.find?_some hf)
  next => rfl

/-- The word of an instruction of a layout decodes to it. -/
theorem decode32_join {l : Layout} (hl : l ∈ layouts32) (vs : l.form.Fields) : decode32 (l.form.join vs) = l.instr vs := by
  have hr : l.row ∈ rows32 := rows32_eq ▸ List.mem_map_of_mem hl
  rw [decode32_of_row hr (l.row_takes vs), l.make_join]

/-- The word of an instruction of a layout has bit 0 set. -/
theorem join_bit_zero {l : Layout} (hl : l ∈ layouts32) (vs : l.form.Fields) : (l.form.join vs).getLsbD 0 = true := by
  obtain ⟨hm, hp⟩ := rows32_bit_zero l.row (rows32_eq ▸ List.mem_map_of_mem hl)
  have h := congrArg (·.getLsbD 0) (l.row_takes vs)
  simp only [BitVec.getLsbD_and, hm, hp, Bool.and_true] at h
  exact h

/-! ## The 16-bit words -/

/-- The 16-bit instructions in the order of their operation codes (R30). -/
def shortMakers : List (BitVec 6 → BitVec 5 → Instr) :=
  [Instr.mov16, Instr.add16, Instr.sub16, Instr.and16, Instr.or16, Instr.xor16, Instr.shl16, Instr.shr16, Instr.sar16, Instr.mul16,
   Instr.min16, Instr.max16, Instr.fadd16, Instr.fsub16, Instr.fmul16, Instr.addi16]

/-- The 16-bit instruction of an operation code. -/
def shortMake (k : BitVec 4) : BitVec 6 → BitVec 5 → Instr := shortMakers.getD k.toNat Instr.mov16

/-- The halfword of fields and an operation code (R29). -/
def shortWord (k : BitVec 4) (v : BitVec 6) (d : BitVec 5) : BitVec 16 := v ++ d ++ (k ++ 0#1)

theorem encode_shortMake (k : BitVec 4) (v : BitVec 6) (d : BitVec 5) : encode (shortMake k v d) = .short (shortWord k v d) := by
  obtain ⟨k⟩ := k
  fin_cases k <;> rfl

/-- A halfword decodes by its operation code. -/
theorem decode16_eq (w : BitVec 16) : decode16 w = shortMake (w.extractLsb' 1 4) (w.extractLsb' 10 6) (w.extractLsb' 5 5) := by
  unfold decode16
  generalize w.extractLsb' 1 4 = k
  obtain ⟨k⟩ := k
  fin_cases k <;> rfl

/-- A halfword with bit 0 clear is that of its fields. -/
theorem shortWord_extract {w : BitVec 16} (h : w.getLsbD 0 = false) :
    shortWord (w.extractLsb' 1 4) (w.extractLsb' 10 6) (w.extractLsb' 5 5) = w := by
  have hz : 0#1 = w.extractLsb' 0 1 := by
    ext i hi
    obtain rfl : i = 0 := by omega
    simpa using h.symm
  calc shortWord (w.extractLsb' 1 4) (w.extractLsb' 10 6) (w.extractLsb' 5 5)
    _ = w.extractLsb' 0 (6 + 5 + (4 + 1)) := by
      rw [extractLsb'_add w 0 (6 + 5) (4 + 1), extractLsb'_add w _ 6 5, extractLsb'_add w 0 4 1, shortWord, hz]
    _ = w := BitVec.extractLsb'_eq_self

theorem encode_decode16 {w : BitVec 16} (h : w.getLsbD 0 = false) : encode (decode16 w) = .short w := by
  rw [decode16_eq, encode_shortMake, shortWord_extract h]

theorem shortWord_bit_zero (k : BitVec 4) (v : BitVec 6) (d : BitVec 5) : (shortWord k v d).getLsbD 0 = false := by
  rw [shortWord, LengthBit.low_bit _ _ (by decide), LengthBit.low_bit _ _ (by decide)]
  rfl

/-- A halfword is written in one way. -/
theorem shortWord_inj {k k' : BitVec 4} {v v' : BitVec 6} {d d' : BitVec 5} (h : shortWord k v d = shortWord k' v' d') :
    k = k' ∧ v = v' ∧ d = d' := by
  obtain ⟨hi, lo⟩ := append_inj h
  obtain ⟨hv, hd⟩ := append_inj hi
  exact ⟨(append_inj lo).1, hv, hd⟩

/-- The halfword of an instruction decodes to it. -/
theorem decode16_shortWord (k : BitVec 4) (v : BitVec 6) (d : BitVec 5) : decode16 (shortWord k v d) = shortMake k v d := by
  obtain ⟨hk, hv, hd⟩ := shortWord_inj (shortWord_extract (shortWord_bit_zero k v d))
  rw [decode16_eq, hk, hv, hd]

/-! ## Every instruction of the encodings -/

/-- The instruction stands in the tables: that of the layouts, or that of the 16-bit operations. -/
def InTables (i : Instr) : Prop := (∃ l ∈ layouts32, ∃ vs, l.instr vs = i) ∨ ∃ k v d, shortMake k v d = i

theorem of32 {i : Instr} {l : Layout} (n : Nat) (hl : layouts32[n]? = some l) (vs : l.form.Fields) (h : l.instr vs = i) : InTables i :=
  .inl ⟨l, List.mem_of_getElem? hl, vs, h⟩

theorem of16 {i : Instr} (k : BitVec 4) (v : BitVec 6) (d : BitVec 5) (h : shortMake k v d = i) : InTables i := .inr ⟨k, v, d, h⟩

/-- Every instruction of the encodings stands in the tables; the number is its place there. -/
theorem inTables_of_encoded (i : Instr) (h : Encoded i) : InTables i := by
  obtain ⟨written, unreserved⟩ := h
  cases i with
  | add c w b a d => exact of32 0 rfl ((((c, w), b), a), d) rfl
  | sub c w b a d => exact of32 1 rfl ((((c, w), b), a), d) rfl
  | adds c w b a d => exact of32 2 rfl ((((c, w), b), a), d) rfl
  | subs c w b a d => exact of32 3 rfl ((((c, w), b), a), d) rfl
  | mul c w b a d => exact of32 4 rfl ((((c, w), b), a), d) rfl
  | mulhs c w b a d => exact of32 5 rfl ((((c, w), b), a), d) rfl
  | mulhu c w b a d => exact of32 6 rfl ((((c, w), b), a), d) rfl
  | mad c w b a d => exact of32 7 rfl ((((c, w), b), a), d) rfl
  | min c w b a d => exact of32 8 rfl ((((c, w), b), a), d) rfl
  | max c w b a d => exact of32 9 rfl ((((c, w), b), a), d) rfl
  | minu c w b a d => exact of32 10 rfl ((((c, w), b), a), d) rfl
  | maxu c w b a d => exact of32 11 rfl ((((c, w), b), a), d) rfl
  | and c w b a d => exact of32 12 rfl ((((c, w), b), a), d) rfl
  | or c w b a d => exact of32 13 rfl ((((c, w), b), a), d) rfl
  | xor c w b a d => exact of32 14 rfl ((((c, w), b), a), d) rfl
  | andn c w b a d => exact of32 15 rfl ((((c, w), b), a), d) rfl
  | shl c w b a d => exact of32 16 rfl ((((c, w), b), a), d) rfl
  | shr c w b a d => exact of32 17 rfl ((((c, w), b), a), d) rfl
  | sar c w b a d => exact of32 18 rfl ((((c, w), b), a), d) rfl
  | rot c w b a d => exact of32 19 rfl ((((c, w), b), a), d) rfl
  | cmpeq c w b a d => exact of32 20 rfl ((((c, w), b), a), d) rfl
  | cmpne c w b a d => exact of32 21 rfl ((((c, w), b), a), d) rfl
  | cmplt c w b a d => exact of32 22 rfl ((((c, w), b), a), d) rfl
  | cmple c w b a d => exact of32 23 rfl ((((c, w), b), a), d) rfl
  | cmpltu c w b a d => exact of32 24 rfl ((((c, w), b), a), d) rfl
  | cmpleu c w b a d => exact of32 25 rfl ((((c, w), b), a), d) rfl
  | tst c w b a d => exact of32 26 rfl ((((c, w), b), a), d) rfl
  | absd c w b a d => exact of32 27 rfl ((((c, w), b), a), d) rfl
  | sel c w b a d => exact of32 28 rfl ((((c, w), b), a), d) rfl
  | bfx c w b a d => exact of32 29 rfl ((((c, w), b), a), d) rfl
  | bfi c w b a d => exact of32 30 rfl ((((c, w), b), a), d) rfl
  | lea c w b a d => exact of32 31 rfl ((((c, w), b), a), d) rfl
  | popc c w a d => exact of32 32 rfl (((c, w), a), d) rfl
  | clz c w a d => exact of32 33 rfl (((c, w), a), d) rfl
  | ctz c w a d => exact of32 34 rfl (((c, w), a), d) rfl
  | brev c w a d => exact of32 35 rfl (((c, w), a), d) rfl
  | divs c w b a d => exact of32 36 rfl ((((c, w), b), a), d) rfl
  | divu c w b a d => exact of32 37 rfl ((((c, w), b), a), d) rfl
  | rems c w b a d => exact of32 38 rfl ((((c, w), b), a), d) rfl
  | remu c w b a d => exact of32 39 rfl ((((c, w), b), a), d) rfl
  | mov c w a d => exact of32 40 rfl (((c, w), a), d) rfl
  | zxb c w a d => exact of32 41 rfl (((c, w), a), d) rfl
  | sxb c w a d => exact of32 42 rfl (((c, w), a), d) rfl
  | sxh c w a d => exact of32 43 rfl (((c, w), a), d) rfl
  | zxh c w a d => exact of32 44 rfl (((c, w), a), d) rfl
  | pack c w b a d => exact of32 45 rfl ((((c, w), b), a), d) rfl
  | bsw c w a d => exact of32 46 rfl (((c, w), a), d) rfl
  | addi c w i a d => exact of32 47 rfl ((((c, w), i), a), d) rfl
  | andi c w i a d => exact of32 48 rfl ((((c, w), i), a), d) rfl
  | ori c w i a d => exact of32 49 rfl ((((c, w), i), a), d) rfl
  | xori c w i a d => exact of32 50 rfl ((((c, w), i), a), d) rfl
  | shli c w i a d => exact of32 51 rfl ((((c, w), i), a), d) rfl
  | shri c w i a d => exact of32 52 rfl ((((c, w), i), a), d) rfl
  | sari c w i a d => exact of32 53 rfl ((((c, w), i), a), d) rfl
  | cmpeqi c w i a d => exact of32 54 rfl ((((c, w), i), a), d) rfl
  | cmplti c w i a d => exact of32 55 rfl ((((c, w), i), a), d) rfl
  | cmpltui c w i a d => exact of32 56 rfl ((((c, w), i), a), d) rfl
  | muli c w i a d => exact of32 57 rfl ((((c, w), i), a), d) rfl
  | ldp i a d => exact of32 58 rfl ((((), i), a), d) rfl
  | movi c w i d => exact of32 59 rfl (((c, w), i), d) rfl
  | movh c w i d => exact of32 60 rfl (((c, w), i), d) rfl
  | lit i d => exact of32 61 rfl (((), i), d) rfl
  | shfl c w b a d => exact of32 62 rfl ((((c, w), b), a), d) rfl
  | shup c w b a d => exact of32 63 rfl ((((c, w), b), a), d) rfl
  | shdn c w b a d => exact of32 64 rfl ((((c, w), b), a), d) rfl
  | shxor c w b a d => exact of32 65 rfl ((((c, w), b), a), d) rfl
  | vany c w a d => exact of32 66 rfl (((c, w), a), d) rfl
  | vall c w a d => exact of32 67 rfl (((c, w), a), d) rfl
  | ballot c w a d => exact of32 68 rfl (((c, w), a), d) rfl
  | leader c w a d => exact of32 69 rfl (((c, w), a), d) rfl
  | redadd c w a d => exact of32 70 rfl (((c, w), a), d) rfl
  | redmin c w a d => exact of32 71 rfl (((c, w), a), d) rfl
  | redmax c w a d => exact of32 72 rfl (((c, w), a), d) rfl
  | redminu c w a d => exact of32 73 rfl (((c, w), a), d) rfl
  | scan c w a d => exact of32 74 rfl (((c, w), a), d) rfl
  | rank c w a d => exact of32 75 rfl (((c, w), a), d) rfl
  | matchLanes c w a d => exact of32 76 rfl (((c, w), a), d) rfl
  | fadd c w b a d => exact of32 77 rfl ((((c, w), b), a), d) rfl
  | fsub c w b a d => exact of32 78 rfl ((((c, w), b), a), d) rfl
  | fmul c w b a d => exact of32 79 rfl ((((c, w), b), a), d) rfl
  | fdiv c w b a d => exact of32 80 rfl ((((c, w), b), a), d) rfl
  | fma c w b a d => exact of32 81 rfl ((((c, w), b), a), d) rfl
  | fms c w b a d => exact of32 82 rfl ((((c, w), b), a), d) rfl
  | fnma c w b a d => exact of32 83 rfl ((((c, w), b), a), d) rfl
  | fnms c w b a d => exact of32 84 rfl ((((c, w), b), a), d) rfl
  | fmin c w b a d => exact of32 85 rfl ((((c, w), b), a), d) rfl
  | fmax c w b a d => exact of32 86 rfl ((((c, w), b), a), d) rfl
  | fminnum c w b a d => exact of32 87 rfl ((((c, w), b), a), d) rfl
  | fmaxnum c w b a d => exact of32 88 rfl ((((c, w), b), a), d) rfl
  | fcmpeq c w b a d => exact of32 89 rfl ((((c, w), b), a), d) rfl
  | fcmplt c w b a d => exact of32 90 rfl ((((c, w), b), a), d) rfl
  | fcmple c w b a d => exact of32 91 rfl ((((c, w), b), a), d) rfl
  | fcmpun c w b a d => exact of32 92 rfl ((((c, w), b), a), d) rfl
  | frcp c w a d => exact of32 93 rfl (((c, w), a), d) rfl
  | frsq c w a d => exact of32 94 rfl (((c, w), a), d) rfl
  | fsqrt c w a d => exact of32 95 rfl (((c, w), a), d) rfl
  | fclass c w a d => exact of32 96 rfl (((c, w), a), d) rfl
  | fexp2 c w a d => exact of32 97 rfl (((c, w), a), d) rfl
  | flog2 c w a d => exact of32 98 rfl (((c, w), a), d) rfl
  | fsinpi c w a d => exact of32 99 rfl (((c, w), a), d) rfl
  | fcospi c w a d => exact of32 100 rfl (((c, w), a), d) rfl
  | frnd c w m a d => exact of32 101 rfl ((((c, w), m), a), d) rfl
  | hadd2 c w b a d => exact of32 102 rfl ((((c, w), b), a), d) rfl
  | hmul2 c w b a d => exact of32 103 rfl ((((c, w), b), a), d) rfl
  | hfma2 c w b a d => exact of32 104 rfl ((((c, w), b), a), d) rfl
  | bfma2 c w b a d => exact of32 105 rfl ((((c, w), b), a), d) rfl
  | cvt c w m k a d => exact of32 106 rfl (((((c, w), m), k), a), d) rfl
  | cvtsr c w t b a d => exact of32 107 rfl (((((c, w), t), b), a), d) rfl
  | dp4 c w b a d => exact of32 108 rfl ((((c, w), b), a), d) rfl
  | dp8 c w b a d => exact of32 109 rfl ((((c, w), b), a), d) rfl
  | dp2 c w b a d => exact of32 110 rfl ((((c, w), b), a), d) rfl
  | dp4u c w b a d => exact of32 111 rfl ((((c, w), b), a), d) rfl
  | scl c w b a d => exact of32 112 rfl ((((c, w), b), a), d) rfl
  | pk8 c w b a d => exact of32 113 rfl ((((c, w), b), a), d) rfl
  | upk c w b a d => exact of32 114 rfl ((((c, w), b), a), d) rfl
  | mxs c w a d => exact of32 115 rfl (((c, w), a), d) rfl
  | ldWl h o b d => exact of32 116 rfl (((h, o), b), d) rfl
  | stWl h o b s => exact of32 117 rfl (((h, o), b), s) rfl
  | ldSb h o b d => exact of32 118 rfl (((h, o), b), d) rfl
  | ldSh h o b d => exact of32 119 rfl (((h, o), b), d) rfl
  | ldSw h o b d => exact of32 120 rfl (((h, o), b), d) rfl
  | ldSq h o b d => exact of32 121 rfl (((h, o), b), d) rfl
  | stSb h o b s => exact of32 122 rfl (((h, o), b), s) rfl
  | stSh h o b s => exact of32 123 rfl (((h, o), b), s) rfl
  | stSw h o b s => exact of32 124 rfl (((h, o), b), s) rfl
  | stSq h o b s => exact of32 125 rfl (((h, o), b), s) rfl
  | ldSa h o b d => exact of32 126 rfl (((h, o), b), d) rfl
  | stSr h o b s => exact of32 127 rfl (((h, o), b), s) rfl
  | ldT k i t d => exact of32 128 rfl (((k, i), t), d) rfl
  | stT k i t s => exact of32 129 rfl (((k, i), t), s) rfl
  | ldTq k i t d => exact of32 130 rfl (((k, i), t), d) rfl
  | stTq k i t s => exact of32 131 rfl (((k, i), t), s) rfl
  | atomS q p r a d => exact of32 132 rfl ((((q, p), r), a), d) rfl
  | atomC q p r a d => exact of32 133 rfl ((((q, p), r), a), d) rfl
  | ldCw h o b d => exact of32 134 rfl (((h, o), b), d) rfl
  | stCw h o b s => exact of32 135 rfl (((h, o), b), s) rfl
  | ldCq h o b d => exact of32 136 rfl (((h, o), b), d) rfl
  | stCq h o b s => exact of32 137 rfl (((h, o), b), s) rfl
  | ldCa h o b d => exact of32 138 rfl (((h, o), b), d) rfl
  | stCr h o b s => exact of32 139 rfl (((h, o), b), s) rfl
  | barC i n d => exact of32 140 rfl ((((), i), n), d) rfl
  | barT i n d => exact of32 141 rfl ((((), i), n), d) rfl
  | arvC b a d => exact of32 142 rfl ((((), b), a), d) rfl
  | awtC b a d => exact of32 143 rfl ((((), b), a), d) rfl
  | arvT b a d => exact of32 144 rfl ((((), b), a), d) rfl
  | awtT b a d => exact of32 145 rfl ((((), b), a), d) rfl
  | fenceR s k m => exact of32 146 rfl ((((), s), k), m) rfl
  | fenceX s k t f => exact of32 147 rfl (((((), s), k), t), f) rfl
  | rngSet b a k => exact of32 148 rfl ((((), b), a), k) rfl
  | rngSetH h k => exact of32 149 rfl (((), h), k) rfl
  | cueSet a k => exact of32 150 rfl (((), a), k) rfl
  | cueClr k => exact of32 151 rfl ((), k) rfl
  | cueRd k d => exact of32 152 rfl (((), k), d) rfl
  | tlRel t => exact of32 153 rfl ((), t) rfl
  | tlWait t => exact of32 154 rfl ((), t) rfl
  | tlSt t d => exact of32 155 rfl (((), t), d) rfl
  | recBind h a d => exact of32 156 rfl ((((), h), a), d) rfl
  | bz o c => exact of32 157 rfl (o, c) rfl
  | bnz o c => exact of32 158 rfl (o, c) rfl
  | j o => exact of32 159 rfl o rfl
  | call o n => exact of32 160 rfl (o, n) rfl
  | callr n a => exact of32 161 rfl (((), n), a) rfl
  | ret => exact of32 162 rfl () rfl
  | jpt o => exact of32 163 rfl o rfl
  | rcv => exact of32 164 rfl () rfl
  | rcvT a d => exact of32 165 rfl (((), a), d) rfl
  | exit => exact of32 166 rfl () rfl
  | alloc i => exact of32 167 rfl ((), i) rfl
  | brt o c => exact of32 168 rfl (o, c) rfl
  | trap i => exact of32 169 rfl ((), i) rfl
  | rtt => exact of32 170 rfl () rfl
  | brk i => exact of32 171 rfl ((), i) rfl
  | nop x => exact of32 172 rfl ((), x) rfl
  | pool l => exact of32 173 rfl ((), l) rfl
  | mfs r d => exact of32 174 rfl (((), r), d) rfl
  | mts r s => exact of32 175 rfl (((), r), s) rfl
  | fmt i => exact of32 176 rfl ((), i) rfl
  | tmrSet b a => exact of32 177 rfl (((), b), a) rfl
  | tmrClr a => exact of32 178 rfl ((), a) rfl
  | wev b a d => exact of32 179 rfl ((((), b), a), d) rfl
  | wtm a d => exact of32 180 rfl (((), a), d) rfl
  | qkick b a => exact of32 181 rfl (((), b), a) rfl
  | evt d => exact of32 182 rfl ((), d) rfl
  | msgSend b a d => exact of32 183 rfl ((((), b), a), d) rfl
  | msgRecv a d => exact of32 184 rfl (((), a), d) rfl
  | msgPeek d => exact of32 185 rfl ((), d) rfl
  | msgHold b a d => exact of32 186 rfl ((((), b), a), d) rfl
  | plset c d => exact of32 187 rfl (((), c), d) rfl
  | rdstg i d => exact of32 188 rfl (((), i), d) rfl
  | undef x => exact of32 189 rfl ((), x) rfl
  | flyIn e b h t k => exact of32 190 rfl ((((e, b), h), t), k) rfl
  | flyOut e b h t k => exact of32 191 rfl ((((e, b), h), t), k) rfl
  | flyGth e b h t k => exact of32 192 rfl ((((e, b), h), t), k) rfl
  | flySct e b h t k => exact of32 193 rfl ((((e, b), h), t), k) rfl
  | flyScl e b h t k => exact of32 194 rfl ((((e, b), h), t), k) rfl
  | flyCp e b k => exact of32 195 rfl ((e, b), k) rfl
  | flyAtm e b p q k => exact of32 196 rfl ((((e, b), p), q), k) rfl
  | flyMc e b h t k => exact of32 197 rfl ((((e, b), h), t), k) rfl
  | flyPf e b h k => exact of32 198 rfl (((e, b), h), k) rfl
  | mxMma s r b a k => exact of32 199 rfl ((((s, r), b), a), k) rfl
  | mxSpr s r b a k => exact of32 200 rfl ((((s, r), b), a), k) rfl
  | mxZero r s => exact of32 201 rfl (((), r), s) rfl
  | mxPut t r => exact of32 202 rfl (((), t), r) rfl
  | mxGet t r => exact of32 203 rfl (((), t), r) rfl
  | mxSput s => exact of32 204 rfl ((), s) rfl
  | mov16 s d => exact of16 0 s d rfl
  | add16 s d => exact of16 1 s d rfl
  | sub16 s d => exact of16 2 s d rfl
  | and16 s d => exact of16 3 s d rfl
  | or16 s d => exact of16 4 s d rfl
  | xor16 s d => exact of16 5 s d rfl
  | shl16 s d => exact of16 6 s d rfl
  | shr16 s d => exact of16 7 s d rfl
  | sar16 s d => exact of16 8 s d rfl
  | mul16 s d => exact of16 9 s d rfl
  | min16 s d => exact of16 10 s d rfl
  | max16 s d => exact of16 11 s d rfl
  | fadd16 s d => exact of16 12 s d rfl
  | fsub16 s d => exact of16 13 s d rfl
  | fmul16 s d => exact of16 14 s d rfl
  | addi16 i d => exact of16 15 i d rfl
  | reservedEncoding w => exact absurd rfl (unreserved w)
  | _ => exact absurd rfl written

/-! ## Bytes -/

/-- The halfwords of the bytes of a word. -/
theorem join_bytes16 (w : BitVec 16) : w.extractLsb' 8 8 ++ w.extractLsb' 0 8 = w := by
  exact (extractLsb'_add w 0 8 8).symm.trans BitVec.extractLsb'_eq_self

theorem join_bytes32 (w : BitVec 32) :
    (w.extractLsb' 24 8 ++ w.extractLsb' 16 8) ++ (w.extractLsb' 8 8 ++ w.extractLsb' 0 8) = w := by
  have halves : w.extractLsb' 16 (8 + 8) ++ w.extractLsb' 0 (8 + 8) = w :=
    (extractLsb'_add w 0 16 16).symm.trans BitVec.extractLsb'_eq_self
  rw [extractLsb'_add w 16 8 8, extractLsb'_add w 0 8 8] at halves
  exact halves

/-- Two bytes with bit 0 clear are a 16-bit instruction. -/
theorem decodeBytes_two {b0 b1 : BitVec 8} (rest : List (BitVec 8)) (h : b0.getLsbD 0 = false) :
    decodeBytes (b0 :: b1 :: rest) = .ok (decode16 (b1 ++ b0), rest) := by
  unfold decodeBytes
  simp only [LengthBit.low_bit b1 b0 (by decide), h]
  rfl

/-- Four bytes with bit 0 set are a 32-bit instruction. -/
theorem decodeBytes_four {b0 b1 b2 b3 : BitVec 8} (rest : List (BitVec 8)) (h : b0.getLsbD 0 = true) :
    decodeBytes (b0 :: b1 :: b2 :: b3 :: rest) = .ok (decode32 ((b3 ++ b2) ++ (b1 ++ b0)), rest) := by
  unfold decodeBytes
  simp only [LengthBit.low_bit b1 b0 (by decide), h]
  rfl

theorem decodeBytes_short {w : BitVec 16} (h : w.getLsbD 0 = false) : decodeBytes (Code.short w).bytes = .ok (decode16 w, []) := by
  rw [Code.bytes, decodeBytes_two _ (by simpa using h), join_bytes16]

theorem decodeBytes_long {w : BitVec 32} (h : w.getLsbD 0 = true) : decodeBytes (Code.long w).bytes = .ok (decode32 w, []) := by
  rw [Code.bytes, decodeBytes_four _ (by simpa using h), join_bytes32]

/-- The bytes of an instruction of the encodings decode to it, and none is left over. -/
theorem decodeBytes_encode {i : Instr} (h : Encoded i) : decodeBytes (encode i).bytes = .ok (i, []) := by
  obtain ⟨l, hl, vs, rfl⟩ | ⟨k, v, d, rfl⟩ := inTables_of_encoded i h
  · rw [show encode (l.instr vs) = _ from l.code vs, decodeBytes_long (join_bit_zero hl vs), decode32_join hl]
  · rw [encode_shortMake, decodeBytes_short (shortWord_bit_zero k v d), decode16_shortWord]

/-- An instruction of the encodings takes the bytes that its length says, and bit 0 of the first says which length (R28). -/
theorem length_in_bit_zero {i : Instr} (h : Encoded i) :
    (encode i).bytes.length = (encode i).length ∧ ((encode i).length = 2 ∨ (encode i).length = 4) ∧
      (((encode i).bytes.headD 0).getLsbD 0 = decide ((encode i).length = 4)) := by
  obtain ⟨l, hl, vs, rfl⟩ | ⟨k, v, d, rfl⟩ := inTables_of_encoded i h
  · rw [show encode (l.instr vs) = _ from l.code vs]
    exact ⟨rfl, .inr rfl, by simpa [Code.bytes, Code.length] using join_bit_zero hl vs⟩
  · rw [encode_shortMake]
    exact ⟨rfl, .inl rfl, by simpa [Code.bytes, Code.length] using shortWord_bit_zero k v d⟩

/-! ## The statements -/

/-- Settles O53: by the tables of layouts, which hold every instruction and no word twice. -/
theorem decodeAndEncodeAgree : Obligations.DecodeAndEncodeAgree :=
  ⟨fun _ h => decodeBytes_encode h, fun w _ => encode_decode32 w, fun _ h => encode_decode16 h⟩

/-- Settles O51: each word is decoded by the model. -/
theorem wordsDecodeAsWritten : Obligations.WordsDecodeAsWritten := by
  unfold Obligations.WordsDecodeAsWritten
  decide +kernel

/-- Settles O52: bytes split by bit 0 of the first, and the word of every encoding has that bit as its length says. -/
theorem lengthIsInBitZero : Obligations.LengthIsInBitZero :=
  ⟨fun _ _ _ _ rest => ⟨fun h => ⟨_, decodeBytes_two _ h⟩, fun h => ⟨_, decodeBytes_four rest h⟩⟩, fun _ h => length_in_bit_zero h⟩

end Sys2Proof.Laws.Encoding
end

section
/-! # What an instruction that issues leaves (R16, R22, R44, R49, R67, R149, R154)

The bill of an issue, the split past its instruction, the write of a row, and the lane operation that is made of them. -/

namespace Sys2Proof.Laws.Retire
open Sys2Proof.Machine Sys2Proof.Claims

/-! ## The bill (R149, R154) -/

theorem core_num (s : State) (n : Nat) : (s.core n).num = n := by
  unfold State.core
  cases h : s.cores.find? (fun c => c.num == n) with
  | none => rfl
  | some c => simpa using List.find?_some h

/-- The core that was set is the one found by its number. -/
theorem core_setCore_self (s : State) {c : Core} {n : Nat} (hn : c.num = n) : (s.setCore c).core n = c := by
  subst hn
  unfold State.core State.setCore
  split
  next h =>
    obtain ⟨d, hd⟩ := Option.isSome_iff_exists.1 ((List.find?_isSome (p := fun d : Core => d.num == c.num)).2 (by simpa using h))
    have found := find?_replace (fun d : Core => d.num) c c.num s.cores
    rw [if_pos rfl, hd] at found
    exact congrArg (fun o => o.getD (Core.init c.num)) found
  next h =>
    have none : s.cores.find? (fun d => d.num == c.num) = none := List.find?_eq_none.2 (by simpa using h)
    simp [List.find?_append, none]

theorem setCore_eq (s : State) (c : Core) : s.setCore c = { s with cores := (s.setCore c).cores } := by
  unfold State.setCore
  split <;> rfl

theorem cluster_charge (s : State) (k m n : Nat) :
    ∃ r, (s.charge k m).cluster n = { s.cluster n with record := r } := by
  have found := find?_updWhere (fun c : Cluster => c.num == k) (fun c : Cluster => c.num == n)
    (fun c => { c with record := c.record + m }) (fun _ => rfl) s.clusters
  unfold State.cluster State.charge State.modCluster
  rw [found]
  cases s.clusters.find? (fun c => c.num == n) with
  | none => exact ⟨_, rfl⟩
  | some c =>
    by_cases h : (c.num == k) = true
    · exact ⟨c.record + m, by simp only [Option.map_some, h, if_true, Option.getD_some]⟩
    · exact ⟨c.record, by simp only [Option.map_some, h, Option.getD_some]; rfl⟩

/-- The core of an issue notes its class and passes the turn to the next bay. -/
theorem core_noteIssue (s : State) (n : Nat) (k : TClass) :
    ∃ j b, (s.noteIssue n k).core n = { s.core n with issuing := j, bay := b } :=
  ⟨_, _, core_setCore_self s (c := { s.core n with issuing := _, bay := _ }) (core_num s n)⟩

theorem core_noteIssue_ne (s : State) {n m : Nat} (k : TClass) (h : m ≠ n) : (s.noteIssue n k).core m = s.core m :=
  State.core_setCore_ne _ _ m (by rw [core_num]; exact h)

theorem noteIssue_eq (s : State) (n : Nat) (k : TClass) : s.noteIssue n k = { s with cores := (s.noteIssue n k).cores } :=
  setCore_eq s _

/-- A bill moves the record of the cluster and the cycle of the core alone. -/
theorem bill_eq (s : State) (i : Instr) (z : Site) : s.bill i z = { s with cores := (s.bill i z).cores, clusters := (s.bill i z).clusters } := by
  unfold State.bill
  rw [noteIssue_eq]
  rfl

/-- The bill of a state in which companies alone have changed, and none but that of the site. -/
theorem billed_bill {s s' : State} (i : Instr) {x z : Site} (same : s' = { s with companies := s'.companies })
    (others : ∀ u, u ≠ x.co.uid → s'.company? u = s.company? u) (hcore : z.co.core = x.co.core) : Billed s (s'.bill i z) x := by
  have cores : ∀ n, s'.core n = s.core n := fun n => by rw [same]; rfl
  have clusters : ∀ n, s'.cluster n = s.cluster n := fun n => by rw [same]; rfl
  constructor
  case device => rw [bill_eq, same]
  case cores => exact fun n hn => (core_noteIssue_ne _ _ (by rw [hcore]; exact hn)).trans (cores n)
  case core =>
    obtain ⟨j, b, noted⟩ := core_noteIssue (s'.charge (clusterOf z.co.core) ((timing i).2 * popcount z.active)) z.co.core (timing i).1
    have kept : (s'.bill i z).core x.co.core = { s.core x.co.core with issuing := j, bay := b } := by
      rw [← hcore, ← cores]
      exact noted
    rw [kept]
  case clusters =>
    intro n
    obtain ⟨r, charged⟩ := cluster_charge s' (clusterOf z.co.core) ((timing i).2 * popcount z.active) n
    have kept : (s'.bill i z).cluster n = { s.cluster n with record := r } := by
      rw [← clusters, ← charged, State.bill, noteIssue_eq]
      rfl
    rw [kept]
  case companies =>
    intro u hu
    rw [bill_eq]
    exact others u hu

/-! ## The split past its instruction (R16, R22, R44, R121) -/

/-- `z` is the site `x` after an effect that leaves its company, its split and the place of its chorus alone. -/
structure Alters (x z : Site) : Prop where
  company : z.co = x.co
  split : z.sp = x.sp
  index : z.ch.index = x.ch.index
  halted : z.ch.halted = x.ch.halted
  ended : z.ch.ended = x.ch.ended
  splits : z.ch.splits = x.ch.splits

theorem Alters.refl (x : Site) : Alters x x := ⟨rfl, rfl, rfl, rfl, rfl, rfl⟩

/-- The site as it stands in the state after an instruction that left it as `z`. -/
def landed (i : Instr) (z : Site) : Site :=
  let y := z.next i
  { co := y.co.setChorus (y.ch.setSplit y.sp), ch := y.ch.setSplit y.sp, sp := y.sp }

/-- Where the first element of a kind is replaced by one of that kind, the new one is the first. -/
theorem find?_replaced {α : Type} {p m : α → Bool} {a b : α} (hm : m a = true) (hb : p b = true) :
    ∀ {l : List α}, l.find? p = some a → (updWhere m (fun _ => b) l).find? p = some b
  | [], h => by cases h
  | c :: r, h => by
    rw [updWhere, List.map_cons]
    by_cases hc : m c = true
    · rw [if_pos hc, List.find?_cons_of_pos hb]
    · have hp : ¬ p c = true := fun e => by
        rw [List.find?_cons_of_pos e] at h
        exact hc (Option.some.inj h ▸ hm)
      rw [List.find?_cons_of_neg hp] at h
      rw [if_neg hc, List.find?_cons_of_neg hp]
      exact find?_replaced hm hb h

@[simp] theorem site?_bill (s : State) (i : Instr) (z : Site) : (s.bill i z).site? = s.site? := by
  rw [bill_eq]
  rfl

/-- After an instruction its split stands past it. -/
theorem site?_retire {s : State} {x z : Site} (i : Instr) (hs : s.site? = some x) (hz : Alters x z) :
    (s.retire i x z).site? = some (landed i z) := by
  obtain ⟨-, chorus, runs, halted, ended, running⟩ := State.site?_some hs
  obtain ⟨company, split, index, halted', ended', splits⟩ := hz
  have isRunning : (z.next i).sp.state = .running := by
    rw [← beq_iff_eq, ← List.find?_some running, ← split]
    rfl
  rw [State.retire, site?_bill]
  refine State.site?_put hs ?_ ?_ ?_ ?_ ?_ ?_ ?_
  · rw [← company]; rfl
  · rw [← runs, ← company]; rfl
  · rw [← index]; rfl
  · have found : x.co.chorus? x.ch.index = some x.ch := Company.chorus?_index chorus ▸ chorus
    show (z.co.chorus? z.ch.index).isSome = true
    rw [company, index, found]; rfl
  · exact halted'.trans halted
  · exact ended'.trans ended
  · refine find?_replaced (a := x.sp) ?_ (by rw [isRunning]; rfl) (by rw [← splits] at running; exact running)
    rw [← split]
    exact beq_self_eq_true _

/-- The count of consecutive issues after an instruction is as the statements say. -/
theorem issuesThen_issuesAfter (i : Instr) (z : Site) : issuesThen z i (z.issuesAfter i) := by
  have canRun (q : Split) : z.ch.canRun q = true ↔ splitReady z.ch q := by
    simp [Chorus.canRun, Split.choosable, splitReady, and_assoc]
  refine ⟨fun h => by simp [Site.issuesAfter, h], fun h other => ?_, fun h alone room => ?_⟩
  · obtain ⟨q, hq, ne, ready⟩ := other
    have : (z.ch.splits.any fun q => q.members != z.sp.members && z.ch.canRun q) = true :=
      List.any_eq_true.2 ⟨q, hq, by simp [ne, (canRun q).2 ready]⟩
    simp [Site.issuesAfter, h, this]
  · have : (z.ch.splits.any fun q => q.members != z.sp.members && z.ch.canRun q) = false := by
      rw [List.any_eq_false]
      intro q hq e
      simp only [Bool.and_eq_true, bne_iff_ne] at e
      exact alone q hq e.1 ((canRun q).1 e.2)
    simp [Site.issuesAfter, h, this, room]

/-- A split that has issued keeps no rows beside those of another split. -/
theorem unserve_cases (h : Chorus) (m : Mask) :
    h.unserve m = h.served ∨ ((∃ a b, h.served = some (m, a, b)) ∧ h.unserve m = none) := by
  unfold Chorus.unserve
  match h.served with
  | none => exact .inl rfl
  | some (k, a, b) =>
    by_cases e : k = m
    · subst e
      exact .inr ⟨⟨a, b, rfl⟩, by simp⟩
    · exact .inl (by simp [e])

/-- What stands in the state after an instruction is the site that it left, past it. -/
theorem past_retire {s : State} {x z : Site} (i : Instr) (hs : s.site? = some x) (hz : Alters x z) :
    Past i (s.retire i x z) z (landed i z) where
  site := site?_retire i hs hz
  company := rfl
  choruses k hk := by
    have other := Company.chorus?_setChorus z.co (landed i z).ch k
    rw [if_neg (show ¬ k = (landed i z).ch.index from hk)] at other
    exact other
  chorus := rfl
  served := by
    show (if chBit i then z.ch.served else z.ch.unserve z.sp.members) = _ ∨ _
    by_cases h : chBit i = true
    · exact .inl (if_pos h)
    · obtain kept | ⟨own, gone⟩ := unserve_cases z.ch z.sp.members
      · exact .inl ((if_neg h).trans kept)
      · exact .inr ⟨own, (if_neg h).trans gone⟩
  splits := rfl
  split := rfl
  issues := issuesThen_issuesAfter i z
  chain h := by
    constructor
    · show (if chBit i then _ else none) = none
      rw [h]; rfl
    · show (if chBit i then z.ch.latches else noLatches) = noLatches
      rw [h]; rfl

/-- The bill of an instruction that leaves the state around its company as it was. -/
theorem billed_retire {s : State} {x z : Site} (i : Instr) (hz : Alters x z) : Billed s (s.retire i x z) x := by
  refine billed_bill i rfl (fun u hu => ?_) rfl
  rw [State.put, State.company?_setCompany, if_neg]
  show ¬ u = z.co.uid
  rw [hz.company]
  exact hu

/-! ## The write of a row (R11, R12, R14, R348) -/

/-- A row that is written changes rows and marks of poison alone. -/
theorem setRow_eq (h : Chorus) (wb n : Nat) (m : Mask) (f : Nat → Word) : h.setRow wb n m f =
    { h with house := (h.setRow wb n m f).house, ring := (h.setRow wb n m f).ring, poison := (h.setRow wb n m f).poison } := by
  unfold Chorus.setRow
  split
  · rfl
  · split <;> rfl

theorem poison_setRow_sub {h : Chorus} {wb n : Nat} {m : Mask} {f : Nat → Word} {q : Nat × Nat} (hq : q ∈ (h.setRow wb n m f).poison) :
    q ∈ h.poison := by
  unfold Chorus.setRow at hq
  split at hq
  · exact hq
  · split at hq <;> exact List.mem_of_mem_filter hq

/-- Marks of another row stay. -/
theorem poison_setRow_ne {h : Chorus} {wb n : Nat} {m : Mask} {f : Nat → Word} {q : Nat × Nat} (hq : q ∈ h.poison)
    (ne : q.1 ≠ rowAt h wb n) : q ∈ (h.setRow wb n m f).poison := by
  unfold Chorus.setRow
  split
  · exact hq
  · split
    next low => exact List.mem_filter.2 ⟨hq, by rw [rowAt, if_pos low] at ne; simp [ne]⟩
    next high => exact List.mem_filter.2 ⟨hq, by rw [rowAt, if_neg high] at ne; simp [ne]⟩

/-- A register that is written changes rows and marks of poison alone. -/
theorem write_eq (x : Site) (n : Nat) (f : Nat → Word) : x.write n f = withRows x (x.write n f) := by
  rw [Site.write, setRow_eq]
  rfl

/-- A site whose rows and marks are those of `x` after a write holds what was written. -/
theorem wrote_setRow {x y : Site} (hx : Shaped x.ch) {d : Nat} {m : Mask} {f : Nat → Word} (wb : y.sp.wb = x.sp.wb)
    (house : y.ch.house = (x.ch.setRow x.sp.wb d m f).house) (ring : y.ch.ring = (x.ch.setRow x.sp.wb d m f).ring)
    (poison : y.ch.poison = (x.ch.setRow x.sp.wb d m f).poison) : Wrote x y d m f := by
  have read : ∀ n l, l < 32 → y.reg n l =
      if d ≠ 0 ∧ n ≠ 0 ∧ x.physRow n = x.physRow d ∧ m.has l = true then f l else x.reg n l := by
    intro n l hl
    have same : y.ch.row y.sp.wb n = (x.ch.setRow x.sp.wb d m f).row x.sp.wb n := by
      simp only [Chorus.row, wb, house, ring]
    rw [Site.reg, same, Chorus.row_setRow _ _ _ _ _ _ _ hx.house (by have := hx.ring.1; omega) hl]
    rfl
  constructor
  case new => exact fun hd l hl hm => (read d l hl).trans (if_pos ⟨hd, hd, rfl, hm⟩)
  case old =>
    intro n l _ hl apart
    refine (read n l hl).trans (if_neg ?_)
    rintro ⟨hd, -, row, hm⟩
    obtain zero | off | other := apart
    · exact hd zero
    · rw [off] at hm
      cases hm
    · exact other row
  case zero => exact fun l => Site.reg_zero y l
  case marks => exact fun q hq => poison_setRow_sub (poison ▸ hq)
  case marksKept => exact fun q hq ne => poison ▸ poison_setRow_ne hq ne

/-! ## Lane operations (R21, R67) -/

/-- Where no upset stands, or nothing of the result is checked, a lane operation computes what is right (R97, R347). -/
def Unspoilt (i : Instr) (x : Site) : Prop := x.ch.upset = Lanes.zero ∨ checkedElems x.sp.fmt i = []

/-- A lane operation that issues unspoilt retires with its result. -/
theorem laneOp_retires {i : Instr} {s : State} {x : Site} (w : BitVec 1) (d : BitVec 6) (f : Site → Nat → Word) (h : Issues i s x)
    (ok : Unspoilt i x) : laneOp i w d f s = .next (s.retire i x (x.result i w d (f x))) := by
  obtain ⟨site, -, -, cause, fits, resident, loaded, clean⟩ := h
  obtain quiet | unchecked := ok
  · exact laneOp_runs w d f site cause fits resident loaded clean quiet
  · have right : x.computed i (f x) = f x := by
      funext l
      simp [Site.computed, unchecked]
    have matched : x.mismatchLane i (f x) = none := by simp [Site.mismatchLane, elemsDiffer, unchecked]
    have unspent : x.spent i = x := by simp [Site.spent, unchecked]
    rw [laneOp, issue_runs _ site cause fits resident loaded clean, matched, unspent, right]

theorem member_lt_latches {x : Site} (hx : Shaped x.ch) {k : Nat} (hk : k < 4) : k < x.ch.latches.length := by
  rw [hx.latches]
  exact hk

/-- The result of a lane operation changes rows, marks of poison and latches alone. -/
theorem result_eq (x : Site) (i : Instr) (w : BitVec 1) (d : BitVec 6) (f : Nat → Word) :
    ∃ L, x.result i w d f = { withRows x (x.result i w d f) with ch := { (withRows x (x.result i w d f)).ch with latches := L } } := by
  refine ⟨(x.result i w d f).ch.latches, ?_⟩
  unfold Site.result
  by_cases hw : (w == 0) = true
  · rw [if_pos hw, write_eq]
    cases x.member i <;> rfl
  · rw [if_neg hw]
    cases x.member i <;> rfl

theorem alters_result (x : Site) (i : Instr) (w : BitVec 1) (d : BitVec 6) (f : Nat → Word) : Alters x (x.result i w d f) := by
  obtain ⟨L, e⟩ := result_eq x i w d f
  rw [e]
  exact ⟨rfl, rfl, rfl, rfl, rfl, rfl⟩

/-- The latches do not bear on where a split stands. -/
theorem past_of_latches {i : Instr} {t : State} {z x y : Site} {L : List Lanes} (e : z = { x with ch := { x.ch with latches := L } })
    (h : Past i t z y) : Past i t x y := by
  subst e
  exact ⟨h.site, h.company, h.choruses, h.chorus, h.served, h.splits, h.split, h.issues, h.chain⟩

theorem result_rows_of_write {x : Site} {i : Instr} {d : BitVec 6} {f : Nat → Word} :
    withRows x (x.result i 0 d f) = x.write d.toNat f := by
  unfold Site.result
  cases x.member i <;> exact (write_eq x _ _).symm

theorem result_rows_of_no_write {x : Site} {i : Instr} {w : BitVec 1} {d : BitVec 6} {f : Nat → Word} (hw : w ≠ 0) :
    withRows x (x.result i w d f) = x := by
  rw [Site.result, if_neg (by simpa using hw)]
  cases x.member i <;> rfl

theorem result_latches {x : Site} {i : Instr} {w : BitVec 1} {d : BitVec 6} {f : Nat → Word} {k : Nat} (hk : x.member i = some k) :
    (x.result i w d f).ch.latches = updAt x.ch.latches k (fun _ => Lanes.ofFn (fun l => if x.active.has l then f l else 0)) := by
  rw [Site.result, hk]
  by_cases hw : (w == 0) = true
  · rw [if_pos hw]
    simp only [Site.write, Chorus.setRow_latches]
  · rw [if_neg hw]

/-- What the statements say of a lane operation at one site. -/
def LaneEffectAt (i : Instr) (w : BitVec 1) (d : BitVec 6) (f : Nat → Word) (s : State) (x : Site) : Prop :=
  ∃ t y, exec i s = .next t ∧ Billed s t x ∧ Past i t (withRows x y) y ∧
    (w = 0 → Wrote x y d.toNat x.active f) ∧
    (w ≠ 0 → withRows x y = x) ∧
    (∀ k, chBit i = true → x.member i = some k → k < 4 →
      (∀ l, l < 32 → (y.ch.latches.getD k Lanes.zero).at l = if x.active.has l then f l else 0) ∧
      (∀ j, j ≠ k → y.ch.latches.getD j Lanes.zero = x.ch.latches.getD j Lanes.zero) ∧
      y.ch.chain = some (k + 1, match x.ch.chain with | some p => p.2 | none => x.sp.pc))

/-- An instruction that is a lane operation has its effect wherever it issues unspoilt. -/
theorem laneEffectAt_of_laneOp {i : Instr} {w : BitVec 1} {d : BitVec 6} {f : Site → Nat → Word} {s : State} {x : Site}
    (op : exec i s = laneOp i w d f s) (h : Issues i s x) (ok : Unspoilt i x) : LaneEffectAt i w d (f x) s x := by
  have alters := alters_result x i w d (f x)
  obtain ⟨L, e⟩ := result_eq x i w d (f x)
  refine ⟨_, landed i (x.result i w d (f x)), op.trans (laneOp_retires w d f h ok), billed_retire i alters,
    past_of_latches e (past_retire i h.site alters), ?_, result_rows_of_no_write, ?_⟩
  · rintro rfl
    have rows := result_rows_of_write (x := x) (i := i) (d := d) (f := f x)
    exact wrote_setRow h.shaped (congrArg (·.wb) alters.split) (congrArg (·.ch.house) rows) (congrArg (·.ch.ring) rows)
      (congrArg (·.ch.poison) rows)
  · intro k ch member hk
    have latches : (landed i (x.result i w d (f x))).ch.latches = (x.result i w d (f x)).ch.latches := if_pos ch
    rw [latches, result_latches member]
    refine ⟨fun l hl => ?_, fun j hj => updAt_getD_ne _ _ _ _ _ hj, ?_⟩
    · rw [updAt_getD_self _ _ _ _ (member_lt_latches h.shaped hk), Lanes.at_ofFn _ hl]
    · show (if chBit i then ((x.result i w d (f x)).member i).map _ else none) = _
      have chain : (x.result i w d (f x)).ch.chain = x.ch.chain := by rw [e]; rfl
      have same : (x.result i w d (f x)).member i = x.member i := by rw [Site.member, Site.member, chain]
      rw [if_pos ch, same, member, chain, alters.split]
      cases x.ch.chain <;> rfl

/-- An instruction that is a lane operation of the right values has the effect that the statements say. -/
theorem laneEffect_of_laneOp {i : Instr} {w : BitVec 1} {d : BitVec 6} {f g : Site → Nat → Word}
    (op : ∀ s, exec i s = laneOp i w d g s) (values : ∀ x l, g x l = f x l) : LaneEffect i w d f := by
  obtain rfl : g = f := funext fun x => funext fun l => values x l
  exact fun s x h quiet _ => laneEffectAt_of_laneOp (op s) h (.inl quiet)

end Sys2Proof.Laws.Retire
end

section
/-! # Immediate and 16-bit forms, and reads of the code image (R30, R80 to R84) -/

namespace Sys2Proof.Laws.ImmediateForms
open Sys2Proof.Machine Sys2Proof.Claims Sys2Proof.Laws.Retire

/-! ## Immediate forms (R80, R81) -/

/-- An instruction that the model runs as an operation with a sign-extended immediate. -/
theorem immediate_of {mk : BitVec 1 → BitVec 1 → BitVec 9 → BitVec 7 → BitVec 6 → Instr} {op op' : Word → Word → Word}
    (runs : ∀ c w k a d s, exec (mk c w k a d) s = immediate (mk c w k a d) w d a (sext k) op' s)
    (values : ∀ a b, op' a b = op a b) : Immediate mk op :=
  fun c w k a d => laneEffect_of_laneOp (runs c w k a d) fun _ _ => values _ _

/-- An instruction that the model runs as a shift by an immediate count. -/
theorem shiftBy_of {mk : BitVec 1 → BitVec 1 → BitVec 5 → BitVec 7 → BitVec 6 → Instr} {op : Word → Nat → Word}
    (runs : ∀ c w k a d s, exec (mk c w k a d) s = immediate (mk c w k a d) w d a (zext k) (fun a b => op a (count5 b)) s) :
    ShiftBy mk op := by
  have count (k : BitVec 5) : count5 (zext k) = k.toNat := by
    have := k.isLt
    rw [count5, zext, BitVec.toNat_setWidth]
    omega
  exact fun c w k a d => laneEffect_of_laneOp (runs c w k a d) fun _ _ => congrArg (op _) (count k)

/-- A truth value as a compare writes it. -/
theorem truth_decide (p : Prop) [Decidable p] : truth (decide p) = mask32 p := by
  by_cases h : p <;> simp [truth, mask32, h]

theorem truth_beq (a b : Word) : truth (a == b) = mask32 (a = b) := by
  rw [← truth_decide, Bool.beq_eq_decide_eq]

theorem truth_lts (a b : Word) : truth (lts a b) = mask32 (a.toInt < b.toInt) := truth_decide _

/-- The upper half replaced, and the lower half kept. -/
theorem upper_half (v : Word) (k : BitVec 16) : (v &&& 0xFFFF#32) ||| (zext k <<< 16) = k ++ v.setWidth 16 := by
  have low : ∀ i, i < 32 → (0xFFFF#32).getLsbD i = decide (i < 16) := by decide
  refine BitVec.eq_of_getLsbD_eq fun i hi => ?_
  rw [BitVec.getLsbD_or, BitVec.getLsbD_and, low i hi, BitVec.getLsbD_append]
  by_cases h : i < 16 <;> simp [h, hi, zext]

theorem immediateResults : ImmediateResults :=
  ⟨immediate_of (op' := (· + ·)) (fun _ _ _ _ _ _ => rfl) fun _ _ => rfl,
    immediate_of (op' := (· &&& ·)) (fun _ _ _ _ _ _ => rfl) fun _ _ => rfl,
    immediate_of (op' := (· ||| ·)) (fun _ _ _ _ _ _ => rfl) fun _ _ => rfl,
    immediate_of (op' := (· ^^^ ·)) (fun _ _ _ _ _ _ => rfl) fun _ _ => rfl,
    shiftBy_of fun _ _ _ _ _ _ => rfl, shiftBy_of fun _ _ _ _ _ _ => rfl, shiftBy_of fun _ _ _ _ _ _ => rfl,
    immediate_of (op' := fun a b => truth (a == b)) (fun _ _ _ _ _ _ => rfl) truth_beq,
    immediate_of (op' := fun a b => truth (lts a b)) (fun _ _ _ _ _ _ => rfl) truth_lts,
    immediate_of (op' := fun a b => truth (decide (a.toNat < b.toNat))) (fun _ _ _ _ _ _ => rfl) fun _ _ => truth_decide _,
    immediate_of (op' := (· * ·)) (fun _ _ _ _ _ _ => rfl) fun _ _ => rfl,
    fun _ _ _ _ => laneEffect_of_laneOp (fun _ => rfl) fun _ _ => rfl,
    fun _ _ k _ => laneEffect_of_laneOp (fun _ => rfl) fun _ _ => upper_half _ k⟩

/-! ## The 16-bit forms (R30) -/

/-- An instruction that the model runs as an operation of two registers. -/
theorem twoAddress_of {mk : BitVec 6 → BitVec 5 → Instr} {op op' : Word → Word → Word}
    (runs : ∀ v d s, exec (mk v d) s = twoAddress (mk v d) d v op' s) (values : ∀ a b, op' a b = op a b) : TwoAddress mk op :=
  fun v d => laneEffect_of_laneOp (runs v d) fun _ _ => values _ _

theorem minS_eq (a b : Word) : minS a b = if a.toInt ≤ b.toInt then a else b := by
  by_cases h : a.toInt ≤ b.toInt
  · rw [if_pos h, minS, if_neg (by simpa [lts, BitVec.slt] using h)]
  · rw [if_neg h, minS, if_pos (by simpa [lts, BitVec.slt] using h)]

theorem maxS_eq (a b : Word) : maxS a b = if b.toInt ≤ a.toInt then a else b := by
  by_cases h : b.toInt ≤ a.toInt
  · rw [if_pos h, maxS, if_neg (by simpa [lts, BitVec.slt] using h)]
  · rw [if_neg h, maxS, if_pos (by simpa [lts, BitVec.slt] using h)]

theorem shortFormResults : ShortFormResults :=
  ⟨twoAddress_of (op' := fun _ b => b) (fun _ _ _ => rfl) fun _ _ => rfl,
    twoAddress_of (op' := (· + ·)) (fun _ _ _ => rfl) fun _ _ => rfl, twoAddress_of (op' := (· - ·)) (fun _ _ _ => rfl) fun _ _ => rfl,
    twoAddress_of (op' := (· &&& ·)) (fun _ _ _ => rfl) fun _ _ => rfl, twoAddress_of (op' := (· ||| ·)) (fun _ _ _ => rfl) fun _ _ => rfl,
    twoAddress_of (op' := (· ^^^ ·)) (fun _ _ _ => rfl) fun _ _ => rfl, twoAddress_of (op' := shiftL) (fun _ _ _ => rfl) fun _ _ => rfl,
    twoAddress_of (op' := shiftR) (fun _ _ _ => rfl) fun _ _ => rfl, twoAddress_of (op' := shiftA) (fun _ _ _ => rfl) fun _ _ => rfl,
    twoAddress_of (op' := (· * ·)) (fun _ _ _ => rfl) fun _ _ => rfl, twoAddress_of (op' := minS) (fun _ _ _ => rfl) minS_eq,
    twoAddress_of (op' := maxS) (fun _ _ _ => rfl) maxS_eq, twoAddress_of (op' := fAdd) (fun _ _ _ => rfl) fun _ _ => rfl,
    twoAddress_of (op' := fSub) (fun _ _ _ => rfl) fun _ _ => rfl, twoAddress_of (op' := fMul) (fun _ _ _ => rfl) fun _ _ => rfl,
    fun _ _ => laneEffect_of_laneOp (fun _ => rfl) fun _ _ => rfl⟩

/-! ## Reads of the code image (R82 to R84) -/

theorem toNat_append_eq {n m : Nat} (x : BitVec n) (y : BitVec m) : (x ++ y).toNat = 2 ^ m * x.toNat + y.toNat := by
  rw [BitVec.toNat_append, ← Nat.shiftLeft_add_eq_or_of_lt y.isLt, Nat.shiftLeft_eq, Nat.mul_comm]

/-- A word of memory is made of its four bytes. -/
theorem readWord_eq (m : Memory) (a : Nat) : m.readWord a = m.read (a + 3) ++ m.read (a + 2) ++ m.read (a + 1) ++ m.read a := by
  refine BitVec.eq_of_toNat_eq ?_
  have := (m.read a).isLt
  have := (m.read (a + 1)).isLt
  have := (m.read (a + 2)).isLt
  have := (m.read (a + 3)).isLt
  rw [toNat_append_eq, toNat_append_eq, toNat_append_eq]
  simp only [Memory.readWord, Memory.readLE, Memory.readBytes, ofBytesLE, BitVec.toNat_ofNat, Nat.add_assoc, Nat.reduceAdd]
  omega

theorem codeWord_eq (c : Company) (a : Nat) : c.codeWord a = imageWord c a := by
  rw [Company.codeWord, readWord_eq]
  rfl

/-- A word that no agent has written reads its launch value (R84). -/
theorem codeRead_unwritten {s : State} {x : Site} (h : imageUnwritten s x) (a : Nat) : s.codeRead x.co a = imageWord x.co a := by
  have since : ((s.run? x.co.ctx x.co.run).map (·.codeSince)).getD [] = [] := by
    cases e : s.run? x.co.ctx x.co.run with
    | none => rfl
    | some r => exact h r e
  rw [State.codeRead, since, ← codeWord_eq]
  simp [Nat.mod_one]

/-- A word reads its launch value, or one of those written since (R84). -/
theorem codeRead_mayRead (s : State) (c : Company) (a : Nat) : mayRead s c a (s.codeRead c a) := by
  unfold State.codeRead
  extract_lets since l
  have member : l.getD (Config.freeCode s.free a % l.length) 0 ∈ l := by
    rw [List.getD_eq_getElem _ _ (Nat.mod_lt _ (by simp [l]))]
    exact List.getElem_mem _
  obtain launch | written := List.mem_cons.1 member
  · exact .inl (launch.trans (codeWord_eq c a))
  · obtain ⟨⟨b, v⟩, hw, value⟩ := List.mem_map.1 written
    obtain ⟨hr, hb⟩ := List.mem_filter.1 hw
    obtain rfl : b = a := by simpa using hb
    rw [← value]
    cases e : s.run? c.ctx c.run with
    | none => simp [e] at hr
    | some r => exact .inr ⟨r, e, by simpa [e] using hr⟩

/-- The address of `lit` (R82). -/
theorem literal_base (pc : Word) : (pc &&& 0xFFFFFFFC).toNat = pc.toNat / 4 * 4 := by
  have high : ∀ i, i < 32 → (0xFFFFFFFC#32).getLsbD i = decide (2 ≤ i) := by decide
  have shifted : pc &&& 0xFFFFFFFC#32 = (pc >>> 2) <<< 2 := by
    refine BitVec.eq_of_getLsbD_eq fun i hi => ?_
    rw [BitVec.getLsbD_and, high i hi]
    by_cases h : 2 ≤ i
    · have back : 2 + (i - 2) = i := by omega
      simp [h, hi, back, show ¬ i < 2 by omega]
    · simp [h, show i < 2 by omega]
  have := pc.isLt
  show (pc &&& 0xFFFFFFFC#32).toNat = _
  rw [shifted, BitVec.toNat_shiftLeft, BitVec.toNat_ushiftRight, Nat.shiftLeft_eq, Nat.shiftRight_eq_div_pow]
  omega

/-- A lane operation that reads words of the image, wherever it issues: nothing of its result is checked, so no upset bears on it. -/
theorem reads_written {i : Instr} {d : BitVec 6} {f : Site → Nat → Word} {s : State} {x : Site} (op : exec i s = laneOp i 0 d f s)
    (h : Issues i s x) (unchecked : checkedElems x.sp.fmt i = []) (hd : d ≠ 0) :
    ∃ t y, exec i s = .next t ∧ Billed s t x ∧ Past i t (withRows x y) y ∧ ∀ l, l ∈ activeLanes x → y.reg d.toNat l = f x l := by
  obtain ⟨t, y, answers, billed, past, wrote, -, -⟩ := laneEffectAt_of_laneOp op h (.inr unchecked)
  refine ⟨t, y, answers, billed, past, fun l hl => ?_⟩
  obtain ⟨lane, active⟩ := List.mem_filter.1 hl
  exact (wrote rfl).new (fun zero => hd (BitVec.eq_of_toNat_eq zero)) l (List.mem_range.1 lane) active

theorem poolRead_cons {s : State} {c : Company} {e : Nat × Nat} {r : List (Nat × Nat)} (h : c.playbill.pools = e :: r) (n : Nat) :
    s.poolRead c n = if n < e.2 then s.codeRead c (e.1 + 4 * n) else 0 := by
  rw [State.poolRead, h]

theorem codeImageReadResults : CodeImageReadResults := by
  refine ⟨fun k d s x h quiet unwritten => ?_, fun k a d s x h quiet unwritten => ?_, fun k d s x hd h => ?_,
    fun k a d s x e r hd h pools => ?_⟩
  · have read := laneEffectAt_of_laneOp (i := .lit k d) rfl h (.inl quiet)
    simp only [codeRead_unwritten unwritten, literal_base] at read
    exact read
  · have read := laneEffectAt_of_laneOp (i := .ldp k a d) rfl h (.inl quiet)
    simp only [State.poolRead, codeRead_unwritten unwritten] at read
    exact read
  · obtain ⟨t, y, answers, billed, past, wrote⟩ := reads_written (i := .lit k d) rfl h rfl hd
    refine ⟨t, y, answers, billed, past, fun l hl => ?_⟩
    rw [wrote l hl, literal_base]
    exact codeRead_mayRead s x.co _
  · obtain ⟨t, y, answers, billed, past, wrote⟩ := reads_written (i := .ldp k a d) rfl h rfl hd
    refine ⟨t, y, answers, billed, past, fun l hl inside => ?_⟩
    have value := (wrote l hl).trans ((poolRead_cons pools _).trans (if_pos inside))
    rw [value]
    exact codeRead_mayRead s x.co _

/-- Settles O3: each instruction is a lane operation, whose one effect is proved once, and reads of the image return what R84 allows. -/
theorem immediateShortFormAndCodeImageResults : Obligations.ImmediateShortFormAndCodeImageResults :=
  ⟨immediateResults, shortFormResults, codeImageReadResults⟩

end Sys2Proof.Laws.ImmediateForms
end

section
/-! # Traps of a split that runs and waits

Taking a trap ends the wait of the split that takes it (`State.takeTrap`). The statement that a trap is taken says of a handled trap
that its split keeps all but its PC, its wait among it; a statement that asks for no more than a site, and not that the running split
waits for nothing, so fails where the running split has a wait. -/

namespace Sys2Proof.Laws.WaitingTrap
open Sys2Proof.Machine Sys2Proof.Claims

/-! ## A state whose running split has a wait -/

/-- The smallest company, of context 1, with a trap handler. -/
def handlerCompany : Company :=
  Company.start 1 { Run.least with ctx := 1, playbill := { Playbill.least with handler := some 4 } } 0 0 0 0 0

/-- Its split, which runs and waits for room in the engine queue. -/
def waitingSplit : Split := { Split.root 0xFFFFFFFF handlerCompany.playbill with wait := .queue }

def waitingChorus : Chorus :=
  { Chorus.start 0 handlerCompany.playbill 32 (List.replicate 32 0) (Run.least.wellOf 0 0 0) 0 0 with splits := [waitingSplit] }

def waitingCompany : Company := { handlerCompany with choruses := [waitingChorus] }

/-- The device after reset with that company placed, whose chorus issues. -/
def waitingState : State := { State.reset with companies := [waitingCompany], cur := { co := 1, ch := 0 } }

def waitingSite : Site := { co := waitingCompany, ch := waitingChorus, sp := waitingSplit }

theorem site?_waitingState : waitingState.site? = some waitingSite := by decide +kernel

/-! ## Its traps -/

/-- The wait of the running split after an instruction. -/
def waitAfter (i : Instr) (s : State) : Option Wait :=
  match exec i s with
  | .next t => t.site?.map (fun y => y.sp.wait)
  | _ => none

theorem waitAfter_undef : waitAfter (.undef 0) waitingState = some .none := by decide +kernel

theorem waitAfter_plset : waitAfter (.plset 0 0) waitingState = some .none := by decide +kernel

/-- An instruction that ends the wait has not taken a trap as the statements have it, for a cause that the company's handler takes. -/
theorem not_trapTaken {i : Instr} {b t : State} {c : Nat} {tv : Word} (step : exec i waitingState = .next t)
    (ends : waitAfter i waitingState = some .none) (hc : c ≠ 0x0F ∧ c ≠ 0x10) : ¬ TrapTaken b t waitingSite c tv := by
  intro taken
  obtain ⟨-, y, hy, -, kept, -⟩ := taken.handled 4 rfl rfl hc.1 hc.2
  have ended : y.sp.wait = .none := by simpa [waitAfter, step, hy] using ends
  rw [kept] at ended
  cases ended

/-! ## The statements -/

/-- Refutes O20: the statement has `undef` refused at every site, so also at one whose running split waits for room in the queue;
there its trap enters the handler with that wait over. -/
theorem not_trapInstructionsAndTheirReturn : ¬ Obligations.TrapInstructionsAndTheirReturn := by
  rintro ⟨⟨-, -, -, undef, -⟩, -⟩
  obtain ⟨t, step, taken⟩ := undef 0 waitingState waitingSite site?_waitingState
  exact not_trapTaken step waitAfter_undef (by decide) taken

/-- Refutes O21: `undef` has a decode-time cause, also at a site whose running split waits for room in the queue; there its trap
enters the handler with that wait over. -/
theorem not_decodeTimeCausesComeFirst : ¬ Obligations.DecodeTimeCausesComeFirst := by
  intro h
  obtain ⟨refused, -⟩ := h (.undef 0) waitingState waitingSite (by decide) site?_waitingState
  obtain ⟨t, step, taken⟩ := refused 0x01 (encode (.undef 0)).word (by decide +kernel)
  exact not_trapTaken step waitAfter_undef (by decide) taken

/-- Refutes O31: the statement has `plset` trap as privileged at every site of context 1, so also at one whose running split waits
for room in the queue; there its trap enters the handler with that wait over. -/
theorem not_kickEventCounterAndFirmwareResults : ¬ Obligations.KickEventCounterAndFirmwareResults := by
  rintro ⟨-, -, -, -, -, privileged⟩
  obtain ⟨b, t, step, -, -, taken⟩ := privileged (.plset 0 0) waitingState waitingSite
    (.inl ⟨0, 0, rfl⟩) site?_waitingState (by decide) rfl
  exact not_trapTaken step waitAfter_plset (by decide) taken

end Sys2Proof.Laws.WaitingTrap
end

section
/-! # Rounding (R53, R59, R60, R62)

The numbers of a format as rationals, in the order of their codes, and what a rounded code is among them. -/

namespace Sys2Proof.Laws.Rounding
open Sys2Proof.Machine Sys2Proof.Claims

/-! ## The direction of a rounding of magnitudes (R59) -/

/-- Where a magnitude goes under a mode: to the nearest, towards zero, or away from zero. -/
inductive Way where
  | nearest | towards | away

/-- The way of a mode, for a number of the sign. -/
def way : Mode → Bool → Way
  | .rne, _ => .nearest
  | .rz, _ => .towards
  | .rdn, neg => if neg then .away else .towards
  | .rup, neg => if neg then .towards else .away

/-- The natural number `k` is what a magnitude `t` is rounded to in the way. -/
def Rounded (w : Way) (t : ℚ) (k : Nat) : Prop :=
  match w with
  | .nearest => |(k : ℚ) - t| ≤ 1 / 2 ∧ (|(k : ℚ) - t| = 1 / 2 → k % 2 = 0)
  | .towards => (k : ℚ) ≤ t ∧ t < k + 1
  | .away => t ≤ k ∧ (k : ℚ) < t + 1

theorem rounded_self (w : Way) (k : Nat) : Rounded w k k := by
  cases w <;> norm_num [Rounded]

theorem Rounded.lt_add_one {w : Way} {t : ℚ} {k : Nat} (h : Rounded w t k) : (k : ℚ) < t + 1 := by
  cases w with
  | nearest => have := (abs_le.1 h.1).2; linarith
  | towards => have := h.1; linarith
  | away => exact h.2

theorem Rounded.lt_succ {w : Way} {t : ℚ} {k : Nat} (h : Rounded w t k) : t < k + 1 := by
  cases w with
  | nearest => have := (abs_le.1 h.1).1; linarith
  | towards => exact h.2
  | away => have := h.1; linarith

/-- Whether a mode takes a magnitude that lies `δ` above `k` up to `k + 1`. -/
def goesUp (w : Way) (k : Nat) (δ : ℚ) : Prop :=
  match w with
  | .nearest => 1 / 2 < δ ∨ (δ = 1 / 2 ∧ k % 2 = 1)
  | .towards => False
  | .away => δ ≠ 0

theorem rounded_up {w : Way} {k : Nat} {δ : ℚ} (up : goesUp w k δ) (low : 0 ≤ δ) (high : δ < 1) : Rounded w (k + δ) (k + 1) := by
  cases w with
  | nearest =>
    have half : 1 / 2 ≤ δ := up.elim le_of_lt fun h => h.1.ge
    have gap : |((k + 1 : Nat) : ℚ) - (k + δ)| = 1 - δ := by
      rw [abs_of_nonneg] <;> push_cast <;> linarith
    refine ⟨by rw [gap]; linarith, fun tie => ?_⟩
    rw [gap] at tie
    obtain above | ⟨-, odd⟩ := up
    · linarith
    · omega
  | towards => exact up.elim
  | away => 
    have : 0 < δ := lt_of_le_of_ne low (Ne.symm up)
    constructor <;> push_cast <;> linarith

theorem rounded_down {w : Way} {k : Nat} {δ : ℚ} (down : ¬goesUp w k δ) (low : 0 ≤ δ) (high : δ < 1) : Rounded w (k + δ) k := by
  cases w with
  | nearest =>
    have gap : |(k : ℚ) - (k + δ)| = δ := by rw [sub_add_cancel_left, abs_neg, abs_of_nonneg low]
    obtain ⟨below, even⟩ := not_or.1 down
    refine ⟨by rw [gap]; linarith, fun tie => ?_⟩
    exact (Nat.mod_two_eq_zero_or_one k).resolve_right fun odd => even ⟨gap ▸ tie, odd⟩
  | towards => exact ⟨by linarith, by linarith⟩
  | away =>
    obtain rfl : δ = 0 := not_not.1 down
    exact ⟨by linarith, by linarith⟩

theorem rounded_ite {w : Way} {k : Nat} {δ : ℚ} {up : Bool} (h : up = true ↔ goesUp w k δ) (low : 0 ≤ δ) (high : δ < 1) :
    Rounded w (k + δ) (if up then k + 1 else k) := by
  split
  next hup => exact rounded_up (h.1 hup) low high
  next hup => exact rounded_down (mt h.2 hup) low high

/-- A number of units is the value in those units, rounded in the way of the mode. -/
theorem rounded_roundUnits (m : Mode) (neg : Bool) (n : Nat) (e q : Int) :
    Rounded (way m neg) ((n : ℚ) * 2 ^ (e - q)) (roundUnits m neg n e q) := by
  unfold roundUnits
  split
  next whole =>
    obtain ⟨s, hs⟩ := Int.eq_ofNat_of_zero_le (sub_nonneg.2 whole)
    rw [hs]
    exact_mod_cast rounded_self _ _
  next below =>
    obtain ⟨s, hs⟩ := Int.eq_ofNat_of_zero_le (show 0 ≤ q - e by omega)
    have pos : (0 : ℚ) < 2 ^ s := by positivity
    have parts : (n : ℚ) * 2 ^ (e - q) = (n / 2 ^ s : Nat) + ((n % 2 ^ s : Nat) : ℚ) / 2 ^ s := by
      rw [show e - q = -(s : Int) by omega, zpow_neg, zpow_natCast, ← div_eq_mul_inv, eq_comm]
      have := congrArg (Nat.cast (R := ℚ)) (Nat.div_add_mod n (2 ^ s))
      push_cast at this ⊢
      field_simp
      linarith
    have low : (0 : ℚ) ≤ ((n % 2 ^ s : Nat) : ℚ) / 2 ^ s := by positivity
    have high : ((n % 2 ^ s : Nat) : ℚ) / 2 ^ s < 1 := by
      rw [div_lt_one pos]
      exact_mod_cast Nat.mod_lt n (Nat.two_pow_pos s)
    have above : 1 / 2 < ((n % 2 ^ s : Nat) : ℚ) / 2 ^ s ↔ 2 ^ s < 2 * (n % 2 ^ s) := by
      rw [div_lt_div_iff₀ two_pos pos, one_mul, mul_comm]
      exact_mod_cast Iff.rfl
    have tie : ((n % 2 ^ s : Nat) : ℚ) / 2 ^ s = 1 / 2 ↔ 2 * (n % 2 ^ s) = 2 ^ s := by
      rw [div_eq_div_iff pos.ne' two_ne_zero, one_mul, mul_comm]
      exact_mod_cast Iff.rfl
    have zero : ((n % 2 ^ s : Nat) : ℚ) / 2 ^ s = 0 ↔ n % 2 ^ s = 0 := by
      rw [div_eq_zero_iff, or_iff_left pos.ne', Nat.cast_eq_zero]
    rw [parts, hs]
    refine rounded_ite ?_ low high
    cases m with
    | rne => simp only [way, goesUp, above, tie, Bool.or_eq_true, Bool.and_eq_true, decide_eq_true_eq, Int.toNat_natCast]
    | rz => simp [way, goesUp]
    | rdn => cases neg <;> simp [way, goesUp, zero]
    | rup => cases neg <;> simp [way, goesUp, zero]

/-! ## The formats (R53) -/

/-- What the roundings need to know of a format. -/
structure Regular (f : Fmt) : Prop where
  mant : 1 ≤ f.mant
  width : 2 ≤ f.width ∧ f.width ≤ 32
  normal : 2 ^ f.mant ≤ f.maxCode
  /-- The largest number is not the first of its binade. -/
  inner : 1 ≤ f.maxCode % 2 ^ f.mant
  max : f.maxCode < 2 ^ (f.width - 1)
  nan : f.nanCode < 2 ^ (f.width - 1)
  inf : f.infCode < 2 ^ (f.width - 1)

theorem regular_of_mem {f : Fmt} (h : f ∈ formats) : Regular f := by
  have all : ∀ f ∈ formats, 1 ≤ f.mant ∧ (2 ≤ f.width ∧ f.width ≤ 32) ∧ 2 ^ f.mant ≤ f.maxCode ∧ 1 ≤ f.maxCode % 2 ^ f.mant ∧
      f.maxCode < 2 ^ (f.width - 1) ∧ f.nanCode < 2 ^ (f.width - 1) ∧ f.infCode < 2 ^ (f.width - 1) := by decide
  obtain ⟨mant, width, normal, inner, max, nan, inf⟩ := all f h
  exact ⟨mant, width, normal, inner, max, nan, inf⟩

/-! ## The numbers of a format, in the order of their codes -/

/-- The exponent of the smallest number of a format. -/
def unitExponent (f : Fmt) : Int := 1 - (f.bias : Int) - (f.mant : Int)

/-- The binade of a code without its sign: 0 for the subnormal and for the lowest normal numbers. -/
def binade (f : Fmt) (c : Nat) : Nat := c / 2 ^ f.mant - 1

/-- The significand of a code without its sign, the hidden bit included. -/
def significand (f : Fmt) (c : Nat) : Nat := c - binade f c * 2 ^ f.mant

/-- The magnitude of a code without its sign; codes past the largest go on as its exponent would. -/
def magnitude (f : Fmt) (c : Nat) : ℚ := significand f c * 2 ^ (unitExponent f + binade f c)

theorem binade_mul_le (f : Fmt) (c : Nat) : binade f c * 2 ^ f.mant ≤ c :=
  (Nat.mul_le_mul_right _ (Nat.sub_le _ _)).trans (Nat.div_mul_le_self _ _)

theorem code_eq (f : Fmt) (c : Nat) : c = binade f c * 2 ^ f.mant + significand f c :=
  (Nat.add_sub_cancel' (binade_mul_le f c)).symm

/-- A code of the first binade is its own significand. -/
theorem significand_low {f : Fmt} {c : Nat} (h : c / 2 ^ f.mant = 0) : binade f c = 0 ∧ significand f c = c % 2 ^ f.mant := by
  have zero : binade f c = 0 := by rw [binade, h]
  refine ⟨zero, ?_⟩
  have := Nat.div_add_mod c (2 ^ f.mant)
  rw [h] at this
  rw [significand, zero]
  omega

theorem significand_high {f : Fmt} {c : Nat} (h : c / 2 ^ f.mant ≠ 0) :
    c / 2 ^ f.mant = binade f c + 1 ∧ significand f c = 2 ^ f.mant + c % 2 ^ f.mant := by
  have succ : c / 2 ^ f.mant = binade f c + 1 := (Nat.sub_add_cancel (Nat.one_le_iff_ne_zero.2 h)).symm
  refine ⟨succ, ?_⟩
  have := Nat.div_add_mod c (2 ^ f.mant)
  rw [succ, Nat.mul_comm, Nat.add_mul, Nat.one_mul] at this
  rw [significand]
  omega

/-- The significand and the binade of a code: only the first binade has numbers without the hidden bit. -/
theorem significand_range (f : Fmt) (c : Nat) :
    significand f c < 2 ^ (f.mant + 1) ∧ (binade f c = 0 ∨ 2 ^ f.mant ≤ significand f c) := by
  have := Nat.mod_lt c (Nat.two_pow_pos f.mant)
  rw [Nat.pow_succ]
  by_cases h : c / 2 ^ f.mant = 0
  · obtain ⟨zero, low⟩ := significand_low h
    exact ⟨by omega, .inl zero⟩
  · obtain ⟨-, high⟩ := significand_high h
    exact ⟨by omega, .inr (by omega)⟩

/-- The code of a significand in a binade; the significand of the next binade's first number fits too. -/
theorem magnitude_add {f : Fmt} {b k : Nat} (high : k ≤ 2 ^ (f.mant + 1)) (low : b = 0 ∨ 2 ^ f.mant ≤ k) :
    magnitude f (b * 2 ^ f.mant + k) = k * 2 ^ (unitExponent f + b) := by
  have pos := Nat.two_pow_pos f.mant
  have place : (b * 2 ^ f.mant + k) / 2 ^ f.mant = b + k / 2 ^ f.mant := by
    rw [Nat.add_comm, Nat.add_mul_div_right _ _ pos, Nat.add_comm]
  have top : 2 ^ (f.mant + 1) / 2 ^ f.mant = 2 := by rw [Nat.pow_succ, Nat.mul_div_cancel_left _ pos]
  obtain below | rfl := high.lt_or_eq
  · have small : k / 2 ^ f.mant < 2 := (Nat.div_lt_iff_lt_mul pos).2 (by rwa [Nat.mul_comm, ← Nat.pow_succ])
    have same : binade f (b * 2 ^ f.mant + k) = b := by
      rw [binade, place]
      obtain rfl | normal := low
      · omega
      · have := Nat.div_pos normal pos
        omega
    rw [magnitude, significand, same, Nat.add_sub_cancel_left]
  · have next : binade f (b * 2 ^ f.mant + 2 ^ (f.mant + 1)) = b + 1 := by rw [binade, place, top]; omega
    have one : b * 2 ^ f.mant + 2 ^ (f.mant + 1) - (b + 1) * 2 ^ f.mant = 2 ^ f.mant := by
      rw [Nat.pow_succ, Nat.add_mul, Nat.one_mul]
      omega
    rw [magnitude, significand, next, one]
    push_cast
    rw [← add_assoc, zpow_add_one₀ two_ne_zero, pow_succ]
    ring

theorem magnitude_succ (f : Fmt) (c : Nat) : magnitude f (c + 1) = magnitude f c + 2 ^ (unitExponent f + binade f c) := by
  obtain ⟨high, low⟩ := significand_range f c
  have next : c + 1 = binade f c * 2 ^ f.mant + (significand f c + 1) := by
    have := code_eq f c
    omega
  rw [next, magnitude_add (by omega) (by omega), magnitude]
  push_cast
  ring

theorem magnitude_strictMono (f : Fmt) : StrictMono (magnitude f) :=
  strictMono_nat_of_lt_succ fun c => by
    rw [magnitude_succ]
    exact lt_add_of_pos_right _ (by positivity)

@[simp] theorem magnitude_zero (f : Fmt) : magnitude f 0 = 0 := by
  simp [magnitude, significand]

theorem magnitude_nonneg (f : Fmt) (c : Nat) : 0 ≤ magnitude f c := by
  unfold magnitude
  positivity

/-- No number of the format lies between neighbours of a binade. -/
theorem magnitude_gap {f : Fmt} {b j : Nat} (high : j < 2 ^ (f.mant + 1)) (low : b = 0 ∨ 2 ^ f.mant ≤ j) (d : Nat) :
    magnitude f d ≤ j * 2 ^ (unitExponent f + b) ∨ ((j + 1 : Nat) : ℚ) * 2 ^ (unitExponent f + b) ≤ magnitude f d := by
  rw [← magnitude_add high.le low, ← magnitude_add (Nat.succ_le_of_lt high) (low.imp_right (Nat.le_succ_of_le ·)),
    (magnitude_strictMono f).le_iff_le, (magnitude_strictMono f).le_iff_le]
  omega

/-! ## Values of codes -/

/-- A magnitude below the codes of infinity and NaN, as R53 writes it. -/
theorem number_eq (f : Fmt) (neg : Bool) (c : Nat) :
    (if c / 2 ^ f.mant = 0 then Val.fin neg (c % 2 ^ f.mant) (1 - (f.bias : Int) - (f.mant : Int))
      else .fin neg (2 ^ f.mant + c % 2 ^ f.mant) (1 - (f.bias : Int) - (f.mant : Int) + ((c / 2 ^ f.mant : Nat) : Int) - 1)) =
    .fin neg (significand f c) (unitExponent f + binade f c) := by
  by_cases h : c / 2 ^ f.mant = 0
  · obtain ⟨zero, low⟩ := significand_low h
    rw [if_pos h, low, zero, Nat.cast_zero, add_zero, unitExponent]
  · obtain ⟨succ, high⟩ := significand_high h
    rw [if_neg h, high, succ, Nat.cast_add, Nat.cast_one, ← add_assoc, add_sub_cancel_right, unitExponent]

/-- A code of a number is its sign, its significand and its exponent. -/
theorem value_number {f : Fmt} (r : Regular f) {c : Nat} (h : c % 2 ^ (f.width - 1) ≤ f.maxCode) :
    f.value c = .fin (decide (c / 2 ^ (f.width - 1) % 2 = 1)) (significand f (c % 2 ^ (f.width - 1)))
      (unitExponent f + binade f (c % 2 ^ (f.width - 1))) := by
  have some := (Nat.two_pow_pos f.mant).trans_le r.normal
  rw [← number_eq, Fmt.value]
  unfold Fmt.maxCode at h some
  cases top : f.top with
  | ieee =>
    rw [top] at h some
    dsimp only at h some ⊢
    rw [if_neg (by omega), if_neg (by omega)]
  | nanOnly =>
    rw [top] at h some
    dsimp only at h some ⊢
    rw [if_neg (by omega)]
  | none => rfl

/-- A code past the largest number stands for no number. -/
theorem value_past {f : Fmt} {c : Nat} (h : f.maxCode < c % 2 ^ (f.width - 1)) : valQ (f.value c) = none := by
  have below := Nat.mod_lt c (Nat.two_pow_pos (f.width - 1))
  unfold Fmt.maxCode at h
  rw [Fmt.value]
  cases top : f.top with
  | ieee =>
    rw [top] at h
    dsimp only at h ⊢
    by_cases inf : c % 2 ^ (f.width - 1) = f.infCode
    · rw [if_pos inf]; rfl
    · rw [if_neg inf, if_pos (by omega)]; rfl
  | nanOnly =>
    rw [top] at h
    dsimp only at h ⊢
    rw [if_pos (by omega)]; rfl
  | none =>
    rw [top] at h
    dsimp only at h
    omega

/-! ## The code of a rounded number (R60) -/

/-- The binade in which a number is rounded. -/
def roundBinade (f : Fmt) (n : Nat) (e : Int) : Nat := (max ((n.log2 : Int) + e) (1 - (f.bias : Int)) - (1 - (f.bias : Int))).toNat

/-- The code of the rounded magnitude, past the largest number too. -/
def roundCode (f : Fmt) (m : Mode) (neg : Bool) (n : Nat) (e : Int) : Nat :=
  roundBinade f n e * 2 ^ f.mant + roundUnits m neg n e (unitExponent f + roundBinade f n e)

theorem unit_add_roundBinade (f : Fmt) (n : Nat) (e : Int) :
    unitExponent f + roundBinade f n e = max ((n.log2 : Int) + e) (1 - (f.bias : Int)) - f.mant := by
  rw [unitExponent, roundBinade, Int.toNat_of_nonneg] <;> omega

theorem rnd_zero (f : Fmt) (m : Mode) (sat neg : Bool) (e : Int) : f.rnd m sat (.fin neg 0 e) = f.sign neg := rfl

/-- RND of a number that is not zero. -/
theorem rnd_fin {f : Fmt} {n : Nat} (hn : n ≠ 0) (m : Mode) (sat neg : Bool) (e : Int) :
    f.rnd m sat (.fin neg n e) =
      if f.maxCode < roundCode f m neg n e then f.overflow (overflowsBig m neg) sat neg else f.sign neg + roundCode f m neg n e := by
  rw [roundCode, unit_add_roundBinade]
  exact if_neg hn

/-- The magnitude of a number in units of the last place of its binade. -/
def inUnits (f : Fmt) (n : Nat) (e : Int) : ℚ := n * 2 ^ (e - (unitExponent f + roundBinade f n e))

theorem inUnits_mul (f : Fmt) (n : Nat) (e : Int) : inUnits f n e * 2 ^ (unitExponent f + roundBinade f n e) = n * 2 ^ e := by
  rw [inUnits, mul_assoc, ← zpow_add₀ two_ne_zero, sub_add_cancel]

/-- A number lies between the power of two of its binary logarithm and the next. -/
theorem log2_bounds {n : Nat} (hn : n ≠ 0) (e : Int) :
    (2 : ℚ) ^ ((n.log2 : Int) + e) ≤ n * 2 ^ e ∧ (n : ℚ) * 2 ^ e < 2 ^ ((n.log2 : Int) + e + 1) := by
  have pos : (0 : ℚ) < 2 ^ e := by positivity
  rw [show (n.log2 : Int) + e + 1 = (n.log2 + 1 : Nat) + e by push_cast; ring, zpow_add₀ two_ne_zero, zpow_add₀ two_ne_zero,
    zpow_natCast, zpow_natCast, mul_le_mul_iff_left₀ pos, mul_lt_mul_iff_left₀ pos]
  exact ⟨by exact_mod_cast Nat.log2_self_le hn, by exact_mod_cast Nat.lt_log2_self⟩

/-- The powers of two around a number name its binary logarithm. -/
theorem log2_add_eq {n : Nat} {e k : Int} (hn : n ≠ 0) (lower : (2 : ℚ) ^ k ≤ n * 2 ^ e) (upper : (n : ℚ) * 2 ^ e < 2 ^ (k + 1)) :
    (n.log2 : Int) + e = k := by
  obtain ⟨low, high⟩ := log2_bounds hn e
  have := (zpow_lt_zpow_iff_right₀ one_lt_two).1 (lower.trans_lt high)
  have := (zpow_lt_zpow_iff_right₀ one_lt_two).1 (low.trans_lt upper)
  omega

/-- A number of units that has its place in a binade: only the first binade has numbers below a full significand. -/
structure InBinade (f : Fmt) (b : Nat) (t : ℚ) : Prop where
  nonneg : 0 ≤ t
  high : t < 2 ^ (f.mant + 1)
  low : b = 0 ∨ 2 ^ f.mant ≤ t

/-- In its own binade a number fits the significand. -/
theorem inBinade_inUnits {f : Fmt} {n : Nat} (hn : n ≠ 0) (e : Int) : InBinade f (roundBinade f n e) (inUnits f n e) := by
  have pos : (0 : ℚ) < 2 ^ (unitExponent f + roundBinade f n e) := by positivity
  obtain ⟨lower, upper⟩ := log2_bounds hn e
  have place := unit_add_roundBinade f n e
  constructor
  case nonneg => unfold inUnits; positivity
  case high =>
    rw [← mul_lt_mul_iff_left₀ pos, inUnits_mul, ← zpow_natCast, ← zpow_add₀ two_ne_zero]
    exact upper.trans_le (zpow_le_zpow_right₀ one_le_two (by push_cast; omega))
  case low =>
    refine or_iff_not_imp_left.2 fun h => ?_
    rw [← mul_le_mul_iff_left₀ pos, inUnits_mul, ← zpow_natCast, ← zpow_add₀ two_ne_zero]
    exact (zpow_le_zpow_right₀ one_le_two (by rw [roundBinade] at h; omega)).trans lower

/-- A number rounded in its binade stays there, or is the first of the next. -/
theorem InBinade.magnitude_eq {f : Fmt} {b k : Nat} {t : ℚ} {w : Way} (h : InBinade f b t) (rounded : Rounded w t k) :
    magnitude f (b * 2 ^ f.mant + k) = k * 2 ^ (unitExponent f + b) := by
  refine magnitude_add (Nat.lt_succ_iff.1 ?_) (h.low.imp_right fun low => Nat.lt_succ_iff.1 ?_)
  · exact_mod_cast rounded.lt_add_one.trans (add_lt_add_left h.high 1)
  · exact_mod_cast low.trans_lt rounded.lt_succ

/-- No number of the format lies between two neighbours of which one or the other is the number. -/
theorem InBinade.gap {f : Fmt} {b j : Nat} {t : ℚ} (h : InBinade f b t) (below : (j : ℚ) ≤ t) (above : t < j + 1) (d : Nat) :
    magnitude f d ≤ j * 2 ^ (unitExponent f + b) ∨ ((j : ℚ) + 1) * 2 ^ (unitExponent f + b) ≤ magnitude f d := by
  have gap := magnitude_gap (f := f) (b := b) (j := j) (by exact_mod_cast below.trans_lt h.high)
    (h.low.imp_right fun low => Nat.lt_succ_iff.1 (by exact_mod_cast low.trans_lt above)) d
  exact_mod_cast gap

/-- The code `c` is, of the codes of all magnitudes, the one that the way asks for. -/
def Picks (f : Fmt) (w : Way) (X : ℚ) (c : Nat) : Prop :=
  match w with
  | .nearest => ∀ d, |magnitude f c - X| ≤ |magnitude f d - X| ∧ (|magnitude f c - X| = |magnitude f d - X| → d ≠ c → c % 2 = 0)
  | .towards => magnitude f c ≤ X ∧ ∀ d, magnitude f d ≤ X → d ≤ c
  | .away => X ≤ magnitude f c ∧ ∀ d, X ≤ magnitude f d → c ≤ d

/-- A natural number to which `t` is rounded is the neighbour that the way asks for among the numbers that do not lie
between the neighbours of `t`. -/
theorem Rounded.nearest {t g : ℚ} {k j : Nat} (h : Rounded .nearest t k) (low : (j : ℚ) ≤ t) (high : t < j + 1)
    (gap : g ≤ j ∨ (j : ℚ) + 1 ≤ g) : |(k : ℚ) - t| ≤ |g - t| ∧ (|(k : ℚ) - t| = |g - t| → g ≠ k → k % 2 = 0) := by
  obtain ⟨close, even⟩ := h
  obtain ⟨above, below⟩ := abs_le.1 close
  have place : k = j ∨ k = j + 1 := by
    have : j < k + 1 := by exact_mod_cast (show (j : ℚ) < k + 1 by linarith)
    have : k < j + 2 := by exact_mod_cast (show (k : ℚ) < j + 2 by linarith)
    omega
  obtain down | up := gap
  · rw [abs_of_nonpos (show g - t ≤ 0 by linarith)]
    obtain rfl | rfl := place
    · rw [abs_of_nonpos (by linarith)]
      exact ⟨by linarith, fun tie ne => absurd (by linarith) ne⟩
    · push_cast at *
      refine ⟨by rw [abs_of_nonneg] <;> linarith, fun tie _ => even ?_⟩
      rw [abs_of_nonneg (by linarith)] at tie ⊢
      linarith
  · rw [abs_of_nonneg (show 0 ≤ g - t by linarith)]
    obtain rfl | rfl := place
    · refine ⟨by rw [abs_of_nonpos] <;> linarith, fun tie _ => even ?_⟩
      rw [abs_of_nonpos (by linarith)] at tie ⊢
      linarith
    · push_cast at *
      rw [abs_of_nonneg (by linarith)]
      exact ⟨by linarith, fun tie ne => absurd (by linarith) ne⟩

section
variable {f : Fmt} {b k : Nat} {t : ℚ}

theorem picks_nearest (mant : 1 ≤ f.mant) (h : InBinade f b t) (rounded : Rounded .nearest t k) :
    Picks f .nearest (t * 2 ^ (unitExponent f + b)) (b * 2 ^ f.mant + k) := by
  intro d
  have pos : (0 : ℚ) < 2 ^ (unitExponent f + b) := by positivity
  have floor := Nat.floor_le h.nonneg
  have above := Nat.lt_floor_add_one t
  obtain ⟨near, even⟩ := rounded.nearest (g := magnitude f d / 2 ^ (unitExponent f + b)) floor above
    ((h.gap floor above d).imp (div_le_iff₀ pos).2 (le_div_iff₀ pos).2)
  have dist (g : ℚ) : |g * 2 ^ (unitExponent f + b) - t * 2 ^ (unitExponent f + b)| = |g - t| * 2 ^ (unitExponent f + b) := by
    rw [← sub_mul, abs_mul, abs_of_pos pos]
  have scaled : magnitude f d = magnitude f d / 2 ^ (unitExponent f + b) * 2 ^ (unitExponent f + b) := (div_mul_cancel₀ _ pos.ne').symm
  have parity : (b * 2 ^ f.mant + k) % 2 = k % 2 := by
    obtain ⟨p, hp⟩ := dvd_pow_self 2 (Nat.one_le_iff_ne_zero.1 mant)
    rw [hp, Nat.mul_left_comm, Nat.mul_add_mod]
  rw [h.magnitude_eq rounded, scaled, dist, dist, mul_le_mul_iff_left₀ pos, mul_left_inj' pos.ne', parity]
  refine ⟨near, fun tie ne => even tie fun same => ne ((magnitude_strictMono f).injective ?_)⟩
  rw [h.magnitude_eq rounded, scaled, same]

theorem picks_towards (h : InBinade f b t) (rounded : Rounded .towards t k) :
    Picks f .towards (t * 2 ^ (unitExponent f + b)) (b * 2 ^ f.mant + k) := by
  have pos : (0 : ℚ) < 2 ^ (unitExponent f + b) := by positivity
  obtain ⟨below, above⟩ := rounded
  rw [Picks, h.magnitude_eq (w := .towards) ⟨below, above⟩, mul_le_mul_iff_left₀ pos]
  refine ⟨below, fun d hd => ?_⟩
  obtain down | up := h.gap below above d
  · rwa [← h.magnitude_eq (w := .towards) ⟨below, above⟩, (magnitude_strictMono f).le_iff_le] at down
  · exact absurd (le_of_mul_le_mul_right (up.trans hd) pos) above.not_ge

theorem picks_away (h : InBinade f b t) (rounded : Rounded .away t k) :
    Picks f .away (t * 2 ^ (unitExponent f + b)) (b * 2 ^ f.mant + k) := by
  have pos : (0 : ℚ) < 2 ^ (unitExponent f + b) := by positivity
  have mag := h.magnitude_eq rounded
  obtain ⟨above, below⟩ := rounded
  rw [Picks, mag, mul_le_mul_iff_left₀ pos]
  refine ⟨above, fun d hd => ?_⟩
  rw [← (magnitude_strictMono f).le_iff_le, mag]
  obtain rfl | more := above.eq_or_lt
  · exact hd
  obtain ⟨j, rfl⟩ := Nat.exists_eq_succ_of_ne_zero (fun zero : k = 0 => by
    rw [zero, Nat.cast_zero] at more
    exact h.nonneg.not_gt more)
  push_cast at below more ⊢
  obtain down | up := h.gap (j := j) (by linarith) more d
  · have := le_of_mul_le_mul_right (hd.trans down) pos
    linarith
  · exact up

end

/-- The rounded code is the neighbour that the mode asks for. -/
theorem picks_roundCode {f : Fmt} {n : Nat} (mant : 1 ≤ f.mant) (hn : n ≠ 0) (m : Mode) (neg : Bool) (e : Int) :
    Picks f (way m neg) (n * 2 ^ e) (roundCode f m neg n e) := by
  have place := inBinade_inUnits (f := f) hn e
  have rounded : Rounded (way m neg) (inUnits f n e) _ := rounded_roundUnits m neg n e (unitExponent f + roundBinade f n e)
  rw [← inUnits_mul f, roundCode]
  cases h : way m neg with
  | nearest => exact picks_nearest mant place (h ▸ rounded)
  | towards => exact picks_towards place (h ▸ rounded)
  | away => exact picks_away place (h ▸ rounded)

/-! ## RND as the choice of a number (R60) -/

/-- The number that a magnitude and a sign stand for. -/
def signed (neg : Bool) (X : ℚ) : ℚ := if neg then -X else X

theorem valQ_fin (neg : Bool) (n : Nat) (e : Int) : valQ (.fin neg n e) = some (signed neg (n * 2 ^ e)) := by
  cases neg <;> simp [valQ, signed]

/-- A value that is a number is finite. -/
theorem fin_of_valQ {v : Val} {x : ℚ} (h : valQ v = some x) : ∃ neg n e, v = .fin neg n e := by
  cases v with
  | fin neg n e => exact ⟨neg, n, e, rfl⟩
  | nan => cases h
  | inf => cases h

theorem abs_signed (neg : Bool) {X : ℚ} (h : 0 ≤ X) : |signed neg X| = X := by
  cases neg <;> simp [signed, abs_of_nonneg h]

/-- The sign and the magnitude of a code. -/
theorem sign_add {f : Fmt} (r : Regular f) (neg : Bool) {c : Nat} (h : c < 2 ^ (f.width - 1)) :
    f.sign neg + c < 2 ^ f.width ∧ (f.sign neg + c) % 2 ^ (f.width - 1) = c ∧
      decide ((f.sign neg + c) / 2 ^ (f.width - 1) % 2 = 1) = neg := by
  have double : 2 ^ f.width = 2 ^ (f.width - 1) * 2 := by
    rw [← Nat.pow_succ, Nat.succ_eq_add_one, Nat.sub_add_cancel (by have := r.width.1; omega)]
  have pos := Nat.two_pow_pos (f.width - 1)
  cases neg with
  | false =>
    exact ⟨by rw [Fmt.sign, if_neg Bool.false_ne_true]; omega, by simp [Fmt.sign, Nat.mod_eq_of_lt h],
      by simp [Fmt.sign, Nat.div_eq_of_lt h]⟩
  | true =>
    exact ⟨by rw [Fmt.sign, if_pos rfl]; omega, by simp [Fmt.sign, Nat.mod_eq_of_lt h],
      by simp [Fmt.sign, Nat.add_div_left _ pos, Nat.div_eq_of_lt h]⟩

/-- The value of a number's code. -/
theorem value_sign_add {f : Fmt} (r : Regular f) (neg : Bool) {c : Nat} (h : c ≤ f.maxCode) :
    f.value (f.sign neg + c) = .fin neg (significand f c) (unitExponent f + binade f c) := by
  obtain ⟨-, low, sign⟩ := sign_add r neg (h.trans_lt r.max)
  rw [value_number r (by rwa [low]), low, sign]

theorem valQ_sign_add {f : Fmt} (r : Regular f) (neg : Bool) {c : Nat} (h : c ≤ f.maxCode) :
    valQ (f.value (f.sign neg + c)) = some (signed neg (magnitude f c)) := by
  rw [value_sign_add r neg h, valQ_fin, magnitude]

theorem valQ_value {f : Fmt} (r : Regular f) {c : Nat} (h : c ≤ f.maxCode) : valQ (f.value c) = some (magnitude f c) := by
  simpa [Fmt.sign, signed] using valQ_sign_add r false h

/-- A number of the format has the magnitude of a code up to the largest. -/
theorem represents_magnitude {f : Fmt} (r : Regular f) {p : ℚ} (h : Represents f p) : ∃ d, d ≤ f.maxCode ∧ |p| = magnitude f d := by
  obtain ⟨c, -, hc⟩ := h
  by_cases past : f.maxCode < c % 2 ^ (f.width - 1)
  · rw [value_past past] at hc
    cases hc
  · rw [value_number r (not_lt.1 past), valQ_fin, Option.some_inj] at hc
    exact ⟨_, not_lt.1 past, by rw [← hc, abs_signed _ (by positivity), magnitude]⟩

/-- A choice among the magnitudes does not pass a bound that is one of them and that the number does not pass. -/
theorem Picks.le {f : Fmt} {w : Way} {X : ℚ} {c d : Nat} (h : Picks f w X c) (bound : X ≤ magnitude f d) : c ≤ d := by
  cases w with
  | nearest =>
    by_contra past
    have more := magnitude_strictMono f (not_le.1 past)
    have near := (h d).1
    rw [abs_of_nonneg (by linarith), abs_of_nonneg (by linarith)] at near
    linarith
  | towards => exact (magnitude_strictMono f).le_iff_le.1 (h.1.trans bound)
  | away => exact h.2 d bound

/-- A choice does not fall below a magnitude that the number reaches. -/
theorem Picks.ge {f : Fmt} {w : Way} {X : ℚ} {c d : Nat} (h : Picks f w X c) (bound : magnitude f d ≤ X) : d ≤ c := by
  cases w with
  | nearest =>
    by_contra past
    have less := magnitude_strictMono f (not_le.1 past)
    have near := (h d).1
    rw [abs_of_nonpos (by linarith), abs_of_nonpos (by linarith)] at near
    linarith
  | towards => exact h.2 d bound
  | away => exact (magnitude_strictMono f).le_iff_le.1 (bound.trans h.1)

/-- A magnitude of the format is its own choice. -/
theorem Picks.eq {f : Fmt} {w : Way} {X : ℚ} {c d : Nat} (h : Picks f w X c) (same : X = magnitude f d) : c = d :=
  le_antisymm (h.le same.le) (h.ge same.ge)

theorem picks_self (f : Fmt) (w : Way) (d : Nat) : Picks f w (magnitude f d) d := by
  cases w with
  | nearest =>
    intro c
    rw [sub_self, abs_zero]
    refine ⟨abs_nonneg _, fun tie ne => absurd ?_ ne⟩
    exact (magnitude_strictMono f).injective (sub_eq_zero.1 (abs_eq_zero.1 tie.symm))
  | towards => exact ⟨le_rfl, fun c => (magnitude_strictMono f).le_iff_le.1⟩
  | away => exact ⟨le_rfl, fun c => (magnitude_strictMono f).le_iff_le.1⟩

/-- RND of a number that does not pass the largest is the code that the mode picks, under the number's sign. -/
theorem rnd_within {f : Fmt} (r : Regular f) (m : Mode) (sat neg : Bool) {n : Nat} {e : Int} (h : (n : ℚ) * 2 ^ e ≤ magnitude f f.maxCode) :
    ∃ c, c ≤ f.maxCode ∧ Picks f (way m neg) (n * 2 ^ e) c ∧ f.rnd m sat (.fin neg n e) = f.sign neg + c := by
  by_cases hn : n = 0
  · subst hn
    exact ⟨0, Nat.zero_le _, by simpa using picks_self f (way m neg) 0, rfl⟩
  · have picks := picks_roundCode r.mant hn m neg e
    have within := picks.le h
    exact ⟨_, within, picks, by rw [rnd_fin hn, if_neg (not_lt.2 within)]⟩

/-- RND of a magnitude of the format is its code. -/
theorem rnd_exact {f : Fmt} (r : Regular f) (m : Mode) (sat neg : Bool) {n d : Nat} {e : Int} (h : (n : ℚ) * 2 ^ e = magnitude f d)
    (hd : d ≤ f.maxCode) : f.rnd m sat (.fin neg n e) = f.sign neg + d := by
  obtain ⟨c, -, picks, code⟩ := rnd_within r m sat neg (h.trans_le ((magnitude_strictMono f).monotone hd))
  rw [code, picks.eq h]

/-! ## The mode's neighbour among the signed numbers (R59) -/

/-- What R59 asks of the rounded number `r` of `x`, where `even` says that its last mantissa bit is even. -/
def Neighbour (f : Fmt) (m : Mode) (x r : ℚ) (even : Prop) : Prop :=
  match m with
  | .rne => ∀ p, Represents f p → |r - x| ≤ |p - x| ∧ (|r - x| = |p - x| → p ≠ r → even)
  | .rz => |r| ≤ |x| ∧ ∀ p, Represents f p → |p| ≤ |x| → |p| ≤ |r|
  | .rdn => r ≤ x ∧ ∀ p, Represents f p → p ≤ x → p ≤ r
  | .rup => x ≤ r ∧ ∀ p, Represents f p → x ≤ p → r ≤ p

theorem abs_signed_sub (neg : Bool) (a b : ℚ) : |signed neg a - signed neg b| = |a - b| := by
  cases neg with
  | false => rfl
  | true => rw [signed, signed, if_pos rfl, if_pos rfl, neg_sub_neg, abs_sub_comm]

theorem signed_signed (neg : Bool) (a : ℚ) : signed neg (signed neg a) = a := by cases neg <;> simp [signed]

section
variable {f : Fmt} {X p : ℚ} {c d : Nat}

theorem Picks.towards_le (h : Picks f .towards X c) (hp : |p| = magnitude f d) (le : |p| ≤ X) : |p| ≤ magnitude f c :=
  hp ▸ (magnitude_strictMono f).monotone (h.2 d (hp ▸ le))

theorem Picks.le_away (h : Picks f .away X c) (hp : |p| = magnitude f d) (le : X ≤ |p|) : magnitude f c ≤ |p| :=
  hp ▸ (magnitude_strictMono f).monotone (h.2 d (hp ▸ le))

/-- The nearest of the magnitudes is the nearest of the numbers: one of the other sign lies beyond zero. -/
theorem Picks.nearest_signed (h : Picks f .nearest X c) (nonneg : 0 ≤ X) (hp : |p| = magnitude f d) :
    |magnitude f c - X| ≤ |p - X| ∧ (|magnitude f c - X| = |p - X| → p ≠ magnitude f c → c % 2 = 0) := by
  obtain same | other := abs_eq_abs.1 (hp.trans (abs_of_nonneg (magnitude_nonneg f d)).symm)
  · rw [same]
    exact ⟨(h d).1, fun tie ne => (h d).2 tie fun eq => ne (by rw [eq])⟩
  · have := magnitude_nonneg f d
    obtain ⟨near, even⟩ := h 0
    rw [magnitude_zero, zero_sub, abs_neg, abs_of_nonneg nonneg] at near even
    rw [abs_of_nonpos (show p - X ≤ 0 by linarith)]
    refine ⟨by linarith, fun tie ne => even (by linarith) fun zero => ne ?_⟩
    rw [← zero, magnitude_zero] at tie ⊢
    rw [zero_sub, abs_neg, abs_of_nonneg nonneg] at tie
    linarith

end

/-- The code that a mode picks for a magnitude is, under its sign, the neighbour that R59 asks for. -/
theorem neighbour_of_picks {f : Fmt} {m : Mode} {neg : Bool} {X : ℚ} {c : Nat} (r : Regular f) (nonneg : 0 ≤ X)
    (h : Picks f (way m neg) X c) : Neighbour f m (signed neg X) (signed neg (magnitude f c)) (c % 2 = 0) := by
  have pos := magnitude_nonneg f c
  cases m with
  | rne =>
    intro p hp
    obtain ⟨d, -, hd⟩ := represents_magnitude r hp
    have hs : |signed neg p| = magnitude f d := by cases neg <;> simpa [signed] using hd
    obtain ⟨near, even⟩ := Picks.nearest_signed h nonneg hs
    have dist : |p - signed neg X| = |signed neg p - X| := by rw [← abs_signed_sub neg, signed_signed]
    rw [dist, abs_signed_sub]
    exact ⟨near, fun tie ne => even tie fun eq => ne (by rw [← eq, signed_signed])⟩
  | rz =>
    rw [Neighbour, abs_signed neg nonneg, abs_signed neg pos]
    refine ⟨h.1, fun p hp le => ?_⟩
    obtain ⟨d, -, hd⟩ := represents_magnitude r hp
    exact Picks.towards_le h hd le
  | rdn =>
    cases neg with
    | false =>
      refine ⟨h.1, fun p hp le => ?_⟩
      obtain ⟨d, -, hd⟩ := represents_magnitude r hp
      obtain below | above := le_total p 0
      · exact below.trans pos
      · exact (le_abs_self p).trans (Picks.towards_le h hd (by rwa [abs_of_nonneg above]))
    | true =>
      refine ⟨neg_le_neg h.1, fun p hp le => ?_⟩
      obtain ⟨d, -, hd⟩ := represents_magnitude r hp
      have below : p ≤ 0 := le.trans (neg_nonpos.2 nonneg)
      have := Picks.le_away h hd (by rw [abs_of_nonpos below]; exact le_neg.1 le)
      rw [abs_of_nonpos below] at this
      exact le_neg.1 this
  | rup =>
    cases neg with
    | false =>
      refine ⟨h.1, fun p hp le => ?_⟩
      obtain ⟨d, -, hd⟩ := represents_magnitude r hp
      have above : 0 ≤ p := nonneg.trans le
      have := Picks.le_away h hd (by rwa [abs_of_nonneg above])
      rwa [abs_of_nonneg above] at this
    | true =>
      refine ⟨neg_le_neg h.1, fun p hp le => ?_⟩
      obtain ⟨d, -, hd⟩ := represents_magnitude r hp
      obtain below | above := le_total p 0
      · have := Picks.towards_le h hd (by rw [abs_of_nonpos below]; exact neg_le.1 le)
        rw [abs_of_nonpos below] at this
        exact neg_le.1 this
      · exact (neg_nonpos.2 pos).trans above

/-! ## The statement -/

/-- Settles O7: the code is the neighbour of the magnitude that the mode asks for, and so it is of the number under its sign. -/
theorem roundingPicksTheNeighbourOfItsMode : Obligations.RoundingPicksTheNeighbourOfItsMode := by
  intro f hf m sat neg n e q x hq hx within
  have r := regular_of_mem hf
  have nonneg : (0 : ℚ) ≤ n * 2 ^ e := by positivity
  obtain rfl := Option.some_inj.1 ((valQ_value r le_rfl).symm.trans hq)
  obtain rfl := Option.some_inj.1 ((valQ_fin neg n e).symm.trans hx)
  rw [abs_signed neg nonneg] at within
  obtain ⟨c, hc, picks, code⟩ := rnd_within r m sat neg within
  have even : (f.sign neg + c) % 2 = c % 2 := by
    obtain ⟨w, hw⟩ := dvd_pow_self 2 (show f.width - 1 ≠ 0 by have := r.width.1; omega)
    cases neg <;> simp [Fmt.sign, hw]
  have neighbour := neighbour_of_picks r nonneg picks
  rw [code, even]
  refine ⟨_, (sign_add r neg (hc.trans_lt r.max)).1, valQ_sign_add r neg hc, ?_⟩
  cases m <;> exact neighbour

end Sys2Proof.Laws.Rounding
end

section
/-! # RND of special operands (R60) -/

namespace Sys2Proof.Laws.Rounding
open Sys2Proof.Machine Sys2Proof.Claims

/-! ## Numbers past the largest -/

theorem overflow_eq (f : Fmt) (big sat neg : Bool) :
    f.overflow big sat neg = if big = false ∨ sat = true then f.sign neg + f.maxCode else f.overflow true false neg := by
  cases big <;> cases sat <;> rfl

/-- The largest number lies as far from the one before it as from where the next would lie. -/
theorem magnitude_past_max {f : Fmt} (r : Regular f) :
    magnitude f (f.maxCode + 1) - magnitude f f.maxCode = magnitude f f.maxCode - magnitude f (f.maxCode - 1) := by
  have inner := r.inner
  obtain ⟨c, hc⟩ := Nat.exists_eq_add_of_le' (show 1 ≤ f.maxCode from (Nat.two_pow_pos _).trans_le r.normal)
  have same : binade f (c + 1) = binade f c := by
    have place : (c + 1) / 2 ^ f.mant = c / 2 ^ f.mant := by
      rw [Nat.succ_div, if_neg, add_zero]
      rw [Nat.dvd_iff_mod_eq_zero, ← hc]
      omega
    rw [binade, binade, place]
  rw [hc, Nat.add_sub_cancel, magnitude_succ, magnitude_succ, same]
  ring

/-- Whether a magnitude past the largest number is nevertheless rounded to it. -/
def StaysAtMax (f : Fmt) (w : Way) (X : ℚ) : Prop :=
  match w with
  | .nearest => X - magnitude f f.maxCode < (magnitude f f.maxCode - magnitude f (f.maxCode - 1)) / 2 ∨
      (X - magnitude f f.maxCode = (magnitude f f.maxCode - magnitude f (f.maxCode - 1)) / 2 ∧ f.maxCode % 2 = 0)
  | .towards => True
  | .away => False

theorem Picks.eq_max_iff {f : Fmt} {X : ℚ} {c : Nat} (r : Regular f) (past : magnitude f f.maxCode < X) (h : Picks f .nearest X c) :
    c = f.maxCode ↔ StaysAtMax f .nearest X := by
  have gap := magnitude_past_max r
  have next := magnitude_strictMono f (Nat.lt_succ_self f.maxCode)
  have atMax : |magnitude f f.maxCode - X| = X - magnitude f f.maxCode := by rw [abs_of_neg] <;> linarith
  constructor
  · rintro rfl
    obtain ⟨near, even⟩ := h (f.maxCode + 1)
    rw [atMax] at near even
    obtain short | long := le_total X (magnitude f (f.maxCode + 1))
    · rw [abs_of_nonneg (by linarith)] at near even
      obtain less | tie := near.lt_or_eq
      · exact .inl (by linarith)
      · exact .inr ⟨by linarith, even tie (Nat.succ_ne_self _)⟩
    · rw [abs_of_nonpos (by linarith)] at near
      linarith
  · intro stays
    obtain same | more := (h.ge past.le).eq_or_lt
    · exact same.symm
    · have far := (magnitude_strictMono f).monotone (Nat.succ_le_of_lt more)
      rw [Nat.succ_eq_add_one] at far
      obtain ⟨near, even⟩ := h f.maxCode
      rw [atMax] at near even
      obtain less | ⟨tie, evenMax⟩ := stays
      · rw [abs_of_nonneg (by linarith)] at near
        linarith
      · rw [abs_of_nonneg (by linarith)] at near even
        have : c = f.maxCode + 1 := (magnitude_strictMono f).injective (by linarith)
        have := even (by linarith) more.ne
        omega

theorem overflowsBig_eq_false (m : Mode) (neg : Bool) : overflowsBig m neg = false ↔ way m neg = .towards := by
  cases m <;> cases neg <;> simp [overflowsBig, way]

/-- A magnitude past the largest is rounded to it, or in a mode that does not overflow, exactly where it stays. -/
theorem Picks.stays_iff {f : Fmt} {X : ℚ} {c : Nat} {m : Mode} {neg : Bool} (r : Regular f) (past : magnitude f f.maxCode < X)
    (h : Picks f (way m neg) X c) : c = f.maxCode ∨ overflowsBig m neg = false ↔ StaysAtMax f (way m neg) X := by
  rw [overflowsBig_eq_false]
  cases hw : way m neg with
  | nearest =>
    rw [hw] at h
    simpa using h.eq_max_iff r past
  | towards => exact ⟨fun _ => trivial, fun _ => .inr rfl⟩
  | away =>
    rw [hw] at h
    refine ⟨fun stays => ?_, False.elim⟩
    obtain rfl | none := stays
    · exact h.1.not_gt past
    · cases none

/-- RND of a number past the largest: the largest, or what an overflow gives. -/
theorem rnd_past {f : Fmt} (r : Regular f) (m : Mode) (sat neg : Bool) {n : Nat} {e : Int} (past : magnitude f f.maxCode < n * 2 ^ e)
    {p : Prop} [Decidable p] (h : p ↔ StaysAtMax f (way m neg) (n * 2 ^ e) ∨ sat = true) :
    f.rnd m sat (.fin neg n e) = if p then f.sign neg + f.maxCode else f.overflow true false neg := by
  have hn : n ≠ 0 := by
    rintro rfl
    rw [Nat.cast_zero, zero_mul] at past
    exact (magnitude_nonneg f _).not_gt past
  have picks : Picks f (way m neg) (n * 2 ^ e) _ := picks_roundCode r.mant hn m neg e
  have reach := picks.ge past.le
  rw [← picks.stays_iff r past] at h
  rw [rnd_fin hn, overflow_eq f (overflowsBig m neg)]
  obtain same | more := reach.eq_or_lt
  · rw [if_neg same.not_lt, if_pos (h.2 (.inl (.inl same.symm))), ← same]
  · rw [if_pos more]
    exact if_congr (by rw [h, or_iff_right more.ne']) rfl rfl

/-! ## The special operands of RND (R60) -/

theorem staysAtMax_way (f : Fmt) (m : Mode) (neg : Bool) (X : ℚ) :
    StaysAtMax f (way m neg) X ↔
      m = .rz ∨ (m = .rup ∧ neg = true) ∨ (m = .rdn ∧ neg = false) ∨ (m = .rne ∧ StaysAtMax f .nearest X) := by
  cases m <;> cases neg <;> simp [way, StaysAtMax]

/-- A magnitude of twice the largest number is too far from it. -/
theorem not_staysAtMax_of_double {f : Fmt} {X : ℚ} (far : 2 * magnitude f f.maxCode ≤ X) (pos : 0 < magnitude f f.maxCode) :
    ¬StaysAtMax f .nearest X := by
  have := magnitude_nonneg f (f.maxCode - 1)
  rintro (less | ⟨tie, -⟩) <;> linarith

theorem magnitude_max_pos {f : Fmt} (r : Regular f) : 0 < magnitude f f.maxCode :=
  (magnitude_zero f).symm.trans_lt (magnitude_strictMono f ((Nat.two_pow_pos _).trans_le r.normal))

/-- Twice the largest number is too far from it to stay at it. -/
theorem rnd_double {f : Fmt} (r : Regular f) (m : Mode) (sat neg : Bool) {n : Nat} {e : Int} (far : 2 * magnitude f f.maxCode ≤ n * 2 ^ e) :
    f.rnd m sat (.fin neg n e) = f.overflow (overflowsBig m neg) sat neg := by
  have pos := magnitude_max_pos r
  rw [overflow_eq f (overflowsBig m neg)]
  refine rnd_past r m sat neg (by linarith) (or_congr_left ?_)
  rw [overflowsBig_eq_false]
  cases way m neg with
  | nearest => simpa using not_staysAtMax_of_double far pos
  | towards => simp [StaysAtMax]
  | away => simp [StaysAtMax]

theorem roundingSpecials : RoundingSpecials := by
  intro f hf m sat neg
  have r := regular_of_mem hf
  refine ⟨rfl, fun _ => rfl, ?inf, ?double, ?past⟩
  case inf => cases sat <;> rfl
  case double =>
    intro n e q hq far
    obtain rfl := Option.some_inj.1 ((valQ_value r le_rfl).symm.trans hq)
    rw [rnd_double r m sat neg far]
    cases m <;> cases neg <;> cases sat <;> rfl
  case past =>
    intro n e q p x hq hp hx past
    obtain rfl := Option.some_inj.1 ((valQ_value r le_rfl).symm.trans hq)
    obtain rfl := Option.some_inj.1 ((valQ_value r (Nat.sub_le _ _)).symm.trans hp)
    obtain rfl := Option.some_inj.1 ((valQ_fin false n e).symm.trans hx)
    exact rnd_past r m sat neg past (by simp only [staysAtMax_way, or_assoc]; rfl)

end Sys2Proof.Laws.Rounding
end

section
/-! # FP32 values, and special operands of the functions of one operand (R55, R102) -/

namespace Sys2Proof.Laws.Fp32
open Sys2Proof.Machine Sys2Proof.Claims Sys2Proof.Laws.Rounding

/-! ## Values that fit the significand -/

/-- A number whose significand fits, and that is no smaller than the last place and no larger than the largest, is a
magnitude of the format. -/
theorem exists_magnitude {f : Fmt} {n : Nat} {e : Int} (fits : n < 2 ^ (f.mant + 1)) (last : unitExponent f ≤ e)
    (within : (n : ℚ) * 2 ^ e < magnitude f (f.maxCode + 1)) : ∃ d, d ≤ f.maxCode ∧ (n : ℚ) * 2 ^ e = magnitude f d := by
  suffices found : ∃ d, (n : ℚ) * 2 ^ e = magnitude f d by
    obtain ⟨d, hd⟩ := found
    rw [hd, (magnitude_strictMono f).lt_iff_lt] at within
    exact ⟨d, Nat.lt_succ_iff.1 within, hd⟩
  by_cases hn : n = 0
  · exact ⟨0, by simp [hn]⟩
  have place := unit_add_roundBinade f n e
  have lowest : unitExponent f = 1 - (f.bias : Int) - (f.mant : Int) := rfl
  have log : n.log2 < f.mant + 1 := (Nat.log2_lt hn).2 fits
  obtain ⟨s, hs⟩ := Int.eq_ofNat_of_zero_le (show 0 ≤ e - (unitExponent f + roundBinade f n e) by omega)
  have whole : inUnits f n e = (n * 2 ^ s : Nat) := by
    rw [inUnits, hs]
    push_cast
    rfl
  have code := (inBinade_inUnits (f := f) hn e).magnitude_eq (w := .towards) (whole ▸ rounded_self _ _)
  exact ⟨_, by rw [code, ← whole, inUnits_mul]⟩

theorem regular_fp32 : Regular fp32 := regular_of_mem (by simp [formats])

theorem magnitude_fp32_past : magnitude fp32 (fp32.maxCode + 1) = 2 ^ (128 : Int) := by
  rw [show fp32.maxCode + 1 = 254 * 2 ^ fp32.mant + 2 ^ fp32.mant by decide, magnitude_add (by decide) (.inr le_rfl)]
  norm_num [unitExponent, fp32]

/-- The code of RND is a code of the format. -/
theorem rnd_lt {f : Fmt} (r : Regular f) (m : Mode) (sat : Bool) (v : Val) : f.rnd m sat v < 2 ^ f.width := by
  have half : 2 ^ (f.width - 1) < 2 ^ f.width := Nat.pow_lt_pow_right one_lt_two (by have := r.width.1; omega)
  have number (neg : Bool) {c : Nat} (h : c ≤ f.maxCode) := (sign_add r neg (h.trans_lt r.max)).1
  have past (big neg : Bool) : f.overflow big sat neg < 2 ^ f.width := by
    rw [overflow_eq]
    split
    · exact number neg le_rfl
    · unfold Fmt.overflow
      cases f.top with
      | ieee => exact (sign_add r neg r.inf).1
      | nanOnly => exact r.nan.trans half
      | none => exact number neg le_rfl
  cases v with
  | nan => exact r.nan.trans half
  | inf neg => exact past true neg
  | fin neg n e =>
    by_cases hn : n = 0
    · rw [hn, rnd_zero]
      exact number neg (Nat.zero_le _)
    · rw [rnd_fin hn]
      split
      · exact past _ neg
      next within => exact number neg (not_lt.1 within)

theorem toNat_rneFp32 (v : Val) : (rneFp32 v).toNat = fp32.rnd .rne false v :=
  Nat.mod_eq_of_lt (rnd_lt regular_fp32 _ _ _)

theorem lt_two_zpow {n s : Nat} {e z : Int} (fits : n < 2 ^ s) (h : s + e ≤ z) : (n : ℚ) * 2 ^ e < 2 ^ z := by
  have cast : (n : ℚ) < 2 ^ s := by exact_mod_cast fits
  refine (mul_lt_mul_of_pos_right cast (zpow_pos two_pos e)).trans_le ?_
  rw [← zpow_natCast, ← zpow_add₀ two_ne_zero]
  exact zpow_le_zpow_right₀ one_le_two h

/-- An FP32 register that was rounded from a value that it can hold, holds it. -/
theorem fp_rneFp32 (neg : Bool) {n : Nat} {e : Int} (fits : n < 2 ^ 24) (last : -149 ≤ e) (within : (n : ℚ) * 2 ^ e < 2 ^ (128 : Int)) :
    ∃ k g, fp (rneFp32 (.fin neg n e)) = .fin neg k g ∧ -149 ≤ g ∧ (k : ℚ) * 2 ^ g = n * 2 ^ e := by
  obtain ⟨d, hd, same⟩ := exists_magnitude (f := fp32) fits last (magnitude_fp32_past ▸ within)
  refine ⟨significand fp32 d, unitExponent fp32 + binade fp32 d, ?_, ?_, ?_⟩
  · rw [fp, toNat_rneFp32, rnd_exact regular_fp32 _ _ _ same hd, value_sign_add regular_fp32 neg hd]
  · simp [unitExponent, fp32]
  · rw [same, magnitude]

/-! ## The values of codes -/

theorem sign_bit (a : Word) : decide (a.toNat / 2 ^ 31 % 2 = 1) = a.getLsbD 31 := (Nat.testBit_eq_decide_div_mod_eq).symm

theorem fp_number {a : Word} (h : a.toNat % 2 ^ 31 < 0x7F800000) :
    fp a = .fin (a.getLsbD 31) (significand fp32 (a.toNat % 2 ^ 31)) (unitExponent fp32 + binade fp32 (a.toNat % 2 ^ 31)) := by
  rw [fp, value_number regular_fp32 (c := a.toNat) (Nat.le_pred_of_lt h), ← sign_bit]
  rfl

theorem fp_infinity {a : Word} (h : a.toNat % 2 ^ 31 = 0x7F800000) : fp a = .inf (a.getLsbD 31) := by
  rw [← sign_bit]
  exact if_pos h

theorem fp_nan {a : Word} (h : nanCode a = true) : fp a = .nan := by
  have past : 0x7F800000 < a.toNat % 2 ^ 31 := of_decide_eq_true h
  exact (if_neg past.ne').trans (if_pos past)

/-- A code of magnitude zero, and no other, is a zero. -/
theorem significand_eq_zero {f : Fmt} {c : Nat} : significand f c = 0 ↔ c = 0 := by
  have zero := (magnitude_strictMono f).injective.eq_iff (a := c) (b := 0)
  rw [magnitude_zero] at zero
  rw [← zero, magnitude, mul_eq_zero, or_iff_left (by positivity), Nat.cast_eq_zero]

theorem fp_zero {a : Word} (h : zeroCode a = true) : ∃ e, fp a = .fin (a.getLsbD 31) 0 e := by
  have zero : a.toNat % 2 ^ 31 = 0 := by simpa [zeroCode] using h
  exact ⟨_, by rw [fp_number (by omega), significand_eq_zero.2 zero]⟩

/-- A code of a negative number: minus infinity, or a number that is not zero. -/
theorem fp_negative {a : Word} (number : nanCode a = false) (zero : zeroCode a = false) (neg : a.getLsbD 31 = true) :
    fp a = .inf true ∨ ∃ n e, n ≠ 0 ∧ fp a = .fin true n e := by
  have le : a.toNat % 2 ^ 31 ≤ 0x7F800000 := not_lt.1 (of_decide_eq_false number)
  obtain less | same := le.lt_or_eq
  · have some : a.toNat % 2 ^ 31 ≠ 0 := by simpa [zeroCode] using zero
    exact .inr ⟨_, _, mt significand_eq_zero.1 some, neg ▸ fp_number less⟩
  · exact .inl (neg ▸ fp_infinity same)

/-! ## The functions of one operand (R102) -/

theorem rneFp32_nan : rneFp32 .nan = 0x7FC00000 := rfl

theorem functions_of_nan {a : Word} (h : fp a = .nan) : fRcp a = 0x7FC00000 ∧ fRsq a = 0x7FC00000 ∧ fSqrt a = 0x7FC00000 ∧
    exp2Code a = 0x7FC00000 ∧ log2Code a = 0x7FC00000 ∧ sinpiCode a = 0x7FC00000 ∧ cospiCode a = 0x7FC00000 := by
  rw [fp] at h
  refine ⟨?_, ?_, ?_, ?_, ?_, ?_, ?_⟩
  · rw [fRcp, fval, h]; rfl
  · rw [fRsq, fval, h]; rfl
  · rw [fSqrt, fval, h]; rfl
  · rw [exp2Code, h]; rfl
  · rw [log2Code, h]; rfl
  · rw [sinpiCode, h]; rfl
  · rw [cospiCode, h]; rfl

theorem roots_of_negative {a : Word} (h : fp a = .inf true ∨ ∃ n e, n ≠ 0 ∧ fp a = .fin true n e) :
    fRsq a = 0x7FC00000 ∧ fSqrt a = 0x7FC00000 ∧ log2Code a = 0x7FC00000 := by
  rw [fRsq, fSqrt, log2Code, fval]
  obtain inf | ⟨n, e, hn, fin⟩ := h
  · rw [fp] at inf
    rw [inf]
    exact ⟨rfl, rfl, rfl⟩
  · rw [fp] at fin
    simp [fin, Val.rsqrt, Val.sqrt, hn, rneFp32_nan]

/-- The same number in units of the fixed-point arithmetic. -/
theorem fixed_eq {k n : Nat} {g e : Int} (hg : -320 ≤ g) (he : -320 ≤ e) (same : (k : ℚ) * 2 ^ g = n * 2 ^ e) :
    k * 2 ^ (g + fixBits).toNat = n * 2 ^ (e + fixBits).toNat := by
  have up (z : Int) (h : -320 ≤ z) : (2 : ℚ) ^ (z + fixBits).toNat = 2 ^ z * 2 ^ fixBits := by
    rw [← zpow_natCast, Int.toNat_of_nonneg (by rw [fixBits]; push_cast; omega), zpow_add₀ two_ne_zero, zpow_natCast]
  have : (k : ℚ) * 2 ^ (g + fixBits).toNat = n * 2 ^ (e + fixBits).toNat := by rw [up g hg, up e he, ← mul_assoc, same, mul_assoc]
  exact_mod_cast this

/-- The sine of a whole number of half turns is zero. -/
theorem sinTurn_whole {k : Nat} (h : 2 ^ fixBits ∣ k) : ∃ s, sinTurn k = (s, 0, true) := by
  refine ⟨decide (2 ^ fixBits ≤ k), ?_⟩
  simp only [sinTurn, Nat.mod_eq_zero_of_dvd h, Nat.not_lt_zero, if_false, if_true]

theorem turn_whole {neg : Bool} {n : Nat} {e : Int} {add : Nat}
    (h : ((2 ^ fixBits : Nat) : Int) ∣
      (if neg then -((n * 2 ^ (e + fixBits).toNat : Nat) : Int) else ((n * 2 ^ (e + fixBits).toNat : Nat) : Int)) + add) :
    2 ^ fixBits ∣ turn neg n e add := by
  have two : 2 ^ fixBits ∣ 2 ^ (fixBits + 1) := pow_dvd_pow 2 (Nat.le_succ fixBits)
  have pos : 2 ^ (fixBits + 1) ≠ 0 := (Nat.two_pow_pos _).ne'
  unfold turn
  generalize 2 ^ (fixBits + 1) = m at two pos ⊢
  rw [← Int.natCast_dvd_natCast, Int.toNat_of_nonneg (Int.emod_nonneg _ (Int.natCast_ne_zero.2 pos))]
  exact (EuclideanDomain.dvd_mod_iff (Int.natCast_dvd_natCast.2 two)).2 h

theorem turn_congr {k n : Nat} {g e : Int} (hg : -320 ≤ g) (he : -320 ≤ e) (same : (k : ℚ) * 2 ^ g = n * 2 ^ e) (neg : Bool) (add : Nat) :
    turn neg k g add = turn neg n e add := by
  rw [turn, turn, fixed_eq hg he same]

/-- The sine of π times an integer is a zero of its sign. -/
theorem sinpiCode_integer (neg : Bool) {n : Nat} (some : 0 < n) (fits : n < 2 ^ 24) :
    sinpiCode (rneFp32 (.fin neg n 0)) = rneFp32 (.fin neg 0 0) := by
  obtain ⟨k, g, value, low, same⟩ := fp_rneFp32 neg fits (by omega) (lt_two_zpow (e := 0) fits (by norm_num))
  have nonzero : k ≠ 0 := by
    rintro rfl
    rw [Nat.cast_zero, zero_mul, zpow_zero, mul_one, eq_comm, Nat.cast_eq_zero] at same
    exact some.ne' same
  have whole : 2 ^ fixBits ∣ turn neg n 0 0 := turn_whole (by
    rw [zero_add, Int.toNat_natCast, Nat.cast_zero, add_zero, Nat.cast_mul]
    split
    · exact (dvd_mul_left _ _).neg_right
    · exact dvd_mul_left _ _)
  obtain ⟨s, zero⟩ := sinTurn_whole whole
  rw [fp] at value
  rw [sinpiCode, value]
  dsimp only
  rw [if_neg nonzero, turn_congr (by omega) (by omega) same, zero]
  rfl

/-- The cosine of π times half an odd integer is +0. -/
theorem cospiCode_half (neg : Bool) {n : Nat} (fits : n < 2 ^ 22) : cospiCode (rneFp32 (.fin neg (2 * n + 1) (-1))) = 0 := by
  have fits : 2 * n + 1 < 2 ^ 24 := by omega
  obtain ⟨k, g, value, low, same⟩ := fp_rneFp32 neg fits (by omega) (lt_two_zpow (e := -1) fits (by norm_num))
  have whole : 2 ^ fixBits ∣ turn neg (2 * n + 1) (-1) (2 ^ (fixBits - 1)) := turn_whole (by
    have double : ((2 ^ fixBits : Nat) : Int) = 2 * (2 ^ (fixBits - 1) : Nat) := by
      rw [fixBits, ← Nat.cast_ofNat (R := Int), ← Nat.cast_mul, ← Nat.pow_succ']
    have down : ((-1 : Int) + (fixBits : Nat)).toNat = fixBits - 1 := by rw [fixBits]; omega
    rw [down, double]
    generalize 2 ^ (fixBits - 1) = h
    push_cast
    split
    · exact ⟨-n, by ring⟩
    · exact ⟨n + 1, by ring⟩)
  obtain ⟨s, zero⟩ := sinTurn_whole whole
  rw [fp] at value
  rw [cospiCode, value]
  dsimp only
  rw [turn_congr (by omega) (by omega) same, zero]
  rfl

/-- Two to an integer power is exact. -/
theorem exp2Code_integer {k : Int} (low : -149 ≤ k) (high : k ≤ 127) : exp2Code (rneFp32 (Val.ofInt k)) = rneFp32 (.fin false 1 k) := by
  have small : (k.natAbs : ℚ) * 2 ^ (0 : Int) < 2 ^ (8 : Int) := lt_two_zpow (s := 8) (by omega) (by norm_num)
  obtain ⟨n, g, value, last, same⟩ := fp_rneFp32 (decide (k < 0)) (n := k.natAbs) (e := 0) (by omega) (by omega)
    (small.trans (by norm_num))
  have notBig : (decide (n ≠ 0) && decide ((n.log2 : Int) + g ≥ 8)) = false := by
    by_contra big
    simp only [Bool.not_eq_false, Bool.and_eq_true, decide_eq_true_eq] at big
    have reach := (zpow_le_zpow_right₀ one_le_two big.2).trans (log2_bounds big.1 g).1
    rw [same] at reach
    exact small.not_ge reach
  have whole : (if decide (k < 0) = true then -((n * 2 ^ (g + fixBits).toNat : Nat) : Int) else ((n * 2 ^ (g + fixBits).toNat : Nat) : Int)) =
      k * 2 ^ fixBits := by
    rw [fixed_eq (by omega) (by omega) same, zero_add, Int.toNat_natCast]
    push_cast
    split
    next neg => rw [abs_of_neg (of_decide_eq_true neg)]; ring
    next pos => rw [abs_of_nonneg (by simpa using pos)]
  have one : ((2 : Int) ^ fixBits) ≠ 0 := by positivity
  rw [fp] at value
  rw [exp2Code, Val.ofInt, value]
  dsimp only
  rw [notBig, if_neg Bool.false_ne_true, whole, Int.mul_emod_left, Int.mul_ediv_cancel _ one]
  rfl

/-- The binary logarithm of a power of two is exact. -/
theorem log2Code_power {k : Int} (low : -149 ≤ k) (high : k ≤ 127) : log2Code (rneFp32 (.fin false 1 k)) = rneFp32 (Val.ofInt k) := by
  obtain ⟨n, g, value, last, same⟩ := fp_rneFp32 false (n := 1) (e := k) (by omega) low
    (by simpa using zpow_lt_zpow_right₀ one_lt_two (by omega : k < 128))
  rw [Nat.cast_one, one_mul] at same
  have some : n ≠ 0 := by
    rintro rfl
    rw [Nat.cast_zero, zero_mul] at same
    exact (zpow_pos two_pos k).ne same
  obtain ⟨lower, upper⟩ := log2_bounds some g
  rw [same, zpow_lt_zpow_iff_right₀ one_lt_two] at upper
  rw [same, zpow_le_zpow_iff_right₀ one_lt_two] at lower
  have exponent : (n.log2 : Int) + g = k := by omega
  have power : n = 2 ^ n.log2 := by
    have : (n : ℚ) = 2 ^ n.log2 := by
      rw [← zpow_natCast, show (n.log2 : Int) = k - g by omega, zpow_sub₀ two_ne_zero, ← same, mul_div_cancel_right₀ _ (by positivity)]
    exact_mod_cast this
  rw [fp] at value
  rw [log2Code, value]
  dsimp only
  rw [if_neg some, if_neg Bool.false_ne_true, if_pos power, exponent]
  rfl

/-- Infinities, zeros and one, whose results the table of R102 names. -/
theorem functions_of_constants :
    (fRcp 0xFF800000 = 0x80000000 ∧ exp2Code 0xFF800000 = 0 ∧ sinpiCode 0xFF800000 = 0x7FC00000 ∧ cospiCode 0xFF800000 = 0x7FC00000) ∧
    (fRcp 0x80000000 = 0xFF800000 ∧ fRsq 0x80000000 = 0xFF800000 ∧ fSqrt 0x80000000 = 0x80000000 ∧ exp2Code 0x80000000 = 0x3F800000 ∧
      log2Code 0x80000000 = 0xFF800000 ∧ sinpiCode 0x80000000 = 0x80000000 ∧ cospiCode 0x80000000 = 0x3F800000) ∧
    (fRcp 0 = 0x7F800000 ∧ fRsq 0 = 0x7F800000 ∧ fSqrt 0 = 0 ∧ exp2Code 0 = 0x3F800000 ∧ log2Code 0 = 0xFF800000 ∧ sinpiCode 0 = 0 ∧
      cospiCode 0 = 0x3F800000) ∧
    (fRcp 0x7F800000 = 0 ∧ fRsq 0x7F800000 = 0 ∧ fSqrt 0x7F800000 = 0x7F800000 ∧ exp2Code 0x7F800000 = 0x7F800000 ∧
      log2Code 0x7F800000 = 0x7F800000 ∧ sinpiCode 0x7F800000 = 0x7FC00000 ∧ cospiCode 0x7F800000 = 0x7FC00000) ∧
    log2Code 0x3F800000 = 0 := by decide +kernel

theorem floatFunctionSpecials : FloatFunctionSpecials := by
  obtain ⟨infNeg, zeroNeg, zero, inf, one⟩ := functions_of_constants
  refine ⟨fun a h => functions_of_nan (fp_nan h), fun a h hz neg => roots_of_negative (fp_negative h hz neg), infNeg, zeroNeg, zero, inf, one,
    fun n some fits => ⟨sinpiCode_integer false some fits, sinpiCode_integer true some fits⟩, fun neg n => cospiCode_half neg,
    fun k => exp2Code_integer, fun k => log2Code_power⟩

end Sys2Proof.Laws.Fp32
end

section
/-! # Special operands of sums, products and quotients (R61, R65, R98, R99) -/

namespace Sys2Proof.Laws.ExactArithmetic
open Sys2Proof.Machine Sys2Proof.Claims Sys2Proof.Laws.Rounding

/-! ## Kinds of terms -/

theorem isNan_iff {t : Val} : t.isNan = true ↔ t = .nan := by cases t <;> simp [Val.isNan]

theorem isInf_iff {t : Val} : t.isInf = true ↔ ∃ neg, t = .inf neg := by cases t <;> simp [Val.isInf]

theorem infNeg_iff {t : Val} : (t.isInf && t.isNeg) = true ↔ t = .inf true := by cases t <;> simp [Val.isInf, Val.isNeg]

theorem infPos_iff {t : Val} : (t.isInf && !t.isNeg) = true ↔ t = .inf false := by cases t <;> simp [Val.isInf, Val.isNeg]

section
variable {ts : List Val}

theorem any_isNan : ts.any Val.isNan = true ↔ .nan ∈ ts := by simp [List.any_eq_true, isNan_iff]

theorem any_infNeg : ts.any (fun v => v.isInf && v.isNeg) = true ↔ .inf true ∈ ts := by
  simp only [List.any_eq_true, infNeg_iff, exists_eq_right]

theorem any_infPos : ts.any (fun v => v.isInf && !v.isNeg) = true ↔ .inf false ∈ ts := by
  simp only [List.any_eq_true, infPos_iff, exists_eq_right]

theorem any_isInf : ts.any Val.isInf = true ↔ ∃ neg, .inf neg ∈ ts := by
  simp only [List.any_eq_true, isInf_iff]
  exact ⟨fun ⟨_, h, neg, e⟩ => ⟨neg, e ▸ h⟩, fun ⟨neg, h⟩ => ⟨_, h, neg, rfl⟩⟩

/-! ## Sums with a NaN or an infinity -/

theorem exactSum_nan (m : Mode) (h : .nan ∈ ts ∨ (.inf true ∈ ts ∧ .inf false ∈ ts)) : exactSum m ts = .nan := by
  unfold exactSum
  by_cases nan : Val.nan ∈ ts
  · rw [if_pos (any_isNan.2 nan)]
  · obtain ⟨neg, pos⟩ := h.resolve_left nan
    rw [if_neg (mt any_isNan.1 nan), if_pos (Bool.and_eq_true_iff.2 ⟨any_infNeg.2 neg, any_infPos.2 pos⟩)]

theorem exactSum_inf (m : Mode) {neg : Bool} (nan : .nan ∉ ts) (inf : .inf neg ∈ ts) (other : .inf (!neg) ∉ ts) :
    exactSum m ts = .inf neg := by
  unfold exactSum
  rw [if_neg (mt any_isNan.1 nan), if_neg, if_pos (any_isInf.2 ⟨neg, inf⟩)]
  · cases neg with
    | true => rw [any_infNeg.2 inf]
    | false => rw [Bool.eq_false_iff.2 (mt any_infNeg.1 other)]
  · rw [Bool.and_eq_true_iff, any_infNeg, any_infPos]
    cases neg with
    | true => exact fun both => other both.2
    | false => exact fun both => other both.1

/-! ## Sums of finite terms -/

/-- Every term is a number. -/
def AllFinite (ts : List Val) : Prop := ∀ t, t ∈ ts → ∃ neg n e, t = .fin neg n e

theorem exactSum_finite (m : Mode) (h : AllFinite ts) : exactSum m ts =
    match minExp ts with
    | none => if ts.all Val.isNeg then .fin true 0 0 else if ts.any Val.isNeg then .fin (m == .rdn) 0 0 else .fin false 0 0
    | some q => if sumUnits q ts = 0 then .fin (m == .rdn) 0 0 else .fin (decide (sumUnits q ts < 0)) (sumUnits q ts).natAbs q := by
  have no {t : Val} (ht : ∀ neg n e, t ≠ .fin neg n e) : t ∉ ts := fun mem => by
    obtain ⟨neg, n, e, rfl⟩ := h t mem
    exact ht _ _ _ rfl
  have both : ¬(ts.any (fun v => v.isInf && v.isNeg) && ts.any (fun v => v.isInf && !v.isNeg)) = true := by
    rw [Bool.and_eq_true_iff, any_infNeg]
    exact fun h => no (by simp) h.1
  have inf : ¬ts.any Val.isInf = true := by
    rw [any_isInf]
    rintro ⟨neg, h⟩
    exact no (by simp) h
  exact (if_neg (mt any_isNan.1 (no (by simp)))).trans ((if_neg both).trans (if_neg inf))

theorem AllFinite.cons {t : Val} {r : List Val} (h : AllFinite (t :: r)) : (∃ neg n e, t = .fin neg n e) ∧ AllFinite r :=
  List.forall_mem_cons.1 h

/-- No term that is not zero has an exponent below `q`. -/
def NoneBelow (q : Int) (ts : List Val) : Prop := ∀ neg n e, .fin neg n e ∈ ts → n ≠ 0 → q ≤ e

/-- Every term is a zero. -/
def AllZero (ts : List Val) : Prop := ∀ neg n e, .fin neg n e ∈ ts → n = 0

/-- The lowest exponent is none only where every term is a zero. -/
theorem minExp_eq_none (h : AllFinite ts) : minExp ts = none ↔ AllZero ts := by
  induction ts with
  | nil => exact iff_of_true rfl fun _ _ _ mem => by cases mem
  | cons t r ih =>
    obtain ⟨⟨neg, n, e, rfl⟩, fin⟩ := h.cons
    rw [minExp]
    by_cases hn : n = 0
    · rw [if_pos hn, ih fin]
      refine ⟨fun zero b k g mem => ?_, fun zero b k g mem => zero b k g (.tail _ mem)⟩
      obtain same | tail := List.mem_cons.1 mem
      · cases same
        exact hn
      · exact zero b k g tail
    · rw [if_neg hn]
      exact iff_of_false (by simp) fun zero => hn (zero neg n e (.head _))

theorem noneBelow_minExp {q : Int} (h : AllFinite ts) (low : minExp ts = some q) : NoneBelow q ts := by
  induction ts generalizing q with
  | nil => cases low
  | cons t r ih =>
    obtain ⟨⟨neg, n, e, rfl⟩, fin⟩ := h.cons
    rw [minExp] at low
    intro b k g mem hk
    by_cases hn : n = 0
    · rw [if_pos hn] at low
      obtain same | tail := List.mem_cons.1 mem
      · cases same
        exact absurd hn hk
      · exact ih fin low b k g tail hk
    · rw [if_neg hn, Option.some_inj] at low
      cases rest : minExp r with
      | none =>
        rw [rest] at low
        obtain same | tail := List.mem_cons.1 mem
        · cases same
          exact low.ge
        · exact absurd ((minExp_eq_none fin).1 rest b k g tail) hk
      | some f =>
        rw [rest] at low
        obtain same | tail := List.mem_cons.1 mem
        · cases same
          exact low.symm.le.trans (min_le_left _ _)
        · exact low.symm.le.trans ((min_le_right _ _).trans (ih fin rest b k g tail hk))

/-- The rational number of a finite term, and of none the number zero. -/
def termQ (t : Val) : ℚ := (valQ t).getD 0

theorem termQ_fin (neg : Bool) (n : Nat) (e : Int) : termQ (.fin neg n e) = signed neg (n * 2 ^ e) := by
  rw [termQ, valQ_fin]
  rfl

/-- The sum in units that no term undercuts. -/
theorem sumUnits_mul {q : Int} (fin : AllFinite ts) (low : NoneBelow q ts) : (sumUnits q ts : ℚ) * 2 ^ q = (ts.map termQ).sum := by
  induction ts with
  | nil => simp [sumUnits]
  | cons t r ih =>
    obtain ⟨⟨neg, n, e, rfl⟩, tail⟩ := fin.cons
    have rest := ih tail fun b k g mem => low b k g (.tail _ mem)
    rw [List.map_cons, List.sum_cons, ← rest, termQ_fin, sumUnits]
    by_cases hn : n = 0
    · cases neg <;> simp [hn, signed]
    · have scale : (2 : ℚ) ^ (e - q).toNat * 2 ^ q = 2 ^ e := by
        have := low neg n e (.head _) hn
        rw [← zpow_natCast, Int.toNat_of_nonneg (by omega), ← zpow_add₀ two_ne_zero, sub_add_cancel]
      rw [if_neg hn, ← scale]
      cases neg with
      | false => simp [signed]; ring
      | true => simp [signed]; ring

/-- The value of a sum of numbers is exact. -/
theorem valQ_exactSum (m : Mode) (fin : AllFinite ts) : valQ (exactSum m ts) = some (ts.map termQ).sum := by
  rw [exactSum_finite m fin]
  cases low : minExp ts with
  | none =>
    have zero := (minExp_eq_none fin).1 low
    have sum : (ts.map termQ).sum = 0 := by
      refine List.sum_eq_zero fun q image => ?_
      obtain ⟨t, mem, rfl⟩ := List.mem_map.1 image
      obtain ⟨neg, n, e, rfl⟩ := fin t mem
      rw [zero neg n e mem, termQ_fin]
      cases neg <;> simp [signed]
    rw [sum]
    dsimp only
    split_ifs <;> simp [valQ]
  | some q =>
    rw [← sumUnits_mul fin (noneBelow_minExp fin low)]
    dsimp only
    split
    next zero => simp [zero, valQ]
    next =>
      rw [valQ_fin, Nat.cast_natAbs, Int.cast_abs]
      obtain neg | pos := lt_or_ge (sumUnits q ts) 0
      · rw [decide_eq_true neg, signed, if_pos rfl, abs_of_neg (by exact_mod_cast neg), neg_mul, neg_neg]
      · rw [decide_eq_false pos.not_gt, signed, if_neg Bool.false_ne_true, abs_of_nonneg (by exact_mod_cast pos)]

/-- The sign of a sum of zeros (R61). -/
theorem exactSum_zeros (m : Mode) (zeros : ∀ t, t ∈ ts → ∃ neg e, t = .fin neg 0 e) :
    exactSum m ts = .fin (ts.all Val.isNeg || (ts.any Val.isNeg && m == .rdn)) 0 0 := by
  have fin : AllFinite ts := fun t mem => by
    obtain ⟨neg, e, h⟩ := zeros t mem
    exact ⟨neg, 0, e, h⟩
  have zero : AllZero ts := fun neg n e mem => by
    obtain ⟨_, _, h⟩ := zeros _ mem
    cases h
    rfl
  rw [exactSum_finite m fin, (minExp_eq_none fin).2 zero]
  dsimp only
  cases ts.all Val.isNeg <;> cases ts.any Val.isNeg <;> rfl

end

/-- A number and its opposite cancel. -/
theorem exactSum_cancel (m : Mode) (a : Bool) {n : Nat} (e : Int) (hn : n ≠ 0) :
    exactSum m [.fin a n e, .fin (!a) n e] = .fin (m == .rdn) 0 0 := by
  rw [exactSum_finite m (by simp [AllFinite])]
  cases a <;> simp [minExp, sumUnits, hn]

theorem allFinite_of_valQ {ts : List Val} (h : ∀ t, t ∈ ts → valQ t ≠ none) : AllFinite ts := fun t mem =>
  fin_of_valQ (Option.some_get (Option.isSome_iff_ne_none.2 (h t mem))).symm

theorem exactArithmeticSpecials : ExactArithmeticSpecials := by
  refine ⟨fun m ts => exactSum_nan m, fun m ts neg => exactSum_inf m, ?oneSign, ?bothSigns, fun m a n e hn => ⟨0, exactSum_cancel m a e hn⟩,
    ?value, fun _ _ _ => ⟨rfl, rfl⟩, fun _ _ _ _ _ _ => rfl, fun _ _ => rfl, fun _ _ _ _ => rfl, ?quotient, fun _ _ _ _ => ⟨0, rfl⟩⟩
  case oneSign =>
    intro m ts neg some zeros
    have signs : ∀ t ∈ ts, t.isNeg = neg := fun t mem => by
      obtain ⟨e, rfl⟩ := zeros t mem
      rfl
    obtain ⟨t, mem⟩ := List.exists_mem_of_ne_nil ts some
    refine ⟨0, ?_⟩
    rw [exactSum_zeros m fun t mem => ⟨neg, zeros t mem⟩]
    cases neg with
    | true => rw [List.all_eq_true.2 signs, Bool.true_or]
    | false =>
      have all : ts.all Val.isNeg = false := List.all_eq_false.2 ⟨t, mem, by simp [signs t mem]⟩
      have any : ts.any Val.isNeg = false := List.any_eq_false.2 fun t mem => by simp [signs t mem]
      rw [all, any, Bool.false_and, Bool.or_false]
  case bothSigns =>
    intro m ts d e zeros neg pos
    have all : ts.all Val.isNeg = false := List.all_eq_false.2 ⟨_, pos, Bool.false_ne_true⟩
    have any : ts.any Val.isNeg = true := List.any_eq_true.2 ⟨_, neg, rfl⟩
    exact ⟨0, by rw [exactSum_zeros m zeros, all, any, Bool.true_and, Bool.false_or]⟩
  case value =>
    intro ts m q fin sum
    rw [valQ_exactSum m (allFinite_of_valQ fin)] at sum
    exact (Option.some_inj.1 sum).symm
  case quotient =>
    intro a b n e f hn
    rw [Val.div, if_pos rfl, if_neg hn]

/-! ## The statement -/

/-- Settles O8: RND by the code its mode picks, the functions by their values, and the sums by the kinds of their terms. -/
theorem floatSpecialOperands : Obligations.FloatSpecialOperands :=
  ⟨roundingSpecials, Fp32.floatFunctionSpecials, exactArithmeticSpecials⟩

end Sys2Proof.Laws.ExactArithmetic
end

section
/-! # Conversions, packing, scales and dot products as lane operations (R106 to R114) -/

namespace Sys2Proof.Laws.ConversionEffects
open Sys2Proof.Machine Sys2Proof.Claims Sys2Proof.Laws.Retire

/-- The effect of a lane operation depends on the values in the active lanes alone. -/
theorem laneEffectAt_congr {i : Instr} {w : BitVec 1} {d : BitVec 6} {f g : Nat → Word} {s : State} {x : Site}
    (same : ∀ l, x.active.has l = true → f l = g l) (h : LaneEffectAt i w d f s x) : LaneEffectAt i w d g s x := by
  obtain ⟨t, y, step, billed, past, wrote, kept, latched⟩ := h
  refine ⟨t, y, step, billed, past, fun hw => ?_, kept, fun k ch member hk => ?_⟩
  · obtain ⟨new, old, zero, marks, marksKept⟩ := wrote hw
    exact ⟨fun hd l hl active => (new hd l hl active).trans (same l active), old, zero, marks, marksKept⟩
  · obtain ⟨own, others, chain⟩ := latched k ch member hk
    refine ⟨fun l hl => (own l hl).trans ?_, others, chain⟩
    by_cases active : x.active.has l = true
    · rw [if_pos active, if_pos active, same l active]
    · rw [if_neg active, if_neg active]

theorem activeLanes_eq (x : Site) : activeLanes x = x.active.lanes := rfl

/-- Where a lane acts, the lane of a uniform operand is the leader. -/
theorem leaderOrMember_eq {x : Site} {l : Nat} (active : x.active.has l = true) : x.leaderOrMember = leaderOf x := by
  have mem : l ∈ laneIds := List.mem_range.2 (BitVec.lt_of_getLsbD active)
  obtain ⟨k, hk⟩ := Option.isSome_iff_exists.1 (List.find?_isSome.2 ⟨l, mem, active⟩)
  rw [Site.leaderOrMember, leaderOf, activeLanes_eq, Mask.lanes, List.headD_eq_head?_getD, List.head?_filter, lowest, hk]
  rfl

theorem conversionAndDotProductResults : ConversionAndDotProductResults := by
  refine ⟨fun _ _ _ _ _ _ => laneEffect_of_laneOp (fun _ => rfl) fun _ _ => rfl,
    fun _ _ _ _ _ _ => laneEffect_of_laneOp (fun _ => rfl) fun _ _ => rfl,
    fun _ _ _ _ _ => laneEffect_of_laneOp (fun _ => rfl) fun _ _ => rfl, fun _ _ _ _ _ => laneEffect_of_laneOp (fun _ => rfl) fun _ _ => rfl,
    fun _ _ _ _ _ => laneEffect_of_laneOp (fun _ => rfl) fun _ _ => rfl, ?leaders,
    fun _ _ _ _ _ => laneEffect_of_laneOp (fun _ => rfl) fun _ _ => rfl,
    fun _ _ _ _ _ => laneEffect_of_laneOp (fun _ => rfl) fun _ _ => rfl, fun _ _ _ _ _ => laneEffect_of_laneOp (fun _ => rfl) fun _ _ => rfl,
    fun _ _ _ _ => laneEffect_of_laneOp (fun _ => rfl) fun _ _ => rfl⟩
  case leaders =>
    intro c w b a d s x issues quiet _
    refine laneEffectAt_congr (fun l active => ?_) (laneEffectAt_of_laneOp (op := rfl) issues (.inl quiet))
    rw [Site.uniformSrc, leaderOrMember_eq active]

end Sys2Proof.Laws.ConversionEffects
end

section
/-! # Conversions (R57, R62, R106, R107) -/

namespace Sys2Proof.Laws.Conversion
open Sys2Proof.Machine Sys2Proof.Claims Sys2Proof.Laws.Rounding Sys2Proof.Laws.Fp32

/-! ## Integer formats (R57) -/

/-- The integer formats of R57, and the unsigned one of 32 bits. -/
def intFormats : List IntFmt := [int32, uint32, int8, uint8, int4, uint4]

theorem intFormat_range {i : IntFmt} (h : i ∈ intFormats) : i.lo ≤ i.hi ∧ i.width ≤ 32 := by
  have all : ∀ i ∈ intFormats, i.lo ≤ i.hi ∧ i.width ≤ 32 := by decide
  exact all i h

theorem clamp_eq {i : IntFmt} (h : i.lo ≤ i.hi) (v : Int) : i.clamp v = max i.lo (min i.hi v) := by
  unfold IntFmt.clamp
  split_ifs <;> omega

theorem code_eq_emod (i : IntFmt) (v : Int) : (i.code v : Int) = v % 2 ^ i.width :=
  Int.toNat_of_nonneg (Int.emod_nonneg _ (by positivity))

theorem code_lt (i : IntFmt) (v : Int) : i.code v < 2 ^ i.width := by
  have := Int.emod_lt_of_pos v (show (0 : Int) < 2 ^ i.width by positivity)
  rw [← code_eq_emod] at this
  exact_mod_cast this

theorem natAbs_value_le (i : IntFmt) (c : Nat) : (i.value c).natAbs ≤ 2 ^ i.width := by
  have below := Nat.mod_lt c (Nat.two_pow_pos i.width)
  have cast : ((2 ^ i.width : Nat) : Int) = 2 ^ i.width := by push_cast; rfl
  unfold IntFmt.value
  dsimp only
  split <;> omega

theorem valQ_ofInt (v : Int) : valQ (.ofInt v) = some (v : ℚ) := by
  rw [Val.ofInt, valQ_fin, zpow_zero, mul_one, Nat.cast_natAbs, Int.cast_abs]
  obtain neg | pos := lt_or_ge v 0
  · rw [decide_eq_true neg, signed, if_pos rfl, abs_of_neg (by exact_mod_cast neg), neg_neg]
  · rw [decide_eq_false pos.not_gt, signed, if_neg Bool.false_ne_true, abs_of_nonneg (by exact_mod_cast pos)]

/-! ## RNDI (R62) -/

/-- The integer that a magnitude and a sign stand for. -/
def signedInt (neg : Bool) (k : Nat) : Int := if neg then -(k : Int) else k

theorem cast_signedInt (neg : Bool) (k : Nat) : (signedInt neg k : ℚ) = signed neg k := by cases neg <;> simp [signedInt, signed]

/-- A rounded magnitude is, under its sign, the integer that the mode asks for. -/
theorem roundsTo_of_rounded {m : Mode} {neg : Bool} {X : ℚ} {k : Nat} (nonneg : 0 ≤ X) (h : Rounded (way m neg) X k) :
    RoundsTo m (signed neg X) (signedInt neg k) := by
  have pos : (0 : ℚ) ≤ k := k.cast_nonneg
  cases m with
  | rne =>
    rw [RoundsTo, cast_signedInt, abs_signed_sub]
    refine ⟨h.1, fun tie => ?_⟩
    have := h.2 tie
    cases neg <;> simp only [signedInt] <;> omega
  | rz =>
    obtain ⟨below, above⟩ := h
    rw [RoundsTo, cast_signedInt, abs_signed neg pos, abs_signed neg nonneg]
    refine ⟨below, by linarith, ?_⟩
    cases neg <;> simpa [signed] using mul_nonneg pos nonneg
  | rdn =>
    rw [RoundsTo, cast_signedInt]
    cases neg with
    | false => exact h
    | true => exact ⟨neg_le_neg h.1, by have := h.2; simp only [signed, if_true]; linarith⟩
  | rup =>
    rw [RoundsTo, cast_signedInt]
    cases neg with
    | false => exact h
    | true => exact ⟨neg_le_neg h.1, by have := h.2; simp only [signed, if_true]; linarith⟩

theorem integerCode_rnd {i : IntFmt} (h : i.lo ≤ i.hi) (m : Mode) (v : Val) : IntegerCode i m v (i.code (i.rnd m v)) := by
  cases v with
  | nan => exact congrArg Int.toNat (Int.zero_emod _)
  | inf neg => exact code_eq_emod i _
  | fin neg n e =>
    have rounded := rounded_roundUnits m neg n e 0
    rw [sub_zero] at rounded
    exact ⟨_, _, valQ_fin neg n e, roundsTo_of_rounded (by positivity) rounded, by rw [← clamp_eq h, code_eq_emod]; rfl⟩

/-! ## The kinds of a conversion code (R106) -/

theorem cvtDest_int {k : BitVec 7} {i : IntFmt} (h : cvtDest k = .int i) : i ∈ intFormats := by
  unfold cvtDest at h
  split at h <;> cases h <;> decide

theorem cvtDest_flt {k : BitVec 7} {f : Fmt} (h : cvtDest k = .flt f) : f ∈ formats := by
  unfold cvtDest at h
  split at h <;> cases h <;> decide

theorem cvtSource_eq (k : BitVec 7) : cvtSource k =
    [CvtKind.flt fp32, .int int32, .int uint32, .flt fp16, .flt bf16, .flt e4m3, .flt e5m2, .scale].getD (k.toNat / 16) .scale := by
  revert k
  decide

theorem cvtDest_eq (k : BitVec 7) (h : k.toNat % 16 < 14) : some (cvtDest k) = [CvtKind.flt fp32, .int int32, .int uint32, .flt fp16, .flt bf16,
    .flt e4m3, .flt e5m2, .flt e3m2, .flt e2m3, .flt e2m1, .int int8, .int uint8, .int int4, .int uint4][k.toNat % 16]? := by
  revert k
  decide

/-! ## `cvt` (R107) -/

section
variable {k : BitVec 7} {m : Mode} {sat : Bool} {a : Word}

theorem toNat_rnd {f : Fmt} (hf : f ∈ formats) (v : Val) : (BitVec.ofNat 32 (f.rnd m sat v)).toNat = f.rnd m sat v := by
  have r := regular_of_mem hf
  exact Nat.mod_eq_of_lt ((rnd_lt r m sat v).trans_le (Nat.pow_le_pow_right two_pos r.width.2))

theorem toNat_code {i : IntFmt} (h : i ∈ intFormats) (v : Int) : (BitVec.ofNat 32 (i.code v)).toNat = i.code v :=
  Nat.mod_eq_of_lt ((code_lt i v).trans_le (Nat.pow_le_pow_right two_pos (intFormat_range h).2))

theorem convert_flt_same {f : Fmt} (dest : cvtDest k = .flt f) (source : cvtSource k = .flt f) (number : (cvtValue k a).isNan = false) :
    (convert k m sat a).toNat = a.toNat % 2 ^ f.width := by
  have width := (regular_of_mem (cvtDest_flt dest)).width.2
  have same : (cvtSame k && !(cvtValue k a).isNan) = true := by simp [cvtSame, source, dest, number]
  rw [convert, dest]
  dsimp only
  rw [if_pos same]
  exact Nat.mod_eq_of_lt ((Nat.mod_lt _ (Nat.two_pow_pos _)).trans_le (Nat.pow_le_pow_right two_pos width))

theorem convert_flt {f : Fmt} (dest : cvtDest k = .flt f) (other : cvtSource k ≠ .flt f ∨ (cvtValue k a).isNan = true) :
    (convert k m sat a).toNat = f.rnd m sat (cvtValue k a) := by
  have differs : (cvtSame k && !(cvtValue k a).isNan) = false := by
    obtain kind | nan := other
    · simp [cvtSame, dest, kind]
    · simp [nan]
  rw [convert, dest]
  dsimp only
  rw [differs, if_neg Bool.false_ne_true, toNat_rnd (cvtDest_flt dest)]

theorem convert_int {i : IntFmt} (dest : cvtDest k = .int i) (other : ∀ j, cvtSource k ≠ .int j) :
    (convert k m sat a).toNat = i.code (i.rnd m (cvtValue k a)) := by
  rw [convert, dest]
  dsimp only
  cases source : cvtSource k with
  | int j => exact absurd source (other j)
  | flt f => exact toNat_code (cvtDest_int dest) _
  | scale => exact toNat_code (cvtDest_int dest) _

theorem convert_int_int {i j : IntFmt} (dest : cvtDest k = .int i) (source : cvtSource k = .int j) :
    (convert k m sat a).toNat = i.code (i.clamp (j.value a.toNat)) := by
  rw [convert, dest, source]
  exact toNat_code (cvtDest_int dest) _

end

theorem conversionLaws : ConversionLaws := by
  refine ⟨cvtSource_eq, cvtDest_eq, ?flt, ?int, ?scale, ?toFlt, ?toInt⟩
  case flt => exact fun k a g source => by rw [cvtValue, source]
  case int => exact fun k a i source => by rw [cvtValue, source]; exact valQ_ofInt _
  case scale => exact fun k a source => by rw [cvtValue, source]; rfl
  case toFlt => exact fun k m sat a f dest other => convert_flt dest (.inl other)
  case toInt =>
    intro k m sat a i dest other
    rw [convert_int dest other]
    exact integerCode_rnd (intFormat_range (cvtDest_int dest)).1 m _

/-! ## Dot products (R65, R110) -/

theorem foldl_add_eq {α : Type} (g : α → Int) (l : List α) (z : Int) : l.foldl (fun s i => s + g i) z = z + (l.map g).sum := by
  induction l generalizing z with
  | nil => exact (add_zero z).symm
  | cons i l ih => rw [List.foldl_cons, ih, List.map_cons, List.sum_cons, add_assoc]

theorem dotProduct_int {n w : Nat} {f : BitVec 16} {a b d : Word} (ints : (codeIsInt (fmtA f) && codeIsInt (fmtB f)) = true) :
    Machine.dotProduct n w f a b d = BitVec.ofInt 32 (d.toInt +
      ((List.range n).map (fun i => codeInt (fmtA f) (a.toNat / 2 ^ (w * i) % 2 ^ w) * codeInt (fmtB f) (b.toNat / 2 ^ (w * i) % 2 ^ w))).sum) := by
  unfold Machine.dotProduct
  dsimp only
  rw [if_pos ints, foldl_add_eq]
  rfl

theorem scale_zero (v : Val) : v.scale 0 = v := by cases v <;> simp [Val.scale]

/-- Without scales a dot product is the sum of the accumulator and the products. -/
theorem dotSum_unscaled (m : Mode) (v : Val) (ps : List (Val × Val)) :
    dotSum m v ps 127 127 = exactSum m (v :: ps.map (fun p => p.1.mul p.2)) := by
  have scales : ((127 : Nat) : Int) + ((127 : Nat) : Int) - 254 = 0 := rfl
  simp only [dotSum, scales, scale_zero]
  rfl

theorem floatDotProductLaw : FloatDotProductLaw := by
  intro n w f a b d float
  unfold Machine.dotProduct
  dsimp only
  rw [float, if_neg Bool.false_ne_true, dotSum_unscaled, List.map_map]
  rfl

theorem conversionAndDotProductLaws : ConversionAndDotProductLaws := by
  refine ⟨?same, ?nan, ?ints, ?dot⟩
  case same => exact fun k m sat a source number f dest => convert_flt_same dest (source.trans dest) number
  case nan =>
    intro k m sat a f dest nan
    rw [convert_flt dest (.inr nan), ExactArithmetic.isNan_iff.1 nan]
    rfl
  case ints =>
    intro k m sat a i j dest source
    rw [convert_int_int dest source, code_eq_emod, clamp_eq (intFormat_range (cvtDest_int dest)).1]
  case dot => exact fun n w f a b d ha hb => dotProduct_int (by rw [ha, hb]; rfl)

end Sys2Proof.Laws.Conversion
end

section
/-! # Stochastic rounding (R63, R108) -/

namespace Sys2Proof.Laws.Stochastic
open Sys2Proof.Machine Sys2Proof.Claims Sys2Proof.Laws.Rounding Sys2Proof.Laws.Fp32

theorem srTarget_mem (t : BitVec 2) : srTarget t ∈ formats := by
  revert t
  decide

theorem srTarget_eq (t : BitVec 2) : srTarget t = [bf16, e4m3, e5m2, e2m1].getD t.toNat e2m1 := by
  revert t
  decide

theorem toNat_convertSr (t : BitVec 2) (sat : Bool) (a b : Word) :
    (convertSr t sat a b).toNat = (srTarget t).stochastic sat (b.toNat % 65536) (fp a) := by
  have r := regular_of_mem (srTarget_mem t)
  refine Nat.mod_eq_of_lt (lt_of_lt_of_le ?_ (Nat.pow_le_pow_right two_pos r.width.2))
  change (srTarget t).stochastic sat (b.toNat % 65536) (fp a) < 2 ^ (srTarget t).width
  unfold Fmt.stochastic
  split
  · split <;> exact rnd_lt r _ _ _
  · exact rnd_lt r _ _ _

/-- The number of units, in steps of their 65536th part, that a random value is added to and truncated from. -/
def noised (f : Fmt) (neg : Bool) (n : Nat) (e : Int) (r : Nat) : Nat :=
  (roundUnits .rz neg n e (unitExponent f + roundBinade f n e - 16) + r) / 65536

theorem stochastic_fin {f : Fmt} {n : Nat} (hn : n ≠ 0) (sat : Bool) (r : Nat) (neg : Bool) (e : Int) :
    f.stochastic sat r (.fin neg n e) = f.rnd .rz sat (.fin neg (noised f neg n e r) (unitExponent f + roundBinade f n e)) := by
  rw [noised, unit_add_roundBinade]
  exact if_neg hn

/-- The 65536th parts of units that a number has. -/
theorem floor_parts (f : Fmt) (neg : Bool) (n : Nat) (e : Int) :
    (roundUnits .rz neg n e (unitExponent f + roundBinade f n e - 16) : Int) = ⌊inUnits f n e * 65536⌋ := by
  have fine : (n : ℚ) * 2 ^ (e - (unitExponent f + roundBinade f n e - 16)) = inUnits f n e * 65536 := by
    rw [show e - (unitExponent f + roundBinade f n e - 16) = e - (unitExponent f + roundBinade f n e) + 16 by ring,
      zpow_add₀ two_ne_zero, ← mul_assoc, inUnits]
    norm_num
  obtain ⟨below, above⟩ : Rounded .towards _ _ := rounded_roundUnits .rz neg n e (unitExponent f + roundBinade f n e - 16)
  rw [fine] at below above
  exact (Int.floor_eq_iff.2 ⟨by exact_mod_cast below, by exact_mod_cast above⟩).symm

theorem floor_noised (f : Fmt) (neg : Bool) (n : Nat) (e : Int) (r : Nat) :
    ⌊((⌊inUnits f n e * 65536⌋ + (r : Int) : Int) : ℚ) / 65536⌋ = (noised f neg n e r : Int) := by
  rw [← floor_parts f neg, noised]
  exact_mod_cast Rat.floor_intCast_div_natCast ((roundUnits .rz neg n e (unitExponent f + roundBinade f n e - 16) : Int) + (r : Int)) 65536

/-- The noised number of units keeps to the binade, or is the first of the next. -/
theorem noised_range {f : Fmt} {n : Nat} (hn : n ≠ 0) (neg : Bool) (e : Int) {r : Nat} (hr : r < 65536) :
    noised f neg n e r ≤ 2 ^ (f.mant + 1) ∧ (roundBinade f n e = 0 ∨ 2 ^ f.mant ≤ noised f neg n e r) := by
  obtain ⟨nonneg, high, low⟩ := inBinade_inUnits (f := f) hn e
  have floor := floor_parts f neg n e
  have below := Int.floor_le (inUnits f n e * 65536)
  have above := Int.lt_floor_add_one (inUnits f n e * 65536)
  rw [← floor] at below above
  push_cast at below above
  rw [noised]
  generalize roundUnits .rz neg n e (unitExponent f + roundBinade f n e - 16) = q at *
  constructor
  · have : q < 2 ^ (f.mant + 1) * 65536 := by
      have : (q : ℚ) < 2 ^ (f.mant + 1) * 65536 := by linarith
      exact_mod_cast this
    omega
  · refine low.imp_right fun low => ?_
    have : 2 ^ f.mant * 65536 < q + 1 := by
      have : (2 : ℚ) ^ f.mant * 65536 < q + 1 := by linarith
      exact_mod_cast this
    omega

theorem magnitude_noised {f : Fmt} {n : Nat} (hn : n ≠ 0) (neg : Bool) (e : Int) {r : Nat} (hr : r < 65536) :
    ∃ d, (noised f neg n e r : ℚ) * 2 ^ (unitExponent f + roundBinade f n e) = magnitude f d := by
  obtain ⟨high, low⟩ := noised_range (f := f) hn neg e hr
  exact ⟨_, (magnitude_add high low).symm⟩

/-- A noised number that does not pass the largest is held exactly, and one that does becomes the largest. -/
theorem stochastic_value {f : Fmt} (rf : Regular f) {n : Nat} (hn : n ≠ 0) (sat neg : Bool) (e : Int) {r : Nat} (hr : r < 65536) :
    ((noised f neg n e r : ℚ) * 2 ^ (unitExponent f + roundBinade f n e) ≤ magnitude f f.maxCode →
      valQ (f.value (f.stochastic sat r (.fin neg n e))) = some (signed neg (noised f neg n e r * 2 ^ (unitExponent f + roundBinade f n e)))) ∧
    (magnitude f f.maxCode < (noised f neg n e r : ℚ) * 2 ^ (unitExponent f + roundBinade f n e) →
      f.stochastic sat r (.fin neg n e) = f.sign neg + f.maxCode) := by
  rw [stochastic_fin hn]
  constructor
  · intro within
    obtain ⟨d, hd⟩ := magnitude_noised (f := f) hn neg e hr
    rw [hd, (magnitude_strictMono f).le_iff_le] at within
    rw [rnd_exact rf .rz sat neg hd within, valQ_sign_add rf neg within, hd]
  · exact fun past => (rnd_past rf .rz sat neg past (p := True) (iff_of_true trivial (.inl trivial))).trans (if_pos trivial)

theorem stochasticRoundingLaws : StochasticRoundingLaws := by
  refine ⟨srTarget_eq, ?special, ?number⟩
  case special =>
    intro t sat a b special
    rw [toNat_convertSr]
    obtain nan | zero | inf := special
    · rw [fp_nan nan]; rfl
    · obtain ⟨e, value⟩ := fp_zero zero
      rw [value]; rfl
    · rw [fp_infinity inf]; rfl
  case number =>
    intro t sat a b x q k hx lower upper hq
    have rf := regular_of_mem (srTarget_mem t)
    obtain ⟨neg, n, e, value⟩ := fin_of_valQ hx
    rw [value, valQ_fin, Option.some_inj] at hx
    have size : |x| = n * 2 ^ e := by rw [← hx, abs_signed neg (by positivity)]
    rw [size] at lower upper
    have pos : (0 : ℚ) < n * 2 ^ e := (zpow_pos two_pos k).trans_le lower
    have hn : n ≠ 0 := by
      rintro rfl
      simp at pos
    have sign : x < 0 ↔ neg = true := by
      rw [← hx]
      cases neg with
      | true => exact iff_of_true (neg_neg_of_pos pos) rfl
      | false => exact iff_of_false pos.not_gt Bool.false_ne_true
    obtain rfl := Option.some_inj.1 ((valQ_value rf le_rfl).symm.trans hq)
    have place := unit_add_roundBinade (srTarget t) n e
    rw [log2_add_eq hn lower upper] at place
    have units : |x| / 2 ^ (unitExponent (srTarget t) + roundBinade (srTarget t) n e) = inUnits (srTarget t) n e := by
      rw [size, ← inUnits_mul (srTarget t), mul_div_cancel_right₀ _ (by positivity)]
    dsimp only
    rw [← place, units, floor_noised (neg := neg), toNat_convertSr, value, Int.cast_natCast]
    obtain ⟨within, past⟩ := stochastic_value rf hn sat neg e (Nat.mod_lt b.toNat (by decide))
    refine ⟨fun h => (within h).trans ?_, fun h => (past h).trans ?_⟩
    · rw [signed]
      exact congrArg some (if_congr sign.symm rfl rfl)
    · rw [Bool.eq_iff_iff.2 (decide_eq_true_iff.trans sign)]

end Sys2Proof.Laws.Stochastic
end

section
/-! # Packing, unpacking and the shared scale (R58, R112 to R114) -/

namespace Sys2Proof.Laws.Packing
open Sys2Proof.Machine Sys2Proof.Claims Sys2Proof.Laws.Rounding Sys2Proof.Laws.Fp32 Sys2Proof.Laws.Conversion

/-! ## The element formats (R52, R58) -/

/-- The container and the largest exponent of an operand format, as R58 and R114 list them. -/
theorem container_eq (c : BitVec 4) : c.toNat ≤ 10 → container c = widthOf c ∧ emaxOf c = topExponent c := by
  revert c
  decide

/-- An operand format is a float or an integer format that fits its container. -/
theorem elemFmt_operand (c : BitVec 4) : c.toNat ≤ 10 →
    (∃ g ∈ formats, elemFmt c = some (.flt g) ∧ g.width ≤ container c) ∨
      ∃ i ∈ intFormats, elemFmt c = some (.int i) ∧ i.width ≤ container c ∧ i.width ≤ 8 := by
  revert c
  decide

/-! ## `pk8` (R112) -/

/-- A converted value fits its container, and is the code of the value in the format. -/
theorem convertTo_code {f : BitVec 16} (h : (fmtA f).toNat ≤ 10) (a : Word) :
    convertTo (fmtA f) (fmtMode f) (fmtSat f) (fval a) < 2 ^ container (fmtA f) ∧
      ElementCode f a (convertTo (fmtA f) (fmtMode f) (fmtSat f) (fval a)) := by
  rw [ElementCode, convertTo]
  obtain ⟨g, hg, float, width⟩ | ⟨i, hi, int, width, -⟩ := elemFmt_operand _ h
  · rw [float]
    exact ⟨(rnd_lt (regular_of_mem hg) _ _ _).trans_le (Nat.pow_le_pow_right two_pos width), rfl⟩
  · rw [int]
    exact ⟨(code_lt i _).trans_le (Nat.pow_le_pow_right two_pos width), integerCode_rnd (intFormat_range hi).1 _ _⟩

theorem packTwo_eq {f : BitVec 16} (h : (fmtA f).toNat ≤ 10) (a b d : Word) : ∃ p q, ElementCode f a p ∧ ElementCode f b q ∧
    packTwo f a b d = BitVec.ofNat 32 (if widthOf (fmtA f) = 16 then p + q * 2 ^ 16
      else d.toNat / 2 ^ (2 * widthOf (fmtA f)) + p * 2 ^ (32 - 2 * widthOf (fmtA f)) + q * 2 ^ (32 - widthOf (fmtA f))) := by
  obtain ⟨fitsA, codeA⟩ := convertTo_code h a
  obtain ⟨fitsB, codeB⟩ := convertTo_code h b
  refine ⟨_, _, codeA, codeB, ?_⟩
  rw [packTwo, ← (container_eq _ h).1]
  dsimp only
  rw [Nat.mod_eq_of_lt fitsA, Nat.mod_eq_of_lt fitsB, apply_ite (BitVec.ofNat 32)]
  rfl

/-! ## `upk` (R113) -/

/-- The numbers of every format are FP32 numbers. -/
theorem fits_fp32 : ∀ f, f ∈ formats →
    f.mant + 1 ≤ 24 ∧ -149 ≤ unitExponent f ∧ ((f.mant + 1 : Nat) : Int) + (unitExponent f + binade f f.maxCode) ≤ 128 := by
  decide

/-- An FP32 register that was rounded from a number of a format holds that number. -/
theorem valQ_fp_rneFp32 {f : Fmt} (h : f ∈ formats) {c : Nat} {neg : Bool} {n : Nat} {e : Int} (value : f.value c = .fin neg n e) :
    valQ (fp (rneFp32 (.fin neg n e))) = valQ (.fin neg n e) := by
  obtain ⟨mant, low, high⟩ := fits_fp32 f h
  by_cases past : f.maxCode < c % 2 ^ (f.width - 1)
  · have := value_past past
    rw [value, valQ_fin] at this
    cases this
  rw [value_number (regular_of_mem h) (not_lt.1 past)] at value
  obtain ⟨rfl, rfl, rfl⟩ := Val.fin.inj value
  generalize c % 2 ^ (f.width - 1) = d at *
  have small := (significand_range f d).1
  have top : binade f d ≤ binade f f.maxCode := Nat.sub_le_sub_right (Nat.div_le_div_right (not_lt.1 past)) 1
  obtain ⟨k, g, held, -, same⟩ := fp_rneFp32 (decide (c / 2 ^ (f.width - 1) % 2 = 1)) (n := significand f d)
    (small.trans_le (Nat.pow_le_pow_right two_pos mant)) (e := unitExponent f + binade f d) (by omega) (lt_two_zpow small (by omega))
  rw [held, valQ_fin, valQ_fin, same]

theorem valQ_fp_rneFp32_ofInt {z : Int} (small : z.natAbs < 2 ^ 24) : valQ (fp (rneFp32 (.ofInt z))) = some (z : ℚ) := by
  obtain ⟨k, g, held, -, same⟩ := fp_rneFp32 (decide (z < 0)) small (e := 0) (by omega) (lt_two_zpow small (by norm_num))
  rw [← valQ_ofInt z, Val.ofInt, held, valQ_fin, valQ_fin, same]

theorem unpackOne_eq {f : BitVec 16} (h : (fmtA f).toNat ≤ 10) (a b : Word) :
    Unpacked f (a.toNat / 2 ^ (widthOf (fmtA f) * (b.toNat % (32 / widthOf (fmtA f)))) % 2 ^ widthOf (fmtA f)) (unpackOne f a b) := by
  rw [unpackOne, Unpacked, ← (container_eq _ h).1, element, codeValue]
  generalize a.toNat / 2 ^ (container (fmtA f) * (b.toNat % (32 / container (fmtA f)))) % 2 ^ container (fmtA f) = c
  obtain ⟨g, hg, float, -⟩ | ⟨i, -, int, -, width⟩ := elemFmt_operand _ h
  · rw [float]
    dsimp only [ElemFmt.value]
    cases value : g.value (c % 2 ^ g.width) with
    | nan => rfl
    | inf neg => cases neg <;> rfl
    | fin neg n e => exact valQ_fp_rneFp32 hg value
  · rw [int]
    exact valQ_fp_rneFp32_ofInt (((natAbs_value_le i c).trans (Nat.pow_le_pow_right two_pos width)).trans_lt (by norm_num))

/-! ## `mxs` (R114) -/

/-- The largest magnitude of the codes of a group. -/
def topCode (vs : List Word) : Nat := vs.foldl (fun m a => Nat.max m (a.toNat % 2 ^ 31)) 0

theorem foldl_max_le {α : Type} (g : α → Nat) (l : List α) (m n : Nat) :
    l.foldl (fun m a => Nat.max m (g a)) m ≤ n ↔ m ≤ n ∧ ∀ a ∈ l, g a ≤ n := by
  induction l generalizing m with
  | nil => simp
  | cons a l ih => rw [List.foldl_cons, ih, Nat.max_le, List.forall_mem_cons, and_assoc]

theorem topCode_le_iff {vs : List Word} {n : Nat} : topCode vs ≤ n ↔ ∀ a ∈ vs, a.toNat % 2 ^ 31 ≤ n :=
  (foldl_max_le _ vs 0 n).trans (and_iff_right n.zero_le)

theorem sharedScale_special {c : BitVec 4} {vs : List Word} {a : Word} (mem : a ∈ vs) (special : 0x7F800000 ≤ a.toNat % 2 ^ 31) :
    sharedScale c vs = 0xFF := by
  rw [sharedScale]
  exact if_pos (List.any_eq_true.2 ⟨a, mem, decide_eq_true special⟩)

/-- The shared scale of numbers is that of their largest magnitude. -/
theorem sharedScale_numbers (c : BitVec 4) {vs : List Word} (numbers : ∀ a ∈ vs, a.toNat % 2 ^ 31 < 0x7F800000) :
    sharedScale c vs = if topCode vs = 0 then 0x7F
      else BitVec.ofInt 32 (max 0 (min 254
        (((significand fp32 (topCode vs)).log2 : Int) + (unitExponent fp32 + binade fp32 (topCode vs)) - emaxOf c + 127))) := by
  have good : vs.any (fun a => decide (0x7F800000 ≤ a.toNat % 2 ^ 31)) = false :=
    List.any_eq_false.2 fun a mem => by simpa using numbers a mem
  have below : topCode vs ≤ fp32.maxCode := topCode_le_iff.2 fun a mem => Nat.le_pred_of_lt (numbers a mem)
  have value : fp32.value (topCode vs) = .fin false (significand fp32 (topCode vs)) (unitExponent fp32 + binade fp32 (topCode vs)) := by
    simpa [Fmt.sign] using value_sign_add regular_fp32 false below
  unfold sharedScale
  dsimp only
  rw [good, if_neg Bool.false_ne_true, ← topCode, value]
  dsimp only
  refine if_congr significand_eq_zero rfl (congrArg (BitVec.ofInt 32) ?_)
  split_ifs <;> omega

/-- An FP32 number has the magnitude of its code. -/
theorem abs_of_valQ_fp {a : Word} {x : ℚ} (h : valQ (fp a) = some x) :
    a.toNat % 2 ^ 31 ≤ fp32.maxCode ∧ |x| = magnitude fp32 (a.toNat % 2 ^ 31) := by
  by_cases past : fp32.maxCode < a.toNat % 2 ^ 31
  · rw [fp, value_past past] at h
    cases h
  · rw [fp_number (Nat.lt_succ_of_le (not_lt.1 past)), valQ_fin, Option.some_inj] at h
    exact ⟨not_lt.1 past, by rw [← h, abs_signed _ (by positivity), magnitude]⟩

/-- The shared scale is that of the largest magnitude. -/
theorem sharedScale_largest {c : BitVec 4} {vs : List Word} {b : Word} {y : ℚ} {k : Int} (operand : c.toNat ≤ 10) (mem : b ∈ vs)
    (hy : valQ (fp b) = some y) (largest : ∀ a, a ∈ vs → ∃ x, valQ (fp a) = some x ∧ |x| ≤ |y|) (lower : (2 : ℚ) ^ k ≤ |y|)
    (upper : |y| < (2 : ℚ) ^ (k + 1)) : sharedScale c vs = BitVec.ofInt 32 (max 0 (min 254 (k - topExponent c + 127))) := by
  obtain ⟨-, size⟩ := abs_of_valQ_fp hy
  have numbers : ∀ a ∈ vs, a.toNat % 2 ^ 31 < 0x7F800000 := fun a ha => by
    obtain ⟨x, hx, -⟩ := largest a ha
    exact Nat.lt_succ_of_le (abs_of_valQ_fp hx).1
  have top : topCode vs = b.toNat % 2 ^ 31 := by
    refine le_antisymm (topCode_le_iff.2 fun a ha => ?_) (topCode_le_iff.1 le_rfl b mem)
    obtain ⟨x, hx, le⟩ := largest a ha
    rwa [(abs_of_valQ_fp hx).2, size, (magnitude_strictMono fp32).le_iff_le] at le
  rw [size] at lower upper
  have some : b.toNat % 2 ^ 31 ≠ 0 := by
    intro zero
    rw [zero, magnitude_zero] at lower
    exact (zpow_pos two_pos k).not_ge lower
  rw [sharedScale_numbers c numbers, top, if_neg some, log2_add_eq (mt significand_eq_zero.1 some) lower upper, (container_eq c operand).2]

theorem sharedScale_zeros {c : BitVec 4} {vs : List Word} (zeros : ∀ a, a ∈ vs → zeroCode a = true) : sharedScale c vs = 0x7F := by
  have zero : ∀ a ∈ vs, a.toNat % 2 ^ 31 = 0 := fun a mem => by simpa [zeroCode] using zeros a mem
  have top : topCode vs = 0 := Nat.le_zero.1 (topCode_le_iff.2 fun a mem => (zero a mem).le)
  rw [sharedScale_numbers c fun a mem => by rw [zero a mem]; decide, if_pos top]

theorem packingAndScaleLaws : PackingAndScaleLaws :=
  ⟨fun _ a b d h => packTwo_eq h a b d, fun _ a b h => unpackOne_eq h a b, fun _ _ _ => sharedScale_special, fun _ _ => sharedScale_zeros,
    fun _ _ _ _ _ operand mem hy largest lower upper => sharedScale_largest operand mem hy largest lower upper⟩

/-! ## The statement -/

/-- Settles O9: the instructions are lane operations of the model's functions, and those round exact values as R106 to R114 say. -/
theorem conversionAndDotProducts : Obligations.ConversionAndDotProducts :=
  ⟨ConversionEffects.conversionAndDotProductResults, conversionAndDotProductLaws, conversionLaws, Stochastic.stochasticRoundingLaws,
    floatDotProductLaw, packingAndScaleLaws⟩

end Sys2Proof.Laws.Packing
end

section
/-! # Integer and logic instructions (R70 to R79) -/

namespace Sys2Proof.Laws.IntegerForms
open Sys2Proof.Machine Sys2Proof.Claims Sys2Proof.Laws.Retire Sys2Proof.Laws.ImmediateForms

/-! ## The instructions as lane operations (R67) -/

/-- An instruction that the model runs as an operation of two sources. -/
theorem binary_of {mk : BitVec 1 → BitVec 1 → BitVec 7 → BitVec 7 → BitVec 6 → Instr} {op op' : Word → Word → Word}
    (runs : ∀ c w b a d s, exec (mk c w b a d) s = binary (mk c w b a d) w d a b op' s) (values : ∀ a b, op' a b = op a b) : Binary mk op :=
  fun c w b a d => laneEffect_of_laneOp (runs c w b a d) fun _ _ => values _ _

/-- An instruction that the model runs as an operation of one source. -/
theorem unary_of {mk : BitVec 1 → BitVec 1 → BitVec 7 → BitVec 6 → Instr} {op op' : Word → Word}
    (runs : ∀ c w a d s, exec (mk c w a d) s = unary (mk c w a d) w d a op' s) (values : ∀ a, op' a = op a) : Unary mk op :=
  fun c w a d => laneEffect_of_laneOp (runs c w a d) fun _ _ => values _

/-- An instruction that the model runs as an operation of two sources and the old `vd`. -/
theorem inPlace_of {mk : BitVec 1 → BitVec 1 → BitVec 7 → BitVec 7 → BitVec 6 → Instr} {op op' : Word → Word → Word → Word}
    (runs : ∀ c w b a d s, exec (mk c w b a d) s = inPlace (mk c w b a d) w d a b op' s) (values : ∀ a b d, op' a b d = op a b d) :
    InPlace mk op :=
  fun c w b a d => laneEffect_of_laneOp (runs c w b a d) fun _ _ => values _ _ _

/-! ## Sums, products and distances (R70, R71, R75) -/

theorem truth_bne (a b : Word) : truth (a != b) = mask32 (a ≠ b) := by
  rw [← truth_decide, bne, Bool.beq_eq_decide_eq, decide_not]

/-- The upper half of an integer of 64 bits. -/
theorem extractLsb'_ofInt (v : Int) : (BitVec.ofInt 64 v).extractLsb' 32 32 = BitVec.ofInt 32 (v / 2 ^ 32) := by
  refine BitVec.eq_of_toNat_eq ?_
  rw [BitVec.extractLsb'_toNat, BitVec.toNat_ofInt, BitVec.toNat_ofInt, Nat.shiftRight_eq_div_pow]
  omega

theorem mulHighS_eq (a b : Word) : mulHighS a b = (a.signExtend 64 * b.signExtend 64).extractLsb' 32 32 := by
  rw [BitVec.signExtend, BitVec.signExtend, ← BitVec.ofInt_mul, extractLsb'_ofInt]
  rfl

theorem mulHighU_eq (a b : Word) : mulHighU a b = (a.setWidth 64 * b.setWidth 64).extractLsb' 32 32 := by
  refine BitVec.eq_of_toNat_eq ?_
  have small : a.toNat * b.toNat < 2 ^ 64 := (Nat.mul_lt_mul'' a.isLt b.isLt).trans_eq (by decide : 2 ^ 32 * 2 ^ 32 = 2 ^ 64)
  have ha := a.isLt
  have hb := b.isLt
  rw [mulHighU, BitVec.extractLsb'_toNat, BitVec.toNat_mul, BitVec.toNat_setWidth, BitVec.toNat_setWidth,
    Nat.mod_eq_of_lt (by omega : a.toNat < 2 ^ 64), Nat.mod_eq_of_lt (by omega : b.toNat < 2 ^ 64), Nat.mod_eq_of_lt small,
    BitVec.toNat_ofNat, Nat.shiftRight_eq_div_pow]

theorem absDiff_eq (a b : Word) : absDiff a b = BitVec.ofInt 32 |a.toInt - b.toInt| := by
  rw [absDiff, Int.abs_eq_natAbs]
  rfl

/-! ## Quotients and remainders (R79) -/

theorem divS_eq (a b : Word) : divS a b =
    if b = 0 then 0xFFFFFFFF else if a = 0x80000000 ∧ b = 0xFFFFFFFF then 0x80000000 else BitVec.ofInt 32 (a.toInt.tdiv b.toInt) := by
  simp [divS]

theorem divU_eq (a b : Word) : divU a b = if b = 0 then 0xFFFFFFFF else BitVec.ofNat 32 (a.toNat / b.toNat) := by
  simp [divU]

theorem remS_eq (a b : Word) : remS a b =
    if b = 0 then a else if a = 0x80000000 ∧ b = 0xFFFFFFFF then 0 else BitVec.ofInt 32 (a.toInt.tmod b.toInt) := by
  rw [Int.tmod_def, mul_comm]
  simp [remS]

theorem remU_eq (a b : Word) : remU a b = if b = 0 then a else BitVec.ofNat 32 (a.toNat % b.toNat) := by
  rw [Nat.mod_eq_sub_div_mul]
  simp [remU]

/-! ## The statement -/

theorem integerArithmeticResults : IntegerArithmeticResults :=
  ⟨binary_of (op' := (· + ·)) (fun _ _ _ _ _ _ => rfl) fun _ _ => rfl, binary_of (op' := (· - ·)) (fun _ _ _ _ _ _ => rfl) fun _ _ => rfl,
    binary_of (op' := addSat) (fun _ _ _ _ _ _ => rfl) fun _ _ => rfl, binary_of (op' := subSat) (fun _ _ _ _ _ _ => rfl) fun _ _ => rfl,
    binary_of (op' := (· * ·)) (fun _ _ _ _ _ _ => rfl) fun _ _ => rfl, binary_of (op' := mulHighS) (fun _ _ _ _ _ _ => rfl) mulHighS_eq,
    binary_of (op' := mulHighU) (fun _ _ _ _ _ _ => rfl) mulHighU_eq,
    inPlace_of (op' := fun a b d => d + a * b) (fun _ _ _ _ _ _ => rfl) fun _ _ _ => rfl⟩

theorem compareResults : CompareResults :=
  ⟨binary_of (op' := fun a b => truth (a == b)) (fun _ _ _ _ _ _ => rfl) truth_beq,
    binary_of (op' := fun a b => truth (a != b)) (fun _ _ _ _ _ _ => rfl) truth_bne,
    binary_of (op' := fun a b => truth (lts a b)) (fun _ _ _ _ _ _ => rfl) truth_lts,
    binary_of (op' := fun a b => truth (les a b)) (fun _ _ _ _ _ _ => rfl) fun _ _ => truth_decide _,
    binary_of (op' := fun a b => truth (decide (a.toNat < b.toNat))) (fun _ _ _ _ _ _ => rfl) fun _ _ => truth_decide _,
    binary_of (op' := fun a b => truth (decide (a.toNat ≤ b.toNat))) (fun _ _ _ _ _ _ => rfl) fun _ _ => truth_decide _,
    binary_of (op' := fun a b => truth (a &&& b != 0)) (fun _ _ _ _ _ _ => rfl) fun _ _ => truth_bne _ _,
    binary_of (op' := absDiff) (fun _ _ _ _ _ _ => rfl) absDiff_eq⟩

theorem divisionResults : DivisionResults :=
  ⟨binary_of (op' := divS) (fun _ _ _ _ _ _ => rfl) divS_eq, binary_of (op' := divU) (fun _ _ _ _ _ _ => rfl) divU_eq,
    binary_of (op' := remS) (fun _ _ _ _ _ _ => rfl) remS_eq, binary_of (op' := remU) (fun _ _ _ _ _ _ => rfl) remU_eq⟩

/-- Settles O1: each instruction is a lane operation, whose one effect is proved once, of a function with the stated values. -/
theorem integerArithmeticCompareAndDivisionResults : Obligations.IntegerArithmeticCompareAndDivisionResults :=
  ⟨integerArithmeticResults, compareResults, divisionResults⟩

end Sys2Proof.Laws.IntegerForms
end

section
/-! # Logic, shifts, selection, fields, bit counts and moves (R72, R73, R76 to R78) -/

namespace Sys2Proof.Laws.LogicForms
open Sys2Proof.Machine Sys2Proof.Claims Sys2Proof.Laws.Retire Sys2Proof.Laws.ImmediateForms Sys2Proof.Laws.IntegerForms

theorem minU_eq (a b : Word) : minU a b = if a.toNat ≤ b.toNat then a else b := by
  by_cases h : a.toNat ≤ b.toNat
  · rw [if_pos h, minU, if_neg (by omega)]
  · rw [if_neg h, minU, if_pos (by omega)]

theorem maxU_eq (a b : Word) : maxU a b = if b.toNat ≤ a.toNat then a else b := by
  by_cases h : b.toNat ≤ a.toNat
  · rw [if_pos h, maxU, if_neg (by omega)]
  · rw [if_neg h, maxU, if_pos (by omega)]

theorem rotL_eq (a b : Word) : rotL a b = (a <<< (b.toNat % 32)) ||| (a >>> (32 - b.toNat % 32)) := by
  rw [rotL, count5, BitVec.rotateLeft_eq_rotateLeftAux_of_lt (Nat.mod_lt _ (by decide))]
  rfl

theorem logicAndShiftResults : LogicAndShiftResults :=
  ⟨binary_of (op' := minS) (fun _ _ _ _ _ _ => rfl) minS_eq, binary_of (op' := maxS) (fun _ _ _ _ _ _ => rfl) maxS_eq,
    binary_of (op' := minU) (fun _ _ _ _ _ _ => rfl) minU_eq, binary_of (op' := maxU) (fun _ _ _ _ _ _ => rfl) maxU_eq,
    binary_of (op' := (· &&& ·)) (fun _ _ _ _ _ _ => rfl) fun _ _ => rfl, binary_of (op' := (· ||| ·)) (fun _ _ _ _ _ _ => rfl) fun _ _ => rfl,
    binary_of (op' := (· ^^^ ·)) (fun _ _ _ _ _ _ => rfl) fun _ _ => rfl,
    binary_of (op' := fun a b => a &&& ~~~b) (fun _ _ _ _ _ _ => rfl) fun _ _ => rfl,
    binary_of (op' := shiftL) (fun _ _ _ _ _ _ => rfl) fun _ _ => rfl, binary_of (op' := shiftR) (fun _ _ _ _ _ _ => rfl) fun _ _ => rfl,
    binary_of (op' := shiftA) (fun _ _ _ _ _ _ => rfl) fun _ _ => rfl, binary_of (op' := rotL) (fun _ _ _ _ _ _ => rfl) rotL_eq⟩

theorem bitFieldExtract_eq (a b : Word) : bitFieldExtract a b =
    let f := (a >>> ctlPos b) &&& ones (ctlWidth b)
    if b.getLsbD 16 = true ∧ 0 < ctlWidth b ∧ f.getLsbD (ctlWidth b - 1) = true then f ||| ~~~ones (ctlWidth b) else f := by
  have width : fieldWidth b = ctlWidth b := rfl
  have position : fieldPos b = ctlPos b := rfl
  have mask : lowMask (ctlWidth b) = ones (ctlWidth b) := rfl
  simp only [bitFieldExtract, width, position, mask, Bool.and_eq_true, decide_eq_true_eq, and_assoc]

theorem shiftLeft_two (b : Word) : b <<< 2 = 4 * b := by
  rw [BitVec.shiftLeft_eq_mul_twoPow, BitVec.mul_comm]
  rfl

theorem selectionAndFieldResults : SelectionAndFieldResults :=
  ⟨inPlace_of (op' := fun a b d => if d != 0 then a else b) (fun _ _ _ _ _ _ => rfl) fun a b d => by simp,
    binary_of (op' := bitFieldExtract) (fun _ _ _ _ _ _ => rfl) bitFieldExtract_eq,
    inPlace_of (op' := bitFieldInsert) (fun _ _ _ _ _ _ => rfl) fun _ _ _ => rfl,
    binary_of (op' := fun a b => a + (b <<< 2)) (fun _ _ _ _ _ _ => rfl) fun a b => congrArg (a + ·) (shiftLeft_two b)⟩

theorem leadingZeros_eq (a : Word) :
    leadingZeros a = BitVec.ofNat 32 (((List.range 32).find? (fun n => a.getLsbD (31 - n))).getD 32) := by
  have downwards : laneIds.reverse = (List.range 32).map (31 - ·) := by decide
  rw [leadingZeros, highest, downwards, List.find?_map]
  show BitVec.ofNat 32 (match Option.map _ ((List.range 32).find? (fun n => a.getLsbD (31 - n))) with | some k => 31 - k | none => 32) = _
  cases found : (List.range 32).find? (fun n => a.getLsbD (31 - n)) with
  | none => rfl
  | some n =>
    have := List.mem_range.1 (List.mem_of_find?_eq_some found)
    exact congrArg (BitVec.ofNat 32) (by dsimp; omega)

/-- The low bits kept, as an extension of the narrow value. -/
theorem and_low (a : Word) {m : Word} {k : Nat} (low : ∀ i, i < 32 → m.getLsbD i = decide (i < k)) : a &&& m = (a.setWidth k).setWidth 32 := by
  refine BitVec.eq_of_getLsbD_eq fun i hi => ?_
  rw [BitVec.getLsbD_and, low i hi, BitVec.getLsbD_setWidth, BitVec.getLsbD_setWidth]
  simp [hi, Bool.and_comm]

theorem packHalves_eq (a b : Word) : packHalves a b = b.setWidth 16 ++ a.setWidth 16 := by
  rw [← upper_half]
  refine congrArg ((a &&& 0xFFFF#32) ||| ·) (BitVec.eq_of_toNat_eq ?_)
  rw [zext, BitVec.toNat_shiftLeft, BitVec.toNat_shiftLeft, BitVec.toNat_setWidth, BitVec.toNat_setWidth, Nat.shiftLeft_eq, Nat.shiftLeft_eq]
  omega

theorem byteSwap_eq (a : Word) : byteSwap a = a.extractLsb' 0 8 ++ a.extractLsb' 8 8 ++ a.extractLsb' 16 8 ++ a.extractLsb' 24 8 := by
  refine BitVec.eq_of_toNat_eq ?_
  have := a.isLt
  simp only [toNat_append_eq, Nat.div_div_eq_div_mul, Nat.reducePow, Nat.reduceMul, Nat.div_one, Nat.mul_zero, Nat.add_zero,
    BitVec.extractLsb'_toNat, Nat.shiftRight_eq_div_pow, byteSwap, bytesLE, ofBytesLE, List.reverse_cons, List.reverse_nil,
    List.nil_append, List.cons_append, BitVec.toNat_ofNat]
  omega

theorem bitCountAndMoveResults : BitCountAndMoveResults :=
  ⟨unary_of (op' := popCount) (fun _ _ _ _ _ => rfl) fun _ => rfl, unary_of (op' := leadingZeros) (fun _ _ _ _ _ => rfl) leadingZeros_eq,
    unary_of (op' := trailingZeros) (fun _ _ _ _ _ => rfl) fun _ => rfl, unary_of (op' := bitReverse) (fun _ _ _ _ _ => rfl) fun _ => rfl,
    unary_of (op' := fun a => a) (fun _ _ _ _ _ => rfl) fun _ => rfl,
    unary_of (op' := fun a => a &&& 0xFF) (fun _ _ _ _ _ => rfl) fun a => and_low a (by decide),
    unary_of (op' := signByte) (fun _ _ _ _ _ => rfl) fun _ => rfl,
    unary_of (op' := signHalf) (fun _ _ _ _ _ => rfl) fun _ => rfl,
    unary_of (op' := fun a => a &&& 0xFFFF) (fun _ _ _ _ _ => rfl) fun a => and_low a (by decide),
    binary_of (op' := packHalves) (fun _ _ _ _ _ _ => rfl) packHalves_eq, unary_of (op' := byteSwap) (fun _ _ _ _ _ => rfl) byteSwap_eq⟩

/-- Settles O2: each instruction is a lane operation of a function whose values are the stated ones, bit by bit or as a number. -/
theorem logicShiftSelectAndBitCountResults : Obligations.LogicShiftSelectAndBitCountResults :=
  ⟨logicAndShiftResults, selectionAndFieldResults, bitCountAndMoveResults⟩

end Sys2Proof.Laws.LogicForms
end

section
/-! # Masks of lanes (R6, R15) -/

namespace Sys2Proof.Laws.Masks
open Sys2Proof.Machine Sys2Proof.Claims

theorem has_or (a b : Mask) (l : Nat) : Mask.has (a ||| b) l = (a.has l || b.has l) := BitVec.getLsbD_or

theorem has_and (a b : Mask) (l : Nat) : Mask.has (a &&& b) l = (a.has l && b.has l) := BitVec.getLsbD_and

theorem has_bit {l k : Nat} (hl : l < 32) : Mask.has (1#32 <<< k) l = decide (k = l) := by
  rw [Mask.has, ← BitVec.twoPow_eq, BitVec.getLsbD_twoPow]
  by_cases h : k = l <;> simp [h, hl]

theorem lt_of_has {m : Mask} {l : Nat} (h : m.has l = true) : l < 32 := BitVec.lt_of_getLsbD h

/-- Two masks with the same lanes are one. -/
theorem eq_of_has {a b : Mask} (h : ∀ l, l < 32 → a.has l = b.has l) : a = b := BitVec.eq_of_getLsbD_eq h

theorem has_foldl_bits (p : Nat → Bool) {l : Nat} (hl : l < 32) : ∀ (ks : List Nat) (m : Mask),
    Mask.has (ks.foldl (fun m k => if p k then m ||| (1#32 <<< k) else m) m) l = (m.has l || decide (l ∈ ks) && p l)
  | [], m => by simp
  | k :: r, m => by
    rw [List.foldl_cons, has_foldl_bits p hl r]
    by_cases hk : k = l
    · subst hk
      cases hp : p k <;> simp [has_or, has_bit hl]
    · have : l ≠ k := fun e => hk e.symm
      cases hp : p k <;> simp [has_or, has_bit hl, hk, this]

/-- The lanes of the mask of a predicate. -/
theorem has_maskBy (p : Nat → Bool) {l : Nat} (hl : l < 32) : (maskBy p).has l = p l := by
  rw [maskBy, has_foldl_bits p hl]
  simp [Mask.has, hl]

theorem maskOf_eq (p : Nat → Bool) : maskOf p = maskBy p := rfl

/-- The lanes of a mask, in the statements' words. -/
theorem lanes_eq (m : Mask) : m.lanes = (List.range 32).filter (fun l => m.has l) := rfl

theorem mem_lanes {m : Mask} {l : Nat} : l ∈ m.lanes ↔ m.has l = true := by
  rw [lanes_eq, List.mem_filter, List.mem_range]
  exact ⟨fun h => h.2, fun h => ⟨lt_of_has h, h⟩⟩

theorem popcount_eq (m : Mask) : popcount m = m.lanes.length := rfl

end Sys2Proof.Laws.Masks
end

section
/-! # Lane exchange (R85 to R89) -/

namespace Sys2Proof.Laws.LaneExchange
open Sys2Proof.Machine Sys2Proof.Claims Sys2Proof.Laws.Retire Sys2Proof.Laws.ImmediateForms Sys2Proof.Laws.ConversionEffects
  Sys2Proof.Laws.Masks

/-! ## Shuffles (R85, R86) -/

theorem fromLane_some (x : Site) (a : BitVec 7) (l j : Nat) : x.fromLane a l (some j) = fromOr x a l True j := by
  by_cases h : x.active.has j = true
  · simp [Site.fromLane, fromOr, h, lt_of_has h]
  · simp [Site.fromLane, fromOr, h]

theorem fromLane_if (x : Site) (a : BitVec 7) (l j : Nat) (p : Prop) [Decidable p] :
    x.fromLane a l (if p then some j else none) = fromOr x a l p j := by
  by_cases h : p
  · rw [if_pos h, fromLane_some]
    simp [fromOr, h]
  · simp [Site.fromLane, fromOr, h]

/-- A lane operation of values that are right where a lane acts. -/
theorem laneEffect_of_active {i : Instr} {w : BitVec 1} {d : BitVec 6} {f g : Site → Nat → Word} (op : ∀ s, exec i s = laneOp i w d g s)
    (values : ∀ x l, x.active.has l = true → g x l = f x l) : LaneEffect i w d f := fun _ x issues quiet _ =>
  laneEffectAt_congr (values x) (laneEffectAt_of_laneOp (op _) issues (.inl quiet))

/-- Where a lane acts, a uniform operand is that of the leader (R6). -/
theorem uniformSrc_eq {x : Site} {l : Nat} (active : x.active.has l = true) (b : BitVec 7) : x.uniformSrc b = x.src b (leaderOf x) := by
  rw [Site.uniformSrc, leaderOrMember_eq active]

theorem shuffleCount_eq {x : Site} {l : Nat} (active : x.active.has l = true) (b : BitVec 7) : x.shuffleCount b = shuffleBy x b := by
  rw [Site.shuffleCount, uniformSrc_eq active, shuffleBy]

theorem shuffleResults : ShuffleResults := by
  refine ⟨fun c w b a d => laneEffect_of_laneOp (fun _ => rfl) fun x l => fromLane_some x a l _,
    fun c w b a d => laneEffect_of_active (fun _ => rfl) fun x l active => ?_,
    fun c w b a d => laneEffect_of_active (fun _ => rfl) fun x l active => ?_,
    fun c w b a d => laneEffect_of_active (fun _ => rfl) fun x l active => ?_⟩ <;> rw [shuffleCount_eq active]
  · exact fromLane_if x a l _ _
  · exact fromLane_some x a l _
  · exact fromLane_some x a l _

/-! ## Votes and reductions (R87, R88) -/

/-- An instruction that the model runs as one result for every active lane. -/
theorem across_of {mk : BitVec 1 → BitVec 1 → BitVec 7 → BitVec 6 → Instr} {op op' : Site → BitVec 7 → Word}
    (runs : ∀ c w a d s, exec (mk c w a d) s = across (mk c w a d) w d (fun x => op' x a) s) (values : ∀ x a, op' x a = op x a) :
    Across mk op :=
  fun c w a d => laneEffect_of_laneOp (runs c w a d) fun x _ => values x a

/-- A truth value as the statements write it. -/
theorem truth_eq (b : Bool) : truth b = mask32 (b = true) := by
  rw [← truth_decide, Bool.decide_eq_true]

/-- A sum of words is the sum of the numbers, modulo 2^32. -/
theorem foldl_add_words : ∀ (vs : List Word) (z : Word), vs.foldl (· + ·) z = z + BitVec.ofNat 32 ((vs.map BitVec.toNat).sum)
  | [], z => by simp
  | v :: r, z => by
    rw [List.foldl_cons, foldl_add_words r, List.map_cons, List.sum_cons, BitVec.ofNat_add, BitVec.ofNat_toNat, BitVec.setWidth_eq,
      BitVec.add_assoc]

theorem sum_words (vs : List Word) : vs.foldl (· + ·) 0 = BitVec.ofNat 32 ((vs.map BitVec.toNat).sum) :=
  (foldl_add_words vs 0).trans (BitVec.zero_add _)

/-- A reduction over the values of the active lanes goes over the lanes. -/
theorem foldl_activeValues {op op' : Word → Word → Word} (same : ∀ m v, op m v = op' m v) (x : Site) (a : BitVec 7) (z : Word) :
    (x.activeValues a).foldl op z = (activeLanes x).foldl (fun m l => op' m (x.src a l)) z := by
  rw [Site.activeValues, List.foldl_map, activeLanes_eq]
  simp only [same]

theorem minS_step (m v : Word) : minS m v = if v.toInt < m.toInt then v else m := by simp [minS, lts, BitVec.slt]

theorem maxS_step (m v : Word) : maxS m v = if m.toInt < v.toInt then v else m := by simp [maxS, lts, BitVec.slt]

theorem voteAndReductionResults : VoteAndReductionResults := by
  refine ⟨across_of (fun _ _ _ _ _ => rfl) fun x a => ?_, across_of (fun _ _ _ _ _ => rfl) fun x a => ?_,
    across_of (fun _ _ _ _ _ => rfl) fun _ _ => maskOf_eq _,
    fun c w a d => laneEffect_of_active (fun _ => rfl) fun x l active => uniformSrc_eq active a,
    across_of (fun _ _ _ _ _ => rfl) fun x a => ?_, across_of (fun _ _ _ _ _ => rfl) fun x a => foldl_activeValues minS_step x a _,
    across_of (fun _ _ _ _ _ => rfl) fun x a => foldl_activeValues maxS_step x a _,
    across_of (fun _ _ _ _ _ => rfl) fun x a => foldl_activeValues (fun _ _ => rfl) x a _⟩
  · rw [truth_eq, Site.activeValues, List.any_map, activeLanes_eq]
    rfl
  · rw [truth_eq, Site.activeValues, List.all_map, activeLanes_eq]
    rfl
  · rw [sum_words, Site.activeValues, List.map_map, activeLanes_eq]
    rfl

/-! ## Scan, rank and match (R89) -/

theorem length_lower_same (x : Site) (a : BitVec 7) (l : Nat) :
    popcount (x.sameValue a l &&& lowLanes l) = ((activeLanes x).filter (fun j => j < l ∧ x.src a j = x.src a l)).length := by
  rw [popcount_eq, lanes_eq, activeLanes, List.filter_filter]
  refine congrArg List.length (List.filter_congr fun j hj => ?_)
  have lane := List.mem_range.1 hj
  rw [has_and, Site.sameValue, lowLanes, maskOf_eq, maskOf_eq, has_maskBy _ lane, has_maskBy _ lane]
  simp only [Bool.decide_and, Bool.beq_eq_decide_eq]
  cases x.active.has j <;> cases decide (j < l) <;> simp

theorem scanRankMatchResults : ScanRankMatchResults := by
  refine ⟨fun c w a d => laneEffect_of_laneOp (fun _ => rfl) fun x l => ?_,
    fun c w a d => laneEffect_of_laneOp (fun _ => rfl) fun x l => congrArg (BitVec.ofNat 32) (length_lower_same x a l),
    fun c w a d => laneEffect_of_laneOp (fun _ => rfl) fun x l => maskOf_eq _⟩
  rw [sum_words, List.map_map, activeLanes_eq]
  rfl

/-- Settles O4: each instruction is a lane operation; what it reads of other lanes is what the active lanes hold. -/
theorem laneExchangeResults : Obligations.LaneExchangeResults := ⟨shuffleResults, voteAndReductionResults, scanRankMatchResults⟩

end Sys2Proof.Laws.LaneExchange
end

section
/-! # The charge of a cistern access that switches lanes off (R27, R154)

An issue charges its cluster the weight of the instruction for each active lane, at issue. A cistern access of which some lanes lie
outside the run's window switches these off first, and goes on as an instruction of the others, whose bill it pays. -/

namespace Sys2Proof.Laws.CisternCharge
open Sys2Proof.Machine Sys2Proof.Claims

/-! ## A state whose access leaves the window in all lanes but one -/

/-- A run with a window of one word on die 0. -/
def narrowRun : Run := { Run.least with window := 4, windows := [(0, [])] }

def narrowSplit : Split := Split.root 0xFFFFFFFF Playbill.least

/-- A chorus whose lanes hold rising word addresses in v6. -/
def narrowChorus : Chorus :=
  let h := Chorus.start 0 Playbill.least 32 (List.replicate 32 0) (narrowRun.wellOf 0 0 0) 0 0
  { h with house := updAt h.house 6 (fun _ => Lanes.ofFn (fun l => BitVec.ofNat 32 (4 * l))) }

def narrowCompany : Company := { Company.start 1 narrowRun 0 0 0 0 0 with choruses := [narrowChorus] }

/-- The device after reset with that company placed, whose chorus issues. -/
def narrowState : State := { State.reset with runs := [narrowRun], companies := [narrowCompany], cur := { co := 1, ch := 0 } }

def narrowSite : Site := { co := narrowCompany, ch := narrowChorus, sp := narrowSplit }

/-- The load of the cistern word at v6 into v17. -/
def narrowLoad : Instr := .ldCw 0 0 6 17

theorem issues_narrowLoad : Issues narrowLoad narrowState narrowSite where
  site := by decide +kernel
  shaped := ⟨by decide +kernel, by decide +kernel, by decide +kernel, by decide +kernel, by decide +kernel, by decide +kernel, by decide +kernel,
    by decide +kernel⟩
  free := by decide +kernel
  cause := by decide +kernel
  fits := by decide +kernel
  resident := by decide +kernel
  loaded := by decide +kernel
  clean := by decide +kernel

/-! ## Its charge -/

/-- The record of cluster 0 after the load, and whether the chorus has issued. -/
def afterLoad : Option (Nat × Bool) :=
  match exec narrowLoad narrowState with
  | .next t => some ((t.cluster 0).record, (t.chorus? 1 0).any Chorus.issued)
  | _ => none

/-- All 32 lanes were active, and one is charged. -/
theorem afterLoad_eq : afterLoad = some (1, true) := by decide +kernel

/-- The load charges its cluster for the lanes that it leaves on, and not for those that were active as it issued. -/
theorem not_chargesAs_narrowLoad : ¬ ChargesAs narrowLoad .t1 1 := by
  intro charges
  obtain ⟨c, found, empty⟩ : ∃ c, narrowState.clusters.find? (fun c => c.num == 0) = some c ∧ c.record = 0 :=
    ⟨Cluster.init 0, by decide +kernel, rfl⟩
  have after := afterLoad_eq
  unfold afterLoad at after
  split at after
  next t step =>
    obtain ⟨record, issued⟩ := Prod.mk.inj (Option.some.inj after)
    obtain ⟨g, hg, did⟩ := (Option.any_eq_true _ _).1 issued
    have charged := (charges narrowState narrowSite t c issues_narrowLoad found rfl step ⟨_, hg, did⟩).1
    have lanes : (activeLanes narrowSite).length = 32 := by decide +kernel
    rw [lanes, empty] at charged
    exact absurd (record.symm.trans charged) (by decide)
  next => cases after

/-- Refutes O36: `ld.cw` is charged for fewer lanes than were active as it issued, where it finds some of them outside the window. -/
theorem not_coreEventResults : ¬ Obligations.CoreEventResults := by
  rintro ⟨⟨-, -, accesses, -⟩, -⟩
  obtain ⟨-, -, -, load⟩ := accesses 0 0 6 17
  exact not_chargesAs_narrowLoad load

end Sys2Proof.Laws.CisternCharge
end

section
/-! # A trap that an instruction takes as it executes (R26, R50, R140, R349, R350)

The bill of the instruction, and then the one operation that takes a trap: into the handler, or a halt of the chorus. -/

namespace Sys2Proof.Laws.ExecutionTrap
open Sys2Proof.Machine Sys2Proof.Claims Sys2Proof.Laws.Retire

/-! ## What stands where something was put (R4) -/

/-- The companies after a site is put back at its place. -/
theorem company?_put {s : State} {x y : Site} (hs : s.site? = some x) (hu : y.co.uid = x.co.uid) (u : Nat) :
    (s.put y).company? u = if u = x.co.uid then some (y.co.setChorus (y.ch.setSplit y.sp)) else s.company? u := by
  obtain ⟨found, -⟩ := State.site?_some hs
  rw [State.put, State.company?_setCompany, Company.setChorus_uid, hu]
  by_cases h : u = x.co.uid
  · rw [if_pos h, if_pos h, h, State.company?_uid found, found]
    rfl
  · rw [if_neg h, if_neg h]

/-- The chorus of a site is found in its company. -/
theorem chorus?_site {s : State} {x : Site} (hs : s.site? = some x) : x.co.chorus? x.ch.index = some x.ch := by
  obtain ⟨-, chorus, -⟩ := State.site?_some hs
  rw [Company.chorus?_index chorus, chorus]

theorem company?_site {s : State} {x : Site} (hs : s.site? = some x) : s.company? x.co.uid = some x.co := by
  obtain ⟨company, -⟩ := State.site?_some hs
  rw [State.company?_uid company, company]

theorem chorus?_of_company {s : State} {u i : Nat} {c : Company} {h : Chorus} (company : s.company? u = some c) (chorus : c.chorus? i = some h) :
    s.chorus? u i = some h := by
  rw [State.chorus?, company]
  exact chorus

/-- The choruses after the one of a site is set. -/
theorem chorus?_setChorus_site {s : State} {x : Site} (hs : s.site? = some x) {h : Chorus} (hi : h.index = x.ch.index) (k : Nat) :
    (x.co.setChorus h).chorus? k = if k = x.ch.index then some h else x.co.chorus? k := by
  rw [Company.chorus?_setChorus, hi]
  by_cases e : k = x.ch.index
  · rw [if_pos e, if_pos e, e, chorus?_site hs]
    rfl
  · rw [if_neg e, if_neg e]

/-- The choruses after one is changed that keeps its index. -/
theorem chorus?_modChorus (c : Company) (i k : Nat) {f : Chorus → Chorus} (keeps : ∀ h, (f h).index = h.index) :
    (c.modChorus i f).chorus? k = if k = i then (c.chorus? k).map f else c.chorus? k := by
  have found := find?_updWhere (fun h : Chorus => h.index == i) (fun h => h.index == k) f (fun h => by rw [keeps]) c.choruses
  refine found.trans ?_
  show (c.chorus? k).map _ = _
  cases e : c.chorus? k with
  | none => by_cases h : k = i <;> simp [h]
  | some g =>
    have := Company.chorus?_index e
    by_cases h : k = i <;> simp [h, this]

/-! ## The halt of a chorus (R319, R349) -/

/-- A chorus as it halts. -/
def haltedChorus (h : Chorus) (cause : Nat) : Chorus :=
  { h with halted := some cause, swept := false, chain := none, pump := none, requests := [] }

/-- A company as one of its choruses halts. -/
def haltedCompany (c : Company) (i cause : Nat) : Company :=
  { c.modChorus i (fun h => haltedChorus h cause) with
    firstHalt := FirstHalt.keep c.firstHalt { at_ := c.cyc, ch := i, cause := cause } }

/-- A chorus that has not halted yet halts: its company and its run change, and nothing else. -/
theorem halt_eq {s : State} {u i : Nat} {c : Company} {h : Chorus} (company : s.company? u = some c) (chorus : c.chorus? i = some h)
    (runs : h.halted = none) (cause : Nat) : s.halt u i cause = (s.setCompany (haltedCompany c i cause)).modRun c.ctx c.run
      (fun r => { r with firstHalt := FirstHalt.keep r.firstHalt { at_ := s.now, ch := i, cause := cause } }) := by
  rw [State.halt, company]
  simp only [chorus, runs, Option.isSome_none, Bool.false_eq_true, if_false]
  rfl

theorem firstHalt_keep_isSome (o : Option FirstHalt) (f : FirstHalt) : (FirstHalt.keep o f).isSome = true := by
  unfold FirstHalt.keep
  split
  · rfl
  · split <;> rfl

/-! ## The trap (R26, R50, R350) -/

/-- The chorus of a site that takes a trap, with the saved registers written. -/
def trapping (x : Site) (c : Nat) (tv : Word) : Chorus :=
  { x.ch with issued := true, cause := BitVec.ofNat 32 c, epc := trapPc x, tval := tv, chain := none }

/-- The site as the trap's handler begins. -/
def handling (x : Site) (c : Nat) (tv pc : Word) : Site :=
  { x with ch := { trapping x c tv with handler := true }, sp := { x.sp with pc := pc, state := .running, wait := .none } }

theorem trap_eq (b : State) (x : Site) (c : Nat) (tv : Word) : b.trap x.acted c tv = b.takeTrap x.acted c (trapPc x) tv false := by
  rw [State.trap, trapPc]
  show b.takeTrap x.acted c (match x.ch.chain with | some (_, p) => p | none => x.sp.pc) tv false = _
  cases x.ch.chain <;> rfl

/-- Where the playbill has a handler that may take the trap, it is entered. -/
theorem trap_handled (b : State) {x : Site} {c pc : Nat} (tv : Word) (handler : x.co.playbill.handler = some pc) (free : x.ch.handler = false)
    (check : c ≠ 0x0F) (poison : c ≠ 0x10) : b.trap x.acted c tv = b.put (handling x c tv (BitVec.ofNat 32 pc)) := by
  have admitted : (false || x.acted.ch.handler || c == 0x0F || c == 0x10) = false := by
    rw [show x.acted.ch.handler = false from free]
    simp [check, poison]
  rw [trap_eq, State.takeTrap, show x.acted.co.playbill.handler = some pc from handler]
  exact if_neg (by rw [admitted]; exact Bool.false_ne_true)

/-- Elsewhere the chorus halts. -/
theorem trap_halts (b : State) {x : Site} {c : Nat} (tv : Word)
    (h : x.co.playbill.handler = none ∨ x.ch.handler = true ∨ c = 0x0F ∨ c = 0x10) :
    b.trap x.acted c tv = (b.put { x with ch := trapping x c tv }).halt x.co.uid x.ch.index c := by
  rw [trap_eq, State.takeTrap]
  cases handler : x.co.playbill.handler with
  | none =>
    rw [show x.acted.co.playbill.handler = none from handler]
    rfl
  | some pc =>
    have barred : (false || x.ch.handler || c == 0x0F || c == 0x10) = true := by simpa [handler, or_assoc] using h
    rw [show x.acted.co.playbill.handler = some pc from handler]
    exact if_pos barred

theorem trapTaken_of_handled {b : State} {x : Site} {c pc : Nat} (tv : Word) (hs : b.site? = some x) (wait : x.sp.wait = .none)
    (handler : x.co.playbill.handler = some pc) (free : x.ch.handler = false) (check : c ≠ 0x0F) (poison : c ≠ 0x10) :
    TrapTaken b (b.trap x.acted c tv) x c tv := by
  obtain ⟨-, -, runs, halted, ended, running⟩ := State.site?_some hs
  have state : x.sp.state = .running := by simpa using List.find?_some running
  have company := company?_put (y := handling x c tv (BitVec.ofNat 32 pc)) hs rfl
  have own := (company x.co.uid).trans (if_pos rfl)
  have chorus := chorus?_setChorus_site hs (h := (handling x c tv (BitVec.ofNat 32 pc)).ch.setSplit (handling x c tv (BitVec.ofNat 32 pc)).sp) rfl
  have found := chorus?_of_company own ((chorus x.ch.index).trans (if_pos rfl))
  have sp : (handling x c tv (BitVec.ofNat 32 pc)).sp = { x.sp with pc := BitVec.ofNat 32 pc } := by
    rw [handling, ← state, ← wait]
  rw [trap_handled b tv handler free check poison]
  constructor
  case saved => exact ⟨_, found, rfl, rfl, rfl, rfl, rfl, rfl, rfl, rfl⟩
  case device => rfl
  case others => exact fun u hu => (company u).trans (if_neg hu)
  case company => exact ⟨_, own, rfl, fun k hk => (chorus k).trans (if_neg hk)⟩
  case handled =>
    intro pc' handler' _ _ _
    obtain rfl : pc = pc' := Option.some.inj (handler.symm.trans handler')
    refine ⟨rfl, _, State.site?_put hs rfl runs rfl ?_ halted ended ?_, rfl, sp, rfl⟩
    · show (x.co.chorus? x.ch.index).isSome = true
      rw [chorus?_site hs]
      rfl
    · exact find?_replaced (m := fun q => q.members == x.sp.members) (a := x.sp)
        (b := (handling x c tv (BitVec.ofNat 32 pc)).sp) (beq_self_eq_true x.sp.members) rfl running
  case halted => simp [handler, free, check, poison]

theorem trapTaken_of_halts {b : State} {x : Site} {c : Nat} (tv : Word) (hs : b.site? = some x)
    (h : x.co.playbill.handler = none ∨ x.ch.handler = true ∨ c = 0x0F ∨ c = 0x10) : TrapTaken b (b.trap x.acted c tv) x c tv := by
  obtain ⟨-, -, -, running, -⟩ := State.site?_some hs
  have put := company?_put (y := { x with ch := trapping x c tv }) hs rfl
  have chorus := chorus?_setChorus_site hs (h := (trapping x c tv).setSplit x.sp) rfl
  have halts := halt_eq ((put x.co.uid).trans (if_pos rfl)) ((chorus x.ch.index).trans (if_pos rfl)) running c
  have company (u : Nat) : (b.trap x.acted c tv).company? u =
      if u = x.co.uid then some (haltedCompany (x.co.setChorus ((trapping x c tv).setSplit x.sp)) x.ch.index c) else b.company? u := by
    rw [trap_halts b tv h, halts]
    refine (State.company?_setCompany _ _ u).trans ?_
    show (if u = x.co.uid then _ else _) = _
    by_cases e : u = x.co.uid
    · rw [if_pos e, if_pos e, put, if_pos e]
      rfl
    · rw [if_neg e, if_neg e, put, if_neg e]
  have own := (company x.co.uid).trans (if_pos rfl)
  have choruses (k : Nat) : (haltedCompany (x.co.setChorus ((trapping x c tv).setSplit x.sp)) x.ch.index c).chorus? k =
      if k = x.ch.index then some (haltedChorus ((trapping x c tv).setSplit x.sp) c) else x.co.chorus? k := by
    refine (chorus?_modChorus _ _ k (f := fun h => haltedChorus h c) fun _ => rfl).trans ?_
    by_cases e : k = x.ch.index
    · rw [if_pos e, if_pos e, chorus, if_pos e]
      rfl
    · rw [if_neg e, if_neg e, chorus, if_neg e]
  constructor
  case saved =>
    have found := chorus?_of_company own ((choruses x.ch.index).trans (if_pos rfl))
    exact ⟨_, found, rfl, rfl, rfl, rfl, rfl, rfl, rfl, rfl⟩
  case device =>
    rw [trap_halts b tv h, halts]
    rfl
  case others => exact fun u hu => (company u).trans (if_neg hu)
  case company => exact ⟨_, own, rfl, fun k hk => (choruses k).trans (if_neg hk)⟩
  case handled =>
    intro pc handler free check poison
    simp [handler, free, check, poison] at h
  case halted => exact fun _ => ⟨_, _, own, firstHalt_keep_isSome _ _, (choruses _).trans (if_pos rfl), rfl⟩

/-- A trap that the instruction of a site takes as it executes is taken as the statements have it. -/
theorem trapTaken_trap {b : State} {x : Site} (c : Nat) (tv : Word) (hs : b.site? = some x) (wait : x.sp.wait = .none) :
    TrapTaken b (b.trap x.acted c tv) x c tv := by
  by_cases h : x.co.playbill.handler = none ∨ x.ch.handler = true ∨ c = 0x0F ∨ c = 0x10
  · exact trapTaken_of_halts tv hs h
  · simp only [not_or] at h
    obtain ⟨handler, free, check, poison⟩ := h
    obtain ⟨pc, hpc⟩ := Option.ne_none_iff_exists'.1 handler
    exact trapTaken_of_handled tv hs wait hpc (by simpa using free) check poison

/-- An instruction that fails as it executes is billed, and traps (R115, R149, R154). -/
theorem traps_of_fail {i : Instr} {s : State} {x : Site} {c : Nat} {tv : Word} (h : Issues i s x) (step : exec i s = .next (s.fail i x c tv)) :
    Traps i s x c tv :=
  ⟨s.bill i x, s.fail i x c tv, step, billed_bill i rfl (fun _ _ => rfl) rfl, by rw [bill_eq],
    trapTaken_trap c tv ((site?_bill s i x).trans h.site) h.free⟩

end Sys2Proof.Laws.ExecutionTrap
end

section
/-! # Where a branch sends the split (R116 to R118)

A branch groups the active lanes by their next PC: with no group the split goes on, with one it jumps, and with more it divides. -/

namespace Sys2Proof.Laws.Branch
open Sys2Proof.Machine Sys2Proof.Claims Sys2Proof.Laws.Retire Sys2Proof.Laws.Masks Sys2Proof.Laws.ExecutionTrap

/-! ## The split goes on, or jumps (R116, R118) -/

theorem does_of_retire {i : Instr} {s : State} {x : Site} (hs : s.site? = some x) (step : exec i s = .next (s.retire i x x)) : Does i s s x :=
  ⟨_, landed i x, step, billed_retire i (.refl x), past_retire i hs (.refl x)⟩

/-- The site as it stands in the state after an instruction that left its split at `pc`. -/
def landedAt (pc : Word) (i : Instr) (x : Site) : Site :=
  let q : Split := { (x.next i).sp with pc := pc }
  { co := x.co.setChorus ((x.next i).ch.setSplit q), ch := (x.next i).ch.setSplit q, sp := q }

theorem site?_retireAt {s : State} {x : Site} (i : Instr) (pc : Word) (hs : s.site? = some x) :
    (s.retireAt i x x pc).site? = some (landedAt pc i x) := by
  obtain ⟨-, -, runs, halted, ended, running⟩ := State.site?_some hs
  have isRunning : x.sp.state = .running := by simpa using List.find?_some running
  rw [State.retireAt, site?_bill]
  refine State.site?_put hs rfl runs rfl ?_ halted ended ?_
  · show (x.co.chorus? x.ch.index).isSome = true
    rw [chorus?_site hs]
    rfl
  · exact find?_replaced (m := fun q => q.members == x.sp.members) (a := x.sp) (b := (landedAt pc i x).sp) (beq_self_eq_true x.sp.members)
      (by rw [show (landedAt pc i x).sp.state = x.sp.state from rfl, isRunning]; rfl) running

/-- What stands in the state after a jump is the site that issued, at the jump's target. -/
theorem pastAt_retireAt {s : State} {x : Site} (i : Instr) (pc : Word) (hs : s.site? = some x) :
    PastAt pc i (s.retireAt i x x pc) x (landedAt pc i x) where
  site := site?_retireAt i pc hs
  company := rfl
  choruses k hk := (chorus?_setChorus_site hs (h := (landedAt pc i x).ch) rfl k).trans (if_neg hk)
  chorus := rfl
  served := (past_retire i hs (.refl x)).served
  splits := rfl
  split := rfl
  issues := issuesThen_issuesAfter i x
  chain := (past_retire i hs (.refl x)).chain

theorem billed_retireAt {s : State} {x : Site} (i : Instr) (pc : Word) : Billed s (s.retireAt i x x pc) x := by
  refine billed_bill i rfl (fun u hu => ?_) rfl
  rw [State.put, State.company?_setCompany, if_neg]
  exact hu

theorem doesAt_of_retireAt {i : Instr} {s : State} {x : Site} {pc : Word} (hs : s.site? = some x)
    (step : exec i s = .next (s.retireAt i x x pc)) : DoesAt pc i s x :=
  ⟨_, landedAt pc i x, step, billed_retireAt i pc, pastAt_retireAt i pc hs⟩

/-! ## The groups of the active lanes (R117) -/

/-- Groups of lanes by next PC: one for each PC, of the lanes that go there. -/
structure Grouped (next : Nat → Word) (ls : List Nat) (gs : List (Word × Mask)) : Prop where
  apart : gs.Pairwise (fun g h => g.1 ≠ h.1)
  taken : ∀ g, g ∈ gs → ∃ l, l ∈ ls ∧ next l = g.1
  lanes : ∀ g, g ∈ gs → ∀ k, k < 32 → (g.2.has k = true ↔ k ∈ ls ∧ next k = g.1)
  all : ∀ l, l ∈ ls → ∃ g, g ∈ gs ∧ g.1 = next l

theorem grouped_nil (next : Nat → Word) : Grouped next [] [] := ⟨.nil, by simp, by simp, by simp⟩

/-- A lane joins the group of its PC. -/
theorem Grouped.join {next : Nat → Word} {ls : List Nat} {gs : List (Word × Mask)} (h : Grouped next ls gs) {l : Nat}
    (there : ∃ g, g ∈ gs ∧ g.1 = next l) :
    Grouped next (ls ++ [l]) (updWhere (fun g => g.1 == next l) (fun g => (g.1, g.2 ||| (1#32 <<< l))) gs) := by
  have pcs (g : Word × Mask) : (if g.1 == next l then (g.1, g.2 ||| (1#32 <<< l)) else g).1 = g.1 := by split <;> rfl
  constructor
  case apart =>
    rw [updWhere, List.pairwise_map]
    exact h.apart.imp fun {a b} ne => by rwa [pcs, pcs]
  case taken =>
    intro g hg
    obtain ⟨g, old, rfl⟩ := List.mem_map.1 hg
    obtain ⟨m, hm, e⟩ := h.taken g old
    exact ⟨m, by simp [hm], by rw [pcs, e]⟩
  case lanes =>
    intro g hg k hk
    obtain ⟨g, old, rfl⟩ := List.mem_map.1 hg
    have before := h.lanes g old k hk
    by_cases own : g.1 = next l
    · rw [if_pos (by simpa using own), has_or, has_bit hk, Bool.or_eq_true, before, List.mem_append, List.mem_singleton, own]
      grind
    · rw [if_neg (by simpa using own), before, List.mem_append, List.mem_singleton]
      grind
  case all =>
    intro m hm
    obtain ⟨g, hg, e⟩ : ∃ g, g ∈ gs ∧ g.1 = next m := by
      obtain old | new := List.mem_append.1 hm
      · exact h.all m old
      · rwa [List.mem_singleton.1 new]
    exact ⟨_, List.mem_map.2 ⟨g, hg, rfl⟩, by rw [pcs, e]⟩

/-- A lane begins the group of its PC. -/
theorem Grouped.begin {next : Nat → Word} {ls : List Nat} {gs : List (Word × Mask)} (h : Grouped next ls gs) {l : Nat}
    (new : ∀ g, g ∈ gs → g.1 ≠ next l) : Grouped next (ls ++ [l]) (gs ++ [(next l, 1#32 <<< l)]) := by
  constructor
  case apart => exact List.pairwise_append.2 ⟨h.apart, by simp, fun g hg k hk => by simpa [List.mem_singleton.1 hk] using new g hg⟩
  case taken =>
    intro g hg
    obtain old | own := List.mem_append.1 hg
    · obtain ⟨m, hm, e⟩ := h.taken g old
      exact ⟨m, by simp [hm], e⟩
    · exact ⟨l, by simp, by rw [List.mem_singleton.1 own]⟩
  case lanes =>
    intro g hg k hk
    rw [List.mem_append, List.mem_singleton]
    obtain old | own := List.mem_append.1 hg
    · rw [h.lanes g old k hk]
      have := new g old
      grind
    · rw [List.mem_singleton.1 own]
      have none (known : k ∈ ls) : next k ≠ next l := fun e => by
        obtain ⟨g, hg, there⟩ := h.all k known
        exact new g hg (there.trans e)
      rw [has_bit hk]
      grind
  case all =>
    intro m hm
    obtain old | own := List.mem_append.1 hm
    · obtain ⟨g, hg, e⟩ := h.all m old
      exact ⟨g, by simp [hg], e⟩
    · exact ⟨(next l, 1#32 <<< l), by simp, by rw [List.mem_singleton.1 own]⟩

theorem grouped_groupByPc (next : Nat → Word) : ∀ (ls done : List Nat) (gs : List (Word × Mask)), Grouped next done gs →
    Grouped next (done ++ ls) (groupByPc (ls.map (fun l => (l, next l))) gs)
  | [], done, gs, h => by simpa [groupByPc] using h
  | l :: r, done, gs, h => by
    rw [List.map_cons, groupByPc, List.append_cons]
    by_cases there : gs.any (fun g => g.1 == next l) = true
    · rw [if_pos there]
      obtain ⟨g, hg, e⟩ := List.any_eq_true.1 there
      exact grouped_groupByPc next r _ _ (h.join ⟨g, hg, by simpa using e⟩)
    · rw [if_neg there]
      refine grouped_groupByPc next r _ _ (h.begin fun g hg e => there (List.any_eq_true.2 ⟨g, hg, by simp [e]⟩))

/-- The groups of a site's active lanes. -/
def groups (x : Site) (next : Nat → Word) : List (Word × Mask) := groupByPc (x.active.lanes.map (fun l => (l, next l))) []

theorem grouped_groups (x : Site) (next : Nat → Word) : Grouped next x.active.lanes (groups x next) :=
  grouped_groupByPc next x.active.lanes [] [] (grouped_nil next)

theorem branch_eq (s : State) (i : Instr) (x : Site) (next : Nat → Word) : s.branch i x next =
    match groups x next with
    | [] => s.retire i x x
    | [g] => s.retireAt i x x g.1
    | gs => s.retireSplit i x x (x.parts gs) := rfl

theorem branch_idle {s : State} {i : Instr} {x : Site} {next : Nat → Word} (idle : x.active = 0) : s.branch i x next = s.retire i x x := by
  have none : groups x next = [] := List.eq_nil_iff_forall_not_mem.2 fun g hg => by
    obtain ⟨l, hl, -⟩ := (grouped_groups x next).taken g hg
    have active := mem_lanes.1 hl
    rw [idle] at active
    simp [Mask.has] at active
  rw [branch_eq, none]

theorem exists_active {x : Site} (active : x.active ≠ 0) : ∃ l, l ∈ x.active.lanes := by
  by_contra none
  refine active (eq_of_has fun l _ => ?_)
  have off : x.active.has l = false := by simpa using fun on => none ⟨l, mem_lanes.2 on⟩
  rw [off]
  simp [Mask.has]

theorem branch_uniform {s : State} {i : Instr} {x : Site} {next : Nat → Word} {pc : Word} (active : x.active ≠ 0)
    (same : ∀ l, l ∈ activeLanes x → next l = pc) : s.branch i x next = s.retireAt i x x pc := by
  have grouped := grouped_groups x next
  have there (g) (hg : g ∈ groups x next) : g.1 = pc := by
    obtain ⟨l, hl, e⟩ := grouped.taken g hg
    exact e.symm.trans (same l hl)
  obtain ⟨l, hl⟩ := exists_active active
  rw [branch_eq]
  match gs : groups x next with
  | [] =>
    obtain ⟨g, hg, -⟩ := grouped.all l hl
    rw [gs] at hg
    cases hg
  | [g] => exact congrArg (s.retireAt i x x) (there g (by simp [gs]))
  | g :: h :: r =>
    have apart := grouped.apart
    rw [gs] at apart
    exact absurd ((there g (by simp [gs])).trans (there h (by simp [gs])).symm) (List.rel_of_pairwise_cons apart (by simp))

theorem branch_divided {s : State} {i : Instr} {x : Site} {next : Nat → Word} {j k : Nat} (hj : j ∈ activeLanes x) (hk : k ∈ activeLanes x)
    (differ : next j ≠ next k) : s.branch i x next = s.retireSplit i x x (x.parts (groups x next)) := by
  have grouped := grouped_groups x next
  obtain ⟨g, hg, gj⟩ := grouped.all j hj
  obtain ⟨h, hh, hk⟩ := grouped.all k hk
  rw [branch_eq]
  match gs : groups x next with
  | [] =>
    rw [gs] at hg
    cases hg
  | [_] =>
    rw [gs, List.mem_singleton] at hg hh
    exact absurd (gj.symm.trans ((congrArg Prod.fst (hg.trans hh.symm)).trans hk)) differ
  | _ :: _ :: _ => rfl

end Sys2Proof.Laws.Branch
end

section
/-! # How a split divides (R117)

The new splits take the place of the old one. As no merge was pending, none is after it, and what follows (entries that leave the chip, windows
asked for, the choice of a split to run) moves none of the fields that a division sets. -/

namespace Sys2Proof.Laws.Division
open Sys2Proof.Machine Sys2Proof.Claims Sys2Proof.Laws.Retire Sys2Proof.Laws.Masks Sys2Proof.Laws.ExecutionTrap Sys2Proof.Laws.Branch

/-! ## What a choice among the splits leaves alone -/

/-- A split but for its state, its wait, its place in the well and its count of issues. -/
def lasting (p : Split) : Split := { p with state := .ready, wait := .none, spilled := false, place := 0, owed := false, issues := 0 }

/-- What does not look at those fields is the same of two splits that last alike. -/
theorem eq_of_lasting {α : Type} {p q : Split} (f : Split → α) (blind : ∀ r, f (lasting r) = f r) (h : lasting p = lasting q) : f p = f q :=
  (blind p).symm.trans ((congrArg f h).trans (blind q))

theorem members_of_lasting {p q : Split} (h : lasting p = lasting q) : p.members = q.members := eq_of_lasting Split.members (fun _ => rfl) h

theorem lasting_updWhere {m : Split → Bool} {f : Split → Split} {l : List Split}
    (keeps : ∀ p, p ∈ l → m p = true → lasting (f p) = lasting p) : (updWhere m f l).map lasting = l.map lasting := by
  rw [updWhere, List.map_map]
  refine List.map_congr_left fun p hp => ?_
  show lasting (if m p then f p else p) = lasting p
  by_cases h : m p = true
  · rw [if_pos h, keeps p hp h]
  · rw [if_neg h]

theorem lasting_windowed (h : Chorus) : h.windowed.splits.map lasting = h.splits.map lasting := lasting_updWhere fun _ _ _ => rfl

/-- Splits with the same members are one. -/
def Distinct (ps : List Split) : Prop := ∀ p q, p ∈ ps → q ∈ ps → p.members = q.members → lasting p = lasting q

theorem Distinct.of_lasting {ps qs : List Split} (h : Distinct ps) (same : qs.map lasting = ps.map lasting) : Distinct qs := by
  have source (q) (hq : q ∈ qs) : ∃ p, p ∈ ps ∧ lasting p = lasting q := by
    rw [← List.mem_map, ← same]
    exact List.mem_map_of_mem hq
  intro p q hp hq e
  obtain ⟨a, ha, ea⟩ := source p hp
  obtain ⟨b, hb, eb⟩ := source q hq
  exact ea.symm.trans ((h a b ha hb ((members_of_lasting ea).trans (e.trans (members_of_lasting eb).symm))).trans eb)

theorem bestSplit_mem : ∀ {ps : List Split} {p : Split}, bestSplit ps = some p → p ∈ ps
  | [], p, h => by cases h
  | q :: r, p, h => by
    rw [bestSplit] at h
    cases best : bestSplit r with
    | none =>
      rw [best] at h
      exact Option.some.inj h ▸ List.mem_cons_self
    | some b =>
      rw [best] at h
      by_cases before : q.before b = true
      · exact Option.some.inj ((if_pos before).symm.trans h) ▸ List.mem_cons_self
      · exact List.mem_cons_of_mem q (bestSplit_mem (best.trans ((if_neg before).symm.trans h)))

/-- The choice of a split moves its state, and asks for windows. -/
theorem lasting_choose {h : Chorus} (distinct : Distinct h.splits) : h.choose.splits.map lasting = h.splits.map lasting := by
  unfold Chorus.choose
  split
  · rfl
  · dsimp only
    cases best : bestSplit (h.windowed.splits.filter h.windowed.canRun) with
    | none => exact lasting_windowed h
    | some p =>
      have there : p ∈ h.windowed.splits := List.mem_of_mem_filter (bestSplit_mem best)
      refine Eq.trans (lasting_updWhere fun q hq e => ?_) (lasting_windowed h)
      exact distinct.of_lasting (lasting_windowed h) p q there hq (beq_iff_eq.1 e).symm

theorem choose_eq (h : Chorus) : h.choose = { h with splits := h.choose.splits, requests := h.choose.requests } := by
  unfold Chorus.choose
  split
  · rfl
  · dsimp only
    split <;> rfl

/-! ## The split table (R17) -/

/-- `q` is `p`, or `p` with its entry in the well. -/
structure Stored (p q : Split) : Prop where
  lasting : lasting q = lasting p
  state : q.state = p.state
  onChip : q.spilled = false → p.spilled = false

/-- Entries that leave the chip keep what they hold. -/
theorem spillLoop_stored : ∀ (n : Nat) (ps : List Split), ∃ f : Split → Split, spillLoop n ps = ps.map f ∧ ∀ p, Stored p (f p)
  | 0, ps => ⟨id, (List.map_id ps).symm, fun _ => ⟨rfl, rfl, id⟩⟩
  | n + 1, ps => by
    unfold spillLoop
    split
    · exact ⟨id, (List.map_id ps).symm, fun _ => ⟨rfl, rfl, id⟩⟩
    · dsimp only
      split
      · exact ⟨id, (List.map_id ps).symm, fun _ => ⟨rfl, rfl, id⟩⟩
      next v _ =>
        obtain ⟨f, loop, stored⟩ := spillLoop_stored n (spillEntry v.members ps)
        refine ⟨_, loop.trans List.map_map, fun p => ?_⟩
        dsimp only [Function.comp]
        split
        · obtain ⟨lasting, state, onChip⟩ := stored { p with spilled := true, place := freePlace ps, owed := true }
          exact ⟨lasting.trans rfl, state, fun h => absurd (onChip h) (by simp)⟩
        · exact stored p

/-! ## A chorus in which no merge is pending (R16, R122) -/

/-- Splits among which no merge set has arrived whole, and of which one without a live member has arrived. -/
structure Calm (exited : Mask) (ps : List Split) : Prop where
  stands : ∀ p, p ∈ ps → p.members &&& ~~~exited ≠ 0 ∨ p.isArrived = true
  waits : ∀ p, p ∈ ps → p.isArrived = true → p.spilled = false → p.joinPc ≠ noJoin →
    ∃ q, q ∈ ps ∧ q.sameJoin p = true ∧ ¬(q.isArrived = true ∧ q.spilled = false)

theorem calm_of_settled {h : Chorus} (settled : Settled h) : Calm h.exited h.splits := by
  obtain ⟨unready, stands⟩ := settled
  refine ⟨stands, fun p hp arrived onChip joins => ?_⟩
  have := List.find?_eq_none.1 unready p hp
  simpa [arrived, onChip, joins] using this

theorem mergeReady_of_calm {exited : Mask} {ps : List Split} (calm : Calm exited ps) : mergeReady ps = none := by
  refine List.find?_eq_none.2 fun p hp ready => ?_
  simp only [Bool.and_eq_true, Bool.not_eq_true', bne_iff_ne, List.all_eq_true, Bool.or_eq_true, Bool.not_eq_true'] at ready
  obtain ⟨⟨⟨arrived, onChip⟩, joins⟩, all⟩ := ready
  obtain ⟨q, hq, same, waits⟩ := calm.waits p hp arrived onChip joins
  obtain other | both := all q hq
  · rw [same] at other
    cases other
  · exact waits both

theorem Calm.map {exited : Mask} {ps : List Split} (calm : Calm exited ps) {f : Split → Split} (stored : ∀ p, Stored p (f p)) :
    Calm exited (ps.map f) := by
  have arrived (p : Split) : (f p).isArrived = p.isArrived := by rw [Split.isArrived, (stored p).state, Split.isArrived]
  have members (p : Split) : (f p).members = p.members := members_of_lasting (stored p).lasting
  have joinPc (p : Split) : (f p).joinPc = p.joinPc := eq_of_lasting Split.joinPc (fun _ => rfl) (stored p).lasting
  have sameJoin (p q : Split) : (f q).sameJoin (f p) = q.sameJoin p := by
    show (lasting (f q)).sameJoin (lasting (f p)) = q.sameJoin p
    rw [(stored p).lasting, (stored q).lasting]
    rfl
  constructor
  case stands =>
    intro _ image
    obtain ⟨p, hp, rfl⟩ := List.mem_map.1 image
    rw [members, arrived]
    exact calm.stands p hp
  case waits =>
    intro _ image
    obtain ⟨p, hp, rfl⟩ := List.mem_map.1 image
    rw [arrived, joinPc]
    intro arr onChip joins
    obtain ⟨q, hq, same, waits⟩ := calm.waits p hp arr ((stored p).onChip onChip) joins
    exact ⟨f q, List.mem_map_of_mem hq, by rw [sameJoin, same], fun h => waits ⟨by rw [← arrived, h.1], (stored q).onChip h.2⟩⟩

/-- Whether a split stays as the merge sets are evaluated: it has a live member, or a join point. -/
def stays (exited : Mask) (p : Split) : Bool := !(p.members &&& ~~~exited == 0 && p.joinPc == noJoin)

/-- The splits that stay are calm too: one that a merge awaits has its join point. -/
theorem Calm.filter {exited : Mask} {ps : List Split} (calm : Calm exited ps) : Calm exited (ps.filter (stays exited)) where
  stands p hp := calm.stands p (List.mem_of_mem_filter hp)
  waits p hp arrived onChip joins := by
    obtain ⟨q, hq, same, waits⟩ := calm.waits p (List.mem_of_mem_filter hp) arrived onChip joins
    have joinPc : q.joinPc = p.joinPc := by
      simp only [Split.sameJoin, Bool.and_eq_true, beq_iff_eq] at same
      exact same.1.1
    exact ⟨q, List.mem_filter.2 ⟨hq, by simp [stays, joinPc, joins]⟩, same, waits⟩

/-- Where no merge is pending, the evaluation of the merge sets drops what has ended, and a split is chosen. -/
theorem reconverge_of_calm {h : Chorus} (calm : Calm h.exited h.splits) : h.reconverge =
    ({ h with
      splits := h.splits.filter (stays h.exited)
      joins := freeJoins (h.splits.filter (stays h.exited)) none h.joins } : Chorus).windowed.choose := by
  have kept : (h.splits.filter (stays h.exited)).map
      (fun p => if p.members &&& ~~~h.exited == 0 && !p.isArrived then { p with state := .arrived, wait := .join } else p) =
      h.splits.filter (stays h.exited) := by
    refine (List.map_congr_left fun p hp => if_neg ?_).trans (List.map_id _)
    obtain live | arrived := calm.filter.stands p hp
    · exact fun e => live (beq_iff_eq.1 (Bool.and_eq_true_iff.1 e).1)
    · simp [arrived]
  unfold Chorus.reconverge
  show (mergeLoop 33 { h with splits := (h.splits.filter (stays h.exited)).map _ }).windowed.choose = _
  rw [kept, mergeLoop, mergeReady_of_calm calm.filter]

theorem lasting_reconverge {h : Chorus} (calm : Calm h.exited h.splits) (distinct : Distinct h.splits) :
    h.reconverge.splits.map lasting = (h.splits.filter (stays h.exited)).map lasting := by
  have fewer : Distinct (h.splits.filter (stays h.exited)) := fun p q hp hq =>
    distinct p q (List.mem_of_mem_filter hp) (List.mem_of_mem_filter hq)
  rw [reconverge_of_calm calm, lasting_choose (fewer.of_lasting (lasting_windowed _)), lasting_windowed]

theorem reconverge_eq {h : Chorus} (calm : Calm h.exited h.splits) : h.reconverge =
    { h with splits := h.reconverge.splits, joins := h.reconverge.joins, requests := h.reconverge.requests } := by
  rw [reconverge_of_calm calm, choose_eq]
  rfl

/-! ## The new splits take the old one's place (R117) -/

/-- A new split as it enters the table. -/
def entered (h : Chorus) (p : Split) : Split := { p with mem := h.outstanding p.members, state := .ready, issues := 0 }

/-- The splits of a chorus beside that of a site. -/
def others (y : Site) : List Split := y.ch.splits.filter (fun p => p.members != y.sp.members)

/-- The split of `y` may divide into `new`: its chorus has no merge pending, and the new splits share its members and its join point. -/
structure Divides (y : Site) (new : List Split) : Prop where
  apart : Apart y.ch
  settled : Settled y.ch
  own : ∃ q, q ∈ y.ch.splits ∧ q.members = y.sp.members
  some : new ≠ []
  join : ∀ c, c ∈ new → ∀ q, q ∈ y.ch.splits → q.members = y.sp.members → ∀ p, q.sameJoin p = true → c.sameJoin p = true
  live : ∀ c, c ∈ new → c.members &&& ~~~y.ch.exited ≠ 0
  within : ∀ c, c ∈ new → c.members &&& y.sp.members = c.members
  distinct : ∀ c d, c ∈ new → d ∈ new → c.members = d.members → c = d

/-- Two splits of a chorus share no member. -/
theorem disjoint_of_ne {h : Chorus} (apart : Apart h) {p q : Split} (hp : p ∈ h.splits) (hq : q ∈ h.splits) (ne : p ≠ q) :
    p.members &&& q.members = 0 := by
  have : Std.Symm (fun a b : Split => a.members &&& b.members = 0) := ⟨fun a b e => by rwa [BitVec.and_comm]⟩
  exact apart.2.forall hp hq ne

/-- Splits of a chorus with the same members are one. -/
theorem eq_of_members {h : Chorus} (apart : Apart h) {p q : Split} (hp : p ∈ h.splits) (hq : q ∈ h.splits) (same : p.members = q.members) :
    p = q := by
  by_contra ne
  have none := disjoint_of_ne apart hp hq ne
  rw [same, BitVec.and_self] at none
  exact apart.1 q hq none

section
variable {y : Site} {new : List Split} (divides : Divides y new)
include divides

/-- After a division no merge is pending: where one awaited the split that divided, it awaits the new ones. -/
theorem Divides.calm : Calm y.ch.exited (others y ++ new.map (entered y.ch)) := by
  have before := calm_of_settled divides.settled
  constructor
  case stands =>
    intro p hp
    obtain old | add := List.mem_append.1 hp
    · exact before.stands p (List.mem_of_mem_filter old)
    · obtain ⟨c, hc, rfl⟩ := List.mem_map.1 add
      exact .inl (divides.live c hc)
  case waits =>
    intro p hp arrived onChip joins
    obtain old | add := List.mem_append.1 hp
    · obtain ⟨q, hq, same, waits⟩ := before.waits p (List.mem_of_mem_filter old) arrived onChip joins
      by_cases own : q.members = y.sp.members
      · obtain ⟨c, hc⟩ := List.exists_mem_of_ne_nil new divides.some
        exact ⟨entered y.ch c, List.mem_append_right _ (List.mem_map_of_mem hc), divides.join c hc q hq own p same, fun h => nomatch h.1⟩
      · exact ⟨q, List.mem_append_left _ (List.mem_filter.2 ⟨hq, by simpa using own⟩), same, waits⟩
    · obtain ⟨c, hc, rfl⟩ := List.mem_map.1 add
      cases arrived

/-- A split beside the one that divides has other members than the new ones. -/
theorem Divides.members_ne {p c : Split} (hp : p ∈ others y) (hc : c ∈ new) : p.members ≠ c.members := by
  intro same
  obtain ⟨there, ne⟩ := List.mem_filter.1 hp
  obtain ⟨q, hq, own⟩ := divides.own
  have within := divides.within c hc
  have disjoint : p.members &&& q.members = 0 := by
    refine disjoint_of_ne divides.apart there hq fun e => ?_
    rw [e, own] at ne
    simp at ne
  rw [← same, ← own, disjoint] at within
  exact divides.apart.1 p there within.symm

theorem Divides.distinct_table : Distinct (others y ++ new.map (entered y.ch)) := by
  intro p q hp hq same
  obtain oldp | addp := List.mem_append.1 hp <;> obtain oldq | addq := List.mem_append.1 hq
  · rw [eq_of_members divides.apart (List.mem_of_mem_filter oldp) (List.mem_of_mem_filter oldq) same]
  · obtain ⟨c, hc, rfl⟩ := List.mem_map.1 addq
    exact absurd same (divides.members_ne (c := c) oldp hc)
  · obtain ⟨c, hc, rfl⟩ := List.mem_map.1 addp
    exact absurd same.symm (divides.members_ne (c := c) oldq hc)
  · obtain ⟨c, hc, rfl⟩ := List.mem_map.1 addp
    obtain ⟨d, hd, rfl⟩ := List.mem_map.1 addq
    rw [divides.distinct c d hc hd same]

/-- The chorus after a division: its splits, its join formats and its requests alone have changed, and its chain has ended. -/
theorem Divides.replace_eq : y.replace new = { y.ch with
    splits := (y.replace new).splits, joins := (y.replace new).joins, requests := (y.replace new).requests, chain := none } := by
  obtain ⟨f, table, stored⟩ := spillLoop_stored 32 (others y ++ new.map (entered y.ch))
  have calm : Calm y.ch.exited (spillLoop 32 (others y ++ new.map (entered y.ch))) := table ▸ divides.calm.map stored
  exact (reconverge_eq (h := { y.ch with joins := recordJoin y.ch y.sp, splits := _, chain := none }) calm).trans rfl

theorem Divides.lasting_replace : ∃ f : Split → Split, (∀ p, Stored p (f p)) ∧ (y.replace new).splits.map lasting =
    (((others y ++ new.map (entered y.ch)).map f).filter (stays y.ch.exited)).map lasting := by
  obtain ⟨f, table, stored⟩ := spillLoop_stored 32 (others y ++ new.map (entered y.ch))
  have calm : Calm y.ch.exited (spillLoop 32 (others y ++ new.map (entered y.ch))) := table ▸ divides.calm.map stored
  have same : (spillLoop 32 (others y ++ new.map (entered y.ch))).map lasting = (others y ++ new.map (entered y.ch)).map lasting := by
    rw [table, List.map_map]
    exact List.map_congr_left fun p _ => (stored p).lasting
  refine ⟨f, stored, ?_⟩
  rw [← table]
  exact lasting_reconverge (h := { y.ch with joins := recordJoin y.ch y.sp, splits := _, chain := none }) calm
    (divides.distinct_table.of_lasting same)

/-- Each new split stands in the table. -/
theorem Divides.mem_replace {c : Split} (hc : c ∈ new) : ∃ p, p ∈ (y.replace new).splits ∧ lasting p = lasting (entered y.ch c) := by
  obtain ⟨f, stored, splits⟩ := divides.lasting_replace
  have members : (f (entered y.ch c)).members = c.members := (members_of_lasting (stored (entered y.ch c)).lasting :)
  rw [← List.mem_map, splits, ← (stored _).lasting]
  refine List.mem_map_of_mem (List.mem_filter.2 ⟨List.mem_map_of_mem (List.mem_append_right _ (List.mem_map_of_mem hc)), ?_⟩)
  have live := divides.live c hc
  rw [stays, members, beq_false_of_ne live]
  rfl

/-- A split in the table is one of the old ones that stayed, or one of the new. -/
theorem Divides.members_replace {p : Split} (hp : p ∈ (y.replace new).splits) :
    p.members ≠ y.sp.members ∨ ∃ c, c ∈ new ∧ p.members = c.members := by
  obtain ⟨f, stored, splits⟩ := divides.lasting_replace
  have image := List.mem_map_of_mem (f := lasting) hp
  rw [splits] at image
  obtain ⟨_, stayed, e⟩ := List.mem_map.1 image
  obtain ⟨q, hq, rfl⟩ := List.mem_map.1 (List.mem_of_mem_filter stayed)
  have members : p.members = q.members := (members_of_lasting e).symm.trans (members_of_lasting (stored q).lasting)
  obtain old | add := List.mem_append.1 hq
  · exact .inl (by simpa [members] using (List.mem_filter.1 old).2)
  · obtain ⟨c, hc, rfl⟩ := List.mem_map.1 add
    exact .inr ⟨c, hc, members⟩

end

/-! ## The splits of a division by next PC (R117) -/

/-- The split of a group of lanes. -/
def part (x : Site) (g : Word × Mask) : Split :=
  { x.sp with
    members := if g.2.has ((x.leader?).getD 0) then g.2 ||| (x.live &&& ~~~x.active) else g.2
    xm := g.2
    pc := g.1
    wait := .none }

theorem parts_eq (x : Site) (gs : List (Word × Mask)) : x.parts gs = gs.map (part x) := rfl

theorem leader_eq (x : Site) : (x.leader?).getD 0 = leaderOf x := by
  rw [leaderOf, activeLanes, List.headD_eq_head?_getD, List.head?_filter]
  rfl

/-- A lane that is active is live, and a member. -/
theorem active_le {x : Site} {l : Nat} (active : x.active.has l = true) : x.sp.members.has l = true ∧ x.live.has l = true := by
  simp only [Site.active, Site.live, has_and, Bool.and_eq_true] at active ⊢
  obtain ⟨⟨-, member⟩, kept⟩ := active
  exact ⟨member, member, kept⟩

/-- Of the active lanes, a group's split has those of the group. -/
theorem part_has {x : Site} (g : Word × Mask) {k : Nat} (active : x.active.has k = true) : (part x g).members.has k = g.2.has k := by
  show Mask.has (if g.2.has ((x.leader?).getD 0) = true then g.2 ||| (x.live &&& ~~~x.active) else g.2) k = _
  split
  · have barred : Mask.has (~~~x.active) k = false := by
      rw [Mask.has, BitVec.getLsbD_not]
      simp [show x.active.getLsbD k = true from active]
    rw [has_or, has_and, barred, Bool.and_false, Bool.or_false]
  · rfl

section
variable {x : Site} {next : Nat → Word} {g : Word × Mask} (hg : g ∈ groups x next)
include hg

/-- A group has the active lanes that go to its PC. -/
theorem group_lanes {k : Nat} (hk : k < 32) : g.2.has k = true ↔ x.active.has k = true ∧ next k = g.1 := by
  rw [(grouped_groups x next).lanes g hg k hk, mem_lanes]

theorem group_eq {l : Nat} (hl : next l = g.1) : g.2 = activeWhere x (fun m => next m == next l) := by
  refine eq_of_has fun k hk => ?_
  rw [activeWhere, has_maskBy _ hk, Bool.eq_iff_iff, group_lanes hg hk, Bool.and_eq_true, beq_iff_eq, hl]

/-- A group's split has members of the split that divides. -/
theorem part_within : (part x g).members &&& x.sp.members = (part x g).members := by
  refine eq_of_has fun k hk => ?_
  rw [has_and]
  by_cases member : (part x g).members.has k = true
  · rw [member, Bool.true_and]
    have : g.2.has k = true ∨ x.live.has k = true := by
      by_cases lead : g.2.has ((x.leader?).getD 0) = true
      · have e : (part x g).members = g.2 ||| (x.live &&& ~~~x.active) := if_pos lead
        rw [e, has_or, has_and, Bool.or_eq_true, Bool.and_eq_true] at member
        exact member.imp_right And.left
      · have e : (part x g).members = g.2 := if_neg lead
        exact .inl (e ▸ member)
    obtain own | live := this
    · exact (active_le ((group_lanes hg hk).1 own).1).1
    · rw [Site.live, has_and, Bool.and_eq_true] at live
      exact live.1
  · rw [Bool.not_eq_true] at member
    rw [member, Bool.false_and]

/-- A group's split has a live member. -/
theorem part_live : (part x g).members &&& ~~~x.ch.exited ≠ 0 := by
  obtain ⟨l, hl, there⟩ := (grouped_groups x next).taken g hg
  have active := mem_lanes.1 hl
  have own := (part_has g active).trans ((group_lanes hg (lt_of_has active)).2 ⟨active, there⟩)
  intro none
  have live := (active_le active).2
  rw [Site.live, has_and, Bool.and_eq_true] at live
  have both : Mask.has ((part x g).members &&& ~~~x.ch.exited) l = true := by rw [has_and, own, live.2]; rfl
  rw [none] at both
  simp [Mask.has] at both

/-- Where the lanes of a split differ, no group has them all. -/
theorem part_members_ne {j k : Nat} (hj : j ∈ activeLanes x) (hk : k ∈ activeLanes x) (differ : next j ≠ next k) :
    (part x g).members ≠ x.sp.members := by
  intro all
  have own {l : Nat} (hl : l ∈ activeLanes x) : next l = g.1 := by
    have active : x.active.has l = true := mem_lanes.1 hl
    have has := part_has g active
    rw [all, (active_le active).1] at has
    exact ((group_lanes hg (lt_of_has active)).1 has.symm).2
  exact differ ((own hj).trans (own hk).symm)

end

/-- Groups with the same members are one. -/
theorem part_inj {x : Site} {next : Nat → Word} {g h : Word × Mask} (hg : g ∈ groups x next) (hh : h ∈ groups x next)
    (same : (part x g).members = (part x h).members) : g = h := by
  have lanes : g.2 = h.2 := eq_of_has fun k hk => by
    by_cases active : x.active.has k = true
    · rw [← part_has g active, ← part_has h active, same]
    · have out {f : Word × Mask} (hf : f ∈ groups x next) : f.2.has k = false := by
        rw [← Bool.not_eq_true, group_lanes hf hk]
        exact fun on => active on.1
      rw [out hg, out hh]
  obtain ⟨l, hl, there⟩ := (grouped_groups x next).taken g hg
  have own := (group_lanes hg (lt_of_has (mem_lanes.1 hl))).2 ⟨mem_lanes.1 hl, there⟩
  rw [lanes, group_lanes hh (lt_of_has (mem_lanes.1 hl))] at own
  exact Prod.ext (there.symm.trans own.2) lanes

/-- A split whose lanes differ may divide into its groups, past its instruction. -/
theorem divides_parts {s : State} {x : Site} {next : Nat → Word} (i : Instr) (hs : s.site? = some x) (apart : Apart x.ch) (settled : Settled x.ch)
    (active : x.active ≠ 0) : Divides (x.next i) (x.parts (groups x next)) := by
  obtain ⟨-, -, -, -, -, running⟩ := State.site?_some hs
  have there : x.sp ∈ x.ch.splits := List.mem_of_find?_eq_some running
  have group {c : Split} (hc : c ∈ x.parts (groups x next)) : ∃ g, g ∈ groups x next ∧ part x g = c := List.mem_map.1 (parts_eq x _ ▸ hc)
  constructor
  case apart => exact apart
  case settled => exact settled
  case own => exact ⟨x.sp, there, rfl⟩
  case some =>
    obtain ⟨l, hl⟩ := exists_active active
    obtain ⟨g, hg, -⟩ := (grouped_groups x next).all l hl
    exact List.ne_nil_of_mem (parts_eq x _ ▸ List.mem_map_of_mem hg)
  case join =>
    intro c hc q hq own p same
    obtain ⟨g, -, rfl⟩ := group hc
    obtain rfl : q = x.sp := eq_of_members apart hq there own
    exact same
  case live =>
    intro c hc
    obtain ⟨g, hg, rfl⟩ := group hc
    exact part_live hg
  case within =>
    intro c hc
    obtain ⟨g, hg, rfl⟩ := group hc
    exact part_within hg
  case distinct =>
    intro c d hc hd same
    obtain ⟨g, hg, rfl⟩ := group hc
    obtain ⟨h, hh, rfl⟩ := group hd
    rw [part_inj hg hh same]

/-! ## What a branch does (R116, R117) -/

theorem billed_retireSplit {s : State} {x : Site} (i : Instr) (new : List Split) : Billed s (s.retireSplit i x x new) x := by
  refine billed_bill i rfl (fun u hu => ?_) rfl
  rw [State.putChorus, State.company?_setCompany, if_neg]
  exact hu

/-- The chorus that stands after a division. -/
theorem chorus?_retireSplit {s : State} {x : Site} (i : Instr) {new : List Split} (hs : s.site? = some x) (divides : Divides (x.next i) new) :
    (s.retireSplit i x x new).chorus? x.co.uid x.ch.index = some ((x.next i).replace new) := by
  have index : ((x.next i).replace new).index = x.ch.index := by
    rw [divides.replace_eq]
    rfl
  refine chorus?_of_company (c := x.co.setChorus ((x.next i).replace new)) ?_ ((chorus?_setChorus_site hs index _).trans (if_pos rfl))
  rw [State.retireSplit, bill_eq]
  show (s.setCompany (x.co.setChorus ((x.next i).replace new))).company? x.co.uid = _
  rw [State.company?_setCompany, Company.setChorus_uid, if_pos rfl, company?_site hs]
  rfl

/-- An instruction that branches sends each lane as the statements say. -/
theorem branchesFrom_of_branch {i : Instr} {s : State} {x : Site} {next : Nat → Word} (hs : s.site? = some x)
    (step : exec i s = .next (s.branch i x next)) : BranchesFrom i next s x := by
  refine ⟨fun idle => ?_, fun pc active same => ?_, fun j k apart settled hj hk differ => ?_⟩
  · rw [branch_idle idle] at step
    exact does_of_retire hs step
  · rw [branch_uniform active same] at step
    exact doesAt_of_retireAt hs step
  · rw [branch_divided hj hk differ] at step
    have active : x.active ≠ 0 := fun none => by
      have on : x.active.has j = true := mem_lanes.1 hj
      rw [none] at on
      simp [Mask.has] at on
    have divides := divides_parts (next := next) i hs apart settled active
    refine ⟨_, _, step, billed_retireSplit i _, chorus?_retireSplit i hs divides, ?_, ?_, ?_, fun p hp => ?_, fun l hl => ?_⟩
    · rw [divides.replace_eq]; rfl
    · rw [divides.replace_eq]; rfl
    · rw [divides.replace_eq]; rfl
    · obtain other | ⟨c, hc, e⟩ := divides.members_replace hp
      · exact other
      · obtain ⟨g, hg, rfl⟩ := List.mem_map.1 (parts_eq x _ ▸ hc)
        exact e ▸ part_members_ne hg hj hk differ
    · obtain ⟨g, hg, there⟩ := (grouped_groups x next).all l hl
      obtain ⟨p, hp, lasts⟩ := divides.mem_replace (parts_eq x _ ▸ List.mem_map_of_mem hg)
      have xm : p.xm = g.2 := eq_of_lasting Split.xm (fun _ => rfl) lasts
      have members : p.members = (part x g).members := (members_of_lasting lasts :)
      refine ⟨p, hp, xm.trans (group_eq hg there.symm), ?_, (eq_of_lasting Split.pc (fun _ => rfl) lasts).trans there,
        (eq_of_lasting Split.wb (fun _ => rfl) lasts :), (eq_of_lasting Split.depth (fun _ => rfl) lasts :),
        (eq_of_lasting Split.frame (fun _ => rfl) lasts :), (eq_of_lasting Split.fmt (fun _ => rfl) lasts :),
        (eq_of_lasting Split.joinPc (fun _ => rfl) lasts :), ?_⟩
      · rw [members, xm, ← leader_eq]
        rfl
      · rw [members]
        exact eq_of_lasting Split.mem (fun _ => rfl) lasts

end Sys2Proof.Laws.Division
end

section
/-! # Branches, jumps and jump tables (R116 to R118, R120) -/

namespace Sys2Proof.Laws.Jump
open Sys2Proof.Machine Sys2Proof.Claims Sys2Proof.Laws.ImmediateForms Sys2Proof.Laws.Masks Sys2Proof.Laws.ExecutionTrap
  Sys2Proof.Laws.Branch Sys2Proof.Laws.Division

/-- Where an instruction issues, it runs. -/
theorem issue_of_issues {i : Instr} {s : State} {x : Site} (h : Issues i s x) (k : Site → Out) : issue i s k = k x :=
  issue_runs k h.site h.cause h.fits h.resident h.loaded h.clean

/-- The target of an offset, in the statements' words. -/
theorem target_eq {n : Nat} (x : Site) (o : BitVec n) : x.target o = jumpTo x o := by
  rw [Site.target, jumpTo, BitVec.mul_comm]
  rfl

/-! ## Branches (R116, R118) -/

theorem branches_bz (o : BitVec 18) (c : BitVec 6) :
    Branches (.bz o c) (fun x l => if x.reg c.toNat l = 0 then jumpTo x o else nextPc x (.bz o c)) := fun s x h => by
  refine branchesFrom_of_branch h.site ((issue_of_issues h _).trans ?_)
  simp only [target_eq, beq_iff_eq]
  rfl

theorem branches_bnz (o : BitVec 18) (c : BitVec 6) :
    Branches (.bnz o c) (fun x l => if x.reg c.toNat l ≠ 0 then jumpTo x o else nextPc x (.bnz o c)) := fun s x h => by
  refine branchesFrom_of_branch h.site ((issue_of_issues h _).trans ?_)
  simp only [target_eq, bne_iff_ne]
  rfl

theorem doesAt_j (o : BitVec 24) {s : State} {x : Site} (h : Issues (.j o) s x) : DoesAt (jumpTo x o) (.j o) s x := by
  refine doesAt_of_retireAt h.site ((issue_of_issues h _).trans ?_)
  rw [target_eq]

/-! ## The lowest odd target (R120) -/

/-- The lower of an odd target met so far and one more, if that is odd. -/
def keepOdd (m : Option Word) (t : Word) : Option Word :=
  if t.getLsbD 0 then (match m with | none => some t | some u => if t.toNat < u.toNat then some t else m) else m

theorem oddTarget_eq (ts : List Word) : oddTarget ts = ts.foldl keepOdd none := rfl

/-- `m` is the lowest odd word of a list, if it has one. -/
structure LeastOdd (ts : List Word) (m : Option Word) : Prop where
  least : ∀ t, m = some t → t ∈ ts ∧ t.getLsbD 0 = true ∧ ∀ u, u ∈ ts → u.getLsbD 0 = true → t.toNat ≤ u.toNat
  even : m = none → ∀ u, u ∈ ts → u.getLsbD 0 = false

/-- A word goes on being the lowest odd one where the next is even, or is not lower. -/
theorem LeastOdd.stay {ts : List Word} {m : Option Word} (h : LeastOdd ts m) {t : Word}
    (above : t.getLsbD 0 = true → ∃ u, m = some u ∧ u.toNat ≤ t.toNat) : LeastOdd (ts ++ [t]) m where
  least u e := by
    obtain ⟨there, oddu, least⟩ := h.least u e
    refine ⟨List.mem_append_left _ there, oddu, fun v hv oddv => ?_⟩
    obtain old | own := List.mem_append.1 hv
    · exact least v old oddv
    · rw [List.mem_singleton.1 own] at oddv ⊢
      obtain ⟨w, e', low⟩ := above oddv
      rwa [Option.some.inj (e.symm.trans e')]
  even none v hv := by
    obtain old | own := List.mem_append.1 hv
    · exact h.even none v old
    · rw [← Bool.not_eq_true, List.mem_singleton.1 own]
      intro oddt
      obtain ⟨u, e, -⟩ := above oddt
      cases none.symm.trans e

/-- An odd word that is below every odd one takes its place. -/
theorem leastOdd_new {ts : List Word} {t : Word} (odd : t.getLsbD 0 = true)
    (below : ∀ u, u ∈ ts → u.getLsbD 0 = true → t.toNat ≤ u.toNat) : LeastOdd (ts ++ [t]) (some t) where
  least u e := by
    obtain rfl := Option.some.inj e
    refine ⟨by simp, odd, fun v hv oddv => ?_⟩
    obtain old | own := List.mem_append.1 hv
    · exact below v old oddv
    · rw [List.mem_singleton.1 own]
  even none := nomatch none

theorem LeastOdd.keep {ts : List Word} {m : Option Word} (h : LeastOdd ts m) (t : Word) : LeastOdd (ts ++ [t]) (keepOdd m t) := by
  by_cases odd : t.getLsbD 0 = true
  · unfold keepOdd
    rw [if_pos odd]
    cases m with
    | none => exact leastOdd_new odd fun u hu oddu => absurd oddu (by rw [h.even rfl u hu]; exact Bool.false_ne_true)
    | some w =>
      dsimp only
      by_cases lower : t.toNat < w.toNat
      · rw [if_pos lower]
        obtain ⟨-, -, least⟩ := h.least w rfl
        exact leastOdd_new odd fun u hu oddu => lower.le.trans (least u hu oddu)
      · rw [if_neg lower]
        exact h.stay fun _ => ⟨w, rfl, Nat.le_of_not_lt lower⟩
  · unfold keepOdd
    rw [if_neg odd]
    exact h.stay fun on => absurd on odd

theorem leastOdd_foldl : ∀ (ts done : List Word) (m : Option Word), LeastOdd done m → LeastOdd (done ++ ts) (ts.foldl keepOdd m)
  | [], done, m, h => by rwa [List.append_nil]
  | t :: r, done, m, h => by
    rw [List.append_cons, List.foldl_cons]
    exact leastOdd_foldl r _ _ (h.keep t)

theorem leastOdd_oddTarget (ts : List Word) : LeastOdd ts (oddTarget ts) :=
  leastOdd_foldl ts [] none ⟨fun _ e => (by cases e), fun _ _ hu => (by cases hu)⟩

/-- No target is odd where all are even. -/
theorem oddTarget_of_even {ts : List Word} (even : ∀ t, t ∈ ts → t.getLsbD 0 = false) : oddTarget ts = none := by
  cases odd : oddTarget ts with
  | none => rfl
  | some t =>
    obtain ⟨there, odd, -⟩ := (leastOdd_oddTarget ts).least t odd
    rw [even t there] at odd
    cases odd

/-- An odd target below which there is none is the one found. -/
theorem oddTarget_of_least {ts : List Word} {t : Word} (there : t ∈ ts) (odd : t.getLsbD 0 = true)
    (least : ∀ u, u ∈ ts → u.getLsbD 0 = true → t.toNat ≤ u.toNat) : oddTarget ts = some t := by
  obtain ⟨low, even⟩ := leastOdd_oddTarget ts
  cases found : oddTarget ts with
  | none =>
    rw [even found t there] at odd
    cases odd
  | some u =>
    obtain ⟨thereu, oddu, lowu⟩ := low u found
    exact congrArg some (BitVec.eq_of_toNat_eq (Nat.le_antisymm (lowu t there odd) (least u thereu oddu)))

/-! ## Jump tables (R120) -/

/-- The table sends a lane where the statements say, in the code image as the core reads it. -/
theorem tableTarget_eq (s : State) (x : Site) (o : BitVec 18) (c : BitVec 6) (l : Nat) :
    s.tableTarget x o c (x.reg c.toNat l) = tableNext (s.codeRead x.co) o c x l := by
  rw [State.tableTarget, tableNext, target_eq]
  simp only [← literal_base, BitVec.ofNat_toNat, BitVec.setWidth_eq]
  rfl

/-- The targets of the active lanes. -/
def targets (s : State) (x : Site) (o : BitVec 18) (c : BitVec 6) : List Word := x.active.lanes.map (tableNext (s.codeRead x.co) o c x)

theorem exec_brt_even {o : BitVec 18} {c : BitVec 6} {s : State} {x : Site} (h : Issues (.brt o c) s x) (none : oddTarget (targets s x o c) = none) :
    exec (.brt o c) s = .next (s.branch (.brt o c) x (tableNext (s.codeRead x.co) o c x)) := by
  rw [targets] at none
  refine (issue_of_issues h _).trans ?_
  simp only [tableTarget_eq, none]

theorem exec_brt_odd {o : BitVec 18} {c : BitVec 6} {s : State} {x : Site} {t : Word} (h : Issues (.brt o c) s x)
    (odd : oddTarget (targets s x o c) = some t) : exec (.brt o c) s = .next (s.fail (.brt o c) x 0x0E t) := by
  rw [targets] at odd
  refine (issue_of_issues h _).trans ?_
  simp only [tableTarget_eq, odd]

theorem branchResults : BranchResults := ⟨branches_bz, branches_bnz, fun o _ _ h => doesAt_j o h⟩

theorem jumpTableResults : JumpTableResults := fun o c s x h => by
  refine ⟨s.codeRead x.co, codeRead_mayRead s x.co, fun even => branchesFrom_of_branch h.site (exec_brt_even h ?_),
    fun j hj odd least => traps_of_fail h (exec_brt_odd h ?_)⟩
  · refine oddTarget_of_even fun t ht => ?_
    obtain ⟨l, hl, rfl⟩ := List.mem_map.1 ht
    exact even l hl
  · refine oddTarget_of_least (List.mem_map_of_mem hj) odd fun t ht odd => ?_
    obtain ⟨l, hl, rfl⟩ := List.mem_map.1 ht
    exact least l hl odd

/-- Settles O16: a branch groups the active lanes by where they go, and no group, one group and more are the three clauses; a division leaves
no merge pending, so what follows it moves none of the fields that it set. -/
theorem branchesAndJumpTables : Obligations.BranchesAndJumpTables := ⟨branchResults, jumpTableResults⟩

end Sys2Proof.Laws.Jump
end
